-- ==== Sys2Proof/Word.lean ====
section
/-! DEFINITION. Word types of the Ahnyar AX8 model: bytes, register words, sparse tables and memories. -/

namespace Sys2Proof

/-- One byte (00 R7). -/
abbrev Byte := BitVec 8

/-- Every register is 64 bits wide (00 R9). -/
abbrev Word64 := BitVec 64

/-- A sparse table: (key, value) pairs in strictly rising key order; a key not listed holds the
table's default value. -/
abbrev Tab (α : Type) := List (Nat × α)

/-- A memory: byte addresses to bytes in the canonical form of `Tab`; an unlisted address reads
as `0x00`. -/
abbrev Memory := Tab Byte

/-- A flit's payload: 64 bytes, byte 0 in the low bits (05 R155, 00 R7). -/
abbrev Payload := BitVec 512

/-- A descriptor: 64 bytes, byte 0 in the low bits (08 R276). -/
abbrev Desc := BitVec 512

/-- A SHA-256 digest, byte 0 in the low bits. -/
abbrev Digest := BitVec 256

end Sys2Proof
end

