-- ==== Sys2Proof/Types.lean ====
section
/-! DEFINITION. The names and records that commands carry and the state holds: status codes, unit
names, physical places, flits, requests, draft trees and the parsed program image. -/

namespace Sys2Proof

/-- Status codes (00 Table 7, R13). -/
inductive Status where
  | ok | state | lost | stale | nomem | bound | check | denied | pool | link | fence | format
  | limit | slot
  deriving DecidableEq, Repr

/-- The engines of a core, in the order that ranks simultaneous faults (03 R109). -/
inductive Eng where
  | mx | vx | tx
  deriving DecidableEq, Repr

/-- A physical core `dD.cC.kK` (00 "Names"). -/
structure CoreId where
  die : Fin 8
  cluster : Fin 10
  core : Fin 26
  deriving DecidableEq, Repr

/-- The three memory-stop classes (06 Table 11). -/
inductive StopClass where
  | h | m | f
  deriving DecidableEq, Repr

/-- A memory stop of a die: H 0-7, M 0-2, F channel 0-1 (06 Table 11). -/
structure StopId where
  die : Fin 8
  cls : StopClass
  idx : Fin 8
  deriving DecidableEq, Repr

/-- What a flit is for, where the mesh sideband alone does not say (03 R106, 05 R164, 07 R252). -/
inductive FlitUse where
  /-- Data to be written at FADDR of the destination. -/
  | data
  /-- A TGET request: remote unit address, flits, local unit address, counter, core key, return slot
  and run. -/
  | getReq (raddr len laddr ctr core rslot rrun : Nat)
  /-- A TREQ request of a core: where its reply is written and counted. -/
  | allocReq (core raddr ctr : Nat)
  /-- The refusal of a refetch (03 R99). -/
  | refusal (core : Nat)
  deriving DecidableEq, Repr

/-- A flit on its way (05 Table 1) with the place and slot cycle it entered the mesh at. -/
structure Flit where
  owner : Nat
  cls : Nat
  last : Bool
  ctr : Nat
  faddr : Nat
  poison : Bool
  payload : Payload
  use : FlitUse
  router : Nat
  port : Nat
  cycle : Nat
  deriving DecidableEq, Repr

/-- A channel kind (05 Table 4). -/
inductive ChanKind where
  | scratch | cluster | sampler | allocator | mailbox
  deriving DecidableEq, Repr

/-- Who receives the data of a memory request (06 R194, R205). -/
inductive MemReply where
  /-- A staged tile of Spindle `sp` for lane `lane`: stream entry channel, landing unit address,
  counter, global slot and TID. -/
  | tile (lane ch laddr ctr g : Nat) (tid : BitVec 64)
  /-- A mirror refetch for a core. -/
  | refetch (core : Nat) (tid : BitVec 64)
  /-- Object data returned on a channel or to Tongs, named by a tag. -/
  | obj (tag : Nat)
  /-- A model-load transfer of a model slot. -/
  | load (slot : Nat)
  | none
  deriving DecidableEq, Repr

/-- A request at a memory stop: owner, use (06 Table 3), address, length, data of a write. -/
structure MemReq where
  owner : Nat
  use : Nat
  addr : Nat
  len : Nat
  data : List Byte
  reply : MemReply
  deriving DecidableEq, Repr

/-- A TREQ request in a cluster's ring (07 R251). -/
structure AllocReq where
  core : Nat
  lane : Nat
  vcluster : Nat
  raddr : Nat
  ctr : Nat
  req : Payload
  deriving DecidableEq, Repr

/-- A fault record (09 Table 4) with the context it is charged to, its stamp and its die. -/
structure FaultMsg where
  ctx : Nat
  stamp : Nat
  die : Nat
  unit : Nat
  code : Nat
  status : Status
  comp : Nat
  lane : Nat
  gen : Nat
  step : Nat
  fi : Nat
  ploc : Nat
  virt : Bool
  vloc : Nat
  pc : Nat
  info : Nat
  addr : Nat
  deriving DecidableEq, Repr

/-- The kinds of general messages between modules (11 Table 9). -/
inductive GenMsg where
  | join (cid : Word64) (vmod : Nat) (digest : Digest)
  | ready (cid : Word64) (gen : BitVec 32)
  | refuse (cid : Word64) (vmod : Nat)
  | bal (cid : Word64) (step : BitVec 32) (waited : Nat)
  | caps (cid : Word64) (step : BitVec 32) (caps : List Nat)
  | offer (sid : Word64) (epoch mgen : BitVec 32) (len : Nat)
  | prepAck (sid : Word64) (epoch : BitVec 32)
  | commit (sid : Word64) (epoch : BitVec 32)
  | commitAck (sid : Word64) (epoch : BitVec 32)
  | abort (sid : Word64) (epoch : BitVec 32)
  | resolve (sid : Word64) (epoch : BitVec 32)
  /-- kind 0 none, 1 OWN, 2 GIVEN; the device GIVEN names. -/
  | resolveAns (sid : Word64) (kind : Nat) (epoch : BitVec 32) (dev : Nat)
  | gone (dev : Nat)
  | hello (dev port role : Nat) (nonce : Digest)
  | rekey (epoch : BitVec 32) (fcsw : Nat)
  | down (reason : Nat)
  | lanes (excl : Nat) (degraded : Nat)
  | echo (token : Nat)
  | echoAns (token hold : Nat)
  deriving DecidableEq, Repr

/-- A general message with its header (11 Table 8). -/
structure GenHdr where
  seq : BitVec 16
  dest : Nat
  src : Nat
  msg : GenMsg
  deriving DecidableEq, Repr

/-- A lane unit (11 Table 6). -/
structure LaneUnit where
  code : Nat
  swap : Bool
  gen : BitVec 32
  word : Word64
  deriving DecidableEq, Repr

/-- A link block: header (11 Table 4) and flit payloads. -/
structure Block where
  dest : Nat
  src : Nat
  cls : Nat
  last : Bool
  ctr : Nat
  faddr : Nat
  gen : BitVec 32
  flits : List Payload
  deriving DecidableEq, Repr

/-- A pool block (11 R406). -/
structure PoolData where
  sid : Word64
  epoch : BitVec 32
  off : Nat
  data : List Byte
  deriving DecidableEq, Repr

/-- A prepared draft tree (04 Table 6, R135): base position, parent index and token of each node, and
the KV slot of each node. -/
structure Tree where
  base : Nat
  force : Bool
  last : Bool
  src : Nat
  seq : BitVec 32
  parents : List Nat
  tokens : List (BitVec 32)
  slots : List Nat
  deriving DecidableEq, Repr

/-- A variant of a program image for one virtual die (04 R112, R136). -/
structure ImageDie where
  vd : Nat
  /-- (virtual cluster, virtual core, entry PC, program words). -/
  programs : List (Nat × Nat × Nat × List (BitVec 128))
  /-- Channel tables: (virtual cluster, virtual core, entries). -/
  channels : List (Nat × Nat × List (Nat × BitVec 64))
  /-- Stream lists of Spindles 0-7 (04 Table 2). -/
  streams : List (List (BitVec 256))
  /-- Barrier table (04 Table 3): (index, entry). -/
  barriers : List (Nat × BitVec 64)
  hdrAddr : Nat
  slots : Nat
  lmax : Nat
  mapBase : Nat
  /-- The allocating virtual cores in ascending allocator index (07 R246): virtual cluster, virtual core,
  allocator index, granule quotas in tier H and tier M. -/
  quotas : List (Nat × Nat × Nat × Nat × Nat)
  /-- A user control program is carried (01 R31). -/
  ucp : Bool
  deriving DecidableEq, Repr

/-- A variant of a program image (the manual fixes no byte format for it). -/
structure Variant where
  idx : Nat
  models : List Digest
  vocab : Nat
  dies : List ImageDie
  /-- The release index of the commit barrier (04 R148). -/
  commitRfi : Nat
  startCost : Nat
  /-- Draft-phase frames of draft sources 0-3. -/
  draftFrames : List Nat
  /-- Carry table entries (10 Table 7). -/
  carry : List (BitVec 128)
  /-- Every route keeps its compiled hop count under the binding (10 check 6). -/
  routesOk : Bool
  /-- No recomputed refetch allowance exceeds its compiled value (04 R123). -/
  allowOk : Bool
  /-- Every barrier-tree edge and exchange route has a port by 11 R381, as (module port, peer). -/
  edges : List (Nat × Nat)
  deriving DecidableEq, Repr

/-- A program image as COMP_CREATE reads it: its SHA-256 and its variants. (log 8, DESIGN CHOICE) -/
structure Image where
  digest : Digest
  variants : List Variant
  deriving DecidableEq, Repr

/-- A pool map entry's outcome at the member (10 Table 10); 0 is accepted. -/
abbrev PoolReason := Nat

/-- One telemetry sample of the module (14 Table 4). (log 8, DESIGN CHOICE) -/
structure Telemetry where
  vin : Nat
  vbank : Nat
  iin : Nat
  pin : Nat
  tin : Nat
  tout : Nat
  /-- Core-rail power (W), hottest sensor (C) and lowest core rail sample (mV) of each die. -/
  dies : List (Nat × Nat × Nat)
  /-- Temperature (C) of each memory stop's devices. -/
  stops : List (StopId × Nat)
  deriving DecidableEq, Repr

/-- The steps of training that a link port reports (11 R368-R371). (log 8, DESIGN CHOICE) -/
structure LinkTrain where
  /-- Physical lanes that passed the lane test. -/
  pass : BitVec 5
  peerId : Nat
  peerPort : Nat
  peerRole : Nat
  peerNonce : Digest
  /-- The key check of 1,000 control blocks passed. -/
  keyOk : Bool
  flight : Nat
  deriving DecidableEq, Repr

/-- A configuration-space access: byte offset and whether it is an aligned 64-bit access. -/
structure CfgAddr where
  off : Nat
  aligned : Bool
  deriving DecidableEq, Repr

/-- Who sends a configuration access (18 R546): the host through module port 0 or 8, a peer, the sideband bus. -/
inductive CfgSrc where
  | host (port8 : Bool) | mgmt (port : Fin 16) | sideband
  deriving DecidableEq, Repr

/-- The result of decoding and checking a received link block (11 R383): its codewords, tag, slot, run length,
header and flits. (log 8, DESIGN CHOICE) -/
structure RxBlock where
  /-- Codewords of the block that were corrected, and that do not decode. -/
  corrected : Nat
  bad : Nat
  tagOk : Bool
  slot : Fin 16
  k : Nat
  blk : Block
  /-- Corrected symbols per physical lane 0-4. -/
  symerr : List Nat
  /-- Lanes over 1e-4 bit error ratio in the last second (11 R367). -/
  degraded : BitVec 5
  deriving DecidableEq, Repr

end Sys2Proof
end

