-- ==== Sys2Proof/Syntax.lean ====
section
/-! DEFINITION. The commands of the module: one constructor for each row of spec/opcode_table.json
(95_what_each_step_holds.md). -/

namespace Sys2Proof

/-- A command: an event, an operation of the host, of a peer or of one of the module's own engines.
(log 8, DESIGN CHOICE) -/
inductive Instr where
  /-- NOP (R87): Tile-program control instruction that does nothing. -/
  | nop (c : CoreId)
  /-- END (R87): Waits until all engines are idle, ends the core's step program and reports done
  to the Lathe. -/
  | endp (c : CoreId)
  /-- JMP (R87): Sets the PC to TARGET. -/
  | jmp (c : CoreId)
  /-- LSET (R87): Loads a loop register from VALUE. -/
  | lset (c : CoreId)
  /-- LOOP (R87): Decrements a loop register and branches to TARGET while the result is not zero.
  -/
  | loop (c : CoreId)
  /-- BRC (R87): Branches to TARGET on the state of OVF. -/
  | brc (c : CoreId)
  /-- CLRC (R89): Clears OVF; a hardware set in the same cycle leaves OVF set. Operands: `hwSet`:
  an ARND sets OVF in the same cycle (03 R89). -/
  | clrc (c : CoreId) (hwSet : Bool)
  /-- XSET (R87): Loads a base register from VALUE. -/
  | xset (c : CoreId)
  /-- XADD (R87): Adds VALUE to a base register modulo 2^16. -/
  | xadd (c : CoreId)
  /-- WAITE (R87): Waits until every named engine is idle with an empty queue. -/
  | waite (c : CoreId)
  /-- WAITC (R88): Waits until an arrival counter reaches VALUE, then subtracts VALUE from it. -/
  | waitc (c : CoreId)
  /-- CSET (R88): Writes an arrival counter. -/
  | cset (c : CoreId)
  /-- WAITF (R87): Waits until the die's step frame index reaches VALUE. -/
  | waitf (c : CoreId)
  /-- BAR (R124): Waits for the engines to go idle, arrives at a barrier of the lane and waits for
  its release. -/
  | bar (c : CoreId)
  /-- ACLR (R94): Clears a rectangle of accumulators and sets the ALSB of each. -/
  | aclr (c : CoreId) (ovl : List Eng)
  /-- MMA (R94): Adds exact terms of operand panels against a panel or a checked landing record
  into accumulators. Operands: `ovl`: the engines whose last instruction still executes (03 R82);
  `ue`: an uncorrectable SRAM read (15 R489). -/
  | mma (c : CoreId) (ovl : List Eng) (ue : Option (Nat × Nat))
  /-- ARND (R61): Rounds a rectangle of accumulators to a floating-point format and writes the
  results to scratch. -/
  | arnd (c : CoreId) (ovl : List Eng) (ue : Option (Nat × Nat))
  /-- AEXP (R94): Writes accumulators out as ACC records. -/
  | aexp (c : CoreId) (ovl : List Eng) (ue : Option (Nat × Nat))
  /-- AADD (R95): Combines ACC records into accumulators after checking every ALSB. -/
  | aadd (c : CoreId) (ovl : List Eng) (ue : Option (Nat × Nat))
  /-- VADD (R100): Adds binary32 vectors elementwise. -/
  | vadd (c : CoreId) (ovl : List Eng) (ue : Option (Nat × Nat))
  /-- VSUB (R100): Subtracts binary32 vectors elementwise. -/
  | vsub (c : CoreId) (ovl : List Eng) (ue : Option (Nat × Nat))
  /-- VMUL (R100): Multiplies binary32 vectors elementwise. -/
  | vmul (c : CoreId) (ovl : List Eng) (ue : Option (Nat × Nat))
  /-- VFMA (R100): Performs an elementwise fused multiply-add with one rounding. -/
  | vfma (c : CoreId) (ovl : List Eng) (ue : Option (Nat × Nat))
  /-- VDIV (R100): Divides binary32 vectors elementwise. -/
  | vdiv (c : CoreId) (ovl : List Eng) (ue : Option (Nat × Nat))
  /-- VSQRT (R100): Takes elementwise square roots. -/
  | vsqrt (c : CoreId) (ovl : List Eng) (ue : Option (Nat × Nat))
  /-- VMIN (R66): Takes the elementwise minimum, ordering -0 below +0. -/
  | vmin (c : CoreId) (ovl : List Eng) (ue : Option (Nat × Nat))
  /-- VMAX (R66): Takes the elementwise maximum. -/
  | vmax (c : CoreId) (ovl : List Eng) (ue : Option (Nat × Nat))
  /-- VFN (R67): Applies a correctly rounded transcendental function selected by MOD. -/
  | vfn (c : CoreId) (ovl : List Eng) (ue : Option (Nat × Nat))
  /-- VCVT (R100): Converts elements between formats, optionally from a checked landing record. -/
  | vcvt (c : CoreId) (ovl : List Eng) (ue : Option (Nat × Nat))
  /-- VQNT (R72): Quantises binary32 rows into an MX operand panel. -/
  | vqnt (c : CoreId) (ovl : List Eng) (ue : Option (Nat × Nat))
  /-- VSUM (R68): Sums rows, or row products, exactly into ACC records. -/
  | vsum (c : CoreId) (ovl : List Eng) (ue : Option (Nat × Nat))
  /-- VRND (R71): Rounds ACC records divided by an integer to binary32. -/
  | vrnd (c : CoreId) (ovl : List Eng) (ue : Option (Nat × Nat))
  /-- VSMX (R69): Runs the softmax composite on masked rows. -/
  | vsmx (c : CoreId) (ovl : List Eng) (ue : Option (Nat × Nat))
  /-- VRMS (R70): Runs the RMS normalisation composite. -/
  | vrms (c : CoreId) (ovl : List Eng) (ue : Option (Nat × Nat))
  /-- VLN (R70): Runs the layer normalisation composite. -/
  | vln (c : CoreId) (ovl : List Eng) (ue : Option (Nat × Nat))
  /-- VTMK (R102): Builds tree-mask rows from a parent-index list. -/
  | vtmk (c : CoreId) (ovl : List Eng) (ue : Option (Nat × Nat))
  /-- TSND (R104): Sends flits from scratch on a channel in granted slots of consecutive frames.
  -/
  | tsnd (c : CoreId) (ovl : List Eng) (ue : Option (Nat × Nat))
  /-- TGET (R106): Sends one request flit asking a stop to return data in the channel's return
  slots. -/
  | tget (c : CoreId) (ovl : List Eng) (ue : Option (Nat × Nat))
  /-- TREQ (R106): Sends a 64-byte allocator request to the cluster's request ring. -/
  | treq (c : CoreId) (ovl : List Eng) (ue : Option (Nat × Nat))
  /-- REFETCH_REQUEST (R122): A core with a pending refetch sends its TID in the next refetch
  window it owns. Operands: the lane's refetch window `w` of the current frame. -/
  | refetchRequest (die : Fin 8) (lane : Fin 8) (w : Fin 9)
  /-- MIRROR_REFETCH_SERVE (R205): An M stop reads the mirror record in the lane's block and
  returns a landing record or a refusal flit. -/
  | mirrorRefetchServe (die : Fin 8) (stop : Fin 3) (block : Fin 9)
  /-- REFETCH_LANDING (R98): The mirror landing record arrives and the waiting instruction
  restarts from its first cycle. -/
  | refetchLanding (c : CoreId) (ovl : List Eng) (ue : Option (Nat × Nat))
  /-- FLIT_DELIVERY (R105): A flit is written at its destination and the last flit of a transfer
  increments the arrival counter. Operands: flit `n` of the die's flits under way, or of the oldest flits of its
  elastic queues, presented in slot cycle `cyc`; `ovl` engines
  executing at the receiving core; `bad` and `badMirror` routers whose used entry, or mirror
  entry, fails parity; `ecc` an uncorrectable flit error. -/
  | flitDelivery (die : Fin 8) (n : Nat) (cyc : Fin 256) (ovl : List Eng) (bad : List Nat) (badMirror : List Nat) (ecc : Bool)
  /-- ELASTIC_QUEUE_ARRIVAL (R179): A flit crossing into a die enters its owner's elastic queue at
  the receiving stop. Operands: a flit of a bridge, link or unit crossing reaches the receiving
  stop's router. -/
  | elasticQueueArrival (die : Fin 8) (stop : Fin 300) (f : Flit)
  /-- ROUTER_FAIL (R174): A router failing its self-check stops sending and every lane owning its
  entries faults. -/
  | routerFail (die : Fin 8) (router : Fin 300)
  /-- TGET_REPLY (R164): A destination stop returns requested flits in the channel's return slots.
  -/
  | tgetReply (die : Fin 8) (router : Fin 300)
  /-- FRAME_START (R113): At each die frame start the lane frame index advances and barrier words
  go out on the bridges. -/
  | frameStart (die : Fin 8)
  /-- COMPOSITION_ARRIVAL (R127): A module sends an arrival or release message up or down the
  module barrier tree. -/
  | compositionArrival (die : Fin 8) (lane : Fin 8)
  /-- BARRIER_RELEASE (R128): A die releases a barrier at a frame start, raising FI to RFI and
  releasing the cores. -/
  | barrierRelease (die : Fin 8) (lane : Fin 8)
  /-- BARRIER_TIMEOUT (R129): FI reaching RFI + DLINE before release faults the lane's context.
  Operands: `remote`: a missing arrival belongs to another module; `unitFail`: a shared unit fails
  its self-check (15 R487). -/
  | barrierTimeout (die : Fin 8) (lane : Fin 8) (remote : Bool) (unitFail : Bool)
  /-- START_PHASE (R131): The lane takes the newest usable draft tree, prepares it, assigns KV
  slots and writes the step header. -/
  | startPhase (k : Fin 256)
  /-- SAMPLE_PHASE (R143): The samplers draw along the tree and the root sampler walks it to the
  final draw. Operands: the binary32 logit row of each tree node. -/
  | samplePhase (k : Fin 256) (logits : List (List (BitVec 32)))
  /-- COMMIT_WORD (R146): Each die applies the commit word to its slot map, frees rejected slots,
  sets Lc and arrives at the commit barrier. -/
  | commitWord (die : Fin 8) (lane : Fin 8)
  /-- EVENT_PHASE (R33): The root die writes the step's token event and the recorder appends the
  step record. -/
  | eventPhase (k : Fin 256)
  /-- DRAFT_PHASE (R137): The chosen draft source prepares the next tree, then the MOVEF move
  frames run. Operands: the record the drafter model handed over, if any. -/
  | draftPhase (k : Fin 256) (rcd : Option (List Byte))
  /-- TILE_READ_ISSUE (R197): A Spindle issues the read of its next stream-list tile as soon as a
  staging place is free. -/
  | tileReadIssue (die : Fin 8) (lane : Fin 8) (sp : Fin 8)
  /-- LANDING_RECORD_SEND (R116): A Spindle sends a staged landing record on its multicast channel
  in the tile's tile slot. -/
  | landingRecordSend (die : Fin 8) (lane : Fin 8) (sp : Fin 8)
  /-- H_WINDOW_SERVICE (R194): An H stop serves a request of the window's owner and use in that
  tile window. Operands: requests reaching the stop before the window; `ue`: the read meets an
  uncorrectable error. -/
  | hWindowService (die : Fin 8) (stop : Fin 8) (win : Fin 9) (arrivals : List MemReq) (ue : Bool)
  /-- M_BLOCK_SERVICE (R203): An M stop serves a request of the block's owner and use in that
  block. -/
  | mBlockService (die : Fin 8) (stop : Fin 3) (block : Fin 9) (arrivals : List MemReq) (ue : Bool)
  /-- REFRESH (R193): Each pseudo-channel or channel receives its per-bank refresh in every memory
  frame. -/
  | refresh (stop : StopId)
  /-- PATROL_SCRUB (R201): Scrub reads locations in service slots and writes corrected data back.
  -/
  | patrolScrub (stop : StopId) (addr : Nat) (corrected : Nat) (ue : Bool)
  /-- TRAIN (R223): A write of STOP_CTL.TRAIN starts training unless the stop is READY with a
  valid owner entry. -/
  | train (stop : StopId)
  /-- STOP_TRAINING_TIMEOUT (R221): A stop not READY 2,000 ms after reset release enters FAILED.
  -/
  | stopTrainingTimeout (stop : StopId)
  /-- TIMING_UPKEEP (R222): A READY stop repeats calibration and tracking in service slots on its
  timers. -/
  | timingUpkeep (stop : StopId) (margin : Bool)
  /-- STOP_OWN_WRITE (R226): A write to an owner table goes to the shadow bank, or is ignored
  while a commit is armed. -/
  | stopOwnWrite (stop : StopId) (second : Bool) (v : Word64)
  /-- EPOCH_ADVANCE (R216): Once the region's stop queues are empty its epoch advances, completing
  the release or revocation. -/
  | epochAdvance (stop : StopId) (region : Nat)
  /-- F_COMMAND (R210): A tier F command runs and completes when every page and its metadata are
  programmed. -/
  | fCommand (die : Fin 8) (uncorrectable : Bool)
  /-- F_COMMIT_RECHECK (R465): A deferred tier F commit repeats the hold-up energy check every 1
  ms. -/
  | fCommitRecheck (die : Fin 8)
  /-- MODEL_STORE (R229): Checks an image and writes it into the tier F library. -/
  | modelStore (q : Fin 4096)
  /-- MODEL_WARM (R232): Reads a model's tiles from tier F into c copies in tier M under its die
  map. -/
  | modelWarm (q : Fin 4096)
  /-- MODEL_LOAD (R241): Makes a model HOT under a die map, taking regions and starting the tier M
  to H transfer. -/
  | modelLoad (q : Fin 4096)
  /-- MODEL_LOAD_COMPLETE (R241): The transfer ends, segment tables are written and the model
  becomes HOT, or the load ends with CHECK. Operands: `bad`: a tile mismatches or its tier M read
  is uncorrectable. -/
  | modelLoadComplete (slot : Nat) (bad : Bool)
  /-- MODEL_PIN (R234): Raises a HOT model's pin count. -/
  | modelPin (q : Fin 4096)
  /-- MODEL_UNPIN (R234): Lowers a HOT model's pin count. -/
  | modelUnpin (q : Fin 4096)
  /-- MODEL_EVICT (R234): Releases a HOT model's tier H regions and makes it WARM. -/
  | modelEvict (q : Fin 4096)
  /-- MODEL_DROP (R234): Releases a WARM model's tier M copies and slot and returns it to LIBRARY.
  -/
  | modelDrop (q : Fin 4096)
  /-- MODEL_DELETE (R234): Removes a LIBRARY image from tier F. -/
  | modelDelete (q : Fin 4096)
  /-- ALLOC_REQUEST_ARRIVAL (R251): A TREQ request enters the cluster's request ring. -/
  | allocRequestArrival (die : Fin 8) (cluster : Fin 10) (r : AllocReq)
  /-- ALLOCATOR_SERVICE (R254): In each die frame steward 1 serves up to 4 requests of lane f mod
  8. -/
  | allocatorService (die : Fin 8)
  /-- TAIL_DOORBELL (R269): A submission-tail doorbell message advances a queue's TAIL or is
  discarded. Operands: the doorbell message of adapter page `ctx`; `zero`: bytes 10-11 are zero.
  -/
  | tailDoorbell (port : Bool) (ctx : Fin 1024) (word : Word64) (zero : Bool)
  /-- HEAD_DOORBELL (R286): An event-ring head doorbell advances the ring's HEAD or is discarded.
  -/
  | headDoorbell (port : Bool) (ctx : Fin 1024) (word : Word64) (zero : Bool)
  /-- ARM_DOORBELL (R290): An arm doorbell arms an event ring at a head value. -/
  | armDoorbell (port : Bool) (ctx : Fin 1024) (word : Word64) (zero : Bool)
  /-- SERVICE_SLOT (R265): In each service slot Tongs makes at most one host transaction for the
  owning context. Operands: `false` module port 0, `true` module port 8. -/
  | serviceSlot (port : Bool)
  /-- DATA (R404): A DATA record from the adapter completes or fails a Tongs read. -/
  | data (tag : Nat) (failed : Bool) (bytes : List Byte)
  /-- TONGS_READ_TIMEOUT (R262): A Tongs read not completed within 4 µs ends the work it served.
  -/
  | tongsReadTimeout (tag : Nat)
  /-- CFG_RD (R405): A configuration read record is carried out and answered with CFG_DATA. -/
  | cfgRd (src : CfgSrc) (tag : Nat) (a : CfgAddr)
  /-- CFG_WR (R405): A configuration write record is carried out, for MGMT only when MGMTIN is
  set. -/
  | cfgWr (src : CfgSrc) (a : CfgAddr) (v : Word64)
  /-- OBJ_RD (R404): The adapter reads a mapped object through the object window. -/
  | objRd (tag : Nat) (off : Nat) (len : Nat)
  /-- OBJ_WR (R404): The adapter writes a mapped object through the object window. -/
  | objWr (off : Nat) (bytes : List Byte)
  /-- CTX_OPEN (R281): Opens a context with its PASID, service-slot grants and event slots. -/
  | ctxOpen (q : Fin 4096)
  /-- CLOSE (R310): Starts closing a context: LOST, doorbells discarded, references and
  attachments removed. -/
  | close (q : Fin 4096)
  /-- CLOSE_COMPLETE (R310): After revocation and Hearth commands end, the context's queues and
  rings become FREE and it becomes CLOSED. -/
  | closeComplete (ctx : Fin 1024)
  /-- QUEUE_CREATE (R268): Creates a submission queue. -/
  | queueCreate (q : Fin 4096)
  /-- QUEUE_DESTROY (R281): Destroys an empty idle submission queue. -/
  | queueDestroy (q : Fin 4096)
  /-- EVRING_CREATE (R282): Creates an event ring, optionally the context's fault ring. -/
  | evringCreate (q : Fin 4096)
  /-- EVRING_DESTROY (R281): Destroys an event ring that nothing names. -/
  | evringDestroy (q : Fin 4096)
  /-- TENANT_START (R449): Starts or resumes a tenancy after checking FROOT, performing a switch
  when needed. -/
  | tenantStart (q : Fin 4096)
  /-- TENANT_END (R450): Ends the tenancy with a tenant switch. -/
  | tenantEnd (q : Fin 4096)
  /-- THROTTLE_SET (R472): Sets the throttle ceiling, balance setting and pinning. -/
  | throttleSet (q : Fin 4096)
  /-- EPOCH_MARK (R417): Records a host mark value in the ready record rings. -/
  | epochMark (q : Fin 4096)
  /-- ATTEST (R454): Writes a signed 1,024-byte attestation quote. -/
  | attest (q : Fin 4096)
  /-- DESCRIPTOR_NOP (R277): A descriptor that does nothing but complete. -/
  | descriptorNop (q : Fin 4096)
  /-- QUERY (R291): Copies a consistent snapshot of the capability table to host memory. -/
  | query (q : Fin 4096)
  /-- OBJ_ALLOC (R255): Allocates a host object in a host partition of a virtual die and tier. -/
  | objAlloc (q : Fin 4096)
  /-- OBJ_FREE (R256): Frees a host object, taking effect at once or at the next commit barrier.
  -/
  | objFree (q : Fin 4096)
  /-- OBJ_MAP (R255): Adds a mapping reference and returns the object-window offset. -/
  | objMap (q : Fin 4096)
  /-- OBJ_UNMAP (R255): Removes a mapping reference. -/
  | objUnmap (q : Fin 4096)
  /-- OBJ_COPY (R424): Copies bytes between host memory and an object, recorded with RACE during a
  loop. -/
  | objCopy (q : Fin 4096)
  /-- COMP_CREATE (R334): Reads a shape and image, runs the binding checks and binds a
  composition. Operands: the program image read from host memory. -/
  | compCreate (q : Fin 4096) (img : Image)
  /-- COMP_REBIND (R338): Rebinds a composition through a move image and two swaps at start
  barriers. -/
  | compRebind (q : Fin 4096)
  /-- COMP_DESTROY (R333): Destroys a composition with no loop, rebind or attached pool entry. -/
  | compDestroy (q : Fin 4096)
  /-- DRAIN_RELEASE (R343): When old-generation work and queues drain, held resources are cleared,
  freed and the drain fence signalled. -/
  | drainRelease (k : Fin 256)
  /-- LOOP_START (R148): Admits a token loop, states its bound and takes event slots. -/
  | loopStart (q : Fin 4096)
  /-- LOOP_STOP (R279): Requests a loop stop and completes after its final token event. -/
  | loopStop (q : Fin 4096)
  /-- SAMPLE_SET (R138): Checks and installs a sampling parameter block for the next start phase.
  -/
  | sampleSet (q : Fin 4096)
  /-- DRAFT (R132): Lands a draft-tree record in the lane's draft buffer. -/
  | draft (q : Fin 4096)
  /-- RECORD_FETCH (R420): Writes whole replay records from a step onward and releases earlier
  ones. -/
  | recordFetch (q : Fin 4096)
  /-- POOL_MAP (R355): Checks every pool map entry locally, then carries them out in order. Operands: the
  members' answers to its entries in order, 0 for accepted, with the session bytes an ATTACH brings. -/
  | poolMap (q : Fin 4096) (answers : List (PoolReason × List Byte))
  /-- CREATE (R356): Pool entry writing object bytes into a new session under OWN(1). Operands:
  the entry as the member receives it, with the session bytes. -/
  | create (attacher : Nat) (sid : Word64) (mgen : BitVec 32) (bytes : List Byte)
  /-- ATTACH (R356): Pool entry copying session bytes into an object and recording the attachment.
  -/
  | attach (attacher : Nat) (sid : Word64) (mgen epoch : BitVec 32) (len leaseMs : Nat)
  /-- SYNC (R356): Pool entry copying an object range back over the session and renewing the
  lease. -/
  | sync (attacher : Nat) (sid : Word64) (mgen epoch : BitVec 32) (leaseMs : Nat) (bytes : List Byte)
  /-- DETACH (R356): Pool entry performing a SYNC and ending the attachment. -/
  | detach (attacher : Nat) (sid : Word64) (mgen epoch : BitVec 32) (bytes : List Byte)
  /-- DROP (R356): Pool entry deleting a session under DROPPED. -/
  | drop (sid : Word64) (mgen epoch : BitVec 32)
  /-- HANDOFF (R358): Pool entry moving a session to another member by two-phase hand-off. -/
  | handoff (sid : Word64) (mgen epoch : BitVec 32) (target : Nat)
  /-- RESOLVE (R360): Pool entry settling a disputed session by the highest acknowledged record.
  -/
  | resolve (sid : Word64) (mgen : BitVec 32) (peer : Nat)
  /-- FENCE_CREATE (R312): Moves a free fence to LIVE with its initial value and owner. -/
  | fenceCreate (q : Fin 4096)
  /-- FENCE_ATTACH (R315): Adds the issuing context to a shared fence's attached set. -/
  | fenceAttach (q : Fin 4096)
  /-- FENCE_DETACH (R318): Removes a context from a fence, poisoning it when the owner detaches
  with contexts attached. -/
  | fenceDetach (q : Fin 4096)
  /-- FENCE_SIGNAL (R314): Raises a fence's value, writes WB and notice and releases waits. -/
  | fenceSignal (q : Fin 4096)
  /-- FENCE_WAIT (R316): Completes when a fence has reached a value or is poisoned, parking its
  queue otherwise. -/
  | fenceWait (q : Fin 4096)
  /-- FAULT_RECORDING (R301): A context's first fault at X0 moves it to LOST, writes its fault
  event and starts teardown. Operands: `window`: MGMT cycles of the recording frame left from the
  first stamp. -/
  | faultRecording (ctx : Fin 1024) (window : Nat)
  /-- REVOKE_LANE (R492): A Quench agent clears a lane's entries, queues and state and sends ACK.
  -/
  | revokeLane (die : Fin 8) (lane : Fin 8) (ctx : Fin 1024)
  /-- REVOKE_TAG (R492): A Quench agent revokes a context's tagged regions and poisons its shared
  fences. -/
  | revokeTag (die : Fin 8) (ctx : Fin 1024)
  /-- COLLECT (R496): A Quench agent gathers unit state into the dump slot during reset entry. -/
  | collect (die : Fin 8)
  /-- ACK (R493): A Quench ACK returns up the tree for a command. -/
  | ack (die : Fin 8) (seq : Nat)
  /-- REVOCATION_COMPLETE (R493): All agents have acknowledged and epochs advanced;
  CTX_STAT.REVOKED is set. -/
  | revocationComplete (ctx : Fin 1024)
  /-- JOIN (R345): A member's JOIN reaches its parent and the root counts matching digests. -/
  | join (cid : Word64) (vmod : Nat) (digest : Digest)
  /-- READY (R345): A READY message moves a joining member to READY. -/
  | ready (cid : Word64) (gen : BitVec 32) (allShift : Bool)
  /-- REFUSE (R345): A REFUSE message moves a joining member to FAILED. -/
  | refuse (cid : Word64) (vmod : Nat)
  /-- JOIN_DEADLINE (R345): The root sends REFUSE 10 s after its COMP_CREATE without READY. -/
  | joinDeadline (k : Fin 256)
  /-- MEMBER_JOIN_DEADLINE (R345): A member without READY 10.5 s after its COMP_CREATE enters
  FAILED. -/
  | memberJoinDeadline (k : Fin 256)
  /-- BAL (R351): The root records a member's waited frames and moves cap every 16 steps. -/
  | bal (cid : Word64) (vmod : Nat) (step : BitVec 32) (waited : Nat)
  /-- CAPS (R351): Members apply new caps at the next start barrier release. -/
  | caps (cid : Word64) (step : BitVec 32) (caps : List Nat)
  /-- OFFER (R358): A receiving member takes an offered session and writes PREP after the last
  byte. -/
  | offer (src : Nat) (sid : Word64) (epoch mgen : BitVec 32) (len : Nat)
  /-- PREP_ACK (R358): The offering member writes GIVEN and sends COMMIT. -/
  | prepAck (src : Nat) (sid : Word64) (epoch : BitVec 32)
  /-- COMMIT (R358): The receiving member writes OWN and sends COMMIT_ACK. -/
  | commit (src : Nat) (sid : Word64) (epoch : BitVec 32)
  /-- COMMIT_ACK (R358): The offering member deletes the bytes and completes the HANDOFF. -/
  | commitAck (src : Nat) (sid : Word64) (epoch : BitVec 32)
  /-- ABORT (R358): The receiving member discards its PREP. -/
  | abort (src : Nat) (sid : Word64) (epoch : BitVec 32)
  /-- RESOLVE_MESSAGE (R361): A party answers a RESOLVE with its highest acknowledged record. -/
  | resolveMessage (src : Nat) (sid : Word64) (epoch : BitVec 32)
  /-- RESOLVE_ANS (R360): A party applies the deciding record to its PREP. -/
  | resolveAns (src : Nat) (sid : Word64) (kind : Nat) (epoch : BitVec 32) (dev : Nat)
  /-- GONE (R362): A member reporting GONE is lost to the compositions that use it. -/
  | gone (dev : Nat)
  /-- PREP_ACK_TIMEOUT (R358): With no PREP_ACK in 10 s the offerer sends ABORT and keeps OWN. -/
  | prepAckTimeout (sid : Word64)
  /-- COMMIT_RESEND (R358): Without COMMIT_ACK 1 ms after COMMIT, the offerer resends up to 3
  times, then resolves. -/
  | commitResend (sid : Word64)
  /-- RESOLVE_TIMER (R361): A member holding PREP without COMMIT sends RESOLVE every 1 ms. -/
  | resolveTimer (sid : Word64)
  /-- RESOLVE_DEADLINE (R361): Unresolved 10 s after the first RESOLVE, reachable parties write
  LOST. -/
  | resolveDeadline (sid : Word64)
  /-- LEASE_END (R357): A member ends an attachment at 1.01 × LEASEMS. -/
  | leaseEnd (sid : Word64)
  /-- MEMBER_UNREACHABLE (R362): A member unreachable for 10 s is lost to compositions using it.
  -/
  | memberUnreachable (dev : Nat)
  /-- POOL_BLOCK (R406): A POOL block carries session data at an offset. -/
  | poolBlock (src : Nat) (p : PoolData)
  /-- LINK_TRAINING (R368): A port trains, tests lanes, exchanges HELLO, derives keys and comes
  UP. -/
  | linkTraining (port : Fin 16) (t : LinkTrain)
  /-- LINK_TRAINING_TIMEOUT (R370): A port not UP 2,000 ms after training began enters DOWN. -/
  | linkTrainingTimeout (port : Fin 16)
  /-- RETRAIN_DELAY (R370): 10 ms after entering DOWN an enabled port trains again. -/
  | retrainDelay (port : Fin 16)
  /-- HELLO (R370): A peer HELLO is checked for device ID and role. -/
  | hello (port : Fin 16) (dev : Nat) (peerPort role : Nat) (nonce : Digest)
  /-- ECHO (R368): A port answers an ECHO with ECHO_ANS. -/
  | echo (port : Fin 16) (token hold : Nat)
  /-- ECHO_ANS (R370): A port measures flight time from an ECHO_ANS. -/
  | echoAns (port : Fin 16) (token hold : Nat) (flight : Nat)
  /-- LANES (R391): A peer reports its excluded and degraded lanes. -/
  | lanes (port : Fin 16) (excl : Nat) (degraded : Nat)
  /-- REKEY (R393): A receiver derives the next key and switches at FCSW. -/
  | rekey (port : Fin 16) (epoch : BitVec 32) (fcsw : Nat)
  /-- REKEY_START (R393): A write of LNK_CTL.REKEY starts a transmit-direction rekey. -/
  | rekeyStart (port : Fin 16)
  /-- FC_THRESHOLD (R393): A transmit FC reaching 2^47 starts a rekey. -/
  | fcThreshold (port : Fin 16)
  /-- COUNTER_EXHAUSTED (R394): A transmit FC about to reach 2^48 stops sending and the port
  enters DOWN. -/
  | counterExhausted (port : Fin 16)
  /-- DOWN (R400): A verified DOWN message puts the port DOWN. -/
  | down (port : Fin 16) (reason : Fin 16)
  /-- CONTROL_SILENCE (R400): 40 control codewords without a verified control block put the port
  DOWN. -/
  | controlSilence (port : Fin 16)
  /-- LOCK_LOSS (R400): Codeword lock lost for 1 µs puts the port DOWN. -/
  | lockLoss (port : Fin 16)
  /-- RETRAIN (R412): A write of LNK_CTL.RETRAIN sends DOWN and retrains the port. -/
  | retrain (port : Fin 16)
  /-- LINK_ENABLE_WRITE (R368): A write of LNK_CTL.ENABLE enables training or takes the port DOWN.
  -/
  | linkEnableWrite (port : Fin 16) (on : Bool)
  /-- TX_RUN (R382): At the first codeword of a TX run the L stop forms one block from queued
  flits. -/
  | txRun (port : Fin 16) (slot : Fin 16)
  /-- LINK_BLOCK_RECEIVE (R383): A received block is decoded, authenticated, checked and delivered
  or forwarded. -/
  | linkBlockReceive (port : Fin 16) (b : RxBlock)
  /-- CONTROL_BLOCK (R385): A control block's lane units and general messages are taken. Operands:
  the 16 lane units and the general messages of a verified control block. -/
  | controlBlock (port : Fin 16) (units : List LaneUnit) (msgs : List GenHdr)
  /-- CHECKPOINT (R419): The recorder appends a signed CHECKPOINT covering the chain. -/
  | checkpoint (k : Fin 256)
  /-- ORPHAN_CLOSE (R422): After READY firmware appends CLOSE and CHECKPOINT to orphaned rings. -/
  | orphanClose (k : Fin 256)
  /-- RELEASE (R428): A write of REC_CTL.RELEASE empties an orphaned ring. -/
  | release
  /-- LC_ADVANCE (R441): Checks a token and programs the lifecycle copies to the target state. -/
  | lcAdvance (sideband : Bool)
  /-- KEYGEN (R445): Generates the KEK and identity key and seals a new key store. -/
  | keygen (sideband : Bool)
  /-- DIGEST_SET (R446): Programs T_DEPLOY or T_TERM. -/
  | digestSet (sideband : Bool)
  /-- FS_SET (R447): Installs the fabric secret and seals it. Operands: the link port that carried
  the command, none for the sideband bus. -/
  | fsSet (port : Option (Fin 16))
  /-- BOOT (R435): Reads, verifies and starts a firmware image. Operands: the image bytes read
  from host memory; `failed`: the adapter failed a read. -/
  | boot (sideband : Bool) (image : List Byte) (failed : Bool)
  /-- UNDERVOLTAGE (R458): Input below 48.0 V takes the supply-warning action. -/
  | undervoltage (stamp : Nat)
  /-- OVERVOLTAGE (R458): Input above 61.0 V takes the supply-warning action. -/
  | overvoltage (stamp : Nat)
  /-- OVERCURRENT (R458): Input current above 80 A for 50 µs takes the supply-warning action. -/
  | overcurrent (stamp : Nat)
  /-- WARNING_RELEASE (R462): After 10 ms in range the warning clears and lanes stay IDLE. -/
  | warningRelease
  /-- POWER_LOSS_DUMP_ERASE (R501): Firmware erases the power-loss dump blocks after a release
  mark. -/
  | powerLossDumpErase
  /-- POWER_ON_RESET (R463): Input out of range switches off every rail. -/
  | powerOnReset
  /-- POWER_ON (R464): Input meeting the power-on condition starts the power-up sequence.
  Operands: the measured bank capacitance in units of 10 uF (14 R467). -/
  | powerOn (cmeas : Nat)
  /-- POWER_UP_RETRY (R464): A power-up step missing its time is repeated every 50 ms. -/
  | powerUpRetry (step : Fin 4)
  /-- POWER_LOSS_DUMP_COPY (R500): At power-on an unmarked power-loss dump is copied to a dump
  slot. -/
  | powerLossDumpCopy
  /-- DROOP (R469): A core-rail dip below VMIN + 20 mV is counted. -/
  | droop (die : Fin 8) (mv : Nat)
  /-- THERMAL (R475): A die at 105 °C for 100 µs takes the supply-warning action. -/
  | thermal (die : Fin 8) (temp : Nat)
  /-- THERMAL_POWER_ON_RESET (R475): A die at 110 °C causes a power-on reset. -/
  | thermalPowerOnReset (die : Fin 8) (temp : Nat)
  /-- THROTTLE_UPDATE (R471): Every 10.24 µs each die's bubble level is recomputed from telemetry.
  -/
  | throttleUpdate
  /-- BUBBLE_PERIOD (R470): A 256-cycle bubble period takes the level in force. -/
  | bubblePeriod (die : Fin 8)
  /-- TELEMETRY_SAMPLE (R476): Every 10.24 µs the module samples its telemetry. -/
  | telemetrySample (t : Telemetry)
  /-- FMC_WINDOW (R478): A 1.024 ms FMC window qualifies or monitors the primary oscillator.
  Operands: primary and check oscillator counts of the window. -/
  | fmcWindow (die : Fin 8) (count : Nat) (chk : Nat)
  /-- GO (R481): A write of FMC_CTL.GO starts a clock measurement. -/
  | go (die : Fin 8)
  /-- FMC_MEASUREMENT_DONE (R481): An FMC measurement completes and sets DONE. -/
  | fmcMeasurementDone (die : Fin 8) (count : Nat)
  /-- CAP_WRITE (R474): A write of PWR_CAP.CAP sets the configured cap or is ignored. -/
  | capWrite (v : Nat)
  /-- RESET (R511): A write of RST_CTL.RESET with KEY 0xA5 starts a module reset. -/
  | reset (key : Byte)
  /-- SB_RST (R523): SB_RST# low 10 µs in RUN starts a module reset. -/
  | sbRst
  /-- STEWARD_WATCHDOG (R486): A steward not kicking in 20 ms has failed. -/
  | stewardWatchdog (die : Fin 8) (steward : Fin 5)
  /-- STEWARD_TAKEOVER (R28): Steward 4 takes a failed steward's role at the next step boundary.
  -/
  | stewardTakeover (die : Fin 8)
  /-- MODULE_WATCHDOG (R486): The primary service not kicking in 100 ms starts a module reset. -/
  | moduleWatchdog
  /-- TEARDOWN_TIMEOUT (R486): A revocation incomplete after 5 ms starts a module reset. -/
  | teardownTimeout (ctx : Fin 1024)
  /-- ENGINE_WATCHDOG (R488): An instruction running 2^24 cycles reports the core stuck. -/
  | engineWatchdog (c : CoreId) (e : Eng)
  /-- COLLECTION_TIMEOUT (R486): A unit not answering collection in 1 ms is recorded as absent. -/
  | collectionTimeout (die : Fin 8) (unit : Nat)
  /-- FIRMWARE_ERROR (R495): An uncorrectable error in firmware-owned state starts a module reset.
  -/
  | firmwareError
  /-- RESET_RELEASE (R504): Internal reset is released and self-test and training begin. -/
  | resetRelease
  /-- HIF_READY (R505): The enabled set is chosen, services recover and HIF_STAT.READY is set. -/
  | hifReady
  /-- CLEAR (R510): A write of DUMP_STAT.CLEAR invalidates both dump slots. -/
  | clear
  /-- STRAP_WINDOW (R518): The module samples and latches its strap pins. Operands: the 16 samples
  of the shared pins SP0-SP11. -/
  | strapWindow (samples : List (BitVec 12))
  /-- SMB_CFG_WR (R525): A sideband block write of a configuration register. -/
  | smbCfgWr (off : BitVec 32) (v : Word64) (pecOk : Bool)
  /-- SMB_CFG_ADDR (R525): A sideband write of the offset to read. -/
  | smbCfgAddr (off : BitVec 32) (pecOk : Bool)
  /-- SMB_CFG_DATA (R524): A sideband block read of status and value. -/
  | smbCfgData (pecOk : Bool)
  /-- CORE_CTL_WRITE (R111): A write to CORE_CTL, ignored while the core runs. -/
  | coreCtlWrite (c : CoreId) (v : Word64)
  /-- STOP (R153): A write of LATHE_LCTL.STOP requests a loop stop. -/
  | stop (die : Fin 8) (lane : Fin 8)
  /-- DSRC_WRITE (R534): A write of LATHE_LCTL.DSRC changes the draft source next start phase. -/
  | dsrcWrite (die : Fin 8) (lane : Fin 8) (v : Fin 4)
  /-- MESH_LOAD_GO (R168): A write of MESH_LOAD.GO starts a table-image load. -/
  | meshLoadGo (die : Fin 8)
  /-- MESH_LOAD_COMPLETE (R170): A table-image load finishes or stops on its first error. -/
  | meshLoadComplete (die : Fin 8)
  /-- ARM (R171): A write of MESH_COMMIT.ARM arms a swap for a lane. -/
  | arm (die : Fin 8)
  /-- ENABLE (R296): A write of HIF_CTL.ENABLE brings up queue 0, event ring 0 and context 0. -/
  | enable (v : Bool)
  /-- REGISTER_WRITE (R11): A write to a register without a behaviour row of its own. -/
  | registerWrite (a : CfgAddr) (v : Word64)
  /-- ALIASED_READ (R545): An aliased read returns the OR of selected instances and updates
  CFG_ALIAS. -/
  | aliasedRead (a : CfgAddr)
  /-- RC_READ (R12): A read of an RC field returns and clears it. Operands: `hw`: the increments
  or sets hardware makes in the read's own cycle (00 R12). -/
  | rcRead (a : CfgAddr) (hw : Word64)
  /-- WAIT_EVENT (R32): A user control program waits for the lane's next token event. Operands:
  `call` and `addr`: registers a7 and a0 of the ECALL. -/
  | waitEvent (die : Fin 8) (lane : Fin 8) (call : Nat) (addr : Nat)
  /-- DRAFT_CALL (R32): A user control program places a draft record in the lane's draft buffer.
  -/
  | draftCall (die : Fin 8) (lane : Fin 8) (call : Nat) (addr : Nat) (rcd : List Byte)
  /-- STOP_CALL (R32): A user control program sets the lane's STOP. -/
  | stopCall (die : Fin 8) (lane : Fin 8) (call : Nat)
  /-- STATE_READ (R32): A user control program reads Lc and the step count. -/
  | stateRead (die : Fin 8) (lane : Fin 8) (call : Nat)
  /-- EXIT (R32): A user control program ends until the next LOOP_START. -/
  | exit (die : Fin 8) (lane : Fin 8) (call : Nat)
  /-- UCP_QUANTUM (R31): Steward 3 moves to the next lane's 100 µs quantum. -/
  | ucpQuantum (die : Fin 8)
  /-- STOP_READY (R221): A memory stop finishes training, starts refresh, clears its owner tables
  and enters READY. Operands: spare lanes in use, row repairs applied, and whether every required
  repair found a spare. -/
  | stopReady (stop : StopId) (lanes rows : Nat) (spareLeft : Bool)
  /-- SELF_TEST_COMPLETE (R504): The self-test of cores, routers, bypass switches and stewards
  completes and SB_PROG.STEP shows 6. -/
  | selfTestComplete (failed : List CoreId) (deadDies : BitVec 8) (badRouters : List (Fin 8 × Fin 300)) (badBypass : List (Fin 8 × Fin 300)) (goodStewards : List Nat)
  /-- ATTACHING_MODULE_LEASE_END (R357): The attaching module counts its attachment to a pool
  member as ended at 1.00 x LEASEMS from sending the entry. -/
  | attachingModuleLeaseEnd (sid : Word64)
  deriving DecidableEq, Repr

end Sys2Proof
end

