-- ==== Sys2Proof/Config.lean ====
section
/-! DEFINITION. What an implementation fixes and the values the spec leaves open: constants without a
body, so that no proof can see a value of one. -/

namespace Sys2Proof.Config

/-- A value the spec leaves open, by a running number: noise read back from a region whose epoch has
advanced, random nonces, salts and signatures (06 R216, 11 R371, 12 R419). (log 4, DESIGN CHOICE) -/
opaque freeBits (n : Nat) : Nat

/-- The key of a generation drawn from the random source (13 R430). (log 4, DESIGN CHOICE) -/
opaque keyBits (n : Nat) : Nat

/-- The byte that ciphertext of an older write generation decrypts to (06 R216). (log 4, 18, DESIGN CHOICE) -/
opaque noise (unit old now i : Nat) : BitVec 8

/-- The order in which a core's or stop's physical hardware reports its characterised minimum core
voltage, read from OTP (14 R468), by die, in mV. (log 4, DESIGN CHOICE) -/
opaque vmin (die : Nat) : BitVec 16

/-- The fixed firmware route plan of a die: entries of owners 0xC-0xE (05 R161), by router and by
`256 * port + cycle`. (log 4, DESIGN CHOICE) -/
opaque routePlan (die router : Nat) : List (Nat × BitVec 16)

/-- Firmware build number shown in capability FIRMWARE (08 Table 12). (log 4, DESIGN CHOICE) -/
opaque fwBuild : BitVec 32

/-- Usable bytes of a tier on a die at READY (08 Table 12: HBYTES, MBYTES, FBYTES; tier 0 H, 1 M, 2 F).
(log 4, DESIGN CHOICE) -/
opaque tierBytes (tier die : Nat) : Nat

/-- `T_avail` when the latest sample shows no input power, by capacitance and bank voltage (14 R465).
(log 4, DESIGN CHOICE) -/
opaque tAvailIdle (c vbank : Nat) : Nat

/-- The object-window offset at which a mapped handle is presented (08 Table 11). (log 4, 26, DEDUCED) -/
opaque windowBase (handle : Nat) : Nat

/-- The pages of a user control program's address space, whose layout the spec does not give: an argument of
`len` bytes at `addr` lies in the space of the program of a die and lane (01 R31, R32). (log 4, 22, DEDUCED) -/
opaque ucpSpace (die lane addr len : Nat) : Bool

end Sys2Proof.Config
end

