-- ==== Sys2Proof/Machine/Tab.lean ====
section
/-! DEFINITION. Reading and writing sparse tables and memories in their canonical form, and
little-endian access to bytes (00 R7). -/

namespace Sys2Proof

/-- The value a table holds at a key: the first pair's, else the default `d`. (log 5, DESIGN CHOICE) -/
def Tab.look {α : Type} (d : α) : Tab α → Nat → α
  | [], _ => d
  | (i, v) :: t, k => if i = k then v else Tab.look d t k

/-- Put a pair in its place by rising key, replacing the one of that key. -/
def Tab.ins {α : Type} : Tab α → Nat → α → Tab α
  | [], k, v => [(k, v)]
  | (i, w) :: t, k, v =>
    if k < i then (k, v) :: (i, w) :: t
    else if i = k then (k, v) :: t
    else (i, w) :: Tab.ins t k v

/-- Write a value at a key; writing the default removes the entry. -/
def Tab.put {α : Type} [DecidableEq α] (d : α) (t : Tab α) (k : Nat) (v : α) : Tab α :=
  if v = d then t.filter (fun p => p.1 != k) else Tab.ins t k v

/-- The canonical form: keys strictly rising and no entry equal to the default. -/
def Tab.wf {α : Type} [DecidableEq α] (d : α) : Tab α → Bool
  | [] => true
  | [(_, v)] => v != d
  | (i, v) :: (j, w) :: t => v != d && decide (i < j) && Tab.wf d ((j, w) :: t)

/-- The byte a memory holds at an address. (log 5, DESIGN CHOICE) -/
def Memory.byte (m : Memory) (a : Nat) : Byte := Tab.look 0 m a

/-- Write one byte. -/
def Memory.setByte (m : Memory) (a : Nat) (b : Byte) : Memory := Tab.put 0 m a b

/-- Canonical form of a memory. (log 5, DESIGN CHOICE) -/
def Memory.wf (m : Memory) : Bool := Tab.wf 0 m

/-- `n` bytes from an address upward. -/
def Memory.read (m : Memory) (a n : Nat) : List Byte :=
  (List.range n).map (fun i => m.byte (a + i))

/-- Write bytes from an address upward. -/
def Memory.write (m : Memory) (a : Nat) : List Byte → Memory
  | [] => m
  | b :: bs => Memory.write (m.setByte a b) (a + 1) bs

/-- Zero the bytes of a range: they are no longer listed. -/
def Memory.clear (m : Memory) (a n : Nat) : Memory :=
  m.filter (fun p => !(decide (a ≤ p.1) && decide (p.1 < a + n)))

/-- The number little-endian bytes spell (00 R7). -/
def leNat : List Byte → Nat
  | [] => 0
  | b :: bs => b.toNat + 256 * leNat bs

/-- The `n` little-endian bytes of a number. -/
def leBytes : Nat → Nat → List Byte
  | 0, _ => []
  | n + 1, v => BitVec.ofNat 8 (v % 256) :: leBytes n (v / 256)

/-- Bytes `a` to `a + n - 1` of a byte list, zeros past its end. -/
def slice (l : List Byte) (a n : Nat) : List Byte :=
  (List.range n).map (fun i => (l[a + i]?).getD 0)

/-- The little-endian field of `n` bytes at offset `a` of a byte list. -/
def field (l : List Byte) (a n : Nat) : Nat := leNat (slice l a n)

/-- The 64 bytes of a payload or descriptor. -/
def payloadBytes (p : Payload) : List Byte := leBytes 64 p.toNat

/-- 64 bytes as a payload. -/
def bytesPayload (l : List Byte) : Payload := BitVec.ofNat 512 (leNat (slice l 0 64))

/-- The bits `[hi:lo]` of a number. -/
def bits (v hi lo : Nat) : Nat := v / 2 ^ lo % 2 ^ (hi + 1 - lo)

/-- Bit `i` of a number. -/
def bit (v i : Nat) : Bool := v.testBit i

/-- 1 for true. -/
def b2n (b : Bool) : Nat := if b then 1 else 0

/-- Counter addition that saturates at all ones. -/
def satAdd {w : Nat} (c : BitVec w) (n : Nat) : BitVec w :=
  if c.toNat + n < 2 ^ w then BitVec.ofNat w (c.toNat + n) else BitVec.allOnes w

/-- Counter addition that wraps. -/
def wrapAdd {w : Nat} (c : BitVec w) (n : Nat) : BitVec w := c + BitVec.ofNat w n

/-- Ceiling division. -/
def cdiv (a b : Nat) : Nat := (a + b - 1) / b

/-- Insert a number into a rising list without repeats. -/
def insNat (n : Nat) : List Nat → List Nat
  | [] => [n]
  | m :: l => if n < m then n :: m :: l else if n = m then m :: l else m :: insNat n l

/-- The lowest number from `k` on that a rising list does not hold. -/
def lowestFree (k : Nat) : List Nat → Nat
  | [] => k
  | m :: l => if m < k then lowestFree k l else if m = k then lowestFree (k + 1) l else k

end Sys2Proof
end

