-- ==== Sys2Proof/Machine/Crypto.lean ====
section
/-! DEFINITION. The fixed functions the spec names: CRC-64 and the keyed tile tag (03 R97, 06 R212),
AES (04 R140), SHA-256 (12 R415) and RSASSA-PSS verification (12 R419, 13 R435). -/

namespace Sys2Proof.Machine

/-! ### CRC-64 and the keyed tag -/

/-- Shift a CRC register by `n` bits: polynomial 0x42F0_E1EB_A9EA_3693, no reflection (03 R97). -/
def crcShift : Nat → Nat → Nat
  | 0, r => r
  | n + 1, r =>
    crcShift n (if 2 ^ 63 ≤ r then Nat.xor ((r - 2 ^ 63) * 2) 0x42F0E1EBA9EA3693 else r * 2)

/-- CRC-64 of bytes in address order, from a register value (03 R97: initial value 0). -/
def crc64From (r : Nat) (l : List Byte) : Nat :=
  l.foldl (fun r b => crcShift 8 (Nat.xor r (b.toNat * 2 ^ 56))) r

/-- CRC-64 with initial value 0 (03 R97). -/
def crc64 (l : List Byte) : Nat := crc64From 0 l

/-- Multiplication in GF(2^64) modulo x^64 + x^4 + x^3 + x + 1, over the low `n` bits of `b`
(06 R212). -/
def gf64From (b : Nat) : Nat → Nat → Nat → Nat
  | 0, _, r => r
  | n + 1, a, r =>
    let r' := if bit b (63 - n) then Nat.xor r a else r
    gf64From b n (if 2 ^ 63 ≤ a then Nat.xor ((a - 2 ^ 63) * 2) 0x1B else a * 2) r'

/-- `gf64_mul` (06 R212). -/
def gf64Mul (a b : Nat) : Nat := gf64From b 64 a 0

/-! ### AES -/

/-- Multiplication in GF(2^8) modulo x^8 + x^4 + x^3 + x + 1. -/
def gf8From (b : Nat) : Nat → Nat → Nat → Nat
  | 0, _, r => r
  | n + 1, a, r =>
    let r' := if bit b (7 - n) then Nat.xor r a else r
    gf8From b n (if 128 ≤ a then Nat.xor ((a - 128) * 2) 0x1B else a * 2) r'

/-- Multiplication in GF(2^8). -/
def gf8Mul (a b : Nat) : Nat := gf8From b 8 a 0

/-- The inverse in GF(2^8): the 254th power. -/
def gf8Inv (a : Nat) : Nat :=
  let p2 := gf8Mul a a
  let p4 := gf8Mul p2 p2
  let p8 := gf8Mul p4 p4
  let p16 := gf8Mul p8 p8
  let p32 := gf8Mul p16 p16
  let p64 := gf8Mul p32 p32
  let p128 := gf8Mul p64 p64
  gf8Mul (gf8Mul (gf8Mul p2 p4) (gf8Mul p8 p16)) (gf8Mul (gf8Mul p32 p64) p128)

/-- Rotate a byte left. -/
def rotl8 (a n : Nat) : Nat := a * 2 ^ n % 256 + a / 2 ^ (8 - n)

/-- The AES S-box (FIPS 197): the inverse and the affine map. -/
def aesSbox (a : Nat) : Nat :=
  let x := gf8Inv a
  Nat.xor (Nat.xor (Nat.xor x (rotl8 x 1)) (Nat.xor (rotl8 x 2) (rotl8 x 3))) (Nat.xor (rotl8 x 4) 0x63)

/-- Exclusive or of byte lists. -/
def xorBytes (a b : List Nat) : List Nat := (a.zip b).map fun p => Nat.xor p.1 p.2

/-- AES key expansion: `n` more words after `i`, from the words so far (newest first). -/
def aesExpand (nk : Nat) : Nat → Nat → Nat → List (List Nat) → List (List Nat)
  | 0, _, _, ws => ws
  | n + 1, i, rcon, ws =>
    let prev := ws.headD []
    let base := (ws[nk - 1]?).getD []
    let t := if i % nk = 0 then
        xorBytes ((prev.drop 1 ++ prev.take 1).map aesSbox) [rcon, 0, 0, 0]
      else if nk = 8 ∧ i % nk = 4 then prev.map aesSbox
      else prev
    aesExpand nk n (i + 1) (if i % nk = 0 then gf8Mul rcon 2 else rcon) (xorBytes base t :: ws)

/-- Cut a list into four-byte words. -/
def words4 : Nat → List Nat → List (List Nat)
  | 0, _ => []
  | n + 1, l => l.take 4 :: words4 n (l.drop 4)

/-- The round keys of a key of `4 * nk` bytes, as 16-byte lists in order. -/
def aesRoundKeys (nk : Nat) (key : List Nat) : List (List Nat) :=
  let total := 4 * (nk + 7)
  let ws := (aesExpand nk (total - nk) nk 1 (words4 nk key).reverse).reverse
  (List.range (nk + 7)).map fun r => ((ws.drop (4 * r)).take 4).flatten

/-- ShiftRows on a 16-byte state in column order. -/
def aesShiftRows (s : List Nat) : List Nat :=
  (List.range 16).map fun i => (s[(i + 4 * (i % 4)) % 16]?).getD 0

/-- MixColumns. -/
def aesMixColumns (s : List Nat) : List Nat :=
  (List.range 16).map fun i =>
    let c := i - i % 4
    let at' (k : Nat) : Nat := (s[c + (i + k) % 4]?).getD 0
    Nat.xor (Nat.xor (gf8Mul (at' 0) 2) (gf8Mul (at' 1) 3)) (Nat.xor (at' 2) (at' 3))

/-- The rounds after the first key addition. -/
def aesRounds : List (List Nat) → List Nat → List Nat
  | [], s => s
  | [k], s => xorBytes (aesShiftRows (s.map aesSbox)) k
  | k :: ks, s => aesRounds ks (xorBytes (aesMixColumns (aesShiftRows (s.map aesSbox))) k)

/-- AES encryption of a 16-byte block under a key of `4 * nk` bytes. -/
def aesEncrypt (nk : Nat) (key block : List Nat) : List Nat :=
  match aesRoundKeys nk key with
  | [] => block
  | k :: ks => aesRounds ks (xorBytes block k)

/-- Bytes of a list as numbers. -/
def natBytes (l : List Byte) : List Nat := l.map BitVec.toNat

/-- Numbers as bytes. -/
def byteNats (l : List Nat) : List Byte := l.map (BitVec.ofNat 8)

/-- The keyed tag of a tile record's first 4,352 bytes (06 R212). -/
def tileTag (rcd : List Byte) (tid : Nat) (kt : List Nat) (h : Nat) : Nat :=
  let y := (List.range 544).foldl (fun y i => gf64Mul (Nat.xor y (field rcd (8 * i) 8)) h) 0
  let n := natBytes (leBytes 8 tid) ++ [1, 0, 0, 0, 0, 0, 0, 0]
  Nat.xor y (leNat (byteNats ((aesEncrypt 8 kt n).take 8)))

/-! ### SHA-256 (FIPS 180-4) -/

/-- Rotate a 32-bit word right. -/
def rotr32 (a n : Nat) : Nat := a / 2 ^ n + a % 2 ^ n * 2 ^ (32 - n)

/-- The round constants. -/
def shaK : List Nat :=
  [0x428a2f98, 0x71374491, 0xb5c0fbcf, 0xe9b5dba5, 0x3956c25b, 0x59f111f1, 0x923f82a4, 0xab1c5ed5,
   0xd807aa98, 0x12835b01, 0x243185be, 0x550c7dc3, 0x72be5d74, 0x80deb1fe, 0x9bdc06a7, 0xc19bf174] ++
  [0xe49b69c1, 0xefbe4786, 0x0fc19dc6, 0x240ca1cc, 0x2de92c6f, 0x4a7484aa, 0x5cb0a9dc, 0x76f988da,
   0x983e5152, 0xa831c66d, 0xb00327c8, 0xbf597fc7, 0xc6e00bf3, 0xd5a79147, 0x06ca6351, 0x14292967] ++
  [0x27b70a85, 0x2e1b2138, 0x4d2c6dfc, 0x53380d13, 0x650a7354, 0x766a0abb, 0x81c2c92e, 0x92722c85,
   0xa2bfe8a1, 0xa81a664b, 0xc24b8b70, 0xc76c51a3, 0xd192e819, 0xd6990624, 0xf40e3585, 0x106aa070] ++
  [0x19a4c116, 0x1e376c08, 0x2748774c, 0x34b0bcb5, 0x391c0cb3, 0x4ed8aa4a, 0x5b9cca4f, 0x682e6ff3,
   0x748f82ee, 0x78a5636f, 0x84c87814, 0x8cc70208, 0x90befffa, 0xa4506ceb, 0xbef9a3f7, 0xc67178f2]

/-- The initial hash value. -/
def shaH : List Nat :=
  [0x6a09e667, 0xbb67ae85, 0x3c6ef372, 0xa54ff53a, 0x510e527f, 0x9b05688c, 0x1f83d9ab, 0x5be0cd19]

/-- A big-endian number. -/
def beNat (l : List Nat) : Nat := l.foldl (fun a b => 256 * a + b) 0

/-- The message schedule, newest word first, `n` words more. -/
def shaSched : Nat → List Nat → List Nat
  | 0, ws => ws
  | n + 1, ws =>
    let a := (ws[14]?).getD 0
    let b := (ws[1]?).getD 0
    let s0 := Nat.xor (Nat.xor (rotr32 a 7) (rotr32 a 18)) (a / 8)
    let s1 := Nat.xor (Nat.xor (rotr32 b 17) (rotr32 b 19)) (b / 1024)
    shaSched n ((((ws[15]?).getD 0 + s0 + (ws[6]?).getD 0 + s1) % 2 ^ 32) :: ws)

/-- One round on the eight working words. -/
def shaRound (v : List Nat) (kw : Nat × Nat) : List Nat :=
  match v with
  | [a, b, c, d, e, f, g, h] =>
    let s1 := Nat.xor (Nat.xor (rotr32 e 6) (rotr32 e 11)) (rotr32 e 25)
    let ch := Nat.xor (Nat.land e f) (Nat.land (2 ^ 32 - 1 - e) g)
    let t1 := h + s1 + ch + kw.1 + kw.2
    let s0 := Nat.xor (Nat.xor (rotr32 a 2) (rotr32 a 13)) (rotr32 a 22)
    let mj := Nat.xor (Nat.xor (Nat.land a b) (Nat.land a c)) (Nat.land b c)
    [(t1 + s0 + mj) % 2 ^ 32, a, b, c, (d + t1) % 2 ^ 32, e, f, g]
  | _ => v

/-- Compress one 64-byte block. -/
def shaBlock (h : List Nat) (b : List Nat) : List Nat :=
  let w0 := (words4 16 b).map beNat
  let ws := (shaSched 48 w0.reverse).reverse
  let v := (shaK.zip ws).foldl shaRound h
  (h.zip v).map fun p => (p.1 + p.2) % 2 ^ 32

/-- Compress `n` blocks. -/
def shaBlocks : Nat → List Nat → List Nat → List Nat
  | 0, h, _ => h
  | n + 1, h, l => shaBlocks n (shaBlock h (l.take 64)) (l.drop 64)

/-- Big-endian bytes of a number. -/
def beBytes (n v : Nat) : List Nat := (natBytes (leBytes n v)).reverse

/-- The 32 bytes of the SHA-256 of a message. -/
def sha256Bytes (l : List Nat) : List Nat :=
  let len := l.length
  let pad := (119 - len % 64) % 64
  let m := l ++ [0x80] ++ List.replicate pad 0 ++ beBytes 8 (8 * len)
  ((shaBlocks (m.length / 64) shaH m).map (beBytes 4)).flatten

/-- The SHA-256 of bytes as a digest, its first byte in the low bits. -/
def sha256 (l : List Byte) : Digest :=
  BitVec.ofNat 256 (leNat (byteNats (sha256Bytes (natBytes l))))

/-! ### RSASSA-PSS verification (13 R435 item 4, R453) -/

/-- `n` squarings modulo `m`. -/
def squareMod (m : Nat) : Nat → Nat → Nat
  | 0, x => x
  | n + 1, x => squareMod m n (x * x % m)

/-- MGF1 with SHA-256: `n` bytes. -/
def mgf1 (seed : List Nat) (n : Nat) : List Nat :=
  (((List.range (cdiv n 32)).map fun i => sha256Bytes (seed ++ beBytes 4 i)).flatten).take n

/-- The encoded message `em` (384 bytes, big-endian) matches the message hash: SHA-256, MGF1 with
SHA-256, 32-byte salt. -/
def pssOk (em mHash : List Nat) : Bool :=
  let masked := em.take 351
  let h := (em.drop 351).take 32
  let db := xorBytes masked (mgf1 h 351)
  let db' := db.headD 0 % 128 :: db.drop 1
  let salt := db'.drop 319
  em.length == 384 && (em[383]?).getD 0 == 0xBC && decide (em.headD 0 < 128)
    && (db'.take 318).all (· == 0) && (db'[318]?).getD 0 == 1
    && sha256Bytes (List.replicate 8 0 ++ mHash ++ salt) == h

/-- Verify a signature (little-endian integer of 384 bytes, R453) under a modulus and exponent 65,537. -/
def rsaVerify (n sig : Nat) (msg : List Byte) : Bool :=
  decide (sig < n) &&
    pssOk (beBytes 384 (squareMod n 16 sig * sig % n)) (sha256Bytes (natBytes msg))

end Sys2Proof.Machine
end

