-- ==== Sys2Proof/Machine/State.lean ====
section
/-! DEFINITION. The state of the module: every register, table, queue, buffer, mode and pin the spec
names, as plain data, and the state after power-on. Indices are `Nat` keys of sparse tables. -/

namespace Sys2Proof.Machine

/-- No command of this model ends in a fault of the machine: a fault of a context, a port or the
module is the command's effect on the state (09 R301, 15). The one reason kept here is raised by no
meaning; it names a stop that never occurs (safe). -/
inductive Fault where
  /-- Raised by nobody: the module has no stuck state outside reset (15, "two responses"). Safe. -/
  | stuck
  deriving DecidableEq, Repr

/-- Why a command is refused by the model. -/
inductive Refusal where
  /-- Raised by `exec` for a command that has no meaning yet. Safe. -/
  | notModelled (mnemonic : String)
  deriving DecidableEq, Repr

/-! ### Cores (03) -/

/-- One exact accumulator: the 208-bit A, the four sticky flags and the ALSB (02 "The exact
accumulator", 03 R93). -/
structure Acc where
  a : BitVec 208 := 0
  nan : Bool := false
  pinf : Bool := false
  ninf : Bool := false
  ovr : Bool := false
  alsb : BitVec 10 := 0
  deriving DecidableEq, Repr

/-- `CORE_STAT.STATE` (03 Table 12). -/
inductive CoreState where
  | off | fenced | idle | run | fault
  deriving DecidableEq, Repr

/-- The last instruction of an engine that no wait has yet covered: its PC, its operand ranges
(start, length) and what it overwrote, so that a hazard leaves it without effect (03 R82, R108).
(log 10, 47, DEDUCED) -/
structure InFlight where
  pc : BitVec 12
  reads : List (Nat × Nat)
  writes : List (Nat × Nat)
  oldScratch : Memory
  oldAccs : Tab Acc
  oldOvf : Bool
  /-- Flits a transfer handed to the mesh. -/
  sent : List Flit
  deriving DecidableEq, Repr

/-- A pending refetch (03 R98): the TID, the landing record's byte address, the engine that waits and
its instruction's PC. -/
structure Refetch where
  tid : BitVec 64
  addr : Nat
  eng : Eng
  pc : BitVec 12
  sent : Bool
  deriving DecidableEq, Repr

/-- `CORE_FAULT` (03 Table 13). `engine`: 0 MX, 1 VX, 2 TX, 3 issue unit. -/
structure CoreFault where
  status : Byte := 0
  code : Byte := 0
  pc : BitVec 12 := 0
  engine : BitVec 2 := 0
  valid : Bool := false
  more : Bool := false
  info : BitVec 32 := 0
  deriving DecidableEq, Repr

/-- One physical core: the program-visible state of 03 Table 1, its registers (03 Tables 11-15), its
refetch state (03 R98, R99), its barrier wait (04 R124) and its binding (10 R335). (log 6, DESIGN CHOICE) -/
structure Core where
  enable : Bool := false
  fence : Bool := false
  entry : BitVec 12 := 0
  st : CoreState := .off
  wign : Bool := false
  pc : BitVec 12 := 0
  ovf : Bool := false
  loops : Tab (BitVec 16) := []
  bases : Tab (BitVec 16) := []
  ctrs : Tab (BitVec 32) := []
  scratch : Memory := []
  prog : Tab (BitVec 128) := []
  accs : Tab Acc := []
  chan : Tab Word64 := []
  chanShadow : Tab Word64 := []
  /-- 64-byte scratch lines marked by a poisoned flit (05 R185), rising. -/
  poison : List Nat := []
  fault : CoreFault := {}
  mismatch : BitVec 32 := 0
  refetched : BitVec 32 := 0
  corr : BitVec 32 := 0
  refetch : Option Refetch := none
  /-- A refetch was made since the last BAR or step start (03 R99). -/
  refetchUsed : Bool := false
  /-- What the M stop returned and has not landed: the record, or `none` for a refusal flit. -/
  landing : Option (Option (List Byte)) := none
  mx : Option InFlight := none
  vx : Option InFlight := none
  tx : Option InFlight := none
  /-- The barrier the core has arrived at and waits for. -/
  barWait : Option (BitVec 8) := none
  ended : Bool := false
  lane : Option Nat := none
  vd : Nat := 0
  vc : Nat := 0
  vk : Nat := 0
  /-- The core's index among the lane's cores on the die (04 R121). -/
  vindex : Nat := 0
  good : Bool := true
  /-- Chuck binds nothing further here until the next module reset (15 R488, R489). -/
  barred : Bool := false
  deriving DecidableEq, Repr

/-! ### Mesh (05) -/

/-- `MESH_RFAULT` (05 Table 14). -/
structure RFault where
  code : Byte := 0
  port : BitVec 3 := 0
  cycle : Byte := 0
  owner : BitVec 4 := 0
  valid : Bool := false
  more : Bool := false
  deriving DecidableEq, Repr

/-- One router: slot tables keyed by `256 * port + cycle` (05 R159, R162), registers (05 Tables 12-15). -/
structure Router where
  active : Tab (BitVec 16) := []
  shadow : Tab (BitVec 16) := []
  mirror : Tab (BitVec 16) := []
  mirrorShadow : Tab (BitVec 16) := []
  bypass : Bool := false
  view : Bool := false
  failed : Bool := false
  bypassed : Bool := false
  bypfail : Bool := false
  pwr : Bool := true
  fault : RFault := {}
  corr : BitVec 32 := 0
  uncorr : BitVec 16 := 0
  deriving DecidableEq, Repr

/-- One origin's issue-rate limiter: allowances per class and flits sent this frame (05 R181-R183). -/
structure Origin where
  allow : Tab Nat := []
  allowShadow : Tab Nat := []
  sent : Tab Nat := []
  deriving DecidableEq, Repr

/-- One die-to-die bridge: slot tables of the B stop, flits waiting to cross (05 R177). -/
structure Bridge where
  active : Tab (BitVec 16) := []
  shadow : Tab (BitVec 16) := []
  deriving DecidableEq, Repr

/-- Mesh control registers (05 Tables 16-19). -/
structure MeshCtl where
  base : BitVec 42 := 0
  busy : Bool := false
  err : Bool := false
  errcode : Byte := 0
  errrec : BitVec 16 := 0
  arm : Bool := false
  lane : BitVec 3 := 0
  done : Bool := false
  refused : Bool := false
  vRouter : BitVec 9 := 0
  vPort : BitVec 3 := 0
  vCycle : Byte := 0
  vOwner : BitVec 4 := 0
  vClass : BitVec 3 := 0
  vKind : BitVec 3 := 0
  vValid : Bool := false
  wign : Bool := false
  count : BitVec 32 := 0
  deriving DecidableEq, Repr

/-! ### Lanes and Spindles (04) -/

/-- `LATHE_LSTAT.STATE` (04 Table 14). -/
inductive LaneState where
  | idle | start | layers | sample | commit | event | draft | fault
  deriving DecidableEq, Repr

/-- A staged landing record (06 R197) and where and when it is sent (04 R116, R117). -/
structure Staged where
  g : Nat
  ch : Nat
  laddr : Nat
  ctr : Nat
  record : List Byte
  deriving DecidableEq, Repr

/-- A Spindle's stream list and progress (04 R116), its reads issued and its staging buffer. -/
structure Spindle where
  entries : List (BitVec 256) := []
  entry : Nat := 0
  q : Nat := 0
  issued : Nat := 0
  /-- The lowest global tile slot not yet taken (04 R118). -/
  nextG : Nat := 0
  staging : List Staged := []
  deriving DecidableEq, Repr

/-- A commit word (04 Table 10). -/
structure CommitW where
  last : Nat
  drop : Bool
  endc : Nat
  token : BitVec 32
  step : BitVec 16
  deriving DecidableEq, Repr

/-- One lane of one die's Lathe (04 R112-R136, R153). -/
structure Lane where
  enable : Bool := false
  stop : Bool := false
  dsrc : BitVec 2 := 0
  rfw : BitVec 4 := 0
  st : LaneState := .idle
  barid : Byte := 0
  late : Bool := false
  timeout : Bool := false
  fi : BitVec 32 := 0
  step : Word64 := 0
  drej : BitVec 16 := 0
  latec : BitVec 16 := 0
  rfuse : BitVec 16 := 0
  f : BitVec 32 := 0
  bound : BitVec 16 := 0
  theta : BitVec 6 := 0
  barriers : Tab Word64 := []
  /-- Cores (keys) that have arrived at the current barrier. -/
  arrived : List Nat := []
  /-- The die's own arrival is complete (04 R125). -/
  dieArrived : Bool := false
  /-- Arrived-die mask of the package barrier (04 R126). -/
  mask : Byte := 0
  /-- Child modules that reported (04 R127). -/
  children : List Nat := []
  sentUp : Bool := false
  /-- The composition release was passed on to the children. -/
  sentDown : Bool := false
  /-- The composition release has arrived. -/
  relArrived : Bool := false
  /-- The release or an arrival carries a second swap (10 R347). -/
  swapMark : Bool := false
  /-- A link port with a run of the lane went DOWN since the last release (15 R487). -/
  linkLost : Bool := false
  spindles : Tab Spindle := []
  hdrAddr : Nat := 0
  slots : Nat := 0
  lmax : Nat := 0
  mapBase : Nat := 0
  /-- Committed length, pending root, KV slots in use (rising) and the step's tree on this die. -/
  lc : Nat := 0
  root : Option (BitVec 32) := none
  used : List Nat := []
  tree : Option Tree := none
  commitw : Option CommitW := none
  deriving DecidableEq, Repr

/-! ### Memory stops (06) -/

/-- `STOP_STAT.STATE` (06 Table 13). -/
inductive StopState where
  | off | training | ready | selfref | failed
  deriving DecidableEq, Repr

/-- A segment-table entry of an H stop (06 Table 4). -/
structure Seg where
  first : Nat := 0
  count : Nat := 0
  ech : Nat := 0
  sch : Nat := 0
  tch : Nat := 0
  valid : Bool := false
  deriving DecidableEq, Repr

/-- A mirror-table entry of an M stop (06 Table 6); `mbase` in 8-byte units. -/
structure Mirror where
  first : Nat := 0
  count : Nat := 0
  mbase : Nat := 0
  valid : Bool := false
  deriving DecidableEq, Repr

/-- A 2 MiB region of a stop: epoch, owner tag and valid bit, advance waiting (06 R215-R217, 07 R258). -/
structure Region where
  epoch : BitVec 32 := 0
  tag : Nat := 0
  tagged : Bool := false
  /-- Revoked: the valid bit of a tag was cleared (07 R258). -/
  revoked : Bool := false
  advance : Bool := false
  withdrawn : Bool := false
  /-- Held by Hearth for a model slot, or by a composition's arena. -/
  hearth : Option Nat := none
  arena : Option Nat := none
  deriving DecidableEq, Repr

/-- A memory stop (06 Tables 12-16): H, M or F. -/
structure MemStop where
  enable : Bool := false
  scrub : Bool := true
  st : StopState := .off
  wign : Bool := false
  lanes : Byte := 0
  rows : Byte := 0
  temp : Byte := 0
  corr : BitVec 32 := 0
  uncorr : BitVec 16 := 0
  uev : Bool := false
  margin : Bool := false
  ueaddr : BitVec 41 := 0
  ueowner : BitVec 4 := 0
  own0 : Word64 := 0
  own1 : Byte := 0
  own0Shadow : Word64 := 0
  own1Shadow : Byte := 0
  segs : Tab Seg := []
  mirrors : Tab Mirror := []
  queue : List MemReq := []
  regions : Tab Region := []
  refreshed : Nat := 0
  deriving DecidableEq, Repr

/-- An F command in the queue of an F stop (06 R209, R210). -/
structure FCmd where
  write : Bool
  sector : Nat
  data : List Byte
  sectors : Nat
  channels : Nat
  sealedEpochOk : Bool
  wellFormed : Bool
  /-- The queue whose descriptor the command serves, if any. -/
  q : Option Nat
  deriving DecidableEq, Repr

/-! ### Dies -/

/-- `FMC_*` of a die (14 Tables 17-20) and the run of bad windows of the monitor (14 R478). -/
structure Fmc where
  gsrc : BitVec 4 := 1
  gcyc : BitVec 24 := 0xC000
  msrc : BitVec 4 := 0
  busy : Bool := false
  done : Bool := false
  wign : Bool := false
  count : BitVec 40 := 0
  qualified : Bool := false
  run : BitVec 4 := 0
  badwin : Byte := 0
  lastdev : BitVec 16 := 0
  bad : Nat := 0
  /-- Four consecutive bad windows took the supply-warning action, which ten good ones release. -/
  warned : Bool := false
  deriving DecidableEq, Repr

/-- Throttle registers of a die (14 Tables 14-16) and the level of the bubble period in force. -/
structure Throttle where
  level : BitVec 7 := 0
  sat : Bool := false
  temp : Byte := 0
  pdie : BitVec 12 := 0
  units : BitVec 32 := 0
  droops : BitVec 16 := 0
  vmin : BitVec 16 := 0
  vlow : BitVec 16 := 0xFFFF
  inForce : BitVec 7 := 0
  deriving DecidableEq, Repr

/-- Memory security block of a die (06 Tables 17-20). -/
structure MemSec where
  sealedNext : Bool := false
  sealed : Bool := false
  hmask : Byte := 0xFF
  mmask : BitVec 3 := 7
  fmask : BitVec 2 := 3
  selTier : Bool := false
  selStop : BitVec 3 := 0
  selRegion : BitVec 15 := 0
  withdrawn : BitVec 16 := 0
  deriving DecidableEq, Repr

/-- A user control program of a lane on a die (01 R31, R32). -/
structure Ucp where
  present : Bool := false
  running : Bool := false
  waiting : Bool := false
  /-- EXIT was called: the program ends until the next LOOP_START. -/
  ended : Bool := false
  /-- The event records copied to the event buffer. -/
  buffer : List Payload := []
  a0 : Word64 := 0
  a1 : Word64 := 0
  deriving DecidableEq, Repr

/-- The stewards of a die: which passed self-test, which have failed, and the role of each
(01 R27, R28): `roles` lists the steward that holds role 0-3. (log 6, DESIGN CHOICE) -/
structure Stewards where
  good : List Nat := [0, 1, 2, 3, 4]
  failed : List Nat := []
  roles : List Nat := [0, 1, 2, 3]
  /-- A failed steward whose role waits for the step boundary. -/
  takeover : Option Nat := none
  deriving DecidableEq, Repr

/-- A port of a link (11 Tables 12-19, R366-R408). -/
inductive PortState where
  | off | training | up | down
  deriving DecidableEq, Repr

/-- One physical link lane (11 Table 18). -/
structure LinkLane where
  symerr : BitVec 32 := 0
  pass : Bool := false
  degraded : Bool := false
  deriving DecidableEq, Repr

/-- One link port. -/
structure Port where
  enable : Bool := true
  mgmtin : Bool := false
  st : PortState := .off
  downrsn : BitVec 4 := 0
  excl : BitVec 3 := 7
  spare : Bool := false
  wign : Bool := false
  peerId : BitVec 18 := 0
  peerPort : BitVec 4 := 0
  peerRole : BitVec 2 := 0
  /-- What the peer's last LANES reported: excluded lane and degraded lanes (11 Table 9). -/
  peerExcl : Nat := 7
  peerDegr : Nat := 0
  flight : Byte := 0
  txEpoch : BitVec 32 := 0
  rxEpoch : BitVec 32 := 0
  txfc : BitVec 48 := 0
  rxfc : BitVec 48 := 0
  /-- A pending rekey of the transmit and of the receive direction: the codeword it switches at. -/
  txRekey : Option Nat := none
  rxRekey : Option Nat := none
  corr : BitVec 32 := 0
  uncorr : BitVec 16 := 0
  auth : BitVec 16 := 0
  mismatch : BitVec 16 := 0
  ctldrop : BitVec 16 := 0
  losses : BitVec 16 := 0
  lmap : BitVec 32 := 0
  lmapShadow : BitVec 32 := 0
  lanes : Tab LinkLane := []
  tx : Tab (BitVec 16) := []
  txShadow : Tab (BitVec 16) := []
  rx : Tab (BitVec 16) := []
  rxShadow : Tab (BitVec 16) := []
  /-- Byte counters keyed `8 * dir + class` (11 R408). -/
  bcnt : Tab Word64 := []
  /-- Flits queued for sending (11 R382). -/
  egress : List Flit := []
  /-- HOST, MGMT and POOL blocks queued for sending, and transit queues keyed by input port. -/
  blocks : List Block := []
  transit : Tab (List Block) := []
  general : List GenHdr := []
  /-- General messages sent once, to be repeated in the next control block (11 R389). -/
  repeated : List GenHdr := []
  txSeq : BitVec 16 := 0
  /-- The last 64 SEQ accepted (11 R390), newest first. -/
  seen : List (BitVec 16) := []
  /-- Lane units held for sending, with the control blocks each was sent in, and the next one. -/
  units : Tab (LaneUnit × Nat) := []
  unitsNext : Tab LaneUnit := []
  /-- The last unit acted on in each position. -/
  acted : Tab LaneUnit := []
  /-- STAMPs of the last tag failures (11 R395). -/
  authTimes : List Nat := []
  nonce : Digest := 0
  peerNonce : Digest := 0
  deriving DecidableEq, Repr

/-- One compute die with its stops, bridges, Lathe, throttle and stewards. (log 6, DESIGN CHOICE) -/
structure Die where
  working : Bool := true
  /-- Slot counter (05 R156) and count of frame starts (07 R254). -/
  slotCtr : Byte := 0
  frames : Nat := 0
  ctl : MeshCtl := {}
  bcnt : Tab Word64 := []
  routers : Tab Router := []
  origins : Tab Origin := []
  bridges : Tab Bridge := []
  /-- Elastic queues keyed `16 * router + owner` (05 R179). -/
  elastic : Tab (List Flit) := []
  flights : List Flit := []
  /-- TGET requests waiting at a stop's router (05 R164). -/
  gets : Tab (List Flit) := []
  stewMem : Memory := []
  clusterMem : Tab Memory := []
  /-- Clusters enabled (01 R17), bound (key cluster, value lane + 1), barred (15 R489). -/
  clusters : List Nat := []
  boundCl : Tab Nat := []
  barredCl : List Nat := []
  lanes : Tab Lane := []
  hstops : Tab MemStop := []
  mstops : Tab MemStop := []
  fstops : Tab MemStop := []
  fqueue : List FCmd := []
  fdefer : Bool := false
  memsec : MemSec := {}
  thr : Throttle := {}
  fmc : Fmc := {}
  stew : Stewards := {}
  ucps : Tab Ucp := []
  quantum : BitVec 3 := 0
  /-- Request rings keyed by cluster, oldest first (07 R251); steward 1's queues keyed by lane. -/
  reqRings : Tab (List AllocReq) := []
  laneQ : Tab (List AllocReq) := []
  /-- Logit-share state of the sampler block, by lane: held or not. -/
  sampler : List Nat := []
  deriving DecidableEq, Repr

/-! ### Host interface (08) -/

/-- Queue states (09 Table 6). -/
inductive QState where
  | free | live | draining
  deriving DecidableEq, Repr

/-- An accepted descriptor: its ring pointer and its 64 bytes (08 R270). -/
structure Accepted where
  pos : BitVec 32
  d : Desc
  /-- The port that fetched it (08 R553). -/
  port : Bool
  /-- Order of acceptance over all queues. -/
  seq : Nat
  /-- The object handle it holds a reference to (07 R255). -/
  ref : Option Nat
  deriving DecidableEq, Repr

/-- A submission queue (08 R268-R273): geometry, pointers, accepted descriptors in ring order and the
progress of the one that executes. -/
structure Queue where
  st : QState := .free
  ctx : Nat := 0
  log2n : Nat := 0
  port : Bool := false
  evring : Nat := 0
  base : Word64 := 0
  headwb : Word64 := 0
  head : BitVec 32 := 0
  tail : BitVec 32 := 0
  acc : List Accepted := []
  /-- Host data read for the front descriptor, and whether a read failed (08 R262). -/
  buf : List Byte := []
  readFailed : Bool := false
  /-- Host data still to be written for the front descriptor. -/
  outAddr : Nat := 0
  outBuf : List Byte := []
  /-- The front descriptor has begun; its status and RESULT once decided. -/
  started : Bool := false
  fin : Option (Status × BitVec 256) := none
  deriving DecidableEq, Repr

/-- An event ring (08 R282-R290). -/
structure EvRing where
  live : Bool := false
  ctx : Nat := 0
  log2n : Nat := 0
  port : Bool := false
  faults : Bool := false
  vector : Nat := 0
  base : Word64 := 0
  head : BitVec 32 := 0
  tail : BitVec 32 := 0
  resv : Nat := 0
  drops : Nat := 0
  armed : Option (BitVec 32) := none
  deriving DecidableEq, Repr

/-- What a Tongs has pending for a context in its order of age (08 R265 item 1). -/
inductive Work where
  /-- A record of a ring without its ring pointer, PHASE, OVERFLOW and DROPS, which it takes when
  written; `resv`: it uses a reservation. -/
  | record (ring : Nat) (rec : Payload) (resv : Bool)
  /-- A head write-back of a queue (08 R270). -/
  | headwb (q : Nat) (head : BitVec 32)
  /-- A fence's value write-back (09 R317). -/
  | wb (fence : Nat) (addr value : Word64)
  deriving DecidableEq, Repr

/-- A Tongs read under way: tag, context, queue, and how many descriptors it fetches (0: data). (log 47, DEDUCED) -/
structure TRead where
  tag : Nat
  ctx : Nat
  q : Nat
  count : Nat
  len : Nat
  port : Bool
  deriving DecidableEq, Repr

/-- One port's Tongs (08 R263-R266): service slot, grants keyed by slot (value: context), event-slot
holders keyed 0-3 and the loops that use them. -/
structure Tongs where
  slot : Byte := 0
  grants : Tab Nat := []
  evHolder : Tab (Option Nat) := []
  evUse : Tab (Option Nat) := []
  /-- Pending work of each context, oldest first. -/
  work : Tab (List Work) := []
  deriving DecidableEq, Repr

/-- Host interface registers (08 Tables 14-19). -/
structure Hif where
  enable : Bool := false
  ready : Bool := false
  wign : Bool := false
  aqBase : BitVec 52 := 0
  qlog2n : BitVec 5 := 0
  elog2n : BitVec 5 := 0
  port : Bool := false
  vector : BitVec 11 := 0
  aqHeadwb : BitVec 61 := 0
  aevBase : BitVec 52 := 0
  badowner : BitVec 16 := 0
  badtail : BitVec 16 := 0
  badform : BitVec 16 := 0
  deriving DecidableEq, Repr

/-- What the module sends to the outside, in the order sent. (log 7, DESIGN CHOICE) -/
inductive Out where
  /-- A host WRITE of bytes at an address with a PASID through a port (11 Table 11). -/
  | hostWrite (port : Bool) (pasid addr : Nat) (bytes : List Byte)
  /-- A host READ record. -/
  | hostRead (port : Bool) (tag pasid addr len : Nat)
  | irq (port : Bool) (vector : Nat)
  | cfgData (tag : Nat) (value : Word64)
  | objData (tag : Nat) (failed : Bool) (bytes : List Byte)
  | block (port : Nat) (b : Block)
  | control (port : Nat) (units : List LaneUnit) (msgs : List GenHdr)
  | pool (dest : Nat) (p : PoolData)
  | message (dest : Nat) (m : GenMsg)
  | quench (die cmd lane ctx seq : Nat)
  | smbData (status : Byte) (value : Word64)
  | ecallResult (die lane : Nat) (a0 a1 : Word64)
  | regData (value : Word64)
  deriving DecidableEq, Repr

/-! ### Contexts and fences (09) -/

/-- Context states (09 Table 1). -/
inductive CtxState where
  | closed | opened | active | lost
  deriving DecidableEq, Repr

/-- A context: state, CLOSE and revocation, registers (09 Tables 10-12), PASID, accounting. -/
structure Ctx where
  st : CtxState := .closed
  closing : Bool := false
  /-- The queue-0 descriptor position of its CLOSE waits. -/
  revoked : Bool := false
  pasid : BitVec 20 := 0
  evslot : Byte := 0
  lowsig : BitVec 16 := 0
  fUnit : Byte := 0
  fCode : Byte := 0
  fStatus : Byte := 0
  fValid : Bool := false
  fDropped : Bool := false
  fCount : BitVec 16 := 0
  mx : Word64 := 0
  vx : Word64 := 0
  tx : Word64 := 0
  meshb : Word64 := 0
  hbytes : Word64 := 0
  mbytes : Word64 := 0
  hostb : Word64 := 0
  /-- Energy in units of 2^-10 nJ (09 R322). -/
  energy : Nat := 0
  /-- Counts not yet shown: they enter the registers at commit barriers (09 R323). -/
  dMx : Tab Nat := []
  dVx : Nat := 0
  dTx : Nat := 0
  dH : Nat := 0
  dM : Nat := 0
  dHost : Nat := 0
  dFrames : Nat := 0
  meshShown : Nat := 0
  /-- The allocator's revoked flag (07 R259). -/
  allocRevoked : Bool := false
  deriving DecidableEq, Repr

/-- Fence states (09 R312). -/
inductive FState where
  | free | live | poisoned
  deriving DecidableEq, Repr

/-- A fence (09 R312). -/
structure Fence where
  st : FState := .free
  owner : Nat := 0
  share : Bool := false
  attached : List Nat := []
  value : Word64 := 0
  nring : Nat := 0xFFFF
  wb : Word64 := 0
  /-- The owner has closed or detached (09 R320). -/
  ownerGone : Bool := false
  deriving DecidableEq, Repr

/-- A revocation under way (15 R491-R493): agents' ACKs awaited as (die, sequence number). -/
structure Revocation where
  ctx : Nat
  acks : List (Nat × Nat)
  deriving DecidableEq, Repr

/-! ### Model cache and allocator (07) -/

/-- Residency states (07 Table 2). -/
inductive Residency where
  | library | warm | loading | hot
  deriving DecidableEq, Repr

/-- A model of the library (07 R227-R240): manifest and body bytes, residency, slot, maps by physical
die (value: virtual die), copies, tier H regions taken, pin count and use stamp. -/
structure Model where
  digest : Digest
  manifest : List Byte
  body : List Byte
  st : Residency := .library
  slot : Nat := 0
  warmMap : List (Nat × Nat) := []
  loadMap : List (Nat × Nat) := []
  copies : Nat := 0
  pins : Nat := 0
  stamp : Word64 := 0
  /-- Queues whose MODEL_LOAD ends with this load; the first began it (07 R234, R235). -/
  waiters : List Nat := []
  deriving DecidableEq, Repr

/-- An object record of a partition (07 R248): granules, references, release pending, mapped. -/
structure Obj where
  live : Bool := false
  base : Nat := 0
  n : Nat := 0
  refs : Nat := 0
  freed : Bool := false
  maps : Nat := 0
  tier : Nat := 0
  vdie : Nat := 0
  comp : Nat := 0
  deriving DecidableEq, Repr

/-- A partition of an arena (07 R246): first granule, granules, granules in use (rising), objects. -/
structure Part where
  start : Nat := 0
  g : Nat := 0
  usedG : List Nat := []
  /-- Granules of objects released while a loop runs: they return at the next commit barrier (07 R256). -/
  pendG : List Nat := []
  objs : Tab Obj := []
  deriving DecidableEq, Repr

/-- An arena of a composition on a virtual die and tier: its regions in ascending physical order as
(stop key, region) and its partitions keyed by allocator index (2,047 the host). -/
structure Arena where
  regions : List (Nat × Nat) := []
  parts : Tab Part := []
  deriving DecidableEq, Repr

/-- A host operation or program free waiting for the commit barrier (07 R249). -/
inductive PendOp where
  | free (handle : Nat) (q : Option Nat)
  | alloc (q vdie tier size : Nat)
  deriving DecidableEq, Repr

/-! ### Compositions, replay, pool (10, 12) -/

/-- Composition states (10 Table 4). -/
inductive CompState where
  | free | joining | ready | rebind | failed
  deriving DecidableEq, Repr

/-- A token loop's parameters (04 R138, R143; 08 R266, R267, R289). -/
structure Loop where
  tring : Nat
  bound : Nat
  evPort : Bool
  evSlot : Nat
  failover : Option Nat
  produced : Nat
  /-- LOOP_STOP descriptors waiting for the final event: queues. -/
  stoppers : List Nat
  /-- A dropped token event asked for the stop (08 R289). -/
  dropped : Bool
  /-- Table of the lookup drafter, 0 for none (04 R137). -/
  ltab : Nat
  breq : Nat
  /-- `LATHE_LCTL.DSRC` in force (04 R534). -/
  dsrc : Nat
  /-- Draft-phase frames counted at admission, then those of draft sources 0 to 3 (04 R148, 17 R534). -/
  draftAdm : List Nat
  /-- A supply warning let the step in hand run to its event phase, with which the loop ends (14 R460). -/
  warned : Bool := false
  deriving DecidableEq, Repr

/-- A draft record in the lane's draft buffer: its bytes and whether a host DRAFT brought it. -/
structure DraftRec where
  bytes : List Byte
  host : Bool
  deriving DecidableEq, Repr

/-- A composition (10 R327-R351, Tables 15-19). (log 47, DEDUCED) -/
structure Comp where
  st : CompState := .free
  ctx : Nat := 0
  lane : Nat := 0
  nmod : Nat := 0
  vmod : Nat := 0
  balShift : Bool := false
  /-- A rebind's drain has not been released yet (10 R343). -/
  draining : Bool := false
  joinerr : Bool := false
  gen : BitVec 32 := 0
  stales : BitVec 16 := 0
  cid : Word64 := 0
  movef : Nat := 0
  lastm : Nat := 0
  rebinds : BitVec 16 := 0
  capw : Nat := 0
  wait : Nat := 0
  shape : List Byte := []
  img : Image := { digest := 0, variants := [] }
  variant : Nat := 0
  drainf : Nat := 0xFFFF
  fanout : Nat := 2
  /-- Virtual die to physical die; bound clusters (vd, vc, die, cluster, core keys by vk). -/
  diemap : List (Nat × Nat) := []
  clusters : List (Nat × Nat × Nat × Nat × List Nat) := []
  /-- Resources of the old binding still held (core keys; (die, cluster)). -/
  heldCores : List Nat := []
  heldClusters : List (Nat × Nat) := []
  /-- Rebind: 0 none, 1 move image armed, 2 move image active, 3 new image armed; the pending shape and kind, queue. -/
  stage : Nat := 0
  /-- The shape of the new binding during a rebind. -/
  newShape : List Byte := []
  /-- Old shapes whose windows, blocks or link-port slots are held until the drain is released (10 R343). -/
  heldShapes : List (List Byte) := []
  newClusters : List (Nat × Nat × Nat × Nat × List Nat) := []
  kind : Nat := 0
  rebindQ : Option Nat := none
  /-- JOINs received at the root: (VMOD, digest). -/
  joined : List (Nat × Digest) := []
  refusedJoin : Bool := false
  /-- SHIFT: waited frames of each member, newest first, and caps of each member. -/
  waits : Tab (List Nat) := []
  caps : Tab Nat := []
  newCaps : Option (List Nat) := none
  /-- A balance decision is due at the root with the next start barrier's release (10 R351). -/
  balDue : Bool := false
  params : Option (List Byte) := none
  /-- Parameters for the next start phase, and whether their PARAMS record has been appended. -/
  newParams : Option (List Byte × Bool) := none
  /-- The BINDING record of the rebind under way has been appended (12 R417). -/
  bindRec : Bool := false
  drafts : List DraftRec := []
  loop : Option Loop := none
  pend : List PendOp := []
  /-- HOSTOP records of a commit barrier, with their step and position, until its STEP record (12 R417). -/
  heldRecs : List (Nat × Nat × List Byte) := []
  /-- Tokens of the committed history, position by position. -/
  history : List (BitVec 32) := []
  /-- The last token event's records, as written. -/
  lastEvent : List Payload := []
  /-- Entries attached: (SID, member, handle). -/
  attached : List (Word64 × Nat × Nat) := []
  vocab : Nat := 0
  /-- Composition-scope barrier released at the current generation (10 R343). -/
  genBarrier : Bool := false
  holding : Bool := false
  deriving DecidableEq, Repr

/-- A replay record as bytes, with the fields the recorder needs again (12 R414). -/
structure Rec where
  kind : Nat
  seq : Nat
  step : Word64
  bytes : List Byte
  deriving DecidableEq, Repr

/-- A record ring of a composition index (12 R413-R422): unreleased records, oldest first. -/
structure RecRing where
  recs : List Rec := []
  nextSeq : Nat := 0
  lastChain : Digest := 0
  /-- Some record was appended since the ring was emptied. -/
  any : Bool := false
  orphan : Bool := false
  steps : Nat := 0
  /-- Checkpoints due, oldest first: the SEQ each covers and its chain value. -/
  due : List (Nat × Digest) := []
  /-- CID of the composition that the ring records, which an orphaned ring still names (12 Table 3). -/
  cid : Word64 := 0
  wign : Bool := false
  deriving DecidableEq, Repr

/-- Ownership records of a session (10 R353). -/
inductive Own where
  | none
  | own (e : BitVec 32)
  | prep (e : BitVec 32) (src : Nat)
  | given (e : BitVec 32) (dst : Nat)
  | dropped (e : BitVec 32)
  | lost (e : BitVec 32)
  deriving DecidableEq, Repr

/-- A session at a pool member, or a hand-off it takes part in (10 R353, R358). -/
structure Session where
  mgen : BitVec 32 := 0
  own : Own := .none
  bytes : List Byte := []
  attacher : Option Nat := none
  leaseMs : Nat := 0
  /-- Hand-off under way at the offerer: receiver, COMMITs sent, resolving. -/
  target : Option Nat := none
  commits : Nat := 0
  resolving : Bool := false
  /-- Offer being received: the offering device, the offered epoch and length. -/
  offered : Option (Nat × Nat × Nat) := none
  /-- The POOL_MAPs that wait for the session: their queues and the index of the entry. -/
  jobs : List (Nat × Nat) := []
  deriving DecidableEq, Repr

/-- Pool registers (10 Tables 20-22) and what the module knows of pool members. -/
structure Pool where
  handoffs : BitVec 16 := 0
  resolves : BitVec 16 := 0
  losts : BitVec 16 := 0
  lastEntry : Byte := 0
  lastReason : Byte := 0
  lastMember : BitVec 18 := 0
  lastValid : Bool := false
  sessions : Tab Session := []
  /-- SIDs discarded by a tenant switch: answered with GONE (17 R536). -/
  discarded : List Nat := []
  /-- The sessions were lost with tier M: an unknown SID is answered with GONE (15 R506). -/
  amnesia : Bool := false
  deriving DecidableEq, Repr

/-! ### Security, power, reset, sideband, configuration (13-18) -/

/-- The key store copy in force and volatile keys (13 R431, R432): held items. Key values other than
FS come from the random source: opaque functions of the generation counter. -/
structure KeyStore where
  version : Word64 := 0
  valid : Bool := false
  root : Digest := 0
  idkey : Bool := false
  fs : Option Digest := none
  tierF : Option Nat := none
  deriving DecidableEq, Repr

/-- Security block and OTP (13 Tables 1, 9-13). (log 6, DESIGN CHOICE) -/
structure Sec where
  op : BitVec 4 := 0
  target : BitVec 3 := 0
  busy : Bool := false
  wign : Bool := false
  done : Bool := false
  status : Byte := 0
  fails : Byte := 0
  sel : Bool := false
  arg0 : Word64 := 0
  arg1 : Word64 := 0
  arg2 : Word64 := 0
  arg3 : Word64 := 0
  /-- OTP: lifecycle copies, vendor key digests (`none` blank), revoke fuses, SVN floor, token
  digests, KEK fuses blank/programmed/erased (0, 1, 2) and the KEK's generation. -/
  copy0 : Byte := 0
  copy1 : Byte := 0
  copy2 : Byte := 0
  vk0 : Option Digest := none
  vk1 : Option Digest := none
  vk2 : Option Digest := none
  revoked : BitVec 3 := 0
  floor : Nat := 0
  tProv : Option Digest := none
  tReturn : Option Digest := none
  tDeploy : Option Digest := none
  tTerm : Option Digest := none
  kek : Nat := 0
  /-- Lifecycle vote in force since the last reset (13 R442) and debug latch. -/
  lcForce : Nat := 0
  defer : Bool := false
  store : KeyStore := {}
  /-- The second copy of the key store (13 R431). -/
  store1 : KeyStore := {}
  volFs : Option Digest := none
  volTierF : Option Nat := none
  volRoot : Digest := 0
  /-- Generation numbers of the tier H, tier M and identity keys (13 R430). -/
  genH : Nat := 0
  genM : Nat := 0
  genId : Nat := 0
  fwRunning : Bool := false
  fwver : BitVec 32 := 0
  fwSvn : BitVec 7 := 0
  fwSlot : BitVec 2 := 0
  fwSource : Bool := false
  fwDigest : Digest := 0
  /-- The firmware copy in tier M, if one is held (13 R433, R437). -/
  fwCopy : Option (List Byte) := none
  bootFailed : Bool := false
  /-- Tenancy (13 Table 6): 0 NONE, 1 STARTED, 2 HELD. -/
  tenancy : Nat := 0
  clean : Bool := false
  switches : BitVec 16 := 0
  deriving DecidableEq, Repr

/-- Power block (14 Tables 8-13). -/
structure Pwr where
  warn : Bool := false
  cause : BitVec 3 := 0
  warned : Bool := false
  /-- Causes that still hold a supply warning (14 R462, R478). -/
  causes : List Nat := []
  banklow : Bool := false
  nodump : Bool := false
  sat : Bool := false
  droop : Bool := false
  wign : Bool := false
  warns : BitVec 16 := 0
  cap : BitVec 12 := 0xE10
  inforce : BitVec 12 := 0xE10
  theta : BitVec 6 := 8
  shift : Bool := false
  pinned : Bool := false
  vector : BitVec 11 := 0
  irqEnable : Bool := false
  vin : BitVec 16 := 0
  vbank : BitVec 16 := 0
  iin : BitVec 16 := 0
  pin : BitVec 16 := 0
  cmeas : BitVec 16 := 0
  /-- The measured capacitance, which holds whatever the register shows (14 R465, R467). -/
  bank : Nat := 0
  tavail : BitVec 16 := 0
  defer : BitVec 16 := 0
  tin : Byte := 0
  tout : Byte := 0
  tmax : Byte := 0
  flowlow : Bool := false
  /-- STAMP of the warning in force (15 R501). -/
  warnStamp : Nat := 0
  deriving DecidableEq, Repr

/-- A dump in a slot (15 R497, R498). -/
structure Dump where
  cause : Nat := 0
  kind : Nat := 0
  resets : Nat := 0
  absent : Nat := 0
  stamp : Nat := 0
  /-- Sections: (kind, die, bytes). -/
  sections : List (Nat × Nat × List Byte) := []
  deriving DecidableEq, Repr

/-- Where the module stands between power-on and READY, and in reset entry (14 R464, 15 R496, R504).
(log 3, DESIGN CHOICE) -/
inductive Phase where
  /-- No rail is on: power-on reset (14 R463). -/
  | off
  /-- Power-up after the power-on condition, straps latched or not. -/
  | powerUp (latched : Bool)
  /-- RUN: from reset release on. -/
  | run
  /-- Reset entry: HALT until release. -/
  | entry
  deriving DecidableEq, Repr

/-- The link save of P1 (15 Table 7): routing tables, device ID, and per port MGMTIN and the TX and RX
entries of owners 0xC and 0xE. -/
structure LinkSave where
  group : Tab (BitVec 16)
  member : Tab (BitVec 16)
  devid : BitVec 18
  ports : List (Bool × Tab (BitVec 16) × Tab (BitVec 16))
  deriving DecidableEq, Repr

/-- Reset block (15 Tables 11-15), the dump store and the recovery's progress. (log 47, DEDUCED) -/
structure Rst where
  phase : Phase := .off
  pset : Bool := false
  cause : BitVec 4 := 0
  psetUsed : Bool := false
  restored : Bool := false
  wign : Bool := false
  resets : BitVec 16 := 0
  absent : BitVec 16 := 0
  /-- STAMP at the cause of the reset under way (15 R498). -/
  stamp : Nat := 0
  stewfail : BitVec 40 := 0
  stuck : BitVec 16 := 0
  selSlot : Bool := false
  selDie : BitVec 3 := 0
  selPage : BitVec 15 := 0
  /-- The valid dump of each slot, and the slot of the newest (15 R497). -/
  dump0 : Option Dump := none
  dump1 : Option Dump := none
  newest : Bool := false
  /-- The slots as they stood at the last READY, as changed since by CLEAR or a tenant switch (15 R510). -/
  shown0 : Option Dump := none
  shown1 : Option Dump := none
  shownNewest : Bool := false
  /-- Power-loss dump in tier F, release mark after it, blocks erased since. -/
  flossDump : Option Dump := none
  marked : Bool := false
  /-- Units awaited at collection: (die, unit). -/
  collecting : List (Nat × Nat) := []
  sections : List (Nat × Nat × List Byte) := []
  /-- Link save of P1: routing tables, device ID, MGMTIN of the ports, 0xC/0xE entries. -/
  save : Option LinkSave := none
  selfTested : Bool := false
  deriving DecidableEq, Repr

/-- Sideband block (16 Tables 9-11), SMBus target and the reset pin. -/
structure Sb where
  slot : BitVec 4 := 0
  ghint : BitVec 4 := 0
  role : Bool := false
  pset : Bool := false
  bad : Bool := false
  unstable : Bool := false
  raw : BitVec 12 := 0
  hcode : Byte := 0
  step : BitVec 4 := 0
  pecerr : BitVec 16 := 0
  refused : BitVec 16 := 0
  abandoned : BitVec 16 := 0
  /-- Answer of CFG_DATA: status of the last access and value read. -/
  ansStatus : Byte := 0
  ansValue : Word64 := 0
  pstb : Bool := false
  deriving DecidableEq, Repr

/-- Configuration block (18 Tables 5-7). -/
structure Cfg where
  unmapped : BitVec 32 := 0
  dmask : Byte := 0xFF
  same : Bool := true
  nsel : BitVec 16 := 0
  deriving DecidableEq, Repr

/-- Routing block (11 R398, Tables 20 and 21). -/
structure Route where
  group : Tab (BitVec 16) := []
  member : Tab (BitVec 16) := []
  devid : BitVec 18 := 0
  wign : Bool := false
  fwd : BitVec 32 := 0
  drop : BitVec 16 := 0
  noroute : BitVec 16 := 0
  deriving DecidableEq, Repr

/-- The state of the module. (log 1, 4, 47, DEDUCED) -/
structure State where
  /-- Commands waiting, first in, first out. -/
  pending : List Instr := []
  /-- STAMP: MGMT cycles since reset, and the latest EPOCH_MARK value (08 Table 9). -/
  stamp : BitVec 48 := 0
  mark : Word64 := 0
  cores : Tab Core := []
  dies : Tab Die := []
  ports : Tab Port := []
  tierH : Memory := []
  tierM : Memory := []
  /-- Tier F bytes keyed `4096 * FSA + byte`. -/
  tierF : Memory := []
  /-- Sealed mode: write generation of each 32-byte unit of tier H and tier M, keyed by unit:
  `2^32 * key generation + epoch`. -/
  sealH : Tab Nat := []
  sealM : Tab Nat := []
  hif : Hif := {}
  queues : Tab Queue := []
  rings : Tab EvRing := []
  tongs0 : Tongs := {}
  tongs8 : Tongs := {}
  reads : List TRead := []
  nextTag : Nat := 0
  /-- Descriptors accepted so far, over all queues (order of acceptance). -/
  nextAcc : Nat := 0
  ctxs : Tab Ctx := []
  fences : Tab Fence := []
  faultQ : List FaultMsg := []
  faultLog : List FaultMsg := []
  revs : List Revocation := []
  nextSeq : Nat := 0
  models : List Model := []
  /-- The count of commit barriers (07 R238). -/
  commits : Word64 := 0
  /-- Arenas keyed `32 * comp + 2 * vdie + tier`. -/
  arenas : Tab Arena := []
  comps : Tab Comp := []
  /-- JOINs received for a CID no composition has yet: (CID, VMOD, digest) (10 R345). -/
  joins : List (Word64 × Nat × Digest) := []
  recs : Tab RecRing := []
  recIndex : Byte := 0
  recPage : BitVec 14 := 0
  pool : Pool := {}
  route : Route := {}
  sec : Sec := {}
  pwr : Pwr := {}
  rst : Rst := {}
  sb : Sb := {}
  cfg : Cfg := {}
  /-- OTP repair map: core keys, (die, cluster) and dies marked failed (01 R17). -/
  repairCores : List Nat := []
  repairClusters : List (Nat × Nat) := []
  repairDies : List Nat := []
  /-- Repair log in tier F (06 R224): spare lanes and soft row repairs of a stop, keyed
  `32 * die + 8 * class + index`. -/
  repairLog : Tab (Nat × Nat) := []
  /-- Hard row repairs in the fuses of a stop's stack or package, by the same key (06 Table 10). -/
  hardRows : Tab Nat := []
  /-- Capability table as built at READY (08 R291): (key, value) of the fixed keys. -/
  caps : List (Word64 × Word64) := []
  /-- Counter of free values (the model's own). -/
  free : Nat := 0
  /-- Everything the module has sent to the outside (the model's own log). -/
  out : List Out := []
  deriving DecidableEq, Repr

/-- The module right after power-on reset release has been prepared for: every field at the reset
value its table gives, every other one at the value the assumption log names. Rails are off; the
power-on sequence is commanded (14 R464). (log 3, 6, DESIGN CHOICE) -/
def State.reset : State := {}

end Sys2Proof.Machine
end

