-- ==== Sys2Proof/Machine/Arith.lean ====
section
/-! DEFINITION. Number formats, exact rounding, binary32 operations and the exact accumulator
(02 R41-R72). Values are exact: a sign, a natural number and a power of two. -/

namespace Sys2Proof.Machine

/-- What an element encodes: NaN, an infinity, or `(-1)^neg * n * 2^e` (02 R42, "Terms"). -/
inductive Val where
  | nan
  | inf (neg : Bool)
  | fin (neg : Bool) (n : Nat) (e : Int)
  deriving DecidableEq, Repr

/-- Which encodings of a floating-point format are special (02 Table 2). -/
inductive Special where
  | none | nanOnly | ieee
  deriving DecidableEq, Repr

/-- Exponent bits, mantissa bits, bias and special encodings of a floating-point format (02 Table 2). -/
structure FFmt where
  eb : Nat
  m : Nat
  bias : Nat
  sp : Special
  deriving DecidableEq, Repr

/-- The floating-point layout of a format code (02 Tables 1 and 2). -/
def ffmt : Nat → Option FFmt
  | 0x2 => some ⟨2, 1, 1, .none⟩
  | 0x3 => some ⟨3, 2, 3, .none⟩
  | 0x4 => some ⟨2, 3, 1, .none⟩
  | 0x5 => some ⟨4, 3, 7, .nanOnly⟩
  | 0x6 => some ⟨5, 2, 15, .ieee⟩
  | 0x8 => some ⟨8, 7, 127, .ieee⟩
  | 0x9 => some ⟨5, 10, 15, .ieee⟩
  | 0xA => some ⟨8, 23, 127, .ieee⟩
  | _ => Option.none

/-- binary32. -/
def f32 : FFmt := ⟨8, 23, 127, .ieee⟩

/-- Element bits of a format code (02 Table 1). -/
def fmtBits : Nat → Nat
  | 0x0 => 4 | 0x1 => 8 | 0x2 => 4 | 0x3 => 6 | 0x4 => 6 | 0x5 => 8 | 0x6 => 8 | 0x7 => 8
  | 0x8 => 16 | 0x9 => 16 | 0xA => 32 | 0xB => 256 | _ => 0

/-- Formats with a block scale (02 Table 1). -/
def isMx (f : Nat) : Bool := decide (2 ≤ f) && decide (f ≤ 7)

/-- Format codes 0xC-0xF are not supported (02 R41). -/
def badFmt (f : Nat) : Bool := decide (12 ≤ f)

/-- The exact value of a floating-point encoding (02 R42). -/
def FFmt.val (p : FFmt) (c : Nat) : Val :=
  let neg := c.testBit (p.eb + p.m)
  let ex := c / 2 ^ p.m % 2 ^ p.eb
  let mn := c % 2 ^ p.m
  if p.sp = .ieee ∧ ex = 2 ^ p.eb - 1 then (if mn = 0 then .inf neg else .nan)
  else if p.sp = .nanOnly ∧ ex = 2 ^ p.eb - 1 ∧ mn = 2 ^ p.m - 1 then .nan
  else if ex = 0 then .fin neg mn (1 - (p.bias : Int) - p.m)
  else .fin neg (2 ^ p.m + mn) ((ex : Int) - p.bias - p.m)

/-- A two's-complement integer of `w` bits as a value of unit `2^e` (02 R43). -/
def intVal (w c : Nat) (e : Int) : Val :=
  if c.testBit (w - 1) then .fin true (2 ^ w - c) e else .fin false c e

/-- Add a scale exponent to a value. -/
def Val.scale : Val → Int → Val
  | .fin s n e, x => .fin s n (e + x)
  | v, _ => v

/-- The value of an element of a format under a block scale byte (02 R42, R43, R46, R47). -/
def elemVal (f scale c : Nat) : Val :=
  let v : Val := match f with
    | 0x0 => intVal 4 c 0
    | 0x1 => intVal 8 c 0
    | 0x7 => intVal 8 c (-6)
    | _ => match ffmt f with
      | some p => p.val c
      | Option.none => .nan
  if isMx f then (if scale = 0xFF then .nan else v.scale ((scale : Int) - 127)) else v

/-! ### Rounding to nearest, ties to even -/

/-- The integer nearest to `a / b`, ties to even. -/
def rneDiv (a b : Nat) : Nat :=
  let q := a / b
  let r := a % b
  if 2 * r < b then q else if b < 2 * r then q + 1 else q + q % 2

/-- `floor (log2 (n / d))` for positive `n` and `d`. -/
def floorLog2 (n d : Nat) : Int :=
  let k : Int := (n.log2 : Int) - d.log2
  if 0 ≤ k then (if n < d * 2 ^ k.toNat then k - 1 else k)
  else (if n * 2 ^ (-k).toNat < d then k - 1 else k)

/-- The encoding, without sign, of the value of the format nearest to `n / d * 2^e`, without an upper
limit on the exponent field: subnormals are kept and a carry enters the exponent (02 R44). -/
def FFmt.code (p : FFmt) (n d : Nat) (e : Int) : Nat :=
  if n = 0 then 0
  else
    let u0 : Int := 1 - (p.bias : Int) - p.m
    let u := max (floorLog2 n d + e - p.m) u0
    let sh := e - u
    let q := if 0 ≤ sh then rneDiv (n * 2 ^ sh.toNat) d else rneDiv n (d * 2 ^ (-sh).toNat)
    (u - u0).toNat * 2 ^ p.m + q

/-- The encoding of `+inf` in an IEEE format. -/
def FFmt.infCode (p : FFmt) : Nat := (2 ^ p.eb - 1) * 2 ^ p.m

/-- The canonical NaN (02 R45). -/
def FFmt.nanCode (p : FFmt) : Nat := p.infCode + 2 ^ (p.m - 1)

/-- The sign bit's weight. -/
def FFmt.signBit (p : FFmt) : Nat := 2 ^ (p.eb + p.m)

/-- Put a sign on an encoding. -/
def FFmt.sign (p : FFmt) (neg : Bool) (c : Nat) : Nat := if neg then p.signBit + c else c

/-- `(-1)^neg * n / d * 2^e` rounded once to an IEEE format, overflow to infinity (02 R61). -/
def FFmt.round (p : FFmt) (neg : Bool) (n d : Nat) (e : Int) : Nat :=
  p.sign neg (min (p.code n d e) p.infCode)

/-- The largest finite encoding (02 Table 2). -/
def FFmt.maxCode (p : FFmt) : Nat :=
  match p.sp with
  | .none => 2 ^ (p.eb + p.m) - 1
  | .nanOnly => 2 ^ (p.eb + p.m) - 2
  | .ieee => p.infCode - 1

/-- The same, saturating at the largest finite value (02 R72 item 4). -/
def FFmt.roundSat (p : FFmt) (neg : Bool) (n d : Nat) (e : Int) : Nat :=
  p.sign neg (min (p.code n d e) p.maxCode)

/-- An exact value in an IEEE format: NaN canonical, one rounding. (log 13, DEDUCED) -/
def FFmt.ofVal (p : FFmt) : Val → Nat
  | .nan => p.nanCode
  | .inf s => p.sign s p.infCode
  | .fin s n e => p.round s n 1 e

/-! ### binary32 operations (02 R64-R66) -/

/-- The exact sum of two finite values as an integer of a common unit: the integer and the unit. -/
def sumInt (s1 : Bool) (n1 : Nat) (e1 : Int) (s2 : Bool) (n2 : Nat) (e2 : Int) : Int × Int :=
  let e := min e1 e2
  let a : Int := n1 * 2 ^ (e1 - e).toNat
  let b : Int := n2 * 2 ^ (e2 - e).toNat
  ((if s1 then -a else a) + (if s2 then -b else b), e)

/-- The exact sum of two values; an exact zero sum is `+0` unless both terms are negative zeros
(IEEE 754 roundTiesToEven, 02 R64). -/
def Val.add : Val → Val → Val
  | .nan, _ => .nan
  | _, .nan => .nan
  | .inf a, .inf b => if a = b then .inf a else .nan
  | .inf a, _ => .inf a
  | _, .inf b => .inf b
  | .fin s1 n1 e1, .fin s2 n2 e2 =>
    let (v, e) := sumInt s1 n1 e1 s2 n2 e2
    if v = 0 then .fin (s1 && s2 && n1 == 0 && n2 == 0) 0 0
    else .fin (decide (v < 0)) v.natAbs e

/-- Negation. -/
def Val.neg : Val → Val
  | .nan => .nan
  | .inf s => .inf (!s)
  | .fin s n e => .fin (!s) n e

/-- The exact product. -/
def Val.mul : Val → Val → Val
  | .nan, _ => .nan
  | _, .nan => .nan
  | .inf a, .inf b => .inf (a != b)
  | .inf a, .fin s n _ => if n = 0 then .nan else .inf (a != s)
  | .fin s n _, .inf b => if n = 0 then .nan else .inf (s != b)
  | .fin s1 n1 e1, .fin s2 n2 e2 => .fin (s1 != s2) (n1 * n2) (e1 + e2)

/-- The value of a binary32 encoding. -/
def v32 (c : Nat) : Val := f32.val c

/-- Round a value to binary32 (`rne32`). -/
def r32 (v : Val) : Nat := f32.ofVal v

/-- binary32 addition. -/
def fadd (a b : Nat) : Nat := r32 ((v32 a).add (v32 b))
/-- binary32 subtraction. -/
def fsub (a b : Nat) : Nat := r32 ((v32 a).add (v32 b).neg)
/-- binary32 multiplication. -/
def fmul (a b : Nat) : Nat := r32 ((v32 a).mul (v32 b))
/-- binary32 fused multiply-add: one rounding. -/
def ffma (a b c : Nat) : Nat := r32 (((v32 a).mul (v32 b)).add (v32 c))

/-- binary32 division. -/
def fdiv (a b : Nat) : Nat :=
  match v32 a, v32 b with
  | .nan, _ => f32.nanCode
  | _, .nan => f32.nanCode
  | .inf _, .inf _ => f32.nanCode
  | .inf s, .fin t _ _ => f32.sign (s != t) f32.infCode
  | .fin s _ _, .inf t => f32.sign (s != t) 0
  | .fin s n e, .fin t d f =>
    if d = 0 then (if n = 0 then f32.nanCode else f32.sign (s != t) f32.infCode)
    else f32.round (s != t) n d (e - f)

/-- Integer square root, bit by bit from bit `k - 1` down: the greatest `r + x` with
`(r + x)^2 <= n`. -/
def isqrtFrom (n : Nat) : Nat → Nat → Nat
  | 0, r => r
  | k + 1, r =>
    let r' := r + 2 ^ k
    isqrtFrom n k (if r' * r' ≤ n then r' else r)

/-- `floor (sqrt n)`. -/
def isqrt (n : Nat) : Nat := isqrtFrom n (n.log2 / 2 + 1) 0

/-- Round `sqrt (n / d)` (scaled by `2^(e/2)`, `e` even) to binary32: `floor` with 80 extra bits and a
sticky bit. -/
def roundSqrt (n d : Nat) (e : Int) : Nat :=
  let k := 2 * (80 + d.log2)
  let x := n * 2 ^ k / d
  let s := isqrt x
  let sticky := if s * s * d = n * 2 ^ k then 0 else 1
  f32.round false (2 * s + sticky) 1 (e / 2 - (k / 2 : Nat) - 1)

/-- binary32 square root. -/
def fsqrt (a : Nat) : Nat :=
  match v32 a with
  | .nan => f32.nanCode
  | .inf s => if s then f32.nanCode else f32.infCode
  | .fin s n e =>
    if n = 0 then a
    else if s then f32.nanCode
    else if e % 2 = 0 then roundSqrt n 1 e else roundSqrt (2 * n) 1 (e - 1)

/-- A total order of binary32 encodings that are not NaN: `-0` below `+0` (02 R66). -/
def f32Key (c : Nat) : Int := if c < 2 ^ 31 then c else (2 ^ 31 : Int) - 1 - c

/-- NaN test. -/
def isNan32 (c : Nat) : Bool := v32 c == .nan

/-- binary32 minimum: NaN if either is NaN (02 R66). -/
def fmin (a b : Nat) : Nat :=
  if isNan32 a || isNan32 b then f32.nanCode else if f32Key b < f32Key a then b else a

/-- binary32 maximum. -/
def fmax (a b : Nat) : Nat :=
  if isNan32 a || isNan32 b then f32.nanCode else if f32Key a < f32Key b then b else a

/-! ### Functions, correctly rounded (02 R67) -/

/-- Fraction bits of the fixed-point evaluations. No binary32 argument of these functions has a result
within `2^-200` (relative) of a midpoint that is not one exactly, so rounding a value of this precision
is the correct rounding (DEDUCED). -/
def fpBits : Nat := 320

/-- One in fixed point. -/
def fpOne : Nat := 2 ^ fpBits

/-- `sum of t^k * x / (2k+1)` with the terms' signs alternating or not: `n` terms, `t` and `x` fixed
point; used for atanh and atan. (log 12, DEDUCED) -/
def oddSeries (alt : Bool) (t : Nat) : Nat → Nat → Nat → Int
  | 0, _, _ => 0
  | n + 1, k, x =>
    let v : Int := x / (2 * k + 1)
    (if alt && k % 2 == 1 then -v else v) + oddSeries alt t n (k + 1) (x * t / fpOne)

/-- `ln 2 = 2 atanh (1/3)`. -/
def fpLn2 : Int := 2 * oddSeries false (fpOne / 9) 110 0 (fpOne / 3)

/-- `pi` by Machin's formula. -/
def fpPi : Int :=
  16 * oddSeries true (fpOne / 25) 80 0 (fpOne / 5) -
    4 * oddSeries true (fpOne / 57121) 30 0 (fpOne / 239)

/-- `2 / sqrt pi`. -/
def fpErfC : Nat := isqrt (4 * 2 ^ (3 * fpBits) / fpPi.toNat)

/-- A dyadic number `(-1)^s n 2^e` in fixed point, rounded down. -/
def toFp (s : Bool) (n : Nat) (e : Int) : Int :=
  let k := e + fpBits
  let m : Int := if 0 ≤ k then n * 2 ^ k.toNat else n
  let v : Int := if s then -m else m
  if 0 ≤ k then v else v / 2 ^ (-k).toNat

/-- The exponential series: `n` more terms, the `k`-th being `t`. (log 12, DEDUCED) -/
def expSeries (r : Nat) : Nat → Nat → Nat → Nat
  | 0, _, _ => 0
  | n + 1, k, t => t + expSeries r n (k + 1) (t * r / fpOne / (k + 1))

/-- `exp x` for `x` in fixed point: a fixed-point mantissa in `[1, 2)` and a power of two. -/
def fpExp (x : Int) : Nat × Int :=
  let k := x / fpLn2
  (expSeries (x - k * fpLn2).toNat 90 0 fpOne, k)

/-- exp (02 Table 9). (log 12, DEDUCED) -/
def fexp (a : Nat) : Nat :=
  match v32 a with
  | .nan => f32.nanCode
  | .inf s => if s then 0 else f32.infCode
  | .fin s n e =>
    if n = 0 then f32.round false 1 1 0
    else
      let x := toFp s n e
      if x ≥ 100 * (fpOne : Int) then f32.infCode
      else if x ≤ -120 * (fpOne : Int) then 0
      else
        let (m, k) := fpExp x
        f32.round false m 1 (k - fpBits)

/-- log (02 Table 9). (log 12, DEDUCED) -/
def flog (a : Nat) : Nat :=
  match v32 a with
  | .nan => f32.nanCode
  | .inf s => if s then f32.nanCode else f32.infCode
  | .fin s n e =>
    if n = 0 then f32.sign true f32.infCode
    else if s then f32.nanCode
    else
      let l := n.log2
      let z := (n - 2 ^ l) * fpOne / (n + 2 ^ l)
      let v := 2 * oddSeries false (z * z / fpOne) 110 0 z + (e + l) * fpLn2
      if n = 2 ^ l ∧ e + l = 0 then 0
      else f32.round (decide (v < 0)) v.natAbs 1 (-(fpBits : Int))

/-- rsqrt (02 Table 9). (log 12, DEDUCED) -/
def frsqrt (a : Nat) : Nat :=
  match v32 a with
  | .nan => f32.nanCode
  | .inf s => if s then f32.nanCode else 0
  | .fin s n e =>
    if n = 0 then f32.sign s f32.infCode
    else if s then f32.nanCode
    else if e % 2 = 0 then roundSqrt 1 n (-e) else roundSqrt 1 (2 * n) (1 - e)

/-- reciprocal (02 Table 9). -/
def frecip (a : Nat) : Nat :=
  match v32 a with
  | .nan => f32.nanCode
  | .inf s => f32.sign s 0
  | .fin s n e =>
    if n = 0 then f32.sign s f32.infCode else f32.round s 1 n (-e)

/-- tanh (02 Table 9): below `2^-60` the nearest binary32 value is the input itself, from 32 on it
is 1. (log 12, DEDUCED) -/
def ftanh (a : Nat) : Nat :=
  match v32 a with
  | .nan => f32.nanCode
  | .inf s => f32.round s 1 1 0
  | .fin s n e =>
    let x := toFp false n e
    if n = 0 ∨ x < 2 ^ (fpBits - 60) then a
    else if x ≥ 32 * (fpOne : Int) then f32.round s 1 1 0
    else
      let (m, k) := fpExp (-2 * x)
      let t := m / 2 ^ (-k).toNat
      f32.round s (fpOne - t) (fpOne + t) 0

/-- The alternating series of `erf x / x` without its constant: the `k`-th term is `t / (2k+1)`. (log 12, DEDUCED) -/
def erfSeries (x2 : Nat) : Nat → Nat → Nat → Int
  | 0, _, _ => 0
  | n + 1, k, t =>
    let v : Int := t / (2 * k + 1)
    (if k % 2 = 1 then -v else v) + erfSeries x2 n (k + 1) (t * x2 / fpOne / (k + 1))

/-- erf (02 Table 9): from 4 on the nearest binary32 value is 1. (log 12, DEDUCED) -/
def ferf (a : Nat) : Nat :=
  match v32 a with
  | .nan => f32.nanCode
  | .inf s => f32.round s 1 1 0
  | .fin s n e =>
    let x := toFp false n e
    if n = 0 then a
    else if x ≥ 4 * (fpOne : Int) then f32.round s 1 1 0
    else
      let x2 := x.toNat * x.toNat / fpOne
      let v := (erfSeries x2 200 0 fpOne).toNat * fpErfC * n
      f32.round s v 1 (e - 2 * fpBits)

/-! ### The exact accumulator (02 R54-R62) -/

/-- A term: a flag, or the signed rounded integer. -/
inductive Term where
  | nan | inf (neg : Bool) | ovr | q (v : Int)
  deriving DecidableEq, Repr

/-- The term of two elements at a window LSB (02 R54-R56). -/
def makeTerm (a b : Val) (alsb : Int) : Term :=
  match a.mul b with
  | .nan => .nan
  | .inf s => .inf s
  | .fin s m e =>
    let sh := e - alsb
    if m = 0 then .q 0
    else if 191 ≤ sh then .ovr
    else
      let q := if 0 ≤ sh then m * 2 ^ sh.toNat else rneDiv m (2 ^ (-sh).toNat)
      if 2 ^ 191 ≤ q then .ovr else .q (if s then -q else q)

/-- Add a term to an accumulator (02 R55-R57). -/
def Acc.addTerm (c : Acc) : Term → Acc
  | .nan => { c with nan := true }
  | .inf s => if s then { c with ninf := true } else { c with pinf := true }
  | .ovr => { c with ovr := true }
  | .q v => { c with a := c.a + BitVec.ofInt 208 v }

/-- The ALSB as an integer. -/
def Acc.lsb (c : Acc) : Int := c.alsb.toInt

/-- The product of two elements added to an accumulator. -/
def Acc.mac (c : Acc) (p : Val × Val) : Acc := c.addTerm (makeTerm p.1 p.2 c.lsb)

/-- One dot product: pairs of elements added in any order (02 R57). -/
def Acc.dot (c : Acc) (l : List (Val × Val)) : Acc := l.foldl Acc.mac c

/-- Combination of two accumulators of one ALSB (02 R60). -/
def Acc.combine (c d : Acc) : Acc :=
  { c with a := c.a + d.a, nan := c.nan || d.nan, pinf := c.pinf || d.pinf,
           ninf := c.ninf || d.ninf, ovr := c.ovr || d.ovr }

/-- Exact value of an accumulator whose unit is `2^lsb` divided by a positive integer, rounded to an
IEEE format by 02 Table 7 (R61, R71); every zero produced is +0 (R45). (log 13, DEDUCED) -/
def Acc.roundDivAt (c : Acc) (p : FFmt) (lsb : Int) (n : Nat) : Nat :=
  if c.nan || (c.pinf && c.ninf) then p.nanCode
  else if c.pinf then p.infCode
  else if c.ninf then p.sign true p.infCode
  else if c.ovr then p.nanCode
  else
    let v := c.a.toInt
    if v = 0 then 0
    else
      let r := p.round (decide (v < 0)) v.natAbs n lsb
      if r = p.signBit then 0 else r

/-- The same at the accumulator's own ALSB. -/
def Acc.roundDiv (c : Acc) (p : FFmt) (n : Nat) : Nat := c.roundDivAt p c.lsb n

/-- Rounding an accumulator (02 Table 7). (log 13, DEDUCED) -/
def Acc.round (c : Acc) (p : FFmt) : Nat := c.roundDiv p 1

/-- FLAGS of an ACC record (02 Table 6). -/
def Acc.flags (c : Acc) : Nat := b2n c.nan + 2 * b2n c.pinf + 4 * b2n c.ninf + 8 * b2n c.ovr

/-- The 32 bytes of an ACC record (02 Table 6). -/
def Acc.record (c : Acc) : List Byte :=
  leBytes 26 c.a.toNat ++ [BitVec.ofNat 8 c.flags] ++
    leBytes 2 (BitVec.ofInt 16 c.lsb).toNat ++ [0, 0, 0]

/-- The ALSB of an ACC record as the 16-bit value it holds. -/
def recAlsb (r : List Byte) : Int := (BitVec.ofNat 16 (field r 27 2)).toInt

/-- The ALSB of a record is in its range (02 R60). -/
def recOk (r : List Byte) : Bool := decide (-512 ≤ recAlsb r) && decide (recAlsb r ≤ 511)

/-- An accumulator read from an ACC record (02 Table 6; reserved bits are not looked at). -/
def accOfRecord (r : List Byte) : Acc :=
  let f := field r 26 1
  { a := BitVec.ofNat 208 (field r 0 26), nan := bit f 0, pinf := bit f 1, ninf := bit f 2,
    ovr := bit f 3, alsb := BitVec.ofInt 10 (recAlsb r) }

/-- The exact sum of products of values at an ALSB (02 R68); the accumulator's ALSB field is not
used. -/
def exactDot (alsb : Int) (l : List (Val × Val)) : Acc :=
  l.foldl (fun c p => c.addTerm (makeTerm p.1 p.2 alsb)) {}

/-- The exact sum of values at an ALSB (02 R68). -/
def exactSum (alsb : Int) (l : List Val) : Acc :=
  exactDot alsb (l.map fun v => (v, .fin false 1 0))

/-! ### Composites (02 R69-R71) -/

/-- Softmax of a row `x` with the mask `k` (`true`: excluded) and constant `c` (02 R69). -/
def softmax (c : Nat) (k : List Bool) (x : List Nat) : List Nat :=
  let z := (x.zip k).map fun (v, b) => (fmul v c, b)
  let live := z.filter (fun p => !p.2)
  if live.isEmpty then x.map fun _ => 0
  else if live.any (fun p => isNan32 p.1) then x.map fun _ => f32.nanCode
  else
    let m := live.foldl (fun a p => fmax a p.1) (f32.sign true f32.infCode)
    let e := z.map fun (v, b) => (fexp (fsub v m), b)
    let s := (exactSum (-149) ((e.filter (fun p => !p.2)).map fun p => v32 p.1)).roundDivAt f32 (-149) 1
    let r := frecip s
    e.map fun (v, b) => if b then 0 else fmul v r

/-- Squares of values. -/
def squares (l : List Nat) : List (Val × Val) := l.map fun v => (v32 v, v32 v)

/-- RMS normalisation (02 R70). -/
def rmsNorm (alsb : Int) (eps : Nat) (g x : List Nat) : List Nat :=
  let ms := (exactDot alsb (squares x)).roundDivAt f32 alsb x.length
  let r := frsqrt (fadd ms eps)
  (x.zip g).map fun (v, gi) => fmul (fmul v r) gi

/-- Layer normalisation (02 R70). -/
def layerNorm (alsb : Int) (eps : Nat) (g b x : List Nat) : List Nat :=
  let mu := (exactSum alsb (x.map v32)).roundDivAt f32 alsb x.length
  let d := x.map fun v => fsub v mu
  let w := (exactDot alsb (squares d)).roundDivAt f32 alsb x.length
  let r := frsqrt (fadd w eps)
  (d.zip (g.zip b)).map fun (v, gi, bi) => fadd (fmul (fmul v r) gi) bi

/-! ### Quantising to MX formats (02 R72) -/

/-- emax of an element format (02 Table 10). -/
def mxEmax : Nat → Int
  | 0x2 => 2 | 0x3 => 4 | 0x4 => 2 | 0x5 => 8 | 0x6 => 15 | _ => 0

/-- Magnitude encoding of a binary32 value. -/
def mag32 (c : Nat) : Nat := c % 2 ^ 31

/-- One element of a block: `v * 2^-X` rounded to the format (02 R72 items 4 and 5). -/
def quantElem (f : Nat) (x : Int) (c : Nat) : Nat :=
  match v32 c with
  | .fin s n e =>
    match ffmt f with
    | some p => p.roundSat s n 1 (e - x)
    | none =>
      let sh := e - x + 6
      let q := if 0 ≤ sh then n * 2 ^ sh.toNat else rneDiv n (2 ^ (-sh).toNat)
      let q := min q 127
      if s && q != 0 then 256 - q else q
  | _ => 0

/-- Quantise 32 binary32 values: the scale byte and the 32 elements (02 R72). -/
def quantBlock (f : Nat) (v : List Nat) : Nat × List Nat :=
  if v.any (fun c => decide (f32.infCode ≤ mag32 c)) then (0xFF, v.map fun _ => 0)
  else
    let amax := v.foldl (fun a c => max a (mag32 c)) 0
    match v32 amax with
    | .fin _ n e =>
      if n = 0 then (0, v.map fun _ => 0)
      else
        let x := max (-127) (min 127 (floorLog2 n 1 + e - mxEmax f))
        ((x + 127).toNat, v.map (quantElem f x))
    | _ => (0xFF, v.map fun _ => 0)

/-- Pack elements of `w` bits as one little-endian bit string (02 R48). -/
def packBits (w : Nat) : List Nat → Nat
  | [] => 0
  | c :: l => c % 2 ^ w + 2 ^ w * packBits w l

/-- Element `j` of a bit string of `w`-bit elements (02 R48). -/
def unpackBits (w v j : Nat) : Nat := v / 2 ^ (w * j) % 2 ^ w

end Sys2Proof.Machine
end

