-- ==== Sys2Proof/Machine/Ops.lean ====
section
/-! DEFINITION. Named operations over the state, shared by the commands' meanings: places, access to
the parts of the state, faults and their attribution, values the spec leaves open. -/

namespace Sys2Proof

/-! ### Tables -/

/-- Change the listed values of a table; the default stays the default. -/
def Tab.mapVals {α : Type} [DecidableEq α] (d : α) (f : Nat → α → α) : Tab α → Tab α
  | [] => []
  | (i, v) :: t => if f i v = d then (Tab.mapVals d f t).filter fun p => p.1 != i else (i, f i v) :: Tab.mapVals d f t

/-- Change the value at one key. -/
def Tab.upd {α : Type} [DecidableEq α] (d : α) (t : Tab α) (k : Nat) (f : α → α) : Tab α :=
  Tab.put d t k (f (Tab.look d t k))

/-- Change the values at several keys. -/
def Tab.updAll {α : Type} [DecidableEq α] (d : α) (t : Tab α) (ks : List Nat) (f : α → α) : Tab α :=
  ks.foldl (fun t k => Tab.upd d t k f) t

/-- Empty a list-valued table's entries that satisfy `p`. -/
def Tab.dropKeys {α : Type} (p : Nat → Bool) (t : Tab α) : Tab α := t.filter fun e => !p e.1

/-- Key of a core in the core table. -/
def CoreId.key (c : CoreId) : Nat := c.die.val * 512 + c.cluster.val * 32 + c.core.val

/-- Numeric status code (00 Table 7). -/
def Status.code : Status → Nat
  | .ok => 0 | .state => 1 | .lost => 2 | .stale => 3 | .nomem => 4 | .bound => 5 | .check => 6
  | .denied => 7 | .pool => 8 | .link => 9 | .fence => 10 | .format => 11 | .limit => 12 | .slot => 13

/-- Number of an engine in `CORE_FAULT.ENGINE`; the issue unit is 3 (03 Table 13). -/
def Eng.num : Eng → Nat
  | .mx => 0 | .vx => 1 | .tx => 2

end Sys2Proof

namespace Sys2Proof.Machine

/-- STAMP of 08 Table 9: the MGMT count in bits [47:0], the low 16 bits of the latest EPOCH_MARK above. -/
def State.stamp64 (s : State) : Nat := s.stamp.toNat + 2 ^ 48 * (s.mark.toNat % 2 ^ 16)

/-- One MGMT cycle with no command waiting: STAMP counts it (08 Table 9). (log 1, DESIGN CHOICE) -/
def idleTick (s : State) : State := { s with stamp := s.stamp + 1 }


/-! ### Places (01 R21-R25) -/

/-- Key of a physical core named by numbers. -/
def coreKey (d cl k : Nat) : Nat := d * 512 + cl * 32 + k

/-- Die of a core key. -/
def keyDie (k : Nat) : Nat := k / 512
/-- Cluster of a core key. -/
def keyCluster (k : Nat) : Nat := k / 32 % 16
/-- Core number of a core key. -/
def keyCore (k : Nat) : Nat := k % 32

/-- Local position (x, y) of core `k` in its tile (01 Table 3). -/
def corePos (k : Nat) : Nat × Nat :=
  if k < 12 then (k % 6, k / 6)
  else if k = 12 then (1, 2)
  else if k = 13 then (4, 2)
  else ((k - 14) % 6, 3 + (k - 14) / 6)

/-- Router number `30 * row + col` of a local position of a cluster (01 R21). -/
def routerAt (cl x y : Nat) : Nat := 30 * (5 * (cl / 5) + y) + (6 * (cl % 5) + x)

/-- Router of a core of a die. -/
def coreRouter (cl k : Nat) : Nat := routerAt cl (corePos k).1 (corePos k).2

/-- What the LOCAL port of a router serves (01 Tables 3 and 4). -/
inductive Unit1 where
  | core (cl k : Nat)
  | cm (cl b : Nat)
  | h (i : Nat) | m (i : Nat) | f | l (i : Nat) | b (i : Nat) | st (i : Nat) | x
  deriving DecidableEq, Repr

/-- The unit at IOa of a cluster (01 Table 4). -/
def ioA : Nat → Unit1
  | 0 => .h 0 | 1 => .h 1 | 2 => .st 0 | 3 => .h 2 | 4 => .h 3
  | 5 => .h 4 | 6 => .h 5 | 7 => .st 1 | 8 => .h 6 | _ => .h 7

/-- The unit at IOb of a cluster (01 Table 4). -/
def ioB : Nat → Unit1
  | 0 => .l 0 | 1 => .m 0 | 2 => .b 0 | 3 => .m 1 | 4 => .f
  | 5 => .l 1 | 6 => .b 1 | 7 => .x | 8 => .m 2 | _ => .b 2

/-- Cluster, local x and local y of a router. -/
def routerPos (r : Nat) : Nat × Nat × Nat :=
  (5 * (r / 30 / 5) + r % 30 / 6, r % 30 % 6, r / 30 % 5)

/-- The unit at a router's LOCAL port. -/
def unitAt (r : Nat) : Unit1 :=
  let (cl, x, y) := routerPos r
  if y < 2 then .core cl (6 * y + x)
  else if y = 2 then
    match x with
    | 0 => ioA cl
    | 1 => .core cl 12
    | 2 => .cm cl 0
    | 3 => .cm cl 1
    | 4 => .core cl 13
    | _ => ioB cl
  else .core cl (14 + 6 * (y - 3) + x)

/-- Origin number of a router's LOCAL input (05 Table 10). -/
def originOf (r : Nat) : Nat :=
  let (cl, x, _) := routerPos r
  match unitAt r with
  | .core c k => 32 * c + k
  | .cm c b => 340 + 2 * c + b
  | _ => if x = 0 then 320 + 2 * cl else 321 + 2 * cl

/-- Router of an I/O stop: the cluster and side it stands at. -/
def stopRouter (u : Unit1) : Nat :=
  match (List.range 10).find? (fun c => ioA c = u) with
  | some c => routerAt c 0 2
  | none =>
    match (List.range 10).find? (fun c => ioB c = u) with
    | some c => routerAt c 5 2
    | none => 0

/-- The router next to a port of a router, with the port it enters by (05 R154): ports 1 NORTH,
2 EAST, 3 SOUTH, 4 WEST. -/
def neighbour (r p : Nat) : Option (Nat × Nat) :=
  match p with
  | 1 => if 30 ≤ r then some (r - 30, 3) else none
  | 2 => if r % 30 < 29 then some (r + 1, 4) else none
  | 3 => if r < 270 then some (r + 30, 1) else none
  | 4 => if 0 < r % 30 then some (r - 1, 2) else none
  | _ => none

/-! ### Access to the parts of the state -/

/-- The core with a key. -/
def State.core (s : State) (k : Nat) : Core := Tab.look {} s.cores k
/-- Replace a core. -/
def State.setCore (s : State) (k : Nat) (c : Core) : State :=
  { s with cores := Tab.put {} s.cores k c }
/-- A die. -/
def State.die (s : State) (d : Nat) : Die := Tab.look {} s.dies d
/-- Replace a die. -/
def State.setDie (s : State) (d : Nat) (x : Die) : State := { s with dies := Tab.put {} s.dies d x }
/-- Change a die. -/
def State.updDie (s : State) (d : Nat) (f : Die → Die) : State := s.setDie d (f (s.die d))
/-- A lane of a die's Lathe. -/
def State.lane (s : State) (d l : Nat) : Lane := Tab.look {} (s.die d).lanes l
/-- Change a lane. -/
def State.updLane (s : State) (d l : Nat) (f : Lane → Lane) : State :=
  s.updDie d fun x => { x with lanes := Tab.upd {} x.lanes l f }
/-- Change a lane on several dies. -/
def State.updLanes (s : State) (ds : List Nat) (l : Nat) (f : Lane → Lane) : State :=
  ds.foldl (fun s d => s.updLane d l f) s
/-- A router of a die. -/
def State.router (s : State) (d r : Nat) : Router := Tab.look {} (s.die d).routers r
/-- Change a router. -/
def State.updRouter (s : State) (d r : Nat) (f : Router → Router) : State :=
  s.updDie d fun x => { x with routers := Tab.upd {} x.routers r f }
/-- A link port. -/
def State.port (s : State) (i : Nat) : Port := Tab.look {} s.ports i
/-- Change a link port. -/
def State.updPort (s : State) (i : Nat) (f : Port → Port) : State :=
  { s with ports := Tab.upd {} s.ports i f }
/-- A context. -/
def State.ctx (s : State) (c : Nat) : Ctx := Tab.look {} s.ctxs c
/-- Change a context. -/
def State.updCtx (s : State) (c : Nat) (f : Ctx → Ctx) : State :=
  { s with ctxs := Tab.upd {} s.ctxs c f }
/-- A submission queue. -/
def State.queue (s : State) (q : Nat) : Queue := Tab.look {} s.queues q
/-- Change a submission queue. -/
def State.updQueue (s : State) (q : Nat) (f : Queue → Queue) : State :=
  { s with queues := Tab.upd {} s.queues q f }
/-- An event ring. -/
def State.ring (s : State) (r : Nat) : EvRing := Tab.look {} s.rings r
/-- Change an event ring. -/
def State.updRing (s : State) (r : Nat) (f : EvRing → EvRing) : State :=
  { s with rings := Tab.upd {} s.rings r f }
/-- A fence. -/
def State.fence (s : State) (f : Nat) : Fence := Tab.look {} s.fences f
/-- Change a fence. -/
def State.updFence (s : State) (n : Nat) (f : Fence → Fence) : State :=
  { s with fences := Tab.upd {} s.fences n f }
/-- A composition. -/
def State.comp (s : State) (k : Nat) : Comp := Tab.look {} s.comps k
/-- Change a composition. -/
def State.updComp (s : State) (k : Nat) (f : Comp → Comp) : State :=
  { s with comps := Tab.upd {} s.comps k f }
/-- A record ring. -/
def State.recRing (s : State) (k : Nat) : RecRing := Tab.look {} s.recs k
/-- Change a record ring. -/
def State.updRec (s : State) (k : Nat) (f : RecRing → RecRing) : State :=
  { s with recs := Tab.upd {} s.recs k f }
/-- The Tongs of a port (`false`: module port 0, `true`: module port 8). -/
def State.tongs (s : State) (p : Bool) : Tongs := if p then s.tongs8 else s.tongs0
/-- Change a Tongs. -/
def State.updTongs (s : State) (p : Bool) (f : Tongs → Tongs) : State :=
  if p then { s with tongs8 := f s.tongs8 } else { s with tongs0 := f s.tongs0 }
/-- A memory stop. -/
def State.stop (s : State) (t : StopId) : MemStop :=
  match t.cls with
  | .h => Tab.look {} (s.die t.die.val).hstops t.idx.val
  | .m => Tab.look {} (s.die t.die.val).mstops t.idx.val
  | .f => Tab.look {} (s.die t.die.val).fstops t.idx.val
/-- Change a memory stop of a die. -/
def Die.updStop (x : Die) (c : StopClass) (i : Nat) (f : MemStop → MemStop) : Die :=
  match c with
  | .h => { x with hstops := Tab.upd {} x.hstops i f }
  | .m => { x with mstops := Tab.upd {} x.mstops i f }
  | .f => { x with fstops := Tab.upd {} x.fstops i f }
/-- Change a memory stop. -/
def State.updStop (s : State) (t : StopId) (f : MemStop → MemStop) : State :=
  s.updDie t.die.val fun x => x.updStop t.cls t.idx.val f
/-- Append to what the module has sent. (log 7, DESIGN CHOICE) -/
def State.emit (s : State) (o : Out) : State := { s with out := s.out ++ [o] }
/-- A fresh value the spec leaves open, as an opaque function of the counter. (log 4, DESIGN CHOICE) -/
def State.fresh (s : State) : Nat × State :=
  (Config.freeBits s.free, { s with free := s.free + 1 })

/-- Number of instances of a stop class per die (06 Table 11). -/
def stopCount : StopClass → Nat
  | .h => 8
  | .m => 3
  | .f => 2

/-! ### Status codes, faults and their attribution (09 R301-R308) -/

/-- The composition that holds a lane of a die, if any: a lane index belongs to one composition of each
die (10 R329). -/
def State.laneComp (s : State) (d l : Nat) : Option Nat :=
  (s.comps.find? fun p => p.2.st != .free && p.2.lane == l && p.2.diemap.any fun e => e.2 == d).map Prod.fst

/-- Core keys a composition binds on a die. -/
def Comp.coresOn (m : Comp) (d : Nat) : List Nat :=
  m.clusters.flatMap fun c => if c.2.2.1 = d then c.2.2.2.2 else []

/-- All core keys a composition binds. -/
def Comp.cores (m : Comp) : List Nat := m.clusters.flatMap fun c => c.2.2.2.2

/-- The dies a composition binds, in virtual order. -/
def Comp.dies (m : Comp) : List Nat := m.diemap.map Prod.snd

/-- The die that carries virtual die 0 of the module (the root die on the first module, 04 R114). -/
def Comp.rootDie (m : Comp) : Nat := ((m.diemap.find? fun p => p.1 = 0).map Prod.snd).getD 0

/-- The context that owns a lane of a die, if any. -/
def State.laneCtx (s : State) (d l : Nat) : Option Nat := (s.laneComp d l).map fun k => (s.comp k).ctx

/-- The module is in reset entry. -/
def State.inEntry (s : State) : Bool := s.rst.phase == .entry

/-- The module serves its steps: from reset release on and not in reset entry. (log 2, DESIGN CHOICE) -/
def State.inRun (s : State) : Bool := s.rst.phase == .run

/-- Hand a fault to the X0 agent of its die; during reset entry it goes to the module fault log and
charges no context (15 R496). (log 28, DEDUCED) -/
def State.raise (s : State) (m : FaultMsg) : State :=
  if s.inEntry then { s with faultLog := s.faultLog ++ [m] }
  else { s with faultQ := s.faultQ ++ [m] }

/-- PLOC of a fault record (09 Table 4). -/
def plocOf (die cl core port cycle : Nat) : Nat :=
  die + 8 * cl + 128 * core + 4096 * port + 32768 * cycle

/-- A fault charged to a lane of a die: the record names the lane's composition, generation, step and
frame index; a lane bound to nothing charges no context (09 R308). -/
def State.laneFault (s : State) (d l unit code : Nat) (st : Status) (ploc info addr : Nat) : State :=
  match s.laneComp d l with
  | none => s
  | some k =>
    let L := s.lane d l
    s.raise { ctx := (s.comp k).ctx, stamp := s.stamp.toNat, die := d, unit, code, status := st,
              comp := k, lane := l, gen := (s.comp k).gen.toNat, step := L.step.toNat % 2 ^ 32,
              fi := L.fi.toNat, ploc, virt := false, vloc := 0, pc := 0, info, addr }

/-- A fault charged to a context and no lane. -/
def State.ctxFault (s : State) (ctx d unit code : Nat) (st : Status) (comp : Option Nat)
    (info addr : Nat) : State :=
  match comp with
  | none =>
    s.raise { ctx, stamp := s.stamp.toNat, die := d, unit, code, status := st, comp := 0xFFFF,
              lane := 0, gen := 0, step := 0, fi := 0, ploc := plocOf d 0xF 0x1F 7 0, virt := false,
              vloc := 0, pc := 0, info, addr }
  | some k =>
    let l := (s.comp k).lane
    let L := s.lane d l
    s.raise { ctx, stamp := s.stamp.toNat, die := d, unit, code, status := st, comp := k, lane := l,
              gen := (s.comp k).gen.toNat, step := L.step.toNat % 2 ^ 32, fi := L.fi.toNat,
              ploc := plocOf d 0xF 0x1F 7 0, virt := false, vloc := 0, pc := 0, info, addr }

/-! ### Core faults (03 R107-R109, R552) -/

/-- A core fault: code, status and INFO (03 Table 10). -/
structure CF where
  code : Nat
  st : Status
  info : Nat
  deriving DecidableEq, Repr

/-- `ILLEGAL_OP`: INFO is bits [31:0] of the instruction. -/
def CF.illegal (w : Nat) : CF := ⟨1, .format, w % 2 ^ 32⟩
/-- `BAD_FORMAT`: INFO is FMTA, FMTB, FMTD in bits [11:0]. -/
def CF.badFormat (w : Nat) : CF := ⟨2, .format, bits w 27 16⟩
/-- `RANGE`: the offending effective address or field value. -/
def CF.range (i : Nat) : CF := ⟨3, .format, i⟩
/-- `ALSB_MISMATCH`: accumulator index or row. -/
def CF.alsb (i : Nat) : CF := ⟨4, .format, i⟩
/-- `SLOT_VIOLATION`: channel, first ungranted cycle, port. -/
def CF.slotv (ch cyc port : Nat) : CF := ⟨5, .slot, ch + 256 * cyc + 65536 * port⟩
/-- `HAZARD`: byte address of the overlap in 16-byte units. -/
def CF.hazard (a : Nat) : CF := ⟨6, .slot, a / 16⟩
/-- `CHECK`: bits [31:0] of the TID. -/
def CF.check (tid : Nat) : CF := ⟨7, .check, tid % 2 ^ 32⟩

/-- PLOC of a core. -/
def corePloc (k : Nat) : Nat := plocOf (keyDie k) (keyCluster k) (keyCore k) 7 0

/-- VLOC of a core and an engine number (09 Table 4). -/
def coreVloc (c : Core) (engine : Nat) : Nat := c.vk + 32 * c.vc + 512 * c.vd + 32768 * engine

/-- The capture of a core fault (03 Table 13, 18 R550): a step's first fault, written when VALID is
clear. (log 10, DESIGN CHOICE) -/
def Core.capture (c : Core) (f : CF) (pc : BitVec 12) (engine : Nat) : Core :=
  if c.fault.valid then c
  else { c with fault := { status := BitVec.ofNat 8 f.st.code, code := BitVec.ofNat 8 f.code, pc,
                           engine := BitVec.ofNat 2 engine, valid := true, more := c.fault.more,
                           info := BitVec.ofNat 32 f.info } }

/-- Entering FAULT (03 R108): the issue unit stops, a refetch under way is abandoned. -/
def Core.halt (c : Core) : Core :=
  { c with st := .fault, refetch := none, landing := none, barWait := none }

/-- Report of a core to its lane: the lane's state becomes FAULT and the fault is charged to the
lane's context (03 R108, 09 Table 4). -/
def State.coreReport (s : State) (k : Nat) (c : Core) (f : CF) (pc : BitVec 12) (engine : Nat)
    (unit info addr : Nat) : State :=
  match c.lane with
  | none => s
  | some l =>
    let d := keyDie k
    let s := s.updLane d l fun L => { L with st := .fault }
    match s.laneComp d l with
    | none => s
    | some n =>
      let L := s.lane d l
      s.raise { ctx := (s.comp n).ctx, stamp := s.stamp.toNat, die := d, unit, code := f.code,
                status := f.st, comp := n, lane := l, gen := (s.comp n).gen.toNat,
                step := L.step.toNat % 2 ^ 32, fi := L.fi.toNat, ploc := corePloc k, virt := true,
                vloc := coreVloc c engine, pc := pc.toNat, info, addr }

/-- A fault of a core (03 R107-R109): the first fault of a step is recorded, the core enters FAULT and
reports; later faults of the step change nothing. -/
def State.coreFault (s : State) (k : Nat) (f : CF) (pc : BitVec 12) (engine : Nat) : State :=
  let c := s.core k
  if c.st = .fault then s
  else
    (s.setCore k (c.capture f pc engine).halt).coreReport k c f pc engine 1 f.info 0

/-- An uncorrectable error read from a core's scratch (1), program memory (2) or accumulator file (3)
(15 R489): the core stops as a fault does, is charged as `MEM_UE` and bound no more. -/
def State.sramError (s : State) (k : Nat) (pc : BitVec 12) (engine info addr : Nat) : State :=
  let c := s.core k
  let s := s.setCore k { c.halt with barred := true }
  s.coreReport k c ⟨2, .link, info⟩ pc engine 5 info addr

end Sys2Proof.Machine
end

