-- ==== Sys2Proof/Machine/Operands.lean ====
section
/-! DEFINITION. The fields of the three instruction layouts (03 Table 2), effective addresses and
operand ranges (03 R85, R90-R93, 02 R48, R51). -/

namespace Sys2Proof.Machine

/-! ### Layout fields -/

/-- Opcode. -/
def iOp (w : Nat) : Nat := bits w 7 0
/-- FMTA. -/
def iFa (w : Nat) : Nat := bits w 19 16
/-- FMTB. -/
def iFb (w : Nat) : Nat := bits w 23 20
/-- FMTD. -/
def iFd (w : Nat) : Nat := bits w 27 24
/-- MOD. -/
def iMod (w : Nat) : Nat := bits w 31 28
/-- DX. -/
def iDx (w : Nat) : Nat := bits w 33 32
/-- AX. -/
def iAx (w : Nat) : Nat := bits w 35 34
/-- BX. -/
def iBx (w : Nat) : Nat := bits w 37 36
/-- D. -/
def iD (w : Nat) : Nat := bits w 55 40
/-- A. -/
def iA (w : Nat) : Nat := bits w 71 56
/-- B. -/
def iB (w : Nat) : Nat := bits w 87 72
/-- Layout C: REG. -/
def iReg (w : Nat) : Nat := bits w 19 16
/-- Layout C: TARGET. -/
def iTarget (w : Nat) : Nat := bits w 31 20
/-- Layout C: CTR. -/
def iCtr (w : Nat) : Nat := bits w 37 32
/-- Layout C: VALUE. -/
def iValue (w : Nat) : Nat := bits w 95 64
/-- Layout X: CH. -/
def iCh (w : Nat) : Nat := bits w 23 16
/-- Layout X: SLOT. -/
def iSlot (w : Nat) : Nat := bits w 31 24
/-- Layout X: LX. -/
def iLx (w : Nat) : Nat := bits w 33 32
/-- Layout X: RX. -/
def iRx (w : Nat) : Nat := bits w 35 34
/-- Layout X: LADDR. -/
def iLaddr (w : Nat) : Nat := bits w 55 40
/-- Layout X: RADDR. -/
def iRaddr (w : Nat) : Nat := bits w 75 56
/-- Layout X: LEN. -/
def iLen (w : Nat) : Nat := bits w 93 80
/-- Layout X: RUN as encoded (count minus 1). -/
def iRun (w : Nat) : Nat := bits w 101 94
/-- Layout X: CTR. -/
def iXctr (w : Nat) : Nat := bits w 107 102

/-- Rows P of an MX rectangle. -/
def iP (w : Nat) : Nat := bits w 94 88 + 1
/-- Columns NC of an MX rectangle. -/
def iNc (w : Nat) : Nat := bits w 99 95 + 1
/-- Groups KB of an MMA. -/
def iKb (w : Nat) : Nat := bits w 107 100 + 1
/-- ALSB of ACLR. -/
def iAclrLsb (w : Nat) : Int := (BitVec.ofNat 10 (bits w 109 100)).toInt
/-- N or n of a VX instruction. -/
def iN (w : Nat) : Nat := bits w 103 88 + 1
/-- Rows of a VX instruction. -/
def iRows (w : Nat) : Nat := bits w 110 104 + 1
/-- ALSB of a VX instruction. -/
def iVxLsb (w : Nat) : Int := (BitVec.ofNat 10 (bits w 120 111)).toInt

/-- The instruction word at a PC. -/
def Core.word (c : Core) (pc : Nat) : Nat := (Tab.look 0 c.prog pc).toNat

/-- The opcodes of 03 Table 3. (log 11, DEDUCED) -/
def opDefined (op : Nat) : Bool :=
  decide (op ≤ 0x0D) || (decide (0x40 ≤ op) && decide (op ≤ 0x44))
    || (decide (0x80 ≤ op) && decide (op ≤ 0x90)) || (decide (0xC0 ≤ op) && decide (op ≤ 0xC2))

/-! ### Addresses and ranges -/

/-- Base register X0-X3; X0 reads 0 (03 Table 1). -/
def Core.base (c : Core) (x : Nat) : Nat := if x = 0 then 0 else (Tab.look 0 c.bases x).toNat

/-- Effective byte address of a scratch operand (03 R85). -/
def Core.ea (c : Core) (field x : Nat) : Nat := (field + c.base x) % 2 ^ 16 * 16

/-- Remote unit address, modulo 2^20 (03 R85). -/
def Core.remote (c : Core) (field x : Nat) : Nat := (field + c.base x) % 2 ^ 20

/-- Scratch bytes (03 Table 1). -/
def scratchBytes : Nat := 2 ^ 20

/-- A byte range: first byte and length. -/
abbrev Range := Nat × Nat

/-- The address of an operand range that leaves scratch or, where 64-byte alignment is asked, is not a
multiple of 64 (03 R85). (log 11, DEDUCED) -/
def areaBad (al64 : Bool) (r : Range) : Option CF :=
  if (al64 && r.1 % 64 != 0) || decide (scratchBytes < r.1 + r.2) then some (.range r.1) else none

/-- The first fault of a list of checks. (log 11, DEDUCED) -/
def firstSome : List (Option CF) → Option CF
  | [] => none
  | some f :: _ => some f
  | none :: l => firstSome l

/-- Do two ranges share a byte: the lowest shared one. -/
def overlap (a b : Range) : Option Nat :=
  let lo := max a.1 b.1
  if lo < min (a.1 + a.2) (b.1 + b.2) then some lo else none

/-- The lowest byte at which ranges of one list meet ranges of another. -/
def overlaps (a b : List Range) : Option Nat :=
  (a.flatMap fun x => b.filterMap fun y => overlap x y).min?

/-- Bytes of an operand panel (03 R90). -/
def panelBytes (f rows kb : Nat) : Nat :=
  cdiv (rows * kb * 4 * fmtBits f + (if isMx f then rows * kb else 0)) 64 * 64

/-- Bytes of a landing record (03 Table 5). -/
def landingBytes : Nat := 4416

/-- Groups a landing record holds (03 R92). -/
def landingGroups (f : Nat) : Nat :=
  match fmtBits f with
  | 4 => 256 | 6 => 170 | 8 => 128 | 16 => 64 | _ => 0

/-- A little-endian number in scratch. -/
def Core.num (c : Core) (a n : Nat) : Nat := leNat (c.scratch.read a n)

/-- The 32 elements of a group at an address under a scale byte (02 R48). -/
def Core.group (c : Core) (f a scale : Nat) : List Val :=
  let w := fmtBits f
  let v := c.num a (4 * w)
  (List.range 32).map fun j => elemVal f scale (unpackBits w v j)

/-- Row `r` of an operand panel (03 R90). -/
def Core.panelRow (c : Core) (f base rows kb r : Nat) : List Val :=
  let gb := 4 * fmtBits f
  (List.range kb).flatMap fun g =>
    c.group f (base + (r * kb + g) * gb)
      (if isMx f then c.num (base + rows * kb * gb + r * kb + g) 1 else 127)

/-- Column `j` of a landing record: groups `j * kb` to `j * kb + kb - 1` (03 R91). -/
def Core.landingCol (c : Core) (f base kb j : Nat) : List Val :=
  let gb := 4 * fmtBits f
  (List.range kb).flatMap fun g =>
    c.group f (base + (j * kb + g) * gb)
      (if isMx f then c.num (base + 4096 + j * kb + g) 1 else 127)

/-- Index of accumulator (p, j) of a rectangle (03 R93). -/
def accIdx (abase p j : Nat) : Nat := abase + 32 * p + j

/-- The rectangle's elements in row-major order as (place, accumulator index). -/
def rectIdx (abase p nc : Nat) : List (Nat × Nat) :=
  (List.range (p * nc)).map fun i => (i, accIdx abase (i / nc) (i % nc))

/-- A rectangle that reaches past accumulator 4,095 (03 R93). -/
def rectBad (abase p nc : Nat) : Option CF :=
  let last := accIdx abase (p - 1) (nc - 1)
  if 4095 < last then some (.range last) else none

/-- An accumulator of a core. -/
def Core.acc (c : Core) (i : Nat) : Acc := Tab.look {} c.accs i

/-- Stride of a row of `n` binary32 values (03 "The VX engine"). -/
def rowStride (n : Nat) : Nat := cdiv (4 * n) 16 * 16

/-- Bytes of a mask row (03 "The VX engine"). -/
def maskStride (n : Nat) : Nat := cdiv (cdiv n 8) 16 * 16

/-- Range of `rows` rows of `n` binary32 values. -/
def rowsRange (a rows n : Nat) : Range := (a, (rows - 1) * rowStride n + 4 * n)

/-- `n` binary32 values from an address. -/
def Core.f32s (c : Core) (a n : Nat) : List Nat := (List.range n).map fun i => c.num (a + 4 * i) 4

/-- The bytes of binary32 values. -/
def f32Bytes (l : List Nat) : List Byte := l.flatMap fun v => leBytes 4 v

/-- Is `m` among the bits of a mask row at `a`. -/
def Core.maskBit (c : Core) (a i : Nat) : Bool := bit (c.num (a + i / 8) 1) (i % 8)

/-- Size in bytes of a rounded result (03 Table 6): bfloat16, binary16 or binary32. -/
def resultBytes (f : Nat) : Nat := if f = 0xA then 4 else if f = 8 || f = 9 then 2 else 0

/-! ### Writing scratch -/

/-- Write bytes to scratch: marks of lines written to are cleared (05 R185). -/
def Core.put (c : Core) (a : Nat) (l : List Byte) : Core :=
  { c with scratch := c.scratch.write a l,
           poison := c.poison.filter fun x =>
             !(decide (a / 64 ≤ x) && decide (x * 64 < a + l.length)) }

/-- Write several byte strings. -/
def Core.puts (c : Core) : List (Nat × List Byte) → Core
  | [] => c
  | (a, b) :: r => (c.put a b).puts r

/-- Set accumulators. -/
def Core.setAccs (c : Core) (l : List (Nat × Acc)) : Core :=
  { c with accs := l.foldl (fun t p => Tab.put {} t p.1 p.2) c.accs }

end Sys2Proof.Machine
end

