-- ==== Sys2Proof/Machine/Flags.lean ====
section
/-! DEFINITION. The one condition of a core, OVF (02 R62, 03 R87, R89), and arrival counters
(03 R88). -/

namespace Sys2Proof.Machine

/-- OVF after an ARND of accumulators: set when any has OVER set, else unchanged (02 R62). -/
def ovfAfter (old : Bool) (l : List Acc) : Bool := old || l.any (·.ovr)

/-- OVF after a CLRC: a hardware set in the same cycle stays (03 R89, 00 R12). -/
def ovfCleared (hwSet : Bool) : Bool := hwSet

/-- The branch condition of BRC: REG 0 OVF set, REG 1 OVF clear (03 Table 4). -/
def brcTaken (reg : Nat) (ovf : Bool) : Bool := if reg = 0 then ovf else !ovf

/-- An arrival counter. -/
def Core.ctr (c : Core) (i : Nat) : BitVec 32 := Tab.look 0 c.ctrs i

/-- Write an arrival counter. -/
def Core.setCtr (c : Core) (i : Nat) (v : BitVec 32) : Core :=
  { c with ctrs := Tab.put 0 c.ctrs i v }

/-- An inbound completion: the counter gains 1 and wraps at 2^32 (03 R88, R105). -/
def Core.arrive (c : Core) (i : Nat) : Core := c.setCtr i (c.ctr i + 1)

end Sys2Proof.Machine
end

