-- ==== Sys2Proof/Machine/Issue.lean ====
section
/-! DEFINITION. Issue and execution of tile instructions (03 R78-R84, R97-R99, R108): which command
the program counter admits, reserved bits, and the one path by which an MX, VX or TX instruction takes
its effect, faults or waits for a refetch. -/

namespace Sys2Proof.Machine

/-- The issue unit can issue: the core runs, waits at no barrier and has not ended (03 R78). -/
def Core.issuing (c : Core) : Bool := c.st == .run && c.barWait.isNone && !c.ended

/-- The next PC, modulo 4,096 (03 R87). -/
def Core.next (c : Core) : Core := { c with pc := c.pc + 1 }

/-- A jump. -/
def Core.jump (c : Core) (t : Nat) : Core := { c with pc := BitVec.ofNat 12 t }

/-- The instruction at the PC of core `k` is issued if it has opcode `op`: `f` gives its effect on the
core and the instruction word. An undefined opcode is `ILLEGAL_OP` (03 R84); with another opcode at the
PC the event does not arise. (log 2, DESIGN CHOICE) -/
def State.issue (s : State) (k op : Nat) (f : Core → Nat → State) : State :=
  let c := s.core k
  if c.issuing then
    let w := c.word c.pc.toNat
    if !opDefined (iOp w) then s.coreFault k (.illegal w) c.pc 3
    else if iOp w = op then f c w
    else s
  else s

/-- A control instruction (layout C): reserved bits and an undefined REG are `ILLEGAL_OP`
(03 R84, R87). (log 2, DESIGN CHOICE) -/
def State.control (s : State) (k op : Nat) (regOk : Nat → Bool) (f : Core → Nat → State) : State :=
  s.issue k op fun c w =>
    if bits w 63 38 != 0 || bits w 127 96 != 0 || !regOk (iReg w) then s.coreFault k (.illegal w) c.pc 3
    else f c w

/-- An engine with a refetch under way is not idle (03 R98 step 3). -/
def Core.busy (c : Core) (e : Eng) : Bool :=
  match c.refetch with
  | some r => r.eng == e
  | none => false

/-- The last instruction of an engine that no wait has covered. -/
def Core.flying (c : Core) : Eng → Option InFlight
  | .mx => c.mx
  | .vx => c.vx
  | .tx => c.tx

/-- Set the record of an engine's last instruction. -/
def Core.setFlying (c : Core) (e : Eng) (r : Option InFlight) : Core :=
  match e with
  | .mx => { c with mx := r }
  | .vx => { c with vx := r }
  | .tx => { c with tx := r }

/-- All engines are idle and nothing of theirs executes any more. -/
def Core.drained (c : Core) : Core := { c with mx := none, vx := none, tx := none }

/-- What an instruction that passed its checks does: the ranges it reads and writes, the scratch bytes
and accumulators it writes, OVF after it, the landing record it must check, its busy cycles with the
MAC rate they count under (0: no operand pair), and the flits it hands to the mesh. -/
structure Plan where
  reads : List Range := []
  writes : List Range := []
  data : List (Nat × List Byte) := []
  accs : List (Nat × Acc) := []
  ovf : Bool := false
  land : Option Nat := none
  cycles : Nat := 0
  rate : Nat := 0
  flits : List Flit := []

/-- The check a tile's 4,352 bytes must have: CRC-64 in plain mode, the keyed tag in sealed mode
(03 R97, 06 R211, R212). The tag and hash keys are of the tenancy's key generation. -/
def State.tileCheck (s : State) (d : Nat) (rcd : List Byte) (tid : Nat) : Nat :=
  if (s.die d).memsec.sealed then
    tileTag rcd tid (natBytes (leBytes 32 (Config.keyBits (16 * s.sec.genH + 2))))
      (1 + Config.keyBits (16 * s.sec.genH + 3) % (2 ^ 64 - 1))
  else crc64 rcd

/-- The landing record at an address passes its check: no marked line among its 68 (05 R185) and the
stored check equal (03 R97). (log 18, DESIGN CHOICE) -/
def State.landingOk (s : State) (k a : Nat) : Bool :=
  let c := s.core k
  let rcd := c.scratch.read a 4352
  !(c.poison.any fun x => decide (a / 64 ≤ x) && decide (x ≤ (a + 4359) / 64))
    && s.tileCheck (keyDie k) rcd (c.num (a + 4360) 8) == c.num (a + 4352) 8

/-- The executing instructions a new one overlaps: a write of one engine meeting a range of another
(03 R82). (log 10, DESIGN CHOICE) -/
def Core.hazard (c : Core) (e : Eng) (ovl : List Eng) (p : Plan) : Option Nat :=
  (([Eng.mx, .vx, .tx].filter fun x => x != e && ovl.contains x).filterMap fun x =>
    match c.flying x with
    | some r =>
      match overlaps p.writes (r.reads ++ r.writes) with
      | some a => some a
      | none => overlaps r.writes p.reads
    | none => none).head?

/-- Busy cycles counted for the context of a lane (09 R321), shown at the next commit barrier. (log 14, DEDUCED) -/
def State.countBusy (s : State) (d : Nat) (lane : Option Nat) (e : Eng) (rate n : Nat) : State :=
  match lane.bind (s.laneCtx d) with
  | none => s
  | some x => s.updCtx x fun c =>
    match e with
    | .mx => { c with dMx := Tab.upd 0 c.dMx rate (· + n) }
    | .vx => { c with dVx := c.dVx + n }
    | .tx => { c with dTx := c.dTx + n }

/-- The core after an instruction's effect. -/
def Core.commit (c : Core) (e : Eng) (pc : BitVec 12) (p : Plan) : Core :=
  let r : InFlight :=
    { pc, reads := p.reads, writes := p.writes,
      oldScratch := p.writes.foldl (fun m x => m.write x.1 (c.scratch.read x.1 x.2)) [],
      oldAccs := p.accs.foldl (fun t x => Tab.put {} t x.1 (c.acc x.1)) [],
      oldOvf := c.ovf, sent := p.flits }
  (({ (c.puts p.data).setAccs p.accs with ovf := c.ovf || p.ovf }).setFlying e (some r))

/-- The effect of an instruction on the state: the core, and flits under way on its die. (log 10, DESIGN CHOICE) -/
def State.commit (s : State) (k : Nat) (e : Eng) (pc : BitVec 12) (p : Plan) : State :=
  let c := s.core k
  let s := s.setCore k (c.commit e pc p)
  let s := if p.flits.isEmpty then s
    else s.updDie (keyDie k) fun x => { x with flights := x.flights ++ p.flits }
  s.countBusy (keyDie k) c.lane e p.rate p.cycles

/-- A tile check found unequal (03 R98, R99): counted; the first since the last BAR asks for a refetch,
a second is `CHECK`. `again`: the instruction had already been refetched. -/
def State.mismatch (s : State) (k : Nat) (e : Eng) (pc : BitVec 12) (a : Nat) : State :=
  let c := s.core k
  let tid := c.num (a + 4360) 8
  let c := { c with mismatch := c.mismatch + 1 }
  let s := s.setCore k c
  if c.refetchUsed then s.coreFault k (.check tid) pc e.num
  else
    s.setCore k { c with refetchUsed := true,
                         refetch := some { tid := BitVec.ofNat 64 tid, addr := a, eng := e, pc, sent := false } }

/-- Execute an instruction whose checks gave `r`, from its first cycle (03 R98, R108, R552): its own
fault; an uncorrectable SRAM read; a hazard; an unequal tile check; or its effect. -/
def State.execute (s : State) (k : Nat) (e : Eng) (pc : BitVec 12) (ovl : List Eng)
    (ue : Option (Nat × Nat)) (r : Except CF Plan) : State :=
  match r with
  | .error f => s.coreFault k f pc (if f.code = 1 then 3 else e.num)
  | .ok p =>
    match ue with
    | some (kind, addr) => s.sramError k pc e.num kind addr
    | none =>
      match (s.core k).hazard e ovl p with
      | some a => s.coreFault k (.hazard a) pc e.num
      | none =>
        match p.land with
        | some a => if s.landingOk k a then s.commit k e pc p else s.mismatch k e pc a
        | none => s.commit k e pc p

/-- Issue an instruction to an engine: `plan` makes the checks of R552 in their order. The PC advances
at issue; an engine that waits for a refetch starts no other instruction. (log 2, 10, DESIGN CHOICE) -/
def State.engine (s : State) (k op : Nat) (e : Eng) (ovl : List Eng) (ue : Option (Nat × Nat))
    (plan : State → Nat → Nat → Except CF Plan) : State :=
  s.issue k op fun c w =>
    if c.busy e then s
    else (s.setCore k c.next).execute k e c.pc ovl ue (plan s k w)

/-- Turn a list of checks into an outcome. (log 11, DEDUCED) -/
def checked (l : List (Option CF)) (p : Plan) : Except CF Plan :=
  match firstSome l with
  | some f => .error f
  | none => .ok p

/-- A fault where a test holds. -/
def faultIf (b : Bool) (f : CF) : Option CF := if b then some f else none

end Sys2Proof.Machine
end

