-- ==== Sys2Proof/Machine/ResetEntry.lean ====
section
/-! DEFINITION. A port entering DOWN (11 R402, 15 R487) and the entry of a module reset (15 R495, R496),
shared by every command that can cause them. -/

namespace Sys2Proof.Machine

/-- Fields of a link slot-table entry (11 Table 5): VALID. -/
def lkValid (e : BitVec 16) : Bool := bit e.toNat 0
/-- CONT. -/
def lkCont (e : BitVec 16) : Bool := bit e.toNat 1
/-- CLASS. -/
def lkClass (e : BitVec 16) : Nat := bits e.toNat 4 2
/-- OWNER. -/
def lkOwner (e : BitVec 16) : Nat := bits e.toNat 8 5
/-- TRANSIT. -/
def lkTransit (e : BitVec 16) : Bool := bit e.toNat 9
/-- INPORT. -/
def lkInport (e : BitVec 16) : Nat := bits e.toNat 13 10

/-- The lane has a TX or RX run on the port. -/
def Port.runsLane (p : Port) (l : Nat) : Bool :=
  (p.tx ++ p.rx).any fun e => lkValid e.2 && lkOwner e.2 == l

/-- A port in DOWN (11 R402): its queues are discarded. -/
def Port.enterDown (p : Port) (rsn : Nat) : Port :=
  { p with st := .down, losses := satAdd p.losses 1, downrsn := BitVec.ofNat 4 rsn, egress := [], blocks := [], transit := [],
           general := [], repeated := [], txRekey := none, rxRekey := none }

/-- Port `i` enters DOWN: blocks it had received for other ports are discarded with its ingress, and
every lane with a run on it is link-lost until its next barrier release (11 R402, 15 R487). -/
def State.portDown (s : State) (i rsn : Nat) : State :=
  let p := s.port i
  let s := s.updPort i fun p => p.enterDown rsn
  let s := { s with ports := Tab.mapVals {} (fun _ (q : Port) => { q with transit := q.transit.filter fun e => e.1 != i }) s.ports }
  s.updDie (i / 2) fun x =>
    { x with lanes := Tab.updAll {} x.lanes ((List.range 8).filter p.runsLane) fun L =>
        { L with linkLost := true } }

/-- Send DOWN with a reason in the next control block of a port (11 R401). -/
def State.sendDown (s : State) (i rsn : Nat) : State :=
  s.emit (.control i []
    [{ seq := (s.port i).txSeq, dest := (s.port i).peerId.toNat, src := s.route.devid.toNat, msg := .down rsn }])

/-- Every UP port sends DOWN with reason RESET and goes idle (11 R401). -/
def State.allPortsDown (s : State) : State :=
  (List.range 16).foldl (fun s i =>
    if (s.port i).st = .up then (s.sendDown i 11).portDown i 11 else s) s

/-- A core stops: nothing issues and nothing executes. -/
def Core.stopped (c : Core) : Core :=
  let c := { c.halt with mx := none, vx := none, tx := none, ended := false }
  { c with st := if c.st = .fault then .idle else c.st }

/-- Every lane of a state stops, with its cores. -/
def State.stopLanes (s : State) : State :=
  let s := { s with cores := Tab.mapVals {} (fun _ (c : Core) =>
    if c.st == CoreState.run || c.st == CoreState.fault then c.stopped else c) s.cores }
  { s with dies := Tab.mapVals {} (fun _ (x : Die) =>
      { x with lanes := Tab.mapVals {} (fun _ (L : Lane) => { L with st := .idle }) x.lanes }) s.dies }

/-- A new HALT progress code; PSTB toggles (16 R522). (log 45, DEDUCED) -/
def Sb.halt (x : Sb) (code : Nat) : Sb := 
  { x with hcode := BitVec.ofNat 8 code, pstb := if x.hcode.toNat = code then x.pstb else !x.pstb }

/-- Reset entry (15 R495, R496): outside RUN nothing is started. Faults not yet recorded go to the
module fault log, since no event is written from the cause onwards. -/
def State.resetEntry (s : State) (cause : Nat) : State :=
  if s.rst.phase = .run then
    let s := s.allPortsDown.stopLanes
    { s with
      faultLog := s.faultLog ++ s.faultQ, faultQ := [], revs := [],
      rst := { s.rst with
        phase := .entry, cause := BitVec.ofNat 4 cause, psetUsed := s.rst.pset,
        resets := satAdd s.rst.resets 1, absent := 0, restored := false, sections := [],
        stamp := s.stamp64,
        collecting := if s.rst.pset then [] else
          (s.cores.filter fun e => e.2.enable).map (fun e => (keyDie e.1, e.1 % 512))
            ++ s.dies.flatMap fun x => x.2.clusters.map fun c => (x.1, 512 + c) },
      sb := s.sb.halt (0xC0 + cause) }
  else s

end Sys2Proof.Machine
end

