-- ==== Sys2Proof/Machine/Mesh.lean ====
section
/-! DEFINITION. Slot tables, the way of a flit through routers and bypass switches, mesh faults,
elastic queues and allowances (05 R154-R185). -/

namespace Sys2Proof.Machine

/-! ### Slot-table entries (05 Table 3) -/

/-- IN. -/
def slIn (e : BitVec 16) : Nat := bits e.toNat 2 0
/-- VALID. -/
def slValid (e : BitVec 16) : Bool := bit e.toNat 3
/-- OWNER. -/
def slOwner (e : BitVec 16) : Nat := bits e.toNat 7 4
/-- CLASS. -/
def slClass (e : BitVec 16) : Nat := bits e.toNat 10 8

/-- Key of an entry in a router's tables. -/
def slotKey (port cycle : Nat) : Nat := 256 * port + cycle

/-- The active entry of an output in a cycle. -/
def Router.entry (r : Router) (port cycle : Nat) : BitVec 16 := Tab.look 0 r.active (slotKey port cycle)

/-- The active entry of the bypass switch's mirror. -/
def Router.mirrorEntry (r : Router) (port cycle : Nat) : BitVec 16 :=
  Tab.look 0 r.mirror (slotKey port cycle)

/-- The outputs that select an input in a cycle (05 R159, R160): none of a failed router; of a bypassed
router those of ports 1-4 whose IN is not LOCAL, read from the mirror (05 R174, R175). -/
def Router.outs (r : Router) (inp cycle : Nat) : List Nat :=
  if r.bypassed then
    if inp = 0 then []
    else [1, 2, 3, 4].filter fun p =>
      p != inp && slValid (r.mirrorEntry p cycle) && slIn (r.mirrorEntry p cycle) == inp
  else if r.failed then []
  else [0, 1, 2, 3, 4].filter fun p =>
    p != inp && slValid (r.entry p cycle) && slIn (r.entry p cycle) == inp

/-! ### Mesh faults (05 Table 11, R166, R167) -/

/-- PLOC of a router port: the core at it or no unit. -/
def meshPloc (d r port cycle : Nat) : Nat :=
  let cl := (routerPos r).1
  match unitAt r with
  | .core _ k => plocOf d cl k port cycle
  | _ => plocOf d cl 0x1F port cycle

/-- `MESH_VIOL` of a die captures a violation and counts it (05 Table 19, 18 R550). -/
def MeshCtl.record (m : MeshCtl) (r port cycle owner cls code : Nat) : MeshCtl :=
  let m := { m with count := m.count + 1 }
  if m.vValid then m
  else { m with vRouter := BitVec.ofNat 9 r, vPort := BitVec.ofNat 3 port, vCycle := BitVec.ofNat 8 cycle,
                vOwner := BitVec.ofNat 4 owner, vClass := BitVec.ofNat 3 cls,
                vKind := BitVec.ofNat 3 code, vValid := true }

/-- `MESH_RFAULT` captures a fault (05 Table 14, 18 R550). -/
def Router.record (r : Router) (port cycle owner code : Nat) : Router :=
  if r.fault.valid then r
  else { r with fault := { code := BitVec.ofNat 8 code, port := BitVec.ofNat 3 port,
                           cycle := BitVec.ofNat 8 cycle, owner := BitVec.ofNat 4 owner,
                           valid := true, more := r.fault.more } }

/-- A violation entered in the registers of the router and its die. -/
def State.meshRecord (s : State) (d r port cycle owner cls code : Nat) : State :=
  (s.updRouter d r fun x => x.record port cycle owner code).updDie d fun x =>
    { x with ctl := x.ctl.record r port cycle owner cls code }

/-- A mesh fault: recorded, and charged to the lane that owns it; firmware owners charge nothing
(05 R166, R167, 09 R308). `unit`: 2 mesh port, 7 bridge. -/
def State.meshFault (s : State) (d r port cycle owner cls code : Nat) (st : Status) (unit : Nat := 2) :
    State :=
  let s := s.meshRecord d r port cycle owner cls code
  if owner < 8 then s.laneFault d owner unit code st (meshPloc d r port cycle) 0 0 else s

/-- A router fails (05 R174): it sends nothing more, and every lane that owns a VALID entry of it
faults with `ROUTER_FAIL`. -/
def State.routerFail (s : State) (d r : Nat) : State :=
  let x := s.router d r
  if x.failed then s
  else
    let s := s.updRouter d r fun x => { x with failed := true }
    let owners := (List.range 8).filter fun l =>
      x.active.any fun e => slValid e.2 && slOwner e.2 == l
    match owners with
    | [] => s.updRouter d r fun x => x.record 7 0 0xF 3
    | l :: _ =>
      let s := s.meshRecord d r 7 0 l 0 3
      owners.foldl (fun s l => s.laneFault d l 2 3 .link (meshPloc d r 7 0) 0 0) s

/-! ### The way of a flit (05 R157, R159, R162, R166) -/

/-- What becomes of a flit on its way. -/
inductive MeshEv where
  /-- It leaves the LOCAL output of a router in a cycle. -/
  | local (r cycle : Nat)
  /-- No output selects the input it is on. -/
  | stray (r port cycle : Nat)
  /-- The used entry failed parity and the mirror's copy was good. -/
  | parity (r port cycle owner : Nat)
  /-- No good copy of the used entry exists. -/
  | fail (r cycle : Nat)
  deriving DecidableEq, Repr

/-- The events of a flit present on input `inp` of router `r` in a cycle. A route within a die has at
most 48 hops (05 R158), which bounds the walk. (log 16, DEDUCED) -/
def walk (x : Die) (bad badMirror : List Nat) : Nat → Nat → Nat → Nat → List MeshEv
  | 0, _, _, _ => []
  | n + 1, r, inp, cycle =>
    let rt : Router := Tab.look {} x.routers r
    let outs := rt.outs inp cycle
    if outs.isEmpty then
      (if rt.failed || rt.bypassed then [] else [.stray r inp cycle])
    else outs.flatMap fun p =>
      let go : List MeshEv :=
        if p = 0 then [.local r cycle]
        else match neighbour r p with
          | some (r', i') => walk x bad badMirror n r' i' ((cycle + 3) % 256)
          | none => []
      if bad.contains r then
        if p = 0 || badMirror.contains r then [.fail r cycle]
        else .parity r p cycle (slOwner (rt.mirrorEntry p cycle)) :: go
      else go

/-- The walk of a flit from where it is. (log 16, DEDUCED) -/
def walkFlit (x : Die) (bad badMirror : List Nat) (f : Flit) : List MeshEv :=
  walk x bad badMirror 50 f.router f.port f.cycle

/-! ### Elastic queues (05 R178-R180) -/

/-- Depth of an owner's queue at a stop: 256 flits for a lane, 64 for a firmware owner (05 R180). -/
def elasticDepth (owner : Nat) : Nat := if owner < 8 then 256 else 64

/-- A flit crosses into a die at a stop's router: it enters its owner's queue, or is discarded and
charged as `OVERRUN` when the queue is full. -/
def State.elasticArrive (s : State) (d r : Nat) (f : Flit) : State :=
  let key := 16 * r + f.owner
  let q := Tab.look [] (s.die d).elastic key
  if q.length < elasticDepth f.owner then
    s.updDie d fun x => { x with elastic := Tab.put [] x.elastic key (q ++ [f]) }
  else s.meshFault d r 0 0 f.owner f.cls 4 .slot

/-- Several flits cross in. -/
def State.elasticAll (s : State) (d r : Nat) (l : List Flit) : State :=
  l.foldl (fun s f => s.elasticArrive d r f) s

/-- The owner whose entry selects LOCAL at a router in a cycle (05 R179). -/
def Router.localOwner (r : Router) (cycle : Nat) : Option Nat :=
  (([1, 2, 3, 4].map fun p => r.entry p cycle).find? fun e => slValid e && slIn e == 0).map slOwner

/-! ### Injection: allowances and byte counters (05 R181-R184) -/

/-- An origin of a die. -/
def State.origin (s : State) (d n : Nat) : Origin := Tab.look {} (s.die d).origins n

/-- Count flits injected: the origin's flits of the class this frame and the byte counter of owner and
class (05 R182, R184). -/
def State.inject (s : State) (d n owner cls frame total : Nat) : State :=
  s.updDie d fun x =>
    { x with
      origins := Tab.upd {} x.origins n fun o => { o with sent := Tab.upd 0 o.sent cls (· + frame) },
      bcnt := Tab.upd 0 x.bcnt (8 * owner + cls) fun b => wrapAdd b (64 * total) }

/-- A stop's flit would exceed its class allowance (05 R183). -/
def State.overAllowance (s : State) (d n cls : Nat) : Bool :=
  let o := s.origin d n
  decide (Tab.look 0 o.allow cls < Tab.look 0 o.sent cls + 1)

/-! ### Delivery (05 R157, R166, R177, R185, 03 R82, R105) -/

/-- Undo an instruction that a hazard leaves without effect (03 R82, R108). (log 10, DESIGN CHOICE) -/
def Core.undo (c : Core) (e : Eng) (r : InFlight) : Core :=
  let c := r.writes.foldl (fun (c : Core) w =>
    { c with scratch := (c.scratch.clear w.1 w.2).write w.1 (r.oldScratch.read w.1 w.2) }) c
  let c := { c with accs := r.oldAccs.foldl (fun (t : Tab Acc) (x : Nat × Acc) => Tab.put {} t x.1 x.2) c.accs, ovf := r.oldOvf }
  c.setFlying e none

/-- An inbound write meets the ranges of executing instructions (03 R82): the one of the engine
earliest in the order MX, VX, TX is named and has no effect. (log 10, DESIGN CHOICE) -/
def State.inboundHazard (s : State) (k : Nat) (ovl : List Eng) (w : Range) : State :=
  let c := s.core k
  match ([Eng.mx, .vx, .tx].filter ovl.contains).filterMap fun e =>
      match c.flying e with
      | some r => (overlaps [w] (r.reads ++ r.writes)).map fun a => (e, r, a)
      | none => none with
  | [] => s
  | (e, r, a) :: _ =>
    let s := s.setCore k (c.undo e r)
    let s := s.updDie (keyDie k) fun x => { x with flights := x.flights.filter fun f => !r.sent.contains f }
    s.coreFault k (.hazard a) r.pc e.num

/-- A flit written to a core's scratch at FADDR (low 14 bits), its line marked when poisoned; the last
flit of a transfer increments the counter (03 R105, 05 R155, R185). -/
def State.scratchWrite (s : State) (k : Nat) (ovl : List Eng) (f : Flit) : State :=
  let a := f.faddr % 2 ^ 14 * 64
  let s := s.inboundHazard k ovl (a, 64)
  let c := s.core k
  let c := c.put a (payloadBytes f.payload)
  let c := if f.poison then { c with poison := insNat (a / 64) c.poison } else c
  s.setCore k (if f.last then c.arrive f.ctr else c)

/-- A flit written to a cluster memory. -/
def State.clusterWrite (s : State) (d cl a : Nat) (l : List Byte) : State :=
  s.updDie d fun x => { x with clusterMem := Tab.upd [] x.clusterMem cl fun m => m.write a l }

/-- `LINK_SLOT` or queueing at an L stop (11 R407, R402): a lane's flit whose class has no TX run of
the lane is discarded and charged; at a DOWN port it is discarded and counted. -/
def State.linkEgress (s : State) (d i : Nat) (f : Flit) : State :=
  let n := 2 * d + i
  let p := s.port n
  if p.st != .up then s.updPort n fun p => { p with losses := satAdd p.losses 1 }
  else if p.tx.any fun e => lkValid e.2 && lkOwner e.2 == f.owner && lkClass e.2 == f.cls then
    s.updPort n fun p => { p with egress := p.egress ++ [f] }
  else if f.owner < 8 then
    s.laneFault d f.owner 8 1 .slot (plocOf d 0xF 0x1F 7 0) n 0
  else s

/-- Requests of a core that have no reply yet: in its cluster's ring or in steward 1's queues. -/
def Die.unanswered (x : Die) (core : Nat) : Nat :=
  ((x.reqRings ++ x.laneQ).flatMap Prod.snd).countP fun r => r.core == core

/-- A TREQ request reaches its cluster's request ring: a fifth unanswered request of a core is
discarded and charged as `ALLOC_OVERRUN` (07 R251, 09 Table 4). -/
def State.ringArrive (s : State) (d cl : Nat) (r : AllocReq) : State :=
  if (s.die d).unanswered r.core < 4 then
    s.updDie d fun x => { x with reqRings := Tab.upd [] x.reqRings cl (· ++ [r]) }
  else
    match (s.core r.core).lane with
    | some l => s.laneFault d l 6 1 .limit (corePloc r.core) 0 0
    | none => s

/-- A flit leaves LOCAL of router `r` in a cycle: the unit there takes it. -/
def State.localDeliver (s : State) (d : Nat) (ovl : List Eng) (f : Flit) (r cycle : Nat) : State :=
  match unitAt r with
  | .core cl k =>
    let key := coreKey d cl k
    let c := s.core key
    if c.st == .off || c.st == .fenced then s.meshFault d r 0 cycle f.owner f.cls 2 .slot
    else
      match f.use with
      | .getReq .. => s.updDie d fun x => { x with gets := Tab.upd [] x.gets r (· ++ [f]) }
      | _ => s.scratchWrite key ovl f
  | .cm cl _ =>
    match f.use with
    | .getReq .. => s.updDie d fun x => { x with gets := Tab.upd [] x.gets r (· ++ [f]) }
    | .allocReq core raddr ctr =>
      s.ringArrive d cl { core, lane := f.owner, vcluster := (s.core core).vc, raddr, ctr, req := f.payload }
    | _ => s.clusterWrite d cl (f.faddr % 2 ^ 18 * 64) (payloadBytes f.payload)
  | .b i =>
    let br : Bridge := Tab.look {} (s.die d).bridges i
    if slValid (Tab.look 0 br.active cycle) then
      let d' := Nat.xor d (2 ^ i)
      s.elasticArrive d' (stopRouter (.b i)) { f with router := stopRouter (.b i), port := 0, cycle := 0 }
    else s.meshFault d r 0 cycle f.owner f.cls 2 .slot 7
  | .l i => s.linkEgress d i f
  | .x => s.updDie d fun y => { y with sampler := insNat f.owner y.sampler }
  | _ => s

/-- One event of a flit's way. -/
def State.meshEvent (s : State) (d : Nat) (ovl : List Eng) (f : Flit) : MeshEv → State
  | .local r c => s.localDeliver d ovl f r c
  | .stray r p c => s.meshFault d r p c f.owner f.cls 2 .slot
  | .parity r p c o =>
    let s := s.meshFault d r p c o f.cls 6 .slot
    if 248 ≤ c then s.resetEntry 8 else s
  | .fail r c => if 248 ≤ c then s.resetEntry 8 else s.routerFail d r

/-- Carry a flit to its destinations. An uncorrectable error poisons a WEIGHT flit and discards any
other, charged as `FLIT_ECC` (05 R185). -/
def State.carry (s : State) (d : Nat) (ovl : List Eng) (bad badMirror : List Nat) (ecc : Bool)
    (f : Flit) : State :=
  if ecc then
    let s := s.updRouter d f.router fun x => { x with uncorr := x.uncorr + 1 }
    if f.cls = 0 then
      let f := { f with poison := true }
      (walkFlit (s.die d) bad badMirror f).foldl (fun s e => s.meshEvent d ovl f e) s
    else s.meshFault d f.router f.port f.cycle f.owner f.cls 1 .link
  else (walkFlit (s.die d) bad badMirror f).foldl (fun s e => s.meshEvent d ovl f e) s

end Sys2Proof.Machine
end

