-- ==== Sys2Proof/Machine/MemOps.lean ====
section
/-! DEFINITION. Physical memory: address fields (06 R190), regions and their epochs (06 R215-R217), and
reading and writing tiers H and M in plain and sealed mode (06 R214-R216). -/

namespace Sys2Proof.Machine

/-- HPA of byte `o` of a 2 MiB region of an H stop (06 Table 1, R215). -/
def hpa (die j region o : Nat) : Nat :=
  die * 2 ^ 36 + (region * 512 + o / 4096) * 2 ^ 15 + j * 2 ^ 12 + o % 4096

/-- MPA of byte `o` of a 2 MiB region of a package (06 Table 1, R215). -/
def mpa (die pkg region o : Nat) : Nat := die * 2 ^ 38 + pkg * 2 ^ 36 + region * 2 ^ 21 + o

/-- Die, stop and region of an HPA. -/
def hpaRegion (a : Nat) : Nat × Nat × Nat := (a / 2 ^ 36, bits a 14 12, bits a 35 15 / 512)

/-- Die, package and region of an MPA. -/
def mpaRegion (a : Nat) : Nat × Nat × Nat := (a / 2 ^ 38, bits a 37 36, bits a 35 21)

/-- A region of an H (`m = false`) or M stop. -/
def State.region (s : State) (m : Bool) (r : Nat × Nat × Nat) : Region :=
  let x := s.die r.1
  Tab.look {} (Tab.look {} (if m then x.mstops else x.hstops) r.2.1).regions r.2.2

/-- Change a region. -/
def State.updRegion (s : State) (m : Bool) (r : Nat × Nat × Nat) (f : Region → Region) : State :=
  s.updDie r.1 fun x => x.updStop (if m then .m else .h) r.2.1 fun t =>
    { t with regions := Tab.upd {} t.regions r.2.2 f }

/-- The write generation in force at an address: the tier's key and its region's epoch. (log 18, DESIGN CHOICE) -/
def State.writeGen (s : State) (m : Bool) (a : Nat) : Nat :=
  let r := if m then mpaRegion a else hpaRegion a
  2 ^ 32 * (if m then s.sec.genM else s.sec.genH) + (s.region m r).epoch.toNat

/-- Sealed mode of the die an address lies on. (log 18, DESIGN CHOICE) -/
def State.sealedAt (s : State) (m : Bool) (a : Nat) : Bool :=
  (s.die (if m then (mpaRegion a).1 else (hpaRegion a).1)).memsec.sealed

/-- A byte of a tier as its stop delivers it: in sealed mode a unit written under another generation
decrypts to noise (06 R216). (log 18, DESIGN CHOICE) -/
def State.memByte (s : State) (m : Bool) (a : Nat) : Byte :=
  let raw := Memory.byte (if m then s.tierM else s.tierH) a
  if s.sealedAt m a then
    let old := Tab.look 0 (if m then s.sealM else s.sealH) (a / 32)
    let now := s.writeGen m a
    if old = now then raw else Config.noise (a / 32) old now (a % 32)
  else raw

/-- Read bytes of a tier. -/
def State.memRead (s : State) (m : Bool) (a n : Nat) : List Byte :=
  (List.range n).map fun i => s.memByte m (a + i)

/-- Write one byte of a tier; in sealed mode the rest of its unit is read and written again under the
generation in force. (log 18, DESIGN CHOICE) -/
def State.memSet (s : State) (m : Bool) (a : Nat) (b : Byte) : State :=
  let u := a / 32
  if s.sealedAt m a then
    let now := s.writeGen m a
    let unit := s.memRead m (32 * u) 32
    let w := fun (t : Memory) => (t.write (32 * u) unit).setByte a b
    if m then { s with tierM := w s.tierM, sealM := Tab.put 0 s.sealM u now }
    else { s with tierH := w s.tierH, sealH := Tab.put 0 s.sealH u now }
  else if m then { s with tierM := s.tierM.setByte a b }
  else { s with tierH := s.tierH.setByte a b }

/-- Write bytes of a tier. (log 18, DESIGN CHOICE) -/
def State.memWrite (s : State) (m : Bool) (a : Nat) : List Byte → State
  | [] => s
  | b :: l => State.memWrite (s.memSet m a b) m (a + 1) l

/-- An epoch advance of a region is asked for: it takes place once the stop's queues hold no request
to the region (06 R216). -/
def State.askAdvance (s : State) (m : Bool) (r : Nat × Nat × Nat) : State :=
  s.updRegion m r fun x => { x with advance := true }

/-- A region's epoch advances by 1; one that reaches the last epoch is withdrawn and counted, and its
counter stops (06 R216, R217). -/
def State.advanceRegion (s : State) (m : Bool) (r : Nat × Nat × Nat) : State :=
  let x := s.region m r
  if x.withdrawn then s.updRegion m r fun x => { x with advance := false }
  else
    let e := x.epoch + 1
    let s := s.updRegion m r fun x =>
      { x with epoch := e, advance := false, withdrawn := e == 0xFFFFFFFF }
    if e = 0xFFFFFFFF then
      s.updDie r.1 fun y =>
        { y with memsec := { y.memsec with withdrawn := satAdd y.memsec.withdrawn 1 } }
    else s

end Sys2Proof.Machine
end

