-- ==== Sys2Proof/Machine/AllocOps.lean ====
section
/-! DEFINITION. Arenas, partitions, objects and handles (07 R245-R260). -/

namespace Sys2Proof.Machine

/-- Key of an arena. -/
def arenaKey (comp vdie tier : Nat) : Nat := 32 * comp + 2 * vdie + tier

/-- An arena. -/
def State.arena (s : State) (k : Nat) : Arena := Tab.look {} s.arenas k

/-- Change an arena. -/
def State.updArena (s : State) (k : Nat) (f : Arena → Arena) : State :=
  { s with arenas := Tab.upd {} s.arenas k f }

/-- Change a partition. -/
def State.updPart (s : State) (k p : Nat) (f : Part → Part) : State :=
  s.updArena k fun a => { a with parts := Tab.upd {} a.parts p f }

/-- A partition. -/
def State.part (s : State) (k p : Nat) : Part := Tab.look {} (s.arena k).parts p

/-- A handle (07 Table 5). (log 25, DEDUCED) -/
def handleOf (ctx part idx : Nat) : Nat := ctx * 2 ^ 22 + part * 2 ^ 11 + idx
/-- Owning context of a handle. -/
def hCtx (h : Nat) : Nat := bits h 31 22
/-- Partition of a handle. -/
def hPart (h : Nat) : Nat := bits h 21 11
/-- Object index of a handle. -/
def hIdx (h : Nat) : Nat := bits h 10 0

/-- The host's partition. -/
def hostPart : Nat := 2047

/-- Composition indices of a context. -/
def State.compsOf (s : State) (c : Nat) : List Nat :=
  (s.comps.filter fun e => e.2.st != .free && e.2.ctx == c).map Prod.fst

/-- The object a handle names in a partition. -/
def State.objAt (s : State) (k h : Nat) : Obj := Tab.look {} (s.part k (hPart h)).objs (hIdx h)

/-- The arena in which a handle names a live object. (log 25, DEDUCED) -/
def State.findObj (s : State) (h : Nat) : Option Nat :=
  (s.arenas.find? fun e => (s.compsOf (hCtx h)).contains (e.1 / 32) && (s.objAt e.1 h).live).map Prod.fst

/-- Change the object a handle names. -/
def State.updObj (s : State) (k h : Nat) (f : Obj → Obj) : State :=
  s.updPart k (hPart h) fun p => { p with objs := Tab.upd {} p.objs (hIdx h) f }

/-- The lowest run of `n` free granules of a partition of `g` (07 R248). -/
def lowestRun (used : List Nat) (g n : Nat) : Option Nat :=
  (0 :: used.map (· + 1)).find? fun b =>
    decide (b + n ≤ g) && !(used.any fun u => decide (b ≤ u) && decide (u < b + n))

/-- The token loop of a composition runs. -/
def State.looping (s : State) (comp : Nat) : Bool := (s.comp comp).loop.isSome

/-- Object indices that are live: of one allocator index in either tier, or of all host partitions of a
context (07 R247: no handle names two live objects). -/
def State.liveIdx (s : State) (ctx k p : Nat) : List Nat :=
  let of (x : Part) : List Nat := (x.objs.filter fun o => o.2.live).map Prod.fst
  let l :=
    if p = hostPart then
      (s.arenas.filter fun e => (s.compsOf ctx).contains (e.1 / 32)).flatMap fun e =>
        of (Tab.look {} e.2.parts hostPart)
    else of (s.part (k / 2 * 2) p) ++ of (s.part (k / 2 * 2 + 1) p)
  l.foldr insNat []

/-- The reply of an allocation: status, handle, arena byte offset and size granted. -/
structure AllocReply where
  st : Status
  handle : Nat := 0
  voff : Nat := 0
  size : Nat := 0
  deriving DecidableEq, Repr

/-- An allocation in a partition (07 R248). -/
def State.alloc (s : State) (ctx comp vdie tier p size : Nat) : State × AllocReply :=
  let k := arenaKey comp vdie tier
  let x := s.part k p
  let n := (size + 0xFFFF) / 2 ^ 16
  let idx := lowestFree 0 (s.liveIdx ctx k p)
  if 2047 < idx then (s, { st := .limit })
  else
    match lowestRun x.usedG x.g n with
    | none => (s, { st := .nomem })
    | some b =>
      (s.updPart k p fun x =>
        { x with usedG := (List.range n).foldl (fun l i => insNat (b + i) l) x.usedG,
                 objs := Tab.put {} x.objs idx { live := true, base := b, n, refs := 1, tier, vdie, comp } },
       { st := .ok, handle := handleOf ctx p idx, voff := x.start * 2 ^ 16 + b * 2 ^ 16, size := n * 2 ^ 16 })

/-- Granules of a whole arena in use, as arena granule numbers. -/
def Arena.used (a : Arena) : List Nat := a.parts.flatMap fun p => p.2.usedG.map (p.2.start + ·)

/-- The physical place of a region of an arena: tier M or not, and die, stop and region. -/
def State.arenaRegion (s : State) (k i : Nat) : Option (Bool × Nat × Nat × Nat) :=
  let vd := k % 32 / 2
  match (s.arena k).regions[i]?, (s.comp (k / 32)).diemap.find? fun e => e.1 = vd with
  | some (stop, region), some (_, die) => some (k % 2 == 1, die, stop, region)
  | _, _ => none

/-- Return granules to a partition: a region left without an object has its epoch advanced
(06 R216). -/
def State.returnG (s : State) (k p : Nat) (gs : List Nat) : State :=
  let start := (s.part k p).start
  let s := s.updPart k p fun x => { x with usedG := x.usedG.filter fun g => !gs.contains g }
  let regions := (gs.map fun g => (start + g) / 32).foldr insNat []
  regions.foldl (fun s i =>
    if (s.arena k).used.any fun g => g / 32 = i then s
    else match s.arenaRegion k i with
      | some (m, r) => s.askAdvance m r
      | none => s) s

/-- An object whose last reference has gone is released: at once when no loop runs, else its granules
return at the next commit barrier (07 R256). -/
def State.dropIfDead (s : State) (k h : Nat) (barrier : Bool) : State :=
  let o := s.objAt k h
  if o.live && o.refs == 0 then
    let gs := (List.range o.n).map (o.base + ·)
    let s := s.updObj k h fun _ => {}
    if barrier || !s.looping (k / 32) then s.returnG k (hPart h) gs
    else s.updPart k (hPart h) fun x => { x with pendG := x.pendG ++ gs }
  else s

/-- Remove one reference from an object. -/
def State.unref (s : State) (h : Nat) : State :=
  match s.findObj h with
  | some k => (s.updObj k h fun o => { o with refs := o.refs - 1 }).dropIfDead k h false
  | none => s

/-- An object is freed: the reference of its allocation goes (07 R256). -/
def State.freeObj (s : State) (k h : Nat) (barrier : Bool) : State :=
  (s.updObj k h fun o => { o with freed := true, refs := o.refs - 1 }).dropIfDead k h barrier

/-- Granules waiting for a commit barrier return (07 R256). -/
def State.returnPending (s : State) (comp : Nat) : State :=
  (s.arenas.filter fun e => e.1 / 32 = comp).foldl (fun s e =>
    e.2.parts.foldl (fun s p =>
      let x := s.part e.1 p.1
      if x.pendG.isEmpty then s
      else (s.returnG e.1 p.1 x.pendG).updPart e.1 p.1 fun x => { x with pendG := [] }) s) s

/-- Physical address of byte `o` of an object (07 R245): tier M or not, and the address. -/
def State.objAddr (s : State) (k h o : Nat) : Option (Bool × Nat) :=
  let off := ((s.part k (hPart h)).start + (s.objAt k h).base) * 2 ^ 16 + o
  match s.arenaRegion k (off / 2 ^ 21) with
  | some (m, die, stop, region) =>
    some (m, if m then mpa die stop region (off % 2 ^ 21) else hpa die stop region (off % 2 ^ 21))
  | none => none

/-- Read bytes of an object. -/
def State.objRead (s : State) (k h o n : Nat) : List Byte :=
  (List.range n).map fun i =>
    match s.objAddr k h (o + i) with
    | some (m, a) => s.memByte m a
    | none => 0

/-- Write bytes of an object. -/
def State.objWrite (s : State) (k h o : Nat) (l : List Byte) : State :=
  (l.zipIdx).foldl (fun s e =>
    match s.objAddr k h (o + e.2) with
    | some (m, a) => s.memSet m a e.1
    | none => s) s

/-- The allocator finds the revoked flag of a context set: every record of the context goes, without
regard to references (07 R259). -/
def State.dropContext (s : State) (c : Nat) : State :=
  if (s.ctx c).allocRevoked then
    { s with arenas := Tab.mapVals {} (fun k (a : Arena) =>
        if (s.compsOf c).contains (k / 32) then
          { a with parts := Tab.mapVals {} (fun _ (p : Part) =>
              { p with usedG := [], pendG := [], objs := [] }) a.parts }
        else a) s.arenas }
  else s

end Sys2Proof.Machine
end

