-- ==== Sys2Proof/Machine/HostOps.lean ====
section
/-! DEFINITION. The host rings (08 R262-R290): event records and their reservations, completion of
descriptors, Tongs' work, doorbells, and the checks every descriptor passes (08 R276-R280). -/

namespace Sys2Proof.Machine

/-! ### Ports and event rings -/

/-- The link of module port 0 (`false`) or 8 (`true`) is up. -/
def State.portUp (s : State) (p : Bool) : Bool := (s.port (if p then 8 else 0)).st == .up

/-- The port that carries a transaction meant for `p` (08 R273, R553). -/
def State.carrier (s : State) (p : Bool) : Option Bool :=
  if s.portUp p then some p else if s.portUp (!p) then some (!p) else none

/-- Records of a ring. -/
def EvRing.size (r : EvRing) : Nat := 2 ^ r.log2n

/-- Free records (08 R284). -/
def EvRing.freeRecs (r : EvRing) : Nat := r.size - (r.tail - r.head).toNat - r.resv

/-- PHASE of the record at the tail (08 R282). -/
def EvRing.phase (r : EvRing) : Nat := 1 - r.tail.toNat / r.size % 2

/-- The 16-byte record header and 48-byte body of an event record, as it stands before it takes its
place in a ring (08 Tables 9 and 10). -/
def State.recordOf (s : State) (kind status flags ctx src : Nat) (body : List Byte) : Payload :=
  bytesPayload (leBytes 1 kind ++ leBytes 1 status ++ leBytes 1 flags ++ leBytes 1 0 ++ leBytes 2 ctx
    ++ leBytes 2 src ++ leBytes 6 s.stamp.toNat ++ leBytes 2 s.mark.toNat ++ slice body 0 48)

/-- A record with PHASE, OVERFLOW and DROPS of its ring filled in (08 Table 9). -/
def EvRing.fill (r : EvRing) (rcd : Payload) : List Byte :=
  let b := payloadBytes rcd
  let flags := (b[2]?).getD 0 ||| BitVec.ofNat 8 (r.phase + 2 * b2n (r.drops != 0))
  b.take 2 ++ [flags, BitVec.ofNat 8 (min r.drops 255)] ++ b.drop 4

/-- Bytes moved by Tongs for a context (09 Table 7 `CTX_HOSTB`). -/
def State.hostBytes (s : State) (c n : Nat) : State := s.updCtx c fun x => { x with dHost := x.dHost + n }

/-- An armed ring whose TAIL differs from its armed head sends one interrupt and is disarmed
(08 R290). -/
def State.irqCheck (s : State) (r : Nat) (p : Bool) : State :=
  let x := s.ring r
  match x.armed with
  | some h => if x.tail != h then (s.updRing r fun x => { x with armed := none }).emit (.irq p x.vector) else s
  | none => s

/-- Write one record through a port: bytes 8-63, then bytes 0-7 (08 R283); TAIL advances. (log 27, DEDUCED) -/
def State.writeRecord (s : State) (r : Nat) (rcd : Payload) (p : Bool) : State :=
  let x := s.ring r
  let b := x.fill rcd
  let a := x.base.toNat + 64 * (x.tail.toNat % x.size)
  let pasid := (s.ctx x.ctx).pasid.toNat
  let s := (s.emit (.hostWrite p pasid (a + 8) (b.drop 8))).emit (.hostWrite p pasid a (b.take 8))
  let s := s.updRing r fun x => { x with tail := x.tail + 1, drops := 0 }
  (s.hostBytes x.ctx 64).irqCheck r p

/-- Add work to a Tongs for a context. -/
def State.pushWork (s : State) (p : Bool) (c : Nat) (w : Work) : State :=
  s.updTongs p fun t => { t with work := Tab.upd [] t.work c (· ++ [w]) }

/-- A CLOSE of the context is accepted: nothing more is written to its rings (09 R310). -/
def State.closing (s : State) (c : Nat) : Bool := (s.ctx c).closing

/-- Records of one event for a ring, through port `p` (08 R289): each takes a reserved place, or with too
few free records the event is dropped whole. The result says whether it was kept. -/
def State.noticeOn (s : State) (p : Bool) (r : Nat) (l : List Payload) : State × Bool :=
  let x := s.ring r
  if !x.live || s.closing x.ctx then (s, false)
  else if l.length ≤ x.freeRecs then
    let s := s.updRing r fun x => { x with resv := x.resv + l.length }
    (l.foldl (fun s rcd => s.pushWork p x.ctx (.record r rcd true)) s, true)
  else (s.updRing r fun x => { x with drops := x.drops + l.length }, false)

/-- Records of one event through the ring's own port. -/
def State.notice (s : State) (r : Nat) (l : List Payload) : State × Bool :=
  s.noticeOn (s.ring r).port r l

/-! ### Descriptors -/

/-- The descriptor at the front of a queue. -/
def Queue.front (x : Queue) : Option Accepted := x.acc.head?

/-- Bytes of a descriptor. -/
def Accepted.bytes (a : Accepted) : List Byte := payloadBytes a.d

/-- The opcode of a descriptor. -/
def Accepted.op (a : Accepted) : Nat := field a.bytes 0 1

/-- The opcodes of 08 Table 5. -/
def descDefined (op : Nat) : Bool :=
  (decide (1 ≤ op) && decide (op ≤ 0x0B)) || op == 0x10 || op == 0x11 || (decide (0x20 ≤ op) && decide (op ≤ 0x27))
    || (decide (0x30 ≤ op) && decide (op ≤ 0x34)) || (decide (0x40 ≤ op) && decide (op ≤ 0x42))
    || (decide (0x48 ≤ op) && decide (op ≤ 0x4D)) || (decide (0x50 ≤ op) && decide (op ≤ 0x54))

/-- Admin opcodes. -/
def descAdmin (op : Nat) : Bool := decide (op ≤ 0x0B)

/-- Opcodes that name a composition. -/
def descNames (op : Nat) : Bool :=
  op == 0x30 || op == 0x41 || op == 0x42 || (decide (0x48 ≤ op) && decide (op ≤ 0x4D))

/-- Clear what belongs to the front descriptor and remove it. -/
def Queue.pop (x : Queue) : Queue :=
  { x with acc := x.acc.drop 1, buf := [], readFailed := false, outAddr := 0, outBuf := [],
           started := false, fin := none }

/-- Queue the completion record of the front descriptor (08 Table 10): the reservation it was accepted
with holds its place. -/
def State.pushCompletion (s : State) (q : Nat) (a : Accepted) (st : Status) (result : BitVec 256) : State :=
  let x := s.queue q
  let rcd := s.recordOf 1 st.code 0 x.ctx q
    (slice a.bytes 4 4 ++ leBytes 4 a.pos.toNat ++ leBytes 1 a.op ++ leBytes 7 0
      ++ leBytes 32 (if st = .ok then result.toNat else 0))
  s.pushWork (s.ring x.evring).port x.ctx (.record x.evring rcd true)

/-- The front descriptor leaves its queue, with the object reference it held (08 R272, 07 R255). -/
def State.dropFront (s : State) (q : Nat) : State :=
  let r := (s.queue q).front.bind (·.ref)
  let s := s.updQueue q Queue.pop
  match r with
  | some h => s.unref h
  | none => s

/-- The descriptor at the front of a queue completes (08 R272, R284). Without a record (QUIET and `OK`,
or a context whose CLOSE is accepted) its reservation is released and it leaves the queue; otherwise it
leaves when its record is written. -/
def State.finish (s : State) (q : Nat) (st : Status) (result : BitVec 256) : State :=
  let x := s.queue q
  match x.front with
  | none => s
  | some a =>
    if s.closing x.ctx || (st == .ok && bit (field a.bytes 1 1) 0) then
      (s.updRing x.evring fun r => { r with resv := r.resv - 1 }).dropFront q
    else
      let s := s.updQueue q fun x => { x with fin := some (st, result) }
      if x.outBuf.isEmpty then s.pushCompletion q a st result else s

/-- A Hearth command the primary steward has begun (09 R302). -/
def Queue.hearthBegun (x : Queue) (a : Accepted) : Bool :=
  x.started && decide (0x20 ≤ a.op) && decide (a.op ≤ 0x27)

/-- What follows when a descriptor reaches the front of a queue: in a LOST context it completes with
`LOST` (09 R302, R309), and one with an undefined opcode with `FORMAT` (08 R280). `n` bounds the
descriptors that leave without a record. -/
def State.settleN (q : Nat) : Nat → State → State
  | 0, s => s
  | n + 1, s =>
    let x := s.queue q
    match x.front with
    | none => s
    | some a =>
      let lost := (s.ctx x.ctx).st == .lost
      if x.fin.isNone && !x.hearthBegun a && (lost || !descDefined a.op) then
        let s := (s.updQueue q fun x => { x with outBuf := [] }).finish q (if lost then .lost else .format) 0
        if ((s.queue q).fin).isNone then State.settleN q n s else s
      else s

/-- Settle the front of a queue. -/
def State.settle (s : State) (q : Nat) : State := State.settleN q (s.queue q).acc.length s

/-- The front descriptor completes, and the next one starts. (log 28, DEDUCED) -/
def State.complete (s : State) (q : Nat) (st : Status) (result : BitVec 256 := 0) : State :=
  let s := s.finish q st result
  if (s.queue q).fin.isNone then s.settle q else s

/-- Every byte of the body outside the listed fields (offset, length) is zero (08 R278). -/
def bodyZero (b : List Byte) (used : List (Nat × Nat)) : Bool :=
  (List.range 48).all fun i =>
    let k := 16 + i
    (used.any fun u => decide (u.1 ≤ k) && decide (k < u.1 + u.2)) || (b[k]?).getD 0 == 0

/-- Header rules of 08 Table 4 and the COMP rules of R276. `member`: a POOL_MAP on a pool member. -/
def headerOk (b : List Byte) (member : Bool) : Bool :=
  let op := field b 0 1
  let comp := field b 12 2
  bits (field b 1 1) 7 1 == 0 && field b 2 2 == 0 && field b 14 2 == 0
    && (if descNames op && !(op == 0x4D && member) then decide (comp < 256)
        else comp == 0xFFFF && field b 8 4 == 0)

/-- An address of a host buffer is 64-byte aligned (08 R278). -/
def al64 (b : List Byte) (off : Nat) : Bool := field b off 8 % 64 == 0

/-- How a descriptor starts: none when the event does not arise. -/
structure Start where
  ctx : Nat
  comp : Nat
  b : List Byte

/-- The checks common to all descriptors, in the order of 08 R280: `LOST`, `FORMAT`, `DENIED`, `STALE`,
then `STATE` for a FREE composition index. `fmt` and `fmtS` add the form of the body and `denied` the objects and
rings it names; `f` makes the remaining checks and the effect. A descriptor that has started keeps the
generation it started under (10 R332). (log 2, DESIGN CHOICE) -/
def State.descr (s : State) (q op : Nat) (used : List (Nat × Nat)) (fmt : List Byte → Bool)
    (denied : State → Nat → List Byte → Bool) (f : State → Start → State)
    (fmtS : State → List Byte → Bool := fun _ _ => true) : State :=
  let x := s.queue q
  match x.front with
  | none => s
  | some a =>
    let b := a.bytes
    let member := s.sb.role
    if x.fin.isSome || a.op != op || !s.inRun then s
    else if (s.ctx x.ctx).st == .lost && !x.hearthBegun a then s.settle q
    else if !(headerOk b member && bodyZero b used && fmt b && fmtS s b) then s.complete q .format
    else
      let comp := field b 12 2
      let m := s.comp comp
      let names := decide (comp < 256)
      if (descAdmin op && q != 0) || (names && m.st != .free && m.ctx != x.ctx) || denied s x.ctx b then
        s.complete q .denied
      else if names && m.st == .free then s.complete q .state
      else if names && !x.started && m.gen.toNat != field b 8 4 then
        (s.updComp comp fun m => { m with stales := satAdd m.stales 1 }).complete q .stale
      else f s { ctx := x.ctx, comp, b }

/-- No object or ring of another context is named. -/
def noDenied (_ : State) (_ : Nat) (_ : List Byte) : Bool := false

/-- Continue once `n` bytes of host data are there; a failed read ends the descriptor with `LINK`, or with the
status that comes before it (08 R262, R280). (log 27, DEDUCED) -/
def State.withData (s : State) (q n : Nat) (f : List Byte → State) (failed : Status := .link) : State :=
  let x := s.queue q
  if x.readFailed then s.complete q failed
  else if x.buf.length < n then s
  else f (x.buf.take n)

/-- Give the front descriptor bytes to write to the host, and complete once they are written. -/
def State.sendOut (s : State) (q addr : Nat) (l : List Byte) (st : Status) (result : BitVec 256) : State :=
  (s.updQueue q fun x => { x with outAddr := addr, outBuf := l, started := true }).complete q st result

/-- The host data a descriptor reads before it takes effect (08 R279): addresses and lengths, in order. -/
def Accepted.need (a : Accepted) : List (Nat × Nat) :=
  let b := a.bytes
  match a.op with
  | 0x01 => [(field b 24 8, 64)]
  | 0x20 => [(field b 48 8, field b 56 8)]
  | 0x34 => if field b 20 1 = 0 then [(field b 32 8, field b 40 8)] else []
  | 0x40 => [(field b 16 8, field b 24 4), (field b 32 8, field b 40 8)]
  | 0x41 => [(field b 16 8, field b 24 4)]
  | 0x48 | 0x4A => [(field b 24 8, 64)]
  | 0x4B => [(field b 16 8, 768)]
  | 0x4D => [(field b 16 8, 64 * field b 24 4)]
  | _ => []

/-- Where the next read goes when `k` bytes have come: address, and bytes left of that buffer. -/
def needAt : Nat → List (Nat × Nat) → Option (Nat × Nat)
  | _, [] => none
  | k, (a, n) :: l => if k < n then some (a + k, n - k) else needAt (k - n) l

/-! ### Parked waits (09 R313-R319) -/

/-- A fence with value `f` has reached `v` (09 R313). -/
def reached (f v : Word64) : Bool := decide ((f - v).toNat < 2 ^ 63)

/-- The queues whose front is a parked FENCE_WAIT on a fence, in ascending index. -/
def State.parked (s : State) (n : Nat) : List Nat :=
  (s.queues.filter fun e =>
    match e.2.front with
    | some a => a.op == 0x54 && field a.bytes 16 2 == n && e.2.started && e.2.fin.isNone
    | none => false).map Prod.fst

/-- Complete the parked waits that the fence's value has reached (09 R316). -/
def State.releaseWaits (s : State) (n : Nat) : State :=
  (s.parked n).foldl (fun s q =>
    match (s.queue q).front with
    | some a =>
      if reached (s.fence n).value (BitVec.ofNat 64 (field a.bytes 24 8)) then s.complete q .ok else s
    | none => s) s

end Sys2Proof.Machine
end

