-- ==== Sys2Proof/Machine/RecOps.lean ====
section
/-! DEFINITION. The replay recorder's rings: appending records, the chain and the reserve (12 R413-R420). -/

namespace Sys2Proof.Machine

/-- Bytes of a ring (12 R413). -/
def recBytes : Nat := 2 ^ 26

/-- The reserve below which host work is refused (12 R418). -/
def recReserve : Nat := 65536

/-- Unreleased bytes of a ring. -/
def RecRing.used (r : RecRing) : Nat := (r.recs.map fun x => x.bytes.length).sum

/-- Free bytes of a ring. -/
def RecRing.freeBytes (r : RecRing) : Nat := recBytes - r.used

/-- The ring ends with a CLOSE, not counting the checkpoints that follow it (12 Table 5). -/
def RecRing.closed (r : RecRing) : Bool :=
  match (r.recs.filter fun x => x.kind != 8).getLast? with
  | some x => x.kind == 9
  | none => false

/-- Pad bytes with zeros to a whole number of 64-byte units. -/
def pad64 (l : List Byte) : List Byte := l ++ List.replicate (cdiv l.length 64 * 64 - l.length) 0

/-- The bytes of a record: header and body (12 Table 2). `body` starts at byte 64. -/
def recordBytes (kind comp seq step pos : Nat) (prev : Digest) (body : List Byte) : List Byte :=
  let b := pad64 body
  leBytes 1 kind ++ leBytes 1 1 ++ leBytes 2 (1 + b.length / 64) ++ leBytes 2 comp ++ leBytes 2 0
    ++ leBytes 8 seq ++ leBytes 8 step ++ leBytes 8 pos ++ leBytes 32 prev.toNat ++ b

/-- A record of this kind makes a checkpoint due (12 R419): LOOP stop, BINDING, CLOSE, and every 16,384th
STEP. -/
def makesDue (kind steps : Nat) (body : List Byte) : Bool :=
  (kind == 4 && field body 0 1 == 1) || kind == 2 || kind == 9 || (kind == 5 && steps % 16384 == 0)

/-- Append a record to a ring (12 R414, R415). (log 33, DEDUCED) -/
def RecRing.append (r : RecRing) (comp kind step pos : Nat) (body : List Byte) : RecRing :=
  let bytes := recordBytes kind comp r.nextSeq step pos (if r.nextSeq = 0 then 0 else r.lastChain) body
  let chain := sha256 bytes
  let steps := if kind = 5 then r.steps + 1 else r.steps
  { r with recs := r.recs ++ [{ kind, seq := r.nextSeq, step := BitVec.ofNat 64 step, bytes }],
           nextSeq := r.nextSeq + 1, lastChain := chain, any := true, steps,
           due := if makesDue kind steps body then r.due ++ [(r.nextSeq, chain)] else r.due }

/-- The lane of a composition on its first die: its step count and committed length are those of every
die (04 R146). -/
def State.compLane (s : State) (k : Nat) : Lane := s.lane (s.comp k).rootDie (s.comp k).lane

/-- Append a record to a composition's ring with the step count and committed length in force. -/
def State.append (s : State) (k kind : Nat) (body : List Byte) : State :=
  let l := s.compLane k
  s.updRec k fun r => r.append k kind l.step.toNat l.lc body

/-- A CLOSE record, unless the ring already ends with one (12 Table 3, R422). -/
def State.appendClose (s : State) (k reason : Nat) : State :=
  let c := s.ctx (s.comp k).ctx
  if (s.recRing k).closed then s
  else s.append k 9 (leBytes 1 reason ++ [c.fUnit, c.fCode, c.fStatus])

/-- Room for records of `n` bytes outside a running loop, above the reserve (12 R418). -/
def State.recRoom (s : State) (k n : Nat) : Bool :=
  decide (recReserve + n ≤ (s.recRing k).freeBytes)

/-- The STEP of the first record not written by a fetch, when every record was: the newest record's, or 0
(12 R420). -/
def RecRing.nextStep (r : RecRing) : Nat :=
  match r.recs.getLast? with
  | some x => x.step.toNat
  | none => 0

end Sys2Proof.Machine
end

