-- ==== Sys2Proof/Machine/CtxOps.lean ====
section
/-! DEFINITION. Contexts: accounting, fences and their poisoning, LOST and its actions, revocation
(09 R301-R323, 15 R491-R493). -/

namespace Sys2Proof.Machine

/-! ### Accounting (09 R321-R323) -/

/-- Sum of the mesh byte counters of a composition's lane over its dies (05 R184). -/
def State.laneBytes (s : State) (k : Nat) : Nat :=
  let m := s.comp k
  (m.dies.map fun d => ((List.range 8).map fun c => (Tab.look 0 (s.die d).bcnt (8 * m.lane + c)).toNat).sum).sum

/-- Sum of the mesh byte counters of a context's lanes. -/
def State.ctxBytes (s : State) (c : Nat) : Nat :=
  ((s.compsOf c).map s.laneBytes).sum

/-- Energy in units of 2^-10 nJ (09 Table 8) of counts since the last update. (log 14, DEDUCED) -/
def energyOf (mx2048 mx1024 mx512 vx tx mesh h m host frames : Nat) : Nat :=
  (380 * mx2048 + 420 * mx1024 + 460 * mx512 + 110 * vx + 20 * tx + 2 * mesh + 27 * h + 41 * m + 30 * host
    + 48000 * frames) * 1024 / 1000

/-- Bring a context's counters up to date (09 R323). `bytes` is the sum of its lanes' mesh counters.
(log 14, DEDUCED) -/
def Ctx.account (x : Ctx) (bytes : Nat) : Ctx :=
  let mesh := (bytes + 2 ^ 64 - x.meshShown % 2 ^ 64) % 2 ^ 64
  let at' (r : Nat) : Nat := Tab.look 0 x.dMx r
  { x with
    mx := wrapAdd x.mx ((x.dMx.map Prod.snd).sum), vx := wrapAdd x.vx x.dVx, tx := wrapAdd x.tx x.dTx,
    meshb := wrapAdd x.meshb mesh, hbytes := wrapAdd x.hbytes x.dH, mbytes := wrapAdd x.mbytes x.dM,
    hostb := wrapAdd x.hostb x.dHost,
    energy := x.energy + energyOf (at' 2048) (at' 1024) (at' 512) x.dVx x.dTx mesh x.dH x.dM x.dHost x.dFrames,
    dMx := [], dVx := 0, dTx := 0, dH := 0, dM := 0, dHost := 0, dFrames := 0, meshShown := bytes }

/-- Bring a context's counters up to date. (log 14, DEDUCED) -/
def State.account (s : State) (c : Nat) : State :=
  let b := s.ctxBytes c
  s.updCtx c fun x => x.account b

/-! ### Fences (09 R312-R320) -/

/-- The FENCE record of a fence (08 Table 10). -/
def State.fenceRecord (s : State) (n : Nat) (poisoned : Bool) : Payload :=
  let f := s.fence n
  s.recordOf 5 (if poisoned then 10 else 0) 0 f.owner n
    (leBytes 2 n ++ leBytes 1 (b2n poisoned) ++ leBytes 5 0 ++ leBytes 8 f.value.toNat)

/-- A fence returns to FREE once its owner is gone and nobody is attached (09 R320). (log 29, DEDUCED) -/
def State.freeFence (s : State) (n : Nat) : State :=
  s.updFence n fun f => if f.ownerGone && f.attached.isEmpty then {} else f

/-- A LIVE fence is poisoned (09 R318): parked waits that a begun signal has reached still complete with
`OK` (R319), the others with `FENCE`. -/
def State.poison (s : State) (n : Nat) : State :=
  if (s.fence n).st == .live then
    let s := s.updFence n fun f => { f with st := .poisoned }
    let s := if (s.fence n).nring = 0xFFFF then s else (s.notice (s.fence n).nring [s.fenceRecord n true]).1
    let s := s.releaseWaits n
    (s.parked n).foldl (fun s q => s.complete q .fence) s
  else s

/-- A signal with value `v` on a LIVE fence (09 R314, R317): the new value, its write-back, its notice,
and the waits it reaches. `p` is the port that carries the write-back and the notice. (log 29, DEDUCED) -/
def State.raiseFence (s : State) (n : Nat) (v : Word64) (p : Bool) (c : Nat) : State :=
  let f := s.fence n
  let d := (v - f.value).toNat
  if d = 0 then s
  else if d < 2 ^ 63 then
    let s := s.updFence n fun f => { f with value := v }
    let s := if f.wb = 0 then s else s.pushWork p f.owner (.wb n f.wb v)
    let s := if f.nring = 0xFFFF then s else (s.noticeOn p f.nring [s.fenceRecord n false]).1
    s
  else s.updCtx c fun x => { x with lowsig := satAdd x.lowsig 1 }

/-- The waits a signal releases complete after the WB write, at once where there is none (09 R317).
(log 29, DEDUCED) -/
def State.afterSignal (s : State) (n : Nat) : State :=
  if (s.fence n).wb = 0 then s.releaseWaits n else s

/-! ### LOST (09 R301-R304) -/

/-- The 48-byte fault record (09 Table 4). -/
def faultBytes (m : FaultMsg) (more : Bool) : List Byte :=
  leBytes 1 m.unit ++ leBytes 1 m.code ++ leBytes 1 m.status.code ++ leBytes 1 (b2n more + 2 * b2n m.virt)
    ++ leBytes 2 m.comp ++ leBytes 1 m.lane ++ leBytes 1 0 ++ leBytes 4 m.gen ++ leBytes 4 m.step
    ++ leBytes 4 m.fi ++ leBytes 4 m.ploc ++ leBytes 4 m.vloc ++ leBytes 2 m.pc ++ leBytes 2 0
    ++ leBytes 8 m.info ++ leBytes 8 m.addr

/-- The fault ring of a context. (log 27, DEDUCED) -/
def State.faultRing (s : State) (c : Nat) : Option Nat :=
  (s.rings.find? fun e => e.2.live && e.2.faults && e.2.ctx == c).map Prod.fst

/-- The fault event of a context goes to its fault ring, whose reserved record it takes, or to event
ring 0 (08 R285, R289). -/
def State.faultEvent (s : State) (c : Nat) (m : FaultMsg) (more : Bool) : State :=
  let rcd := s.recordOf 4 m.status.code 0 c m.die (faultBytes m more)
  match s.faultRing c with
  | some r => s.pushWork (s.ring r).port c (.record r rcd true)
  | none =>
    let (s, ok) := s.notice 0 [rcd]
    if ok then s else s.updCtx c fun x => { x with fDropped := true }

/-- A lane stops on every die: its step emits no event, and its loop is over (09 R301 item 3). -/
def State.stopComp (s : State) (k : Nat) : State :=
  let m := s.comp k
  let stop (i : Nat) (c : Core) : Core :=
    if m.dies.contains (keyDie i) && c.lane == some m.lane && c.st == CoreState.run then
      { c.halt with st := .idle }
    else c
  let s := { s with cores := Tab.mapVals {} stop s.cores }
  let s := s.updLanes m.dies m.lane fun L => { L with st := .idle, stop := false }
  let s := m.dies.foldl (fun (s : State) d => s.updDie d fun x =>
    { x with ucps := Tab.upd {} x.ucps m.lane fun u => { u with running := false, waiting := false } }) s
  s.updComp k fun m => { m with loop := none, pend := [], heldRecs := [] }

/-- The working dies of the module. -/
def State.workingDies (s : State) : List Nat := (List.range 8).filter fun d => (s.die d).working

/-- Quench sends REVOKE_LANE for each lane of a context and one REVOKE_TAG to every die (15 R491);
die `d` is the origin. -/
def State.quench (s : State) (c d : Nat) : State :=
  let lanes := (s.compsOf c).map fun k => (s.comp k).lane
  let cmds := lanes.map (fun l => (1, l)) ++ [(2, 0)]
  let s' := cmds.zipIdx.foldl (fun (s : State) e =>
    s.emit (.quench d e.1.1 e.1.2 c (s.nextSeq + e.2))) s
  let acks := cmds.zipIdx.flatMap fun e => s.workingDies.map fun x => (x, s.nextSeq + e.2)
  { s' with nextSeq := s.nextSeq + cmds.length, revs := s'.revs ++ [{ ctx := c, acks }] }

/-- Every queue of a context enters DRAINING, and the descriptors at their fronts complete with `LOST`
where R302 says so. -/
def State.drainQueues (s : State) (c : Nat) : State :=
  let qs := (s.queues.filter fun e => e.2.st != .free && e.2.ctx == c).map Prod.fst
  qs.foldl (fun s q =>
    let s := s.updQueue q fun x =>
      { x with st := .draining, fin := if x.outBuf.isEmpty then x.fin else none, outBuf := [] }
    s.settle q) s

/-- The actions of R301 after the fault event: revocation, stopped lanes, poisoned fences, draining
queues. -/
def State.loseBody (s : State) (c d : Nat) : State :=
  let ks := s.compsOf c
  let s := (s.account c).updCtx c fun x => { x with st := .lost }
  let s := s.quench c d
  let s := ks.foldl (fun s k => s.stopComp k) s
  let s := (s.fences.filter fun f => f.2.owner == c && f.2.share && f.2.st == .live).foldl
    (fun s f => s.poison f.1) s
  s.drainQueues c

/-- A context is OPEN or ACTIVE. -/
def State.alive (s : State) (c : Nat) : Bool := (s.ctx c).st == .opened || (s.ctx c).st == .active

/-- The first fault of a context moves it to LOST (09 R301, R304-R307): `l` are its faults of the
recording window. (log 28, DEDUCED) -/
def State.recordFault (s : State) (c : Nat) (m : FaultMsg) (more : Bool) : State :=
  let s := s.updCtx c fun x =>
    { x with fUnit := BitVec.ofNat 8 m.unit, fCode := BitVec.ofNat 8 m.code,
             fStatus := BitVec.ofNat 8 m.status.code, fValid := true }
  let s := s.faultEvent c m more
  let s := (s.compsOf c).foldl (fun s k => s.appendClose k 2) s
  s.loseBody c m.die

/-! ### The cap in force (14 R474) -/

/-- `PWR_CAP.INFORCE`: the configured cap with the shifts of every SHIFT composition, from 1,000 W to
3,600 W. -/
def State.recap (s : State) : State :=
  let c : Int := s.pwr.cap.toNat
  let d := ((s.comps.filter fun e => e.2.st != .free && e.2.balShift).map fun e => (e.2.capw : Int) - c).sum
  { s with pwr := { s.pwr with inforce := BitVec.ofNat 12 (min 3600 (max 1000 (c + d))).toNat } }

/-! ### Revocation (15 R491-R493) -/

/-- Entries of an owner made not VALID in a table. -/
def clearOwner {w : Nat} (owner : BitVec w → Nat) (o : Nat) (t : Tab (BitVec w)) : Tab (BitVec w) :=
  t.filter fun e => owner e.2 != o

/-- An owner-table byte names an owner. -/
def ownByte (v o i : Nat) : Bool := bits v (8 * i + 3) (8 * i) == o && bit v (8 * i + 7)

/-- An owner register without an owner's entries. -/
def clearOwn {w : Nat} (v : BitVec w) (o : Nat) : BitVec w :=
  (List.range 8).foldl (fun v i => if ownByte v.toNat o i then v &&& ~~~(BitVec.ofNat w (0xFF * 2 ^ (8 * i))) else v) v

/-- A memory stop without an owner's entries and queue (15 Table 3). -/
def MemStop.revoke (t : MemStop) (o : Nat) : MemStop :=
  { t with own0 := clearOwn t.own0 o, own1 := clearOwn t.own1 o, own0Shadow := clearOwn t.own0Shadow o,
           own1Shadow := clearOwn t.own1Shadow o, queue := t.queue.filter fun r => r.owner != o }

/-- A core that a lane's revocation stops. -/
def Core.revoke (c : Core) (l : Nat) : Core :=
  let f : Tab Word64 → Tab Word64 := fun t => t.filter fun e => bits e.2.toNat 13 10 != l
  { c with st := if c.st == .off || c.st == .fenced then c.st else .idle, mx := none, vx := none, tx := none,
           refetch := none, landing := none, barWait := none, chan := f c.chan, chanShadow := f c.chanShadow }

/-- The lane of the table image a die's loader is loading (05 R169). -/
def Die.loadLane (x : Die) : Nat := field (x.stewMem.read (x.ctl.base.toNat * 64) 64) 4 1

/-- REVOKE_LANE on the agents of a die (15 Table 3). (log 15, DEDUCED) -/
def Die.revokeLane (x : Die) (l : Nat) : Die :=
  { x with
    routers := Tab.mapVals {} (fun _ (r : Router) =>
      { r with active := clearOwner slOwner l r.active, shadow := clearOwner slOwner l r.shadow,
               mirror := clearOwner slOwner l r.mirror,
               mirrorShadow := clearOwner slOwner l r.mirrorShadow }) x.routers
    bridges := Tab.mapVals {} (fun _ (b : Bridge) =>
      { b with active := clearOwner slOwner l b.active, shadow := clearOwner slOwner l b.shadow }) x.bridges
    elastic := x.elastic.filter fun e => e.1 % 16 != l
    gets := Tab.mapVals [] (fun _ (q : List Flit) => q.filter fun f => f.owner != l) x.gets
    flights := x.flights.filter fun f => f.owner != l
    lanes := Tab.upd {} x.lanes l fun L => { L with st := .idle, enable := false, rfw := 0 }
    ctl := { x.ctl with
      arm := x.ctl.arm && x.ctl.lane.toNat != l
      busy := x.ctl.busy && x.loadLane != l }
    hstops := Tab.mapVals {} (fun _ (t : MemStop) => t.revoke l) x.hstops
    mstops := Tab.mapVals {} (fun _ (t : MemStop) => t.revoke l) x.mstops
    sampler := x.sampler.filter (· != l) }

/-- REVOKE_LANE on one die: its agents, its cores, its link ports, and, on the dies with a Tongs, the
event slots of the lane's composition. -/
def State.revokeLane (s : State) (d l : Nat) : State :=
  let k := s.laneComp d l
  let s := s.updDie d fun x => x.revokeLane l
  let s := { s with cores := Tab.mapVals {} (fun i (c : Core) =>
    if keyDie i == d && c.lane == some l then c.revoke l else c) s.cores }
  let s := [2 * d, 2 * d + 1].foldl (fun s p => s.updPort p fun q =>
    { q with tx := clearOwner lkOwner l q.tx, rx := clearOwner lkOwner l q.rx,
             txShadow := clearOwner lkOwner l q.txShadow, rxShadow := clearOwner lkOwner l q.rxShadow,
             units := q.units.filter (fun e => e.1 / 2 != l), unitsNext := q.unitsNext.filter (fun e => e.1 / 2 != l),
             egress := q.egress.filter fun f => f.owner != l }) s
  if d = 0 ∨ d = 4 then
    s.updTongs (d == 4) fun t => { t with evUse := Tab.mapVals none (fun _ (u : Option Nat) => if u == k then none else u) t.evUse }
  else s

/-- REVOKE_TAG on one die: regions of a context's tag, and its shared fences (15 Table 3, 07 R258). -/
def State.revokeTag (s : State) (d c : Nat) : State :=
  let f : Tab MemStop → Tab MemStop := Tab.mapVals {} fun _ (t : MemStop) =>
    let g : Region → Region := fun r =>
      if r.tagged && r.tag == c then { r with tagged := false, revoked := true, advance := true } else r
    { t with regions := Tab.mapVals {} (fun _ (r : Region) => g r) t.regions }
  let s := s.updDie d fun x => { x with hstops := f x.hstops, mstops := f x.mstops }
  let s := s.updCtx c fun x => { x with allocRevoked := true }
  (s.fences.filter fun f => f.2.owner == c && f.2.share && f.2.st == .live).foldl (fun s f => s.poison f.1) s

/-- Acknowledge a command of Quench. (log 28, DEDUCED) -/
def State.ack (s : State) (d seq : Nat) : State :=
  { s with revs := s.revs.map fun r => { r with acks := r.acks.filter fun a => a != (d, seq) } }

end Sys2Proof.Machine
end

