-- ==== Sys2Proof/Machine/Tongs.lean ====
section
/-! DEFINITION. Tongs: service slots, fetches, returned data and doorbells (08 R262-R275, R283-R290). -/

namespace Sys2Proof.Machine

/-! ### Leaving the queue -/

/-- The front descriptor's record has been written: it leaves its queue and the next one may start
(08 R272). -/
def State.popQueue (s : State) (q : Nat) : State := (s.dropFront q).settle q

/-- The fault event of a context is still to be written (09 R303). -/
def State.faultWaiting (s : State) (c : Nat) : Bool :=
  (s.tongs0.work ++ s.tongs8.work).any fun e => e.2.any fun w =>
    match w with
    | .record _ rcd _ => field (payloadBytes rcd) 0 1 == 4 && field (payloadBytes rcd) 4 2 == c
    | _ => false

/-- A completion with `LOST` waits for its context's fault event (09 R303). -/
def State.held (s : State) (w : Work) : Bool :=
  match w with
  | .record _ rcd _ =>
    let b := payloadBytes rcd
    field b 0 1 == 1 && field b 1 1 == Status.lost.code && s.faultWaiting (field b 4 2)
  | _ => false

/-- A record is written: its reservation is used, and a completion takes its descriptor out of its
queue. (log 27, DEDUCED) -/
def State.recordOut (s : State) (r : Nat) (rcd : Payload) (resv : Bool) (p : Bool) : State :=
  let s := if resv then s.updRing r fun x => { x with resv := x.resv - 1 } else s
  let s := s.writeRecord r rcd p
  if field (payloadBytes rcd) 0 1 = 1 then s.popQueue (field (payloadBytes rcd) 6 2) else s

/-- Split off the records of ring `r` that go out in one transaction: up to `n`, within one 4 KiB page
(08 R265). `i` is the index of the next place in the ring's page. -/
def takeBatch (r : Nat) : Nat → Nat → List Work → List (Payload × Bool) × List Work
  | 0, _, l => ([], l)
  | _ + 1, _, [] => ([], [])
  | n + 1, i, w :: l =>
    match w with
    | .record r' rcd resv =>
      if r' = r ∧ i < 64 then
        let (a, b) := takeBatch r n (i + 1) l
        ((rcd, resv) :: a, b)
      else ([], w :: l)
    | _ => ([], w :: l)

/-- Work whose turn it is: the first item that is not held, with what stands before and after it.
(log 27, DEDUCED) -/
def State.nextWork (s : State) : List Work → List Work → Option (List Work × Work × List Work)
  | _, [] => none
  | pre, w :: l => if s.held w then State.nextWork s (pre ++ [w]) l else some (pre, w, l)

/-- The first transaction of a context's list in Tongs `t`, carried by port `p`. -/
def State.workOut (s : State) (t p : Bool) (c : Nat) : Option State :=
  match s.nextWork [] (Tab.look [] (s.tongs t).work c) with
  | none => none
  | some (pre, w, l) =>
    let keep (s : State) (l : List Work) : State :=
      s.updTongs t fun x => { x with work := Tab.put [] x.work c (pre ++ l) }
    some (match w with
      | .record r _ _ =>
        let i := (s.ring r).tail.toNat % (s.ring r).size % 64
        let (batch, rest) := takeBatch r 16 i (w :: l)
        batch.foldl (fun s e => s.recordOut r e.1 e.2 p) (keep s rest)
      | .headwb q h =>
        ((keep s l).hostBytes c 8).emit
          (.hostWrite p (s.ctx c).pasid.toNat (s.queue q).headwb.toNat (leBytes 8 h.toNat))
      | .wb n a v =>
        (((keep s l).hostBytes c 8).emit
          (.hostWrite p (s.ctx c).pasid.toNat a.toNat (leBytes 8 v.toNat))).releaseWaits n)

/-! ### Fetches and data -/

/-- A read of Tongs is under way for a queue. -/
def State.reading (s : State) (q : Nat) : Bool := s.reads.any fun r => r.q == q

/-- Send a host READ of up to 1,024 bytes within one 4 KiB page. -/
def State.readOut (s : State) (p : Bool) (c q count addr len : Nat) : State :=
  let s := s.emit (.hostRead p s.nextTag (s.ctx c).pasid.toNat addr len)
  { s with nextTag := s.nextTag + 1,
           reads := s.reads ++ [{ tag := s.nextTag, ctx := c, q, count, len, port := p }] }

/-- Bytes of one transaction at an address (08 R265). -/
def chunk (addr left : Nat) : Nat := min left (min 1024 (4096 - addr % 4096))

/-- The queue a descriptor fetch goes to next: ascending index among the context's queues whose tail is
ahead, through their fetch port, with a free record in their completion ring (08 R265, R273, R284). -/
def State.fetchable (s : State) (p : Bool) (c : Nat) : Option Nat :=
  ((s.queues.find? fun e =>
    let x := e.2
    x.st != .free && x.ctx == c && x.tail != x.head && s.carrier x.port == some p
      && decide (0 < (s.ring x.evring).freeRecs) && !s.closing c
      && !(s.reads.any fun r => r.q == e.1 && r.count != 0))).map Prod.fst

/-- Fetch up to 16 descriptors of a queue in one transaction (08 R265, R270). -/
def State.fetch (s : State) (p : Bool) (c q : Nat) : State :=
  let x := s.queue q
  let i := x.head.toNat % 2 ^ x.log2n
  let n := min (min 16 (x.tail - x.head).toNat) (min (2 ^ x.log2n - i) (64 - i % 64))
  s.readOut p c q n (x.base.toNat + 64 * i) (64 * n)

/-- The data transfer of a queue's front descriptor that port `p` carries next: bytes still to read, or
still to write. -/
def State.wantsData (s : State) (p : Bool) (c : Nat) (e : Nat × Queue) : Bool :=
  let x := e.2
  x.ctx == c && x.st != .free &&
    match x.front with
    | none => false
    | some a =>
      s.carrier a.port == some p &&
        (!x.outBuf.isEmpty ||
          (x.fin.isNone && !x.readFailed && (s.ctx c).st != .lost && !(s.reads.any fun r => r.q == e.1 && r.count == 0)
            && (needAt x.buf.length a.need).isSome))

/-- The queue whose data goes next: the one whose front descriptor was accepted first (08 R265). -/
def State.dataQueue (s : State) (p : Bool) (c : Nat) : Option Nat :=
  (((s.queues.filter (s.wantsData p c)).mergeSort fun a b =>
    decide (((a.2.front.map (·.seq)).getD 0) ≤ ((b.2.front.map (·.seq)).getD 0))).head?).map Prod.fst

/-- One data transaction of a queue. -/
def State.moveData (s : State) (p : Bool) (c q : Nat) : State :=
  let x := s.queue q
  if x.outBuf.isEmpty then
    match x.front.bind fun a => needAt x.buf.length a.need with
    | some (a, n) => s.readOut p c q 0 a (chunk a n)
    | none => s
  else
    let n := chunk x.outAddr x.outBuf.length
    let s := (s.hostBytes c n).emit (.hostWrite p (s.ctx c).pasid.toNat x.outAddr (x.outBuf.take n))
    let s := s.updQueue q fun x => { x with outAddr := x.outAddr + n, outBuf := x.outBuf.drop n }
    match x.front, x.fin with
    | some a, some (st, r) => if x.outBuf.length ≤ n then s.pushCompletion q a st r else s
    | _, _ => s

/-- One service slot of a port (08 R263-R266): the owning context's first pending transaction. (log 27, DEDUCED) -/
def State.serviceSlot (s : State) (p : Bool) : State :=
  let slot := (s.tongs p).slot.toNat
  let c := if slot < 16 then 0 else Tab.look 0 (s.tongs p).grants slot
  let s := s.updTongs p fun t => { t with slot := t.slot + 1 }
  if !s.portUp p || !s.hif.enable then s
  else
    match s.workOut p p c with
    | some s => s
    | none =>
      match (if s.portUp (!p) then none else s.workOut (!p) p c) with
      | some s => s
      | none =>
        match s.fetchable p c with
        | some q => s.fetch p c q
        | none =>
          match s.dataQueue p c with
          | some q => s.moveData p c q
          | none => s

/-- SERVICE_SLOT. -/
def execServiceSlot (port : Bool) (s : State) : Host.Outcome State Fault Refusal :=
  .next (s.serviceSlot port)

/-- The handle an object descriptor names, when it is live for the context (07 R255). -/
def State.refOf (s : State) (c : Nat) (d : Desc) : Option Nat :=
  let b := payloadBytes d
  let op := field b 0 1
  let h := field b 16 4
  if decide (0x31 ≤ op) && decide (op ≤ 0x34) && hCtx h == c && (s.findObj h).isSome then some h else none

/-- Accept the descriptors a fetch brought (08 R270, R284): as many as have a free record, each
reserving it and holding a reference to the object it names. -/
def State.accept (s : State) (q : Nat) (p : Bool) : List Desc → State
  | [] => s
  | d :: l =>
    let x := s.queue q
    if (s.ring x.evring).freeRecs = 0 then s
    else
      let h := s.refOf x.ctx d
      let s := match h with
        | some h => match s.findObj h with
          | some k => s.updObj k h fun o => { o with refs := o.refs + 1 }
          | none => s
        | none => s
      let s := s.updRing x.evring fun r => { r with resv := r.resv + 1 }
      let s := s.updQueue q fun x =>
        { x with head := x.head + 1,
                 acc := x.acc ++ [{ pos := x.head, d, port := p, seq := s.nextAcc, ref := h }] }
      State.accept { s with nextAcc := s.nextAcc + 1 } q p l

/-- The descriptors in the bytes of a fetch. -/
def descsOf (l : List Byte) (n : Nat) : List Desc :=
  (List.range n).map fun i => bytesPayload (slice l (64 * i) 64)

/-- The data of a Tongs read returns (08 R262, R270). (log 27, DEDUCED) -/
def State.dataIn (s : State) (tag : Nat) (failed : Bool) (bytes : List Byte) : State :=
  match s.reads.find? fun r => r.tag == tag with
  | none => s
  | some r =>
    let s := { s with reads := s.reads.filter fun x => x.tag != tag }
    let x := s.queue r.q
    if x.st == .free || x.ctx != r.ctx || s.closing r.ctx then s
    else if failed then
      if r.count = 0 then s.updQueue r.q fun x => { x with readFailed := true } else s
    else
      let s := s.hostBytes r.ctx r.len
      if r.count = 0 then s.updQueue r.q fun x => { x with buf := x.buf ++ slice bytes 0 r.len }
      else
        let s := s.accept r.q r.port (descsOf bytes r.count)
        let h := (s.queue r.q).head
        let s := if h != x.head then s.pushWork (s.ring x.evring).port r.ctx (.headwb r.q h) else s
        if x.acc.isEmpty then s.settle r.q else s

/-- DATA. -/
def execData (tag : Nat) (failed : Bool) (bytes : List Byte) (s : State) :
    Host.Outcome State Fault Refusal :=
  .next (s.dataIn tag failed bytes)

/-- TONGS_READ_TIMEOUT (08 R262). (log 9, DESIGN CHOICE) -/
def execTongsReadTimeout (tag : Nat) (s : State) : Host.Outcome State Fault Refusal :=
  .next (s.dataIn tag true [])

/-! ### Doorbells (08 R269, R274, R275, R286, R290, 09 R310) -/

/-- Count a discarded doorbell. -/
def State.badForm (s : State) : State := { s with hif := { s.hif with badform := satAdd s.hif.badform 1 } }
/-- Count a doorbell with a wrong owner. -/
def State.badOwner (s : State) : State := { s with hif := { s.hif with badowner := satAdd s.hif.badowner 1 } }
/-- Count a doorbell with a wrong pointer. -/
def State.badTail (s : State) : State := { s with hif := { s.hif with badtail := satAdd s.hif.badtail 1 } }

/-- A submission tail (08 R269). -/
def State.tailBell (s : State) (q : Nat) (t : BitVec 32) : State :=
  let x := s.queue q
  if decide ((t - x.head).toNat ≤ 2 ^ x.log2n) && decide ((t - x.tail).toNat ≤ (t - x.head).toNat) then
    s.updQueue q fun x => { x with tail := t }
  else s.badTail

/-- An event-ring head (08 R286). -/
def State.headBell (s : State) (r : Nat) (h : BitVec 32) : State :=
  let x := s.ring r
  if (x.tail - h).toNat ≤ (x.tail - x.head).toNat then s.updRing r fun x => { x with head := h }
  else s.badTail

/-- An arm (08 R290). -/
def State.armBell (s : State) (r : Nat) (h : BitVec 32) : State :=
  (s.updRing r fun x => { x with armed := some h }).irqCheck r
    ((s.carrier (s.ring r).port).getD (s.ring r).port)

/-- A doorbell message of adapter page `c` (08 Table 2, R275). `zero`: bytes 10-11 are zero. -/
def State.doorbell (s : State) (c : Nat) (word : Word64) (zero : Bool) : State :=
  let w := word.toNat
  let kind := bits w 1 0
  let i := bits w 13 2
  let ptr := BitVec.ofNat 32 (bits w 47 16)
  if bits w 15 14 != 0 || bits w 63 48 != 0 || !zero || kind == 3 || (kind != 0 && decide (511 < i)) then
    s.badForm
  else
    let exists' := if kind = 0 then (s.queue i).st != .free else (s.ring i).live
    let owner := if kind = 0 then (s.queue i).ctx else (s.ring i).ctx
    if !exists' then s.badForm
    else if owner != c || (s.ctx c).st == .closed || s.closing owner then s.badOwner
    else
      match kind with
      | 0 => s.tailBell i ptr
      | 1 => s.headBell i ptr
      | _ => s.armBell i ptr

/-- TAIL_DOORBELL. -/
def execTailDoorbell (_ : Bool) (ctx : Fin 1024) (word : Word64) (zero : Bool) (s : State) :
    Host.Outcome State Fault Refusal :=
  .next (s.doorbell ctx.val word zero)

/-- HEAD_DOORBELL. -/
def execHeadDoorbell (_ : Bool) (ctx : Fin 1024) (word : Word64) (zero : Bool) (s : State) :
    Host.Outcome State Fault Refusal :=
  .next (s.doorbell ctx.val word zero)

/-- ARM_DOORBELL. -/
def execArmDoorbell (_ : Bool) (ctx : Fin 1024) (word : Word64) (zero : Bool) (s : State) :
    Host.Outcome State Fault Refusal :=
  .next (s.doorbell ctx.val word zero)

end Sys2Proof.Machine
end

