-- ==== Sys2Proof/Machine/Contexts.lean ====
section
/-! DEFINITION. Commands on contexts, queues, event rings and fences, fault recording and revocation
(08 R268, R281, R282, 09, 15 R491-R493). -/

namespace Sys2Proof.Machine

/-! ### Releasing a composition's resources -/

/-- Arena regions return to the free pool (07 R259); a region that held objects has its epoch
advanced. -/
def State.freeArenas (s : State) (k : Nat) : State :=
  let s := (s.arenas.filter fun e => e.1 / 32 = k).foldl (fun s e =>
    (List.range e.2.regions.length).foldl (fun s i =>
      match s.arenaRegion e.1 i with
      | some (m, r) =>
        let s := s.updRegion m r fun x => { x with arena := none, tagged := false }
        if e.2.used.any fun g => g / 32 = i then s.askAdvance m r else s
      | none => s) s) s
  { s with arenas := s.arenas.filter fun e => e.1 / 32 != k }

/-- Core keys and clusters are bound to nothing any more. -/
def State.unbindCores (s : State) (l : Nat) (cores : List Nat) (clusters : List (Nat × Nat)) : State :=
  let s := cores.foldl (fun (s : State) i =>
    let c := s.core i
    if c.lane = some l then
      s.setCore i { c with lane := none, vd := 0, vc := 0, vk := 0, vindex := 0, ended := false }
    else s) s
  clusters.foldl (fun (s : State) e => s.updDie e.1 fun x =>
    { x with boundCl := x.boundCl.filter fun b => b.1 != e.2 || b.2 != l + 1 }) s

/-- Physical clusters a composition binds. -/
def Comp.boundClusters (m : Comp) : List (Nat × Nat) := m.clusters.map fun c => (c.2.2.1, c.2.2.2.1)

/-- A composition's cores, clusters and arena regions become free for other bindings (10 R330). -/
def State.freeResources (s : State) (k : Nat) : State :=
  let m := s.comp k
  let s := s.unbindCores m.lane (m.cores ++ m.heldCores ++ m.newClusters.flatMap fun c => c.2.2.2.2)
    (m.boundClusters ++ m.heldClusters ++ m.newClusters.map fun c => (c.2.2.1, c.2.2.2.1))
  (s.freeArenas k).updComp k fun m =>
    { m with clusters := [], newClusters := [], newShape := [], heldCores := [], heldClusters := [], heldShapes := [],
             draining := false }

/-- A lane bound to nothing: its counters stay. -/
def Lane.unbound (L : Lane) : Lane :=
  { drej := L.drej, latec := L.latec, rfuse := L.rfuse, late := L.late, timeout := L.timeout }

/-- A composition index returns to FREE (10 R330, 12 R421): its record ring is orphaned, its lane is
unbound. -/
def State.freeComp (s : State) (k : Nat) : State :=
  let m := s.comp k
  let s := s.account m.ctx
  let s := s.updCtx m.ctx fun x => { x with meshShown := x.meshShown - s.laneBytes k }
  let s := s.freeResources k
  let s := s.updLanes m.dies m.lane fun L => L.unbound
  let s := m.dies.foldl (fun (s : State) d => s.updDie d fun x => { x with ucps := Tab.put {} x.ucps m.lane {} }) s
  let s := s.updRec k fun r => { r with orphan := !r.recs.isEmpty }
  (s.updComp k fun _ => {}).recap

/-! ### Contexts -/

/-- The bits set in a 256-bit slot map, from slot 16 on. (log 28, DEDUCED) -/
def grantSlots (b : List Byte) (off : Nat) : List Nat :=
  (List.range 256).filter fun i => decide (16 ≤ i) && bit (field b (off + i / 8) 1) (i % 8)

/-- The lowest index from `a` up to but not including `b` that satisfies a test. -/
def lowestIn (a b : Nat) (p : Nat → Bool) : Option Nat := ((List.range (b - a)).map (a + ·)).find? p

/-- Grant service slots of a port. -/
def State.grant (s : State) (p : Bool) (c : Nat) (l : List Nat) : State :=
  s.updTongs p fun t => { t with grants := l.foldl (fun g i => Tab.put 0 g i c) t.grants }

/-- Grant event slots (`ev`: bits 0-3 of port 0, 4-7 of port 8). -/
def State.grantEv (s : State) (c ev : Nat) : State :=
  (List.range 8).foldl (fun (s : State) i =>
    if bit ev i then
      s.updTongs (decide (4 ≤ i)) fun t => { t with evHolder := Tab.put none t.evHolder (i % 4) (some c) }
    else s) s

/-- A slot or event slot of the request is held by another context (08 R281). -/
def State.grantHeld (s : State) (b : List Byte) (ev : Nat) : Bool :=
  ((grantSlots b 0).any fun i => Tab.look 0 s.tongs0.grants i != 0)
    || ((grantSlots b 32).any fun i => Tab.look 0 s.tongs8.grants i != 0)
    || ((List.range 8).any fun i => bit ev i &&
      (Tab.look none (s.tongs (decide (4 ≤ i))).evHolder (i % 4)).isSome)

/-- The context CTX_OPEN names: the one given, or the lowest CLOSED one. -/
def State.openTarget (s : State) (c : Nat) : Option Nat :=
  if c = 0xFFFF then lowestIn 1 1024 fun i => (s.ctx i).st == .closed else some c

/-- CTX_OPEN takes effect (08 R264, R281, 09 R298, R323). -/
def State.ctxOpen (s : State) (q : Nat) (b g : List Byte) : State :=
  let c := field b 20 2
  let ev := field b 22 1
  if field g 0 2 != 0 || field g 32 2 != 0 then s.complete q .format
  else if s.sec.tenancy = 0 || s.grantHeld g ev || (c != 0xFFFF && (s.ctx c).st != .closed) then
    s.complete q .state
  else
    match s.openTarget c with
    | none => s.complete q .limit
    | some i =>
      let s := s.updCtx i fun _ =>
        { st := .opened, pasid := BitVec.ofNat 20 (field b 16 4), evslot := BitVec.ofNat 8 ev }
      let s := ((s.grant false i (grantSlots g 0)).grant true i (grantSlots g 32)).grantEv i ev
      s.complete q .ok (BitVec.ofNat 256 i)

/-- CTX_OPEN. -/
def execCtxOpen (q : Fin 4096) (s : State) : Host.Outcome State Fault Refusal :=
  .next (s.descr q.val 0x01 [(16, 4), (20, 2), (22, 1), (24, 8)]
    (fun b => let c := field b 20 2
      decide (field b 16 4 < 2 ^ 20) && (c == 0xFFFF || (decide (1 ≤ c) && decide (c < 1024))) && al64 b 24)
    noDenied fun s st => s.withData q.val 64 fun g => s.ctxOpen q.val st.b g)

/-- A CLOSE is accepted (09 R310 steps 1 to 4): LOST without a fault event; nothing more is written for
the context; its mapping references and attachments go. -/
def State.closeAccept (s : State) (c : Nat) : State :=
  let s := if s.alive c then s.loseBody c 0 else s
  let s := s.updCtx c fun x => { x with closing := true }
  let s := { s with tongs0 := { s.tongs0 with work := Tab.put [] s.tongs0.work c [] },
                    tongs8 := { s.tongs8 with work := Tab.put [] s.tongs8.work c [] } }
  let qs := (s.queues.filter fun e => e.2.st != .free && e.2.ctx == c).map Prod.fst
  let s := qs.foldl (fun (s : State) q =>
    let s := s.updQueue q fun x =>
      if x.fin.isSome then { x with fin := none, outBuf := [], started := false } else x
    s.settle q) s
  let po : Part → Part := fun p =>
    { p with objs := Tab.mapVals {} (fun _ (o : Obj) => { o with refs := o.refs - o.maps, maps := 0 }) p.objs }
  let pa : Arena → Arena := fun a => { a with parts := Tab.mapVals {} (fun _ (p : Part) => po p) a.parts }
  let mine := s.compsOf c
  let arenas := Tab.mapVals {} (fun k (a : Arena) => if mine.contains (k / 32) then pa a else a) s.arenas
  let s := { s with arenas }
  let fs := s.fences.map Prod.fst
  fs.foldl (fun (s : State) n =>
    let s := s.updFence n fun f =>
      { f with attached := f.attached.filter (· != c), ownerGone := f.ownerGone || f.owner == c && f.st != .free }
    s.freeFence n) s

/-- CLOSE: refused for a CLOSED context, context 0 and one being closed (09 Table 3); it completes by
CLOSE_COMPLETE. -/
def execClose (q : Fin 4096) (s : State) : Host.Outcome State Fault Refusal :=
  .next (s.descr q.val 0x02 [(16, 2)] (fun b => decide (field b 16 2 < 1024)) noDenied fun s st =>
    let c := field st.b 16 2
    if (s.queue q.val).started then s
    else if c = 0 || (s.ctx c).st == .closed || s.closing c then s.complete q.val .state
    else (s.closeAccept c).updQueue q.val fun x => { x with started := true })

/-- A Hearth command of the context that the steward has begun has not ended. -/
def State.hearthRuns (s : State) (c : Nat) : Bool :=
  s.queues.any fun e => e.2.st != .free && e.2.ctx == c &&
    match e.2.front with
    | some a => e.2.hearthBegun a && e.2.fin.isNone
    | none => false

/-- Free everything a closed context held (09 R310 step 6, 08 R264, 10 R330). -/
def State.closeFree (s : State) (c : Nat) : State :=
  let s := (s.compsOf c).foldl (fun s k => (s.appendClose k 1).freeComp k) s
  let s := { s with queues := s.queues.filter fun e => e.2.ctx != c || e.1 == 0,
                    rings := s.rings.filter fun e => e.2.ctx != c || e.1 == 0 }
  let t (x : Tongs) : Tongs :=
    { x with grants := x.grants.filter fun e => e.2 != c,
             evHolder := x.evHolder.filter fun e => e.2 != some c,
             work := Tab.put [] x.work c [] }
  let s := { s with tongs0 := t s.tongs0, tongs8 := t s.tongs8, reads := s.reads.filter fun r => r.ctx != c }
  s.updCtx c fun x => { x with st := .closed, closing := false, allocRevoked := false }

/-- CLOSE_COMPLETE: once revocation is complete and no Hearth command of the context runs, the context
is CLOSED and its CLOSE completes on queue 0 (09 R310 steps 5 and 6). -/
def execCloseComplete (ctx : Fin 1024) (s : State) : Host.Outcome State Fault Refusal :=
  let c := ctx.val
  .next (if s.closing c && (s.ctx c).revoked && !s.hearthRuns c then
      let s := (s.account c).closeFree c
      match (s.queue 0).front with
      | some a =>
        if a.op == 0x02 && field a.bytes 16 2 == c && (s.queue 0).fin.isNone then s.complete 0 .ok else s
      | none => s
    else s)

/-- A target context of QUEUE_CREATE or EVRING_CREATE exists and is not LOST (09 Table 3). -/
def State.targetBad (s : State) (c : Nat) : Bool := (s.ctx c).st == .closed || (s.ctx c).st == .lost

/-- QUEUE_CREATE (08 R268, R281). -/
def execQueueCreate (q : Fin 4096) (s : State) : Host.Outcome State Fault Refusal :=
  .next (s.descr q.val 0x03 [(16, 2), (18, 2), (20, 1), (21, 1), (22, 2), (24, 8), (32, 8)]
    (fun b =>
      let n := field b 18 2
      decide (field b 16 2 < 1024) && (n == 0xFFFF || (decide (1 ≤ n) && decide (n < 4096)))
        && decide (4 ≤ field b 20 1) && decide (field b 20 1 ≤ 16) && decide (field b 21 1 ≤ 1)
        && field b 24 8 % 4096 == 0 && field b 32 8 % 8 == 0)
    (fun s _ b => let r := s.ring (field b 22 2); r.live && r.ctx != field b 16 2)
    fun s st =>
      let b := st.b
      let n := field b 18 2
      let r := field b 22 2
      if s.targetBad (field b 16 2) || !(s.ring r).live || (n != 0xFFFF && (s.queue n).st != .free) then
        s.complete q.val .state
      else
        match (if n = 0xFFFF then lowestIn 1 4096 fun i => (s.queue i).st == .free else some n) with
        | none => s.complete q.val .limit
        | some i =>
          let s := s.updQueue i fun _ =>
            { st := .live, ctx := field b 16 2, log2n := field b 20 1, port := field b 21 1 == 1, evring := r,
              base := BitVec.ofNat 64 (field b 24 8), headwb := BitVec.ofNat 64 (field b 32 8) }
          s.complete q.val .ok (BitVec.ofNat 256 i))

/-- QUEUE_DESTROY (08 R281): of an existing, empty queue of which nothing executes. -/
def execQueueDestroy (q : Fin 4096) (s : State) : Host.Outcome State Fault Refusal :=
  .next (s.descr q.val 0x04 [(16, 2)]
    (fun b => decide (1 ≤ field b 16 2) && decide (field b 16 2 < 4096)) noDenied fun s st =>
    let x := s.queue (field st.b 16 2)
    if x.st == .free || x.tail != x.head || !x.acc.isEmpty then s.complete q.val .state
    else ({ s with queues := s.queues.filter fun e => e.1 != field st.b 16 2 }).complete q.val .ok)

/-- EVRING_CREATE (08 R282, R285): a fault ring keeps one record reserved. -/
def execEvringCreate (q : Fin 4096) (s : State) : Host.Outcome State Fault Refusal :=
  .next (s.descr q.val 0x05 [(16, 2), (18, 2), (20, 1), (21, 1), (22, 2), (24, 8)]
    (fun b =>
      let n := field b 18 2
      decide (field b 16 2 < 1024) && (n == 0xFFFF || (decide (1 ≤ n) && decide (n < 512)))
        && decide (6 ≤ field b 20 1) && decide (field b 20 1 ≤ 16) && decide (field b 21 1 ≤ 3)
        && decide (field b 22 2 < 2048) && field b 24 8 % 4096 == 0)
    noDenied fun s st =>
      let b := st.b
      let c := field b 16 2
      let n := field b 18 2
      let faults := bit (field b 21 1) 1
      if s.targetBad c || (n != 0xFFFF && (s.ring n).live) || (faults && (s.faultRing c).isSome) then
        s.complete q.val .state
      else
        match (if n = 0xFFFF then lowestIn 1 512 fun i => !(s.ring i).live else some n) with
        | none => s.complete q.val .limit
        | some i =>
          let s := s.updRing i fun _ =>
            { live := true, ctx := c, log2n := field b 20 1, port := bit (field b 21 1) 0, faults,
              vector := field b 22 2, base := BitVec.ofNat 64 (field b 24 8), resv := b2n faults }
          s.complete q.val .ok (BitVec.ofNat 256 i))

/-- A queue, fence, loop or fault assignment names a ring (08 R281). -/
def State.ringNamed (s : State) (r : Nat) : Bool :=
  (s.queues.any fun e => e.2.st != .free && e.2.evring == r)
    || (s.fences.any fun f => f.2.st != .free && f.2.nring == r)
    || (s.comps.any fun m => match m.2.loop with | some l => l.tring == r | none => false)
    || (s.ring r).faults

/-- EVRING_DESTROY (08 R281). -/
def execEvringDestroy (q : Fin 4096) (s : State) : Host.Outcome State Fault Refusal :=
  .next (s.descr q.val 0x06 [(16, 2)]
    (fun b => decide (1 ≤ field b 16 2) && decide (field b 16 2 < 512)) noDenied fun s st =>
    let r := field st.b 16 2
    if !(s.ring r).live || s.ringNamed r then s.complete q.val .state
    else ({ s with rings := s.rings.filter fun e => e.1 != r }).complete q.val .ok)

/-- DESCRIPTOR_NOP (08 Table 5 NOP). -/
def execDescriptorNop (q : Fin 4096) (s : State) : Host.Outcome State Fault Refusal :=
  .next (s.descr q.val 0x10 [] (fun _ => true) noDenied fun s _ => s.complete q.val .ok)

/-! ### Fences (09 R312-R320) -/

/-- FENCE_CREATE: the issuing context owns the fence. -/
def execFenceCreate (q : Fin 4096) (s : State) : Host.Outcome State Fault Refusal :=
  .next (s.descr q.val 0x50 [(16, 2), (18, 1), (20, 2), (24, 8), (32, 8)]
    (fun b => decide (field b 18 1 ≤ 1) && field b 32 8 % 8 == 0)
    (fun s c b => let r := s.ring (field b 20 2); field b 20 2 != 0xFFFF && r.live && r.ctx != c)
    fun s st =>
      let b := st.b
      let n := field b 16 2
      if (field b 20 2 != 0xFFFF && !(s.ring (field b 20 2)).live) || (n != 0xFFFF && (s.fence n).st != .free)
      then s.complete q.val .state
      else
        match (if n = 0xFFFF then lowestIn 0 65536 fun i => (s.fence i).st == .free else some n) with
        | none => s.complete q.val .limit
        | some i =>
          let s := s.updFence i fun _ =>
            { st := .live, owner := st.ctx, share := bit (field b 18 1) 0, value := BitVec.ofNat 64 (field b 24 8),
              nring := field b 20 2, wb := BitVec.ofNat 64 (field b 32 8) }
          s.complete q.val .ok (BitVec.ofNat 256 i))

/-- FENCE_ATTACH (09 R315). -/
def execFenceAttach (q : Fin 4096) (s : State) : Host.Outcome State Fault Refusal :=
  .next (s.descr q.val 0x51 [(16, 2), (18, 2)] (fun _ => true)
    (fun s _ b => (s.fence (field b 16 2)).st == .live && !(s.fence (field b 16 2)).share) fun s st =>
    let n := field st.b 16 2
    let f := s.fence n
    if f.st != .live || f.owner != field st.b 18 2 || f.owner == st.ctx || f.attached.contains st.ctx then
      s.complete q.val .state
    else (s.updFence n fun f => { f with attached := insNat st.ctx f.attached }).complete q.val .ok)

/-- FENCE_DETACH (09 R315, R318, R320): the owner's detach poisons a fence that others are attached
to. -/
def execFenceDetach (q : Fin 4096) (s : State) : Host.Outcome State Fault Refusal :=
  .next (s.descr q.val 0x52 [(16, 2)] (fun _ => true) noDenied fun s st =>
    let n := field st.b 16 2
    let f := s.fence n
    if f.st == .free then s.complete q.val .state
    else if f.attached.contains st.ctx then
      ((s.updFence n fun f => { f with attached := f.attached.filter (· != st.ctx) }).freeFence n).complete q.val .ok
    else if f.owner == st.ctx then
      let s := if f.attached.isEmpty then s else s.poison n
      ((s.updFence n fun f => { f with ownerGone := true }).freeFence n).complete q.val .ok
    else s.complete q.val .state)

/-- FENCE_SIGNAL (09 R314-R317). -/
def execFenceSignal (q : Fin 4096) (s : State) : Host.Outcome State Fault Refusal :=
  .next (s.descr q.val 0x53 [(16, 2), (24, 8)] (fun _ => true)
    (fun s c b => let f := s.fence (field b 16 2); f.st == .free || f.owner != c) fun s st =>
    let n := field st.b 16 2
    if (s.fence n).st == .poisoned then s.complete q.val .fence
    else
      let s := s.raiseFence n (BitVec.ofNat 64 (field st.b 24 8)) (s.ring (s.queue q.val).evring).port st.ctx
      (s.complete q.val .ok (BitVec.ofNat 256 (s.fence n).value.toNat)).afterSignal n)

/-- FENCE_WAIT (09 R315, R316): completes, or parks its queue. -/
def execFenceWait (q : Fin 4096) (s : State) : Host.Outcome State Fault Refusal :=
  .next (s.descr q.val 0x54 [(16, 2), (24, 8)] (fun _ => true)
    (fun s c b => let f := s.fence (field b 16 2)
      f.st == .free || (f.owner != c && !f.attached.contains c)) fun s st =>
    let f := s.fence (field st.b 16 2)
    if (s.queue q.val).started then s
    else if f.st == .poisoned then s.complete q.val .fence
    else if reached f.value (BitVec.ofNat 64 (field st.b 24 8)) then s.complete q.val .ok
    else s.updQueue q.val fun x => { x with started := true })

/-! ### Fault recording and revocation -/

/-- The fault that a recording window's record describes: lowest UNIT, die, PLOC (09 R307). -/
def worst (a b : FaultMsg) : FaultMsg :=
  if b.unit < a.unit ∨ (b.unit = a.unit ∧ (b.die < a.die ∨ (b.die = a.die ∧ b.ploc < a.ploc))) then b else a

/-- FAULT_RECORDING (09 R301-R307): the faults of a context that have reached the X0 agents. The first of
a living context makes it LOST; all are counted. (log 28, DEDUCED) -/
def execFaultRecording (ctx : Fin 1024) (window : Nat) (s : State) : Host.Outcome State Fault Refusal :=
  let c := ctx.val
  let mine := s.faultQ.filter fun m => m.ctx == c
  .next (match mine with
    | [] => s
    | m :: rest =>
      let s := { s with faultQ := s.faultQ.filter fun m => m.ctx != c, faultLog := s.faultLog ++ mine }
      if (s.ctx c).st == .closed then s
      else
        let s := s.updCtx c fun x => { x with fCount := satAdd x.fCount mine.length }
        if s.alive c && c != 0 then
          let t := rest.foldl (fun t x => min t x.stamp) m.stamp
          match mine.filter fun x => decide (x.stamp ≤ t + window) with
          | [] => s
          | f :: l => s.recordFault c (l.foldl worst f) (!l.isEmpty)
        else s)

/-- REVOKE_LANE: a die's agents apply the command (15 R491, R492). -/
def execRevokeLane (die lane : Fin 8) (ctx : Fin 1024) (s : State) : Host.Outcome State Fault Refusal :=
  .next (if s.laneCtx die.val lane.val == some ctx.val && (s.ctx ctx.val).st == .lost then
      s.revokeLane die.val lane.val
    else s)

/-- REVOKE_TAG: a die's stops and Tongs apply the command (15 R491, R492, 07 R258, R259). -/
def execRevokeTag (die : Fin 8) (ctx : Fin 1024) (s : State) : Host.Outcome State Fault Refusal :=
  .next (if (s.ctx ctx.val).st == .lost then (s.revokeTag die.val ctx.val).dropContext ctx.val else s)

/-- ACK (15 R492, R493). -/
def execAck (die : Fin 8) (seq : Nat) (s : State) : Host.Outcome State Fault Refusal :=
  .next (s.ack die.val seq)

/-- A region of a context waits for its epoch to advance. -/
def State.advancing (s : State) (c : Nat) : Bool :=
  s.dies.any fun d => (d.2.hstops ++ d.2.mstops).any fun t => t.2.regions.any fun r =>
    r.2.revoked && r.2.advance && r.2.tag == c

/-- REVOCATION_COMPLETE: every agent has answered and every region epoch has advanced (15 R493); the
context's resources are free for other bindings (10 R330). -/
def execRevocationComplete (ctx : Fin 1024) (s : State) : Host.Outcome State Fault Refusal :=
  let c := ctx.val
  .next (match s.revs.find? fun r => r.ctx == c with
    | some r =>
      if r.acks.isEmpty && !s.advancing c then
        let s := { s with revs := s.revs.filter fun r => r.ctx != c }
        let s := (s.compsOf c).foldl (fun s k => s.freeResources k) s
        s.updCtx c fun x => { x with revoked := true }
      else s
    | none => s)

end Sys2Proof.Machine
end

