-- ==== Sys2Proof/Machine/MeshOps.lean ====
section
/-! DEFINITION. Mesh commands: delivery, crossings, router failure, TGET replies, the loading of table
images, commits and swaps (05 R164-R188). -/

namespace Sys2Proof.Machine

/-! ### Delivery -/

/-- The unit of a router is a core. -/
def coreAt (r : Nat) : Bool :=
  match unitAt r with
  | .core _ _ => true
  | _ => false

/-- The nonempty elastic queues of a die, by key. -/
def Die.elasticKeys (x : Die) : List Nat := (x.elastic.filter fun e => !e.2.isEmpty).map Prod.fst

/-- Flit `n` of a die is carried. Flits on their way come first, then the oldest flit of each nonempty
elastic queue, which its stop presents in slot cycle `cyc` when that cycle is its owner's (05 R179). A
stop withholds a flit that would exceed its class allowance (05 R183); what a stop presents is counted
as injected (05 R184). -/
def State.deliver (s : State) (d n cyc : Nat) (ovl : List Eng) (bad badMirror : List Nat) (ecc : Bool) :
    State :=
  let x := s.die d
  match x.flights[n]? with
  | some f =>
    let s' := s.setDie d { x with flights := x.flights.eraseIdx n }
    if coreAt f.router || f.port != 0 then s'.carry d ovl bad badMirror ecc f
    else if s.overAllowance d (originOf f.router) f.cls then
      s.meshFault d f.router 0 f.cycle f.owner f.cls 5 .slot
    else (s'.inject d (originOf f.router) f.owner f.cls 1 1).carry d ovl bad badMirror ecc f
  | none =>
    match x.elasticKeys[n - x.flights.length]? with
    | none => s
    | some key =>
      match Tab.look [] x.elastic key with
      | [] => s
      | f :: rest =>
        let r := key / 16
        if (s.router d r).localOwner cyc != some (key % 16) then s
        else if s.overAllowance d (originOf r) f.cls then s.meshFault d r 0 cyc f.owner f.cls 5 .slot
        else
          let s := s.setDie d { x with elastic := Tab.put [] x.elastic key rest }
          (s.inject d (originOf r) f.owner f.cls 1 1).carry d ovl bad badMirror ecc
            { f with router := r, port := 0, cycle := cyc }

/-- FLIT_DELIVERY (03 R105, 05 R157-R166, R179, R183-R185). (log 48, PRESUMED) -/
def execFlitDelivery (die : Fin 8) (n : Nat) (cyc : Fin 256) (ovl : List Eng) (bad badMirror : List Nat)
    (ecc : Bool) (s : State) : Host.Outcome State Fault Refusal :=
  .next (s.deliver die.val n cyc.val ovl bad badMirror ecc)

/-- ELASTIC_QUEUE_ARRIVAL (05 R178-R180). -/
def execElasticQueueArrival (die : Fin 8) (stop : Fin 300) (f : Flit) (s : State) :
    Host.Outcome State Fault Refusal :=
  .next (s.elasticArrive die.val stop.val f)

/-- ROUTER_FAIL (05 R174, R176): a failed router at a cluster-memory stop disables its cluster. -/
def execRouterFail (die : Fin 8) (router : Fin 300) (s : State) : Host.Outcome State Fault Refusal :=
  let s := s.routerFail die.val router.val
  .next (match unitAt router.val with
    | .cm cl _ => s.updDie die.val fun x => { x with barredCl := insNat cl x.barredCl }
    | _ => s)

/-- The 64 bytes a stop returns for flit `j` of a TGET: from the cluster memory or the scratch at it. -/
def State.getData (s : State) (d r ra j : Nat) : Payload :=
  match unitAt r with
  | .core cl k => bytesPayload ((s.core (coreKey d cl k)).scratch.read (16 * ra + 64 * j) 64)
  | .cm cl _ => bytesPayload (Memory.read (Tab.look [] (s.die d).clusterMem cl) (16 * ra + 64 * j) 64)
  | _ => 0

/-- The return flits of a TGET request (05 R164): RRUN + 1 in each frame from cycle RSLOT on. -/
def State.getFlits (s : State) (d r : Nat) (f : Flit) : List Flit :=
  match f.use with
  | .getReq ra len la ctr _ rslot rrun =>
    (List.range len).map fun j =>
      { owner := f.owner, cls := f.cls, last := j + 1 == len, ctr, faddr := (la / 4 + j) % 2 ^ 18,
        poison := false, payload := s.getData d r ra j, use := .data, router := r, port := 0,
        cycle := (rslot + j % (rrun + 1)) % 256 }
  | _ => []

/-- TGET_REPLY: the oldest request that waits at a router is answered (05 R164). -/
def execTgetReply (die : Fin 8) (router : Fin 300) (s : State) : Host.Outcome State Fault Refusal :=
  let x := s.die die.val
  .next (match Tab.look [] x.gets router.val with
    | [] => s
    | f :: rest =>
      s.setDie die.val { x with gets := Tab.put [] x.gets router.val rest,
                                flights := x.flights ++ s.getFlits die.val router.val f })

/-! ### Table images (05 R168-R170, 11 R379, R380) -/

/-- The port exists at the router (05 R154). -/
def portExists (r p : Nat) : Bool := p == 0 || (neighbour r p).isSome

/-- A 16-bit entry list of a record body. -/
def entries16 (l : List Byte) (a n : Nat) : List (Nat × BitVec 16) :=
  (List.range n).map fun i => (i, BitVec.ofNat 16 (field l (a + 2 * i) 2))

/-- Every byte of a range is zero. -/
def zeros (l : List Byte) (a n : Nat) : Bool := (slice l a n).all (· == 0)

/-- The first error code whose test holds. (log 15, DEDUCED) -/
def firstErr : List (Bool × Nat) → Option Nat
  | [] => none
  | (b, c) :: l => if b then some c else firstErr l

/-- Body bytes of a record type (05 Table 5). -/
def bodyBytes : Nat → Nat
  | 0 => 512 | 1 => 2048 | 2 => 64 | 3 => 512 | _ => 128

/-- The instances a record type may name. -/
def instOk (ty inst : Nat) : Bool :=
  match ty with
  | 0 => decide (inst < 300)
  | 1 => decide (inst < 320) && decide (inst % 32 < 26)
  | 2 => (decide (inst < 320) && decide (inst % 32 < 26)) || (decide (320 ≤ inst) && decide (inst < 360))
  | 3 => decide (inst < 3)
  | _ => decide (inst < 2)

/-- Checks of a slot table's VALID entries (05 R158-R161, Table 6). -/
def slotErr (lane r port : Nat) (l : List (Nat × BitVec 16)) : Option Nat :=
  let v := l.filter fun e => slValid e.2
  firstErr
    [(l.any fun e => bits e.2.toNat 15 11 != 0, 1),
     (v.any fun e => !portExists r port || decide (4 < slIn e.2) || !portExists r (slIn e.2), 2),
     (v.any fun e => decide (248 ≤ e.1), 5),
     (v.any fun e => slIn e.2 == port, 6),
     (v.any fun e => slOwner e.2 != lane, 7)]

/-- Checks of a channel table (05 Table 4). -/
def chanErr (lane r : Nat) (l : List Nat) : Option Nat :=
  let v := l.filter chValid
  firstErr
    [(l.any fun e => bits e 15 14 != 0 || bits e 63 56 != 0, 1),
     (v.any fun e => chPort' e == 0 || decide (4 < chPort' e) || !portExists r (chPort' e), 2),
     (v.any fun e => bits e 13 10 != lane, 7)]
where
  chValid (e : Nat) : Bool := bit e 0
  chPort' (e : Nat) : Nat := bits e 9 7

/-- Checks of a bridge table (05 R161, R169). -/
def bridgeErr (lane : Nat) (l : List (Nat × BitVec 16)) : Option Nat :=
  let v := l.filter fun e => slValid e.2
  firstErr
    [(l.any fun e => bits e.2.toNat 15 11 != 0 || slIn e.2 != 0, 1),
     (v.any fun e => e.1 == 0 || decide (248 ≤ e.1), 5),
     (v.any fun e => slOwner e.2 != lane, 7)]

/-- Replace a lane's entries in a table (05 R161, R170): a VALID entry of the record is written; one
that is not VALID removes only an entry of the image's lane. (log 15, DEDUCED) -/
def mergeEntries {w : Nat} (valid : BitVec w → Bool) (owner : BitVec w → Nat) (lane : Nat)
    (key : Nat → Nat) (t : Tab (BitVec w)) (l : List (Nat × BitVec w)) : Tab (BitVec w) :=
  l.foldl (fun t e =>
    if valid e.2 then Tab.put 0 t (key e.1) e.2
    else if valid (Tab.look 0 t (key e.1)) && owner (Tab.look 0 t (key e.1)) != lane then t
    else Tab.put 0 t (key e.1) 0) t

/-- One entry of a link table obeys R379 for its owner and class. -/
def linkEntryOk (i : Nat) (e : BitVec 16) : Bool :=
  let (c, o) := (lkClass e, lkOwner e)
  bits e.toNat 15 14 == 0
    && (if i = 0 then c == 5 && o == 0xC else c != 5)
    && c != 0 && c != 7
    && (!(c == 1 || c == 2) || decide (o < 8))
    && (c != 4 || decide (o < 8) || o == 0xC)
    && (c != 3 || o == 0xC) && (c != 6 || o == 0xE)
    && (!lkTransit e || o == 0xC)

/-- A link table obeys R379: entries, and runs of at most 7 equal entries. (log 15, DEDUCED) -/
def linkTableOk (t : Tab (BitVec 16)) : Bool :=
  let e (i : Nat) : BitVec 16 := Tab.look 0 t i
  (List.range 16).all fun i =>
    !lkValid (e i) ||
      (linkEntryOk i (e i) &&
        (!lkCont (e i) ||
          (decide (0 < i) && lkValid (e (i - 1)) && (e i).toNat / 4 == (e (i - 1)).toNat / 4
            && !(decide (7 ≤ i) && (List.range 7).all fun j => lkCont (e (i - j))))))

/-- Load one record at steward address `a` (05 R169, R170): the state and the next address, or the error
code. (log 15, DEDUCED) -/
def State.loadRecord (s : State) (d lane a : Nat) : Except Nat (State × Nat) :=
  let m := (s.die d).stewMem
  let h := m.read a 64
  let ty := field h 0 2
  let inst := field h 2 2
  let port := field h 4 1
  if !zeros h 5 59 || decide (4 < ty) || !instOk ty inst || (if ty = 0 then decide (4 < port) else port != 0)
  then .error 1
  else
    let b := m.read (a + 64) (bodyBytes ty)
    let next := a + 64 + bodyBytes ty
    match ty with
    | 0 =>
      let l := entries16 b 0 256
      match slotErr lane inst port l with
      | some c => .error c
      | none =>
        .ok (s.updRouter d inst fun r =>
          let put := fun t => mergeEntries slValid slOwner lane (slotKey port) t (l.take 248)
          { r with shadow := put r.shadow,
                   mirrorShadow := if port = 0 then r.mirrorShadow else put r.mirrorShadow }, next)
    | 1 =>
      let l := (List.range 256).map fun i => field b (8 * i) 8
      match chanErr lane (coreRouter (inst / 32) (inst % 32)) l with
      | some c => .error c
      | none =>
        let k := d * 512 + inst
        .ok (s.setCore k { s.core k with
          chanShadow := l.zipIdx.foldl (fun t e => Tab.put 0 t e.2 (BitVec.ofNat 64 e.1)) [] }, next)
    | 2 =>
      if !zeros b 16 48 then .error 1
      else
        .ok (s.updDie d fun x => { x with origins := Tab.upd {} x.origins inst fun o =>
          { o with allowShadow := (List.range 8).foldl (fun t c => Tab.put 0 t c (field b (2 * c) 2)) [] } },
          next)
    | 3 =>
      let l := entries16 b 0 256
      match bridgeErr lane l with
      | some c => .error c
      | none =>
        .ok (s.updDie d fun x => { x with bridges := Tab.upd {} x.bridges inst fun br =>
          { br with shadow := mergeEntries slValid slOwner lane id br.shadow (l.take 248) } }, next)
    | _ =>
      let n := 2 * d + inst
      let tx := mergeEntries lkValid lkOwner lane id (s.port n).txShadow (entries16 b 0 16)
      let rx := mergeEntries lkValid lkOwner lane id (s.port n).rxShadow (entries16 b 32 16)
      if !zeros b 72 56 then .error 1
      else if (entries16 b 0 16 ++ entries16 b 32 16).any fun e => lkValid e.2 && lkOwner e.2 != lane then
        .error 7
      else if !(linkTableOk tx && linkTableOk rx) then .error 8
      else
        .ok (s.updPort n fun p => { p with txShadow := tx, rxShadow := rx,
                                           lmapShadow := BitVec.ofNat 32 (field b 64 8) }, next)

/-- Load `n` records from address `a`, the first of index `i`: the state, and the failing code and
record. -/
def State.loadRecords (s : State) (d lane : Nat) : Nat → Nat → Nat → State × Option (Nat × Nat)
  | 0, _, _ => (s, none)
  | n + 1, i, a =>
    match s.loadRecord d lane a with
    | .error c => (s, some (c, i))
    | .ok (s, a) => State.loadRecords s d lane n (i + 1) a

/-- Trace the shadow tables back from an entry to the LOCAL input it comes from (05 R158, R165): 0, or
the error code of an unmatched hop or of a route too long or passing a router twice. -/
def backtrace (x : Die) (cores : Tab Core) (d owner cls : Nat) : Nat → List Nat → Nat → Nat → Nat → Nat
  | 0, _, _, _, _ => 4
  | n + 1, seen, r, p, c =>
    let e : BitVec 16 := Tab.look 0 (Tab.look ({} : Router) x.routers r).shadow (slotKey p c)
    if seen.contains r then 4
    else if !(slValid e && slOwner e == owner && slClass e == cls) then 3
    else if slIn e = 0 then
      match unitAt r with
      | .core cl k =>
        if (Tab.look ({} : Core) cores (coreKey d cl k)).chanShadow.any fun h =>
            bit h.2.toNat 0 && bits h.2.toNat 9 7 == p && bits h.2.toNat 13 10 == owner
              && bits h.2.toNat 6 4 == cls
        then 0 else 3
      | _ => 0
    else
      match neighbour r (slIn e) with
      | none => 2
      | some (r', p') => backtrace x cores d owner cls n (r :: seen) r' p' ((c + 253) % 256)

/-- The first record, of `n` from address `a`, with an entry whose route is not whole in the shadow
tables. -/
def State.routeError (s : State) (d : Nat) : Nat → Nat → Nat → Option (Nat × Nat)
  | 0, _, _ => none
  | n + 1, i, a =>
    let x := s.die d
    let h := x.stewMem.read a 64
    let ty := field h 0 2
    let err :=
      if ty = 0 then
        ((entries16 (x.stewMem.read (a + 64) 512) 0 248).filter fun e => slValid e.2).findSome? fun e =>
          let c := backtrace x s.cores d (slOwner e.2) (slClass e.2) 49 [] (field h 2 2) (field h 4 1) e.1
          if c = 0 then none else some c
      else none
    match err with
    | some c => some (c, i)
    | none => State.routeError s d n (i + 1) (a + 64 + bodyBytes ty)

/-- The whole load of a table image from `MESH_SLOT_BASE` (05 R168-R170). -/
def State.loadImage (s : State) (d : Nat) : State × Option (Nat × Nat) :=
  let m := (s.die d).stewMem
  let a := (s.die d).ctl.base.toNat * 64
  let h := m.read a 64
  let lane := field h 4 1
  if field h 0 2 != 1 || !zeros h 5 59 || decide (7 < lane) then (s, some (1, 0))
  else
    match s.loadRecords d lane (field h 2 2) 0 (a + 64) with
    | (s, some e) => (s, some e)
    | (s, none) => (s, s.routeError d (field h 2 2) 0 (a + 64))

/-- A write of `MESH_LOAD.GO`: ignored while a swap is armed; without effect while a load runs (05 R188). -/
def Die.loadGo (x : Die) : Die :=
  if x.ctl.arm then { x with ctl := { x.ctl with wign := true } } else { x with ctl := { x.ctl with busy := true } }

/-- A write of `MESH_COMMIT.ARM`: ignored while a load runs (05 R188). -/
def Die.armSwap (x : Die) : Die :=
  if x.ctl.busy then { x with ctl := { x.ctl with wign := true } } else { x with ctl := { x.ctl with arm := true } }

/-- MESH_LOAD_GO (05 R168, R188): ignored with `MESH_VIOL.WIGN` while a swap is armed; no effect while
BUSY. -/
def execMeshLoadGo (die : Fin 8) (s : State) : Host.Outcome State Fault Refusal :=
  .next (s.updDie die.val Die.loadGo)

/-- MESH_LOAD_COMPLETE: the load in progress ends, whole or at its first error (05 R170). -/
def execMeshLoadComplete (die : Fin 8) (s : State) : Host.Outcome State Fault Refusal :=
  if (s.die die.val).ctl.busy then
    let (s, e) := s.loadImage die.val
    .next (s.updDie die.val fun x =>
      { x with ctl := match e with
          | none => { x.ctl with busy := false }
          | some (c, i) => { x.ctl with busy := false, err := true, errcode := BitVec.ofNat 8 c,
                                        errrec := BitVec.ofNat 16 i } })
  else .next s

/-- ARM (05 R171, R188): ignored with `MESH_VIOL.WIGN` while a load is BUSY. -/
def execArm (die : Fin 8) (s : State) : Host.Outcome State Fault Refusal :=
  .next (s.updDie die.val Die.armSwap)

/-! ### The swap (05 R171, R172, R175) -/

/-- Two tables may be exchanged for a lane: where they differ, each entry is not VALID or the lane's
(05 R172). (log 15, DEDUCED) -/
def swapOk {w : Nat} (valid : BitVec w → Bool) (owner : BitVec w → Nat) (lane : Nat)
    (a b : Tab (BitVec w)) : Bool :=
  (a ++ b).all fun e =>
    let x := Tab.look 0 a e.1
    let y := Tab.look 0 b e.1
    x == y || ((!valid x || owner x == lane) && (!valid y || owner y == lane))

/-- Channel entries: VALID and OWNER. -/
def chanValid (e : Word64) : Bool := bit e.toNat 0
/-- OWNER of a channel entry. -/
def chanOwner (e : Word64) : Nat := bits e.toNat 13 10

/-- Cores of a die. -/
def State.coresOf (s : State) (d : Nat) : List (Nat × Core) := s.cores.filter fun c => keyDie c.1 == d

/-- Byte `i` of an owner register pair of a stop: entry `i` of its owner table (06 Table 16). -/
def ownByteAt (o0 : Word64) (o1 : Byte) (i : Nat) : Nat :=
  if i < 8 then bits o0.toNat (8 * i + 7) (8 * i) else o1.toNat

/-- The owner table of a stop may be exchanged for a lane (06 R226). -/
def MemStop.swapOk (t : MemStop) (lane : Nat) : Bool :=
  (List.range 9).all fun i =>
    let a := ownByteAt t.own0 t.own1 i
    let b := ownByteAt t.own0Shadow t.own1Shadow i
    a == b || ((!bit a 7 || a % 16 == lane) && (!bit b 7 || b % 16 == lane))

/-- The shadow owner table becomes active. -/
def MemStop.swap (t : MemStop) : MemStop := { t with own0 := t.own0Shadow, own1 := t.own1Shadow }

/-- The comparison of R172 over every table of a die. -/
def State.swapAllowed (s : State) (d lane : Nat) : Bool :=
  let x := s.die d
  (x.routers.all fun r => swapOk slValid slOwner lane r.2.active r.2.shadow)
    && ((x.hstops ++ x.mstops).all fun t => t.2.swapOk lane)
    && (x.bridges.all fun b => swapOk slValid slOwner lane b.2.active b.2.shadow)
    && ((s.coresOf d).all fun c => swapOk chanValid chanOwner lane c.2.chan c.2.chanShadow)
    && ([2 * d, 2 * d + 1].all fun p => swapOk lkValid lkOwner lane (s.port p).tx (s.port p).txShadow
          && swapOk lkValid lkOwner lane (s.port p).rx (s.port p).rxShadow)

/-- Every shadow bank of a die becomes active, and BYPASS takes effect (05 R171, R175). (log 15, DEDUCED) -/
def State.swapTables (s : State) (d : Nat) : State :=
  let s := s.updDie d fun x =>
    { x with
      routers := Tab.mapVals {} (fun _ (r : Router) =>
        { r with active := r.shadow, mirror := r.mirrorShadow, bypassed := r.bypass }) x.routers
      bridges := Tab.mapVals {} (fun _ (b : Bridge) => { b with active := b.shadow }) x.bridges
      origins := Tab.mapVals {} (fun _ (o : Origin) => { o with allow := o.allowShadow }) x.origins
      hstops := Tab.mapVals {} (fun _ (t : MemStop) => t.swap) x.hstops
      mstops := Tab.mapVals {} (fun _ (t : MemStop) => t.swap) x.mstops }
  let s := { s with cores := Tab.mapVals {} (fun k (c : Core) =>
    if keyDie k == d then { c with chan := c.chanShadow } else c) s.cores }
  [2 * d, 2 * d + 1].foldl (fun s p => s.updPort p fun q =>
    { q with tx := q.txShadow, rx := q.rxShadow, lmap := q.lmapShadow }) s

/-- The swap or its refusal at the release of the armed lane's start barrier. (log 15, DEDUCED) -/
def State.meshSwap (s : State) (d lane : Nat) : State :=
  let m := (s.die d).ctl
  if m.arm && m.lane.toNat == lane then
    if s.swapAllowed d lane then
      (s.swapTables d).updDie d fun x => { x with ctl := { x.ctl with arm := false, done := true } }
    else s.updDie d fun x => { x with ctl := { x.ctl with arm := false, refused := true } }
  else s

end Sys2Proof.Machine
end

