-- ==== Sys2Proof/Machine/Mx.lean ====
section
/-! DEFINITION. The MX instructions (03 R90-R98, Table 6). -/

namespace Sys2Proof.Machine

/-- The MAC rate of an operand pair, 0 for a pair that is not legal (02 Table 5). -/
def pairRate (a b : Nat) : Nat :=
  let lo := min a b
  let hi := max a b
  if hi = 0 then 2048
  else if hi = 1 then 1024
  else if a = 2 ∧ b = 2 then 2048
  else if isMx a && isMx b then 1024
  else if decide (8 ≤ lo) && decide (hi ≤ 9) then 512
  else 0

/-- Some format field holds 0xC-0xF (02 R41). -/
def anyBadFmt (w : Nat) : Bool := badFmt (iFa w) || badFmt (iFb w) || badFmt (iFd w)

/-- Issue checks of an MX instruction (03 R84, R93): reserved bits from IMM bit `immTop` up, MOD, and
the rest of the field that holds ABASE with its base selector. (log 11, DEDUCED) -/
def mxIllegal (w immTop modMax abaseField abaseX : Nat) : Option CF :=
  faultIf (bits w 39 38 != 0 || bits w 127 immTop != 0 || decide (modMax < iMod w)
    || decide (4096 ≤ abaseField) || abaseX != 0) (.illegal w)

/-- ACLR (03 Table 6). -/
def planAclr (_ : State) (_ w : Nat) : Except CF Plan :=
  let p := iP w
  let nc := iNc w
  checked
    [mxIllegal w 110 0 (iD w) (iDx w),
     faultIf (iFa w != 0 || iFb w != 0 || iFd w != 0) (.badFormat w),
     rectBad (iD w) p nc]
    { accs := (rectIdx (iD w) p nc).map fun x =>
        (x.2, { alsb := BitVec.ofInt 10 (iAclrLsb w) }),
      cycles := cdiv (p * nc) 32 + 2 }

/-- Column `j` of operand B of an MMA: a landing record (MOD 1) or an operand panel of NC rows. -/
def mmaCol (c : Core) (w b j : Nat) : List Val :=
  if iMod w = 1 then c.landingCol (iFb w) b (iKb w) j
  else c.panelRow (iFb w) b (iNc w) (iKb w) j

/-- The accumulators an MMA writes: each gains the terms of its row and column (02 R54-R57). -/
def mmaAccs (c : Core) (w a b : Nat) : List (Nat × Acc) :=
  let rows := (List.range (iP w)).map fun p => c.panelRow (iFa w) a (iP w) (iKb w) p
  let cols := (List.range (iNc w)).map fun j => mmaCol c w b j
  (rectIdx (iD w) (iP w) (iNc w)).map fun x =>
    (x.2, (c.acc x.2).dot
      (((rows[x.1 / iNc w]?).getD []).zip ((cols[x.1 % iNc w]?).getD [])))

/-- MMA (03 Table 6). -/
def planMma (s : State) (k w : Nat) : Except CF Plan :=
  let c := s.core k
  let (p, nc, kb) := (iP w, iNc w, iKb w)
  let rate := pairRate (iFa w) (iFb w)
  let a := c.ea (iA w) (iAx w)
  let b := c.ea (iB w) (iBx w)
  let ra : Range := (a, panelBytes (iFa w) p kb)
  let rb : Range := (b, if iMod w = 1 then landingBytes else panelBytes (iFb w) nc kb)
  checked
    [mxIllegal w 108 1 (iD w) (iDx w),
     faultIf (anyBadFmt w || iFd w != 0 || rate == 0) (.badFormat w),
     rectBad (iD w) p nc,
     areaBad true ra, areaBad true rb,
     faultIf (iMod w == 1 && decide (landingGroups (iFb w) < nc * kb)) (.range (nc * kb)),
     faultIf (iMod w == 1 && bits (c.num (b + 4360) 8) 63 60 != iFb w) (.badFormat w)]
    { reads := [ra, rb], accs := mmaAccs c w a b, land := if iMod w = 1 then some b else none,
      cycles := max (cdiv (p * nc * kb * 32) rate) (if iMod w = 1 then 68 else 0) + 16, rate }

/-- ARND (03 Table 6): rounds by 02 R61 and sets OVF by R62. -/
def planArnd (s : State) (k w : Nat) : Except CF Plan :=
  let c := s.core k
  let (p, nc) := (iP w, iNc w)
  let sz := resultBytes (iFd w)
  let d := c.ea (iD w) (iDx w)
  let rd : Range := (d, p * nc * sz)
  let accs := (rectIdx (iA w) p nc).map fun x => c.acc x.2
  checked
    [mxIllegal w 100 0 (iA w) (iAx w),
     faultIf (iFa w != 0 || iFb w != 0 || sz == 0) (.badFormat w),
     rectBad (iA w) p nc, areaBad false rd]
    { writes := [rd],
      data := [(d, accs.flatMap fun x => leBytes sz (x.round ((ffmt (iFd w)).getD f32)))],
      ovf := ovfAfter false accs, cycles := cdiv (p * nc) 32 + 8 }

/-- AEXP (03 Table 6): ACC records of the accumulators. -/
def planAexp (s : State) (k w : Nat) : Except CF Plan :=
  let c := s.core k
  let (p, nc) := (iP w, iNc w)
  let d := c.ea (iD w) (iDx w)
  let rd : Range := (d, 32 * (p * nc))
  checked
    [mxIllegal w 100 0 (iA w) (iAx w),
     faultIf (iFa w != 0 || iFb w != 0 || iFd w != 0) (.badFormat w),
     rectBad (iA w) p nc, areaBad true rd]
    { writes := [rd], data := [(d, (rectIdx (iA w) p nc).flatMap fun x => (c.acc x.2).record)],
      cycles := cdiv (p * nc) 8 + 8 }

/-- A record may be combined into an accumulator (02 R60). -/
def combinable (a : Acc) (r : List Byte) : Bool := recOk r && a.lsb == recAlsb r

/-- AADD (03 Table 6, R95): every record's ALSB is checked before any is combined. -/
def planAadd (s : State) (k w : Nat) : Except CF Plan :=
  let c := s.core k
  let (p, nc) := (iP w, iNc w)
  let a := c.ea (iA w) (iAx w)
  let ra : Range := (a, 32 * (p * nc))
  let l := (rectIdx (iD w) p nc).map fun x => (x.2, c.scratch.read (a + 32 * x.1) 32)
  checked
    [mxIllegal w 100 0 (iD w) (iDx w),
     faultIf (iFa w != 0 || iFb w != 0 || iFd w != 0) (.badFormat w),
     rectBad (iD w) p nc, areaBad true ra,
     (l.find? fun x => !combinable (c.acc x.1) x.2).map fun x => .alsb x.1]
    { reads := [ra], accs := l.map fun x => (x.1, (c.acc x.1).combine (accOfRecord x.2)),
      cycles := cdiv (p * nc) 8 + 8 }

/-- ACLR: a rectangle of accumulators becomes zero with the ALSB given (03 R94). -/
def execAclr (c : CoreId) (ovl : List Eng) (s : State) : Host.Outcome State Fault Refusal :=
  .next (s.engine c.key 0x40 .mx ovl none planAclr)

/-- MMA: exact terms of an operand panel against a panel or a checked landing record (03 R94). -/
def execMma (c : CoreId) (ovl : List Eng) (ue : Option (Nat × Nat)) (s : State) :
    Host.Outcome State Fault Refusal :=
  .next (s.engine c.key 0x41 .mx ovl ue planMma)

/-- ARND: rounded results of a rectangle (02 R61, 03 R94). -/
def execArnd (c : CoreId) (ovl : List Eng) (ue : Option (Nat × Nat)) (s : State) :
    Host.Outcome State Fault Refusal :=
  .next (s.engine c.key 0x42 .mx ovl ue planArnd)

/-- AEXP: accumulators written out as ACC records (03 R94). -/
def execAexp (c : CoreId) (ovl : List Eng) (ue : Option (Nat × Nat)) (s : State) :
    Host.Outcome State Fault Refusal :=
  .next (s.engine c.key 0x43 .mx ovl ue planAexp)

/-- AADD: ACC records combined into accumulators (02 R60, 03 R95). -/
def execAadd (c : CoreId) (ovl : List Eng) (ue : Option (Nat × Nat)) (s : State) :
    Host.Outcome State Fault Refusal :=
  .next (s.engine c.key 0x44 .mx ovl ue planAadd)

end Sys2Proof.Machine
end

