-- ==== Sys2Proof/Machine/Vx.lean ====
section
/-! DEFINITION. The VX instructions (03 R100-R102, Tables 7 and 8). -/

namespace Sys2Proof.Machine

/-- Issue checks of a VX instruction: reserved bits from IMM bit `immTop` up and MOD (03 R84). (log 11, DEDUCED) -/
def vxIllegal (w immTop modMax : Nat) : Option CF :=
  faultIf (bits w 39 38 != 0 || bits w 127 immTop != 0 || decide (modMax < iMod w)) (.illegal w)

/-- The format fields must hold these codes: 0xA for a binary32 operand, 0 for a field not used
(03 R96, R100). -/
def vxFormats (w a b d : Nat) : Option CF :=
  faultIf (iFa w != a || iFb w != b || iFd w != d) (.badFormat w)

/-! ### Elementwise -/

/-- Operand B of an elementwise instruction: MOD bit 0 broadcasts one value. -/
def vxB (c : Core) (w b n : Nat) : List Nat :=
  if iMod w = 1 then List.replicate n (c.num b 4) else c.f32s b n

/-- A two-operand elementwise instruction `D[i] = op A[i] B[i] D[i]`; `readD`: D is read too. -/
def planBinary (op : Nat → Nat → Nat → Nat) (readD : Bool) (div lat : Nat) (s : State) (k w : Nat) :
    Except CF Plan :=
  let c := s.core k
  let n := iN w
  let a := c.ea (iA w) (iAx w)
  let b := c.ea (iB w) (iBx w)
  let d := c.ea (iD w) (iDx w)
  let ra : Range := (a, 4 * n)
  let rb : Range := (b, if iMod w = 1 then 4 else 4 * n)
  let rd : Range := (d, 4 * n)
  checked
    [vxIllegal w 104 1, vxFormats w 0xA 0xA 0xA, areaBad false ra, areaBad false rb, areaBad false rd]
    { reads := if readD then [ra, rb, rd] else [ra, rb], writes := [rd],
      data := [(d, f32Bytes (((c.f32s a n).zip ((vxB c w b n).zip (c.f32s d n))).map fun x =>
        op x.1 x.2.1 x.2.2))],
      cycles := cdiv n div + lat }

/-- A one-operand elementwise instruction. -/
def planUnary (op : Nat → Nat) (modMax div lat : Nat) (s : State) (k w : Nat) : Except CF Plan :=
  let c := s.core k
  let n := iN w
  let a := c.ea (iA w) (iAx w)
  let d := c.ea (iD w) (iDx w)
  let ra : Range := (a, 4 * n)
  let rd : Range := (d, 4 * n)
  checked
    [vxIllegal w 104 modMax, vxFormats w 0xA 0 0xA, areaBad false ra, areaBad false rd]
    { reads := [ra], writes := [rd], data := [(d, f32Bytes ((c.f32s a n).map op))],
      cycles := cdiv n div + lat }

/-- The function MOD selects (03 Table 7). -/
def vfnOp : Nat → Nat → Nat
  | 0 => fexp | 1 => flog | 2 => frsqrt | 3 => frecip | 4 => ftanh | _ => ferf

/-! ### Conversion and quantisation -/

/-- The elements VCVT reads: a landing record (MOD 1), or one row of an operand panel of
`ceil (n / 32)` groups. (log 11, DEDUCED) -/
def vcvtVals (c : Core) (w a n : Nat) : List Val :=
  let f := iFa w
  let kb := cdiv n 32
  if iMod w = 1 then (c.landingCol f a kb 0).take n
  else if isMx f then (c.panelRow f a 1 kb 0).take n
  else
    let v := c.num a (cdiv (n * fmtBits f) 8)
    (List.range n).map fun j => elemVal f 127 (unpackBits (fmtBits f) v j)

/-- Bytes of VCVT's operand A. -/
def vcvtBytes (w n : Nat) : Nat :=
  let f := iFa w
  if iMod w = 1 then landingBytes
  else if isMx f then panelBytes f 1 (cdiv n 32) else cdiv (n * fmtBits f) 8

/-- VCVT: conversion of N elements (03 Table 7). -/
def planVcvt (s : State) (k w : Nat) : Except CF Plan :=
  let c := s.core k
  let n := iN w
  let sz := resultBytes (iFd w)
  let a := c.ea (iA w) (iAx w)
  let d := c.ea (iD w) (iDx w)
  let ra : Range := (a, vcvtBytes w n)
  let rd : Range := (d, n * sz)
  checked
    [vxIllegal w 104 1,
     faultIf (decide (0xA < iFa w) || iFb w != 0 || sz == 0) (.badFormat w),
     areaBad (iMod w == 1 || isMx (iFa w)) ra, areaBad false rd,
     faultIf (iMod w == 1 && decide (landingGroups (iFa w) < cdiv n 32)) (.range (cdiv n 32)),
     faultIf (iMod w == 1 && bits (c.num (a + 4360) 8) 63 60 != iFa w) (.badFormat w)]
    { reads := [ra], writes := [rd],
      data := [(d, (vcvtVals c w a n).flatMap fun v => leBytes sz (((ffmt (iFd w)).getD f32).ofVal v))],
      land := if iMod w = 1 then some a else none,
      cycles := max (cdiv n 16) (if iMod w = 1 then 68 else 0) + 6 }

/-- The blocks of one row of VQNT. -/
def vqntRow (c : Core) (f a n r : Nat) : List (Nat × List Nat) :=
  (List.range (n / 32)).map fun g => quantBlock f (c.f32s (a + r * rowStride n + 128 * g) 32)

/-- The bytes of the operand panel VQNT writes, padded with zeros (03 R90). -/
def vqntBytes (c : Core) (f a n rows : Nat) : List Byte :=
  let blocks := (List.range rows).flatMap fun r => vqntRow c f a n r
  let w := fmtBits f
  slice ((blocks.flatMap fun b => leBytes (4 * w) (packBits w b.2)) ++
    blocks.map fun b => BitVec.ofNat 8 b.1) 0 (panelBytes f rows (n / 32))

/-- VQNT: quantisation of rows into an operand panel (02 R72, 03 Table 7). -/
def planVqnt (s : State) (k w : Nat) : Except CF Plan :=
  let c := s.core k
  let (n, rows) := (iN w, iRows w)
  let f := iFd w
  let a := c.ea (iA w) (iAx w)
  let d := c.ea (iD w) (iDx w)
  let ra := rowsRange a rows n
  let rd : Range := (d, panelBytes f rows (n / 32))
  checked
    [vxIllegal w 111 0,
     faultIf (iFa w != 0xA || iFb w != 0 || !isMx f || n % 32 != 0) (.badFormat w),
     areaBad false ra, areaBad true rd]
    { reads := [ra], writes := [rd], data := [(d, vqntBytes c f a n rows)],
      cycles := rows * 2 * cdiv n 16 + 10 }

/-! ### Row sums -/

/-- The exact sum VSUM forms for a row: of A's values, or of the products of A and B (02 R68). -/
def vsumRow (c : Core) (w a b n r : Nat) : Acc :=
  let x := (c.f32s (a + r * rowStride n) n).map v32
  let acc := if iMod w = 1 then
      exactDot (iVxLsb w) (x.zip ((c.f32s (b + r * rowStride n) n).map v32))
    else exactSum (iVxLsb w) x
  { acc with alsb := BitVec.ofInt 10 (iVxLsb w) }

/-- VSUM: one ACC record per row (03 Table 7). -/
def planVsum (s : State) (k w : Nat) : Except CF Plan :=
  let c := s.core k
  let (n, rows) := (iN w, iRows w)
  let a := c.ea (iA w) (iAx w)
  let b := c.ea (iB w) (iBx w)
  let d := c.ea (iD w) (iDx w)
  let ra := rowsRange a rows n
  let rb := rowsRange b rows n
  let rd : Range := (d, 32 * rows)
  let two := iMod w == 1
  checked
    [vxIllegal w 121 1, vxFormats w 0xA (if two then 0xA else 0) 0,
     areaBad false ra, if two then areaBad false rb else none, areaBad true rd]
    { reads := if two then [ra, rb] else [ra], writes := [rd],
      data := [(d, (List.range rows).flatMap fun r => (vsumRow c w a b n r).record)],
      cycles := rows * cdiv n 16 + 12 }

/-- VRND: rounded quotients of ACC records (02 R71, 03 Table 7). -/
def planVrnd (s : State) (k w : Nat) : Except CF Plan :=
  let c := s.core k
  let (n, rows) := (iN w, iRows w)
  let a := c.ea (iA w) (iAx w)
  let d := c.ea (iD w) (iDx w)
  let ra : Range := (a, 32 * rows)
  let rd : Range := (d, 4 * rows)
  let l := (List.range rows).map fun r => (r, c.scratch.read (a + 32 * r) 32)
  checked
    [vxIllegal w 111 0, vxFormats w 0 0 0xA, areaBad true ra, areaBad false rd,
     (l.find? fun x => !recOk x.2).map fun x => .alsb x.1]
    { reads := [ra], writes := [rd],
      data := [(d, f32Bytes (l.map fun x => (accOfRecord x.2).roundDiv f32 n))],
      cycles := rows + 12 }

/-! ### Composites (03 R101) -/

/-- The parameter block's bytes that must be 0: 4-7 and 12-13 for VSMX, 4-7 for VRMS, and 14-63
(03 Table 8). -/
def blockBad (c : Core) (b : Nat) (zero : List (Nat × Nat)) : Option CF :=
  faultIf (((14, 50) :: zero).any fun z => c.num (b + z.1) z.2 != 0) (.range b)

/-- L of a parameter block, 16-bit two's complement. -/
def blockL (c : Core) (b : Nat) : Int := (BitVec.ofNat 16 (c.num (b + 12) 2)).toInt

/-- A composite on `rows` rows: the parameter block at B, the ranges it names, and one row's result. -/
def planRows (zero : List (Nat × Nat)) (args : Core → Nat → Nat → Nat → List Range)
    (row : Core → Nat → Nat → List Nat → List Nat) (mul lat : Nat) (s : State) (k w : Nat) :
    Except CF Plan :=
  let c := s.core k
  let (n, rows) := (iN w, iRows w)
  let a := c.ea (iA w) (iAx w)
  let b := c.ea (iB w) (iBx w)
  let d := c.ea (iD w) (iDx w)
  let ra := rowsRange a rows n
  let rb : Range := (b, 64)
  let rd := rowsRange d rows n
  let extra := args c b n rows
  checked
    ([vxIllegal w 111 0, vxFormats w 0xA 0 0xA, areaBad false ra, areaBad false rb, areaBad false rd,
      blockBad c b zero] ++ extra.map (areaBad false))
    { reads := [ra, rb] ++ extra, writes := [rd],
      data := (List.range rows).map fun r =>
        (d + r * rowStride n, f32Bytes (row c b r (c.f32s (a + r * rowStride n) n))),
      cycles := rows * mul * cdiv n 16 + lat }

/-- Mask rows a VSMX names. -/
def vsmxArgs (c : Core) (b n rows : Nat) : List Range :=
  [(c.num b 4, (rows - 1) * maskStride n + cdiv n 8)]

/-- One row of VSMX (02 R69). -/
def vsmxRow (c : Core) (b r : Nat) (x : List Nat) : List Nat :=
  softmax (c.num (b + 8) 4)
    ((List.range x.length).map fun i => c.maskBit (c.num b 4 + r * maskStride x.length) i) x

/-- The vector g of VRMS. -/
def vrmsArgs (c : Core) (b n _ : Nat) : List Range := [(c.num b 4, 4 * n)]

/-- One row of VRMS (02 R70). -/
def vrmsRow (c : Core) (b _ : Nat) (x : List Nat) : List Nat :=
  rmsNorm (blockL c b) (c.num (b + 8) 4) (c.f32s (c.num b 4) x.length) x

/-- The vectors g and b of VLN. -/
def vlnArgs (c : Core) (b n _ : Nat) : List Range := [(c.num b 4, 4 * n), (c.num (b + 4) 4, 4 * n)]

/-- One row of VLN (02 R70). -/
def vlnRow (c : Core) (b _ : Nat) (x : List Nat) : List Nat :=
  layerNorm (blockL c b) (c.num (b + 8) 4) (c.f32s (c.num b 4) x.length)
    (c.f32s (c.num (b + 4) 4) x.length) x

/-! ### Tree masks (03 R102) -/

/-- The parent list: node 0 holds 0xFF, every other node a parent index below its own (03 R102). -/
def parentsOk (l : List Nat) : Bool :=
  match l with
  | [] => false
  | r :: t => r == 0xFF && (t.zipIdx 1).all fun x => decide (x.1 < x.2)

/-- For each node the nodes on its path to the root, itself included. -/
def ancestors (l : List Nat) : List (List Nat) :=
  l.zipIdx.foldl (fun acc x =>
    acc ++ [x.2 :: (if x.2 = 0 then [] else (acc[x.1]?).getD [])]) []

/-- A mask row as a number after the tree bits of a node are placed (03 R102). -/
def treeRow (old n p : Nat) (anc : List Nat) : Nat :=
  (List.range p).foldl (fun v j =>
    let i := n - p + j
    let cleared := if bit v i then v - 2 ^ i else v
    if anc.contains j then cleared else cleared + 2 ^ i) old

/-- VTMK: tree mask bits into mask rows (03 R102). -/
def planVtmk (s : State) (k w : Nat) : Except CF Plan :=
  let c := s.core k
  let (n, p) := (iN w, iRows w)
  let a := c.ea (iA w) (iAx w)
  let d := c.ea (iD w) (iDx w)
  let ra : Range := (a, p)
  let nb := cdiv n 8
  let rd : Range := (d, (p - 1) * maskStride n + nb)
  let parents := (List.range p).map fun i => c.num (a + i) 1
  let anc := ancestors parents
  checked
    [vxIllegal w 111 0, vxFormats w 0 0 0, areaBad false ra, areaBad false rd,
     faultIf (!parentsOk parents || decide (n < p)) (.badFormat w)]
    { reads := [ra], writes := [rd],
      data := (List.range p).map fun i =>
        let at' := d + i * maskStride n
        (at', leBytes nb (treeRow (c.num at' nb) n p ((anc[i]?).getD []))),
      cycles := p + 8 }

/-! ### The meanings -/

/-- VADD (02 R64). -/
def execVadd (c : CoreId) (ovl : List Eng) (ue : Option (Nat × Nat)) (s : State) :
    Host.Outcome State Fault Refusal :=
  .next (s.engine c.key 0x80 .vx ovl ue (planBinary (fun a b _ => fadd a b) false 16 6))

/-- VSUB (02 R64). -/
def execVsub (c : CoreId) (ovl : List Eng) (ue : Option (Nat × Nat)) (s : State) :
    Host.Outcome State Fault Refusal :=
  .next (s.engine c.key 0x81 .vx ovl ue (planBinary (fun a b _ => fsub a b) false 16 6))

/-- VMUL (02 R64). -/
def execVmul (c : CoreId) (ovl : List Eng) (ue : Option (Nat × Nat)) (s : State) :
    Host.Outcome State Fault Refusal :=
  .next (s.engine c.key 0x82 .vx ovl ue (planBinary (fun a b _ => fmul a b) false 16 6))

/-- VFMA: one rounding (02 R64). -/
def execVfma (c : CoreId) (ovl : List Eng) (ue : Option (Nat × Nat)) (s : State) :
    Host.Outcome State Fault Refusal :=
  .next (s.engine c.key 0x83 .vx ovl ue (planBinary ffma true 16 6))

/-- VDIV (02 R64). -/
def execVdiv (c : CoreId) (ovl : List Eng) (ue : Option (Nat × Nat)) (s : State) :
    Host.Outcome State Fault Refusal :=
  .next (s.engine c.key 0x84 .vx ovl ue (planBinary (fun a b _ => fdiv a b) false 8 14))

/-- VSQRT (02 R64). -/
def execVsqrt (c : CoreId) (ovl : List Eng) (ue : Option (Nat × Nat)) (s : State) :
    Host.Outcome State Fault Refusal :=
  .next (s.engine c.key 0x85 .vx ovl ue (planUnary fsqrt 0 8 14))

/-- VMIN (02 R66). -/
def execVmin (c : CoreId) (ovl : List Eng) (ue : Option (Nat × Nat)) (s : State) :
    Host.Outcome State Fault Refusal :=
  .next (s.engine c.key 0x86 .vx ovl ue (planBinary (fun a b _ => fmin a b) false 16 6))

/-- VMAX (02 R66). -/
def execVmax (c : CoreId) (ovl : List Eng) (ue : Option (Nat × Nat)) (s : State) :
    Host.Outcome State Fault Refusal :=
  .next (s.engine c.key 0x87 .vx ovl ue (planBinary (fun a b _ => fmax a b) false 16 6))

/-- The plan of VFN: the function MOD names (02 R67). -/
def planVfn (s : State) (k w : Nat) : Except CF Plan := planUnary (vfnOp (iMod w)) 5 16 24 s k w

/-- VFN (02 R67). -/
def execVfn (c : CoreId) (ovl : List Eng) (ue : Option (Nat × Nat)) (s : State) :
    Host.Outcome State Fault Refusal :=
  .next (s.engine c.key 0x88 .vx ovl ue planVfn)

/-- VCVT (03 R100). -/
def execVcvt (c : CoreId) (ovl : List Eng) (ue : Option (Nat × Nat)) (s : State) :
    Host.Outcome State Fault Refusal :=
  .next (s.engine c.key 0x89 .vx ovl ue planVcvt)

/-- VQNT (02 R72). -/
def execVqnt (c : CoreId) (ovl : List Eng) (ue : Option (Nat × Nat)) (s : State) :
    Host.Outcome State Fault Refusal :=
  .next (s.engine c.key 0x8A .vx ovl ue planVqnt)

/-- VSUM (02 R68). -/
def execVsum (c : CoreId) (ovl : List Eng) (ue : Option (Nat × Nat)) (s : State) :
    Host.Outcome State Fault Refusal :=
  .next (s.engine c.key 0x8B .vx ovl ue planVsum)

/-- VRND (02 R71). -/
def execVrnd (c : CoreId) (ovl : List Eng) (ue : Option (Nat × Nat)) (s : State) :
    Host.Outcome State Fault Refusal :=
  .next (s.engine c.key 0x8C .vx ovl ue planVrnd)

/-- VSMX (02 R69). -/
def execVsmx (c : CoreId) (ovl : List Eng) (ue : Option (Nat × Nat)) (s : State) :
    Host.Outcome State Fault Refusal :=
  .next (s.engine c.key 0x8D .vx ovl ue (planRows [(4, 4), (12, 2)] vsmxArgs vsmxRow 3 40))

/-- VRMS (02 R70). -/
def execVrms (c : CoreId) (ovl : List Eng) (ue : Option (Nat × Nat)) (s : State) :
    Host.Outcome State Fault Refusal :=
  .next (s.engine c.key 0x8E .vx ovl ue (planRows [(4, 4)] vrmsArgs vrmsRow 2 40))

/-- VLN (02 R70). -/
def execVln (c : CoreId) (ovl : List Eng) (ue : Option (Nat × Nat)) (s : State) :
    Host.Outcome State Fault Refusal :=
  .next (s.engine c.key 0x8F .vx ovl ue (planRows [] vlnArgs vlnRow 4 48))

/-- VTMK (03 R102). -/
def execVtmk (c : CoreId) (ovl : List Eng) (ue : Option (Nat × Nat)) (s : State) :
    Host.Outcome State Fault Refusal :=
  .next (s.engine c.key 0x90 .vx ovl ue planVtmk)

end Sys2Proof.Machine
end

