-- ==== Sys2Proof/Machine/Mem.lean ====
section
/-! DEFINITION. Memory stops, Spindles and refetches (04 R115-R122, 06 R190-R226, 03 R98, R99). -/

namespace Sys2Proof.Machine

/-! ### Owner tables and requests (06 R194, R195, R203) -/

/-- Entry `i` of a stop's owner table. -/
def MemStop.own (t : MemStop) (i : Nat) : Nat := ownByteAt t.own0 t.own1 i
/-- OWNER of an entry. -/
def owOwner (e : Nat) : Nat := e % 16
/-- USE of an entry. -/
def owUse (e : Nat) : Nat := bits e 6 4
/-- VALID of an entry. -/
def owValid (e : Nat) : Bool := bit e 7

/-- Some window or block of the stop is an owner's for a use (06 R195). -/
def MemStop.grants (t : MemStop) (owner use : Nat) : Bool :=
  (List.range 9).any fun i => owValid (t.own i) && owOwner (t.own i) == owner && owUse (t.own i) == use

/-- A stop's registers note an uncorrectable error (06 Tables 14 and 15). (log 48, PRESUMED) -/
def MemStop.noteUe (t : MemStop) (addr owner : Nat) : MemStop :=
  let t := { t with uncorr := t.uncorr + 1 }
  if t.uev then t
  else { t with uev := true, ueaddr := BitVec.ofNat 41 addr, ueowner := BitVec.ofNat 4 owner }

/-- A fault of a memory stop, charged to a lane owner; firmware owners charge nothing (09 R308). -/
def State.stopFault (s : State) (m : Bool) (d i code : Nat) (st : Status) (owner addr : Nat) : State :=
  if owner < 8 then
    s.laneFault d owner 5 code st (plocOf d 0xF (if m then 8 + i else i) 7 0) 0 addr
  else s

/-- An address names memory of the stop and its region's valid bit is set (06 R191, 07 R258). -/
def State.addrOk (s : State) (m : Bool) (d i a : Nat) : Bool :=
  let r := if m then mpaRegion a else hpaRegion a
  r.1 == d && r.2.1 == i && !(s.region m r).revoked && decide (a < (if m then 2 ^ 41 else 2 ^ 39))

/-- A request reaches a stop: refused as `MEM_RANGE` or `SLOT_VIOLATION`, or queued. -/
def State.memArrive (s : State) (m : Bool) (d i : Nat) (r : MemReq) : State :=
  if !s.addrOk m d i r.addr then s.stopFault m d i 1 .format r.owner r.addr
  else
    let t := Tab.look ({} : MemStop) (if m then (s.die d).mstops else (s.die d).hstops) i
    if !t.grants r.owner r.use then s.stopFault m d i 3 .slot r.owner r.addr
    else s.updDie d fun x => x.updStop (if m then .m else .h) i fun t => { t with queue := t.queue ++ [r] }

/-- Bytes moved for a lane in tier H or M: whole bursts of 32 bytes (09 Table 7). -/
def State.memBytes (s : State) (m : Bool) (d owner bursts : Nat) : State :=
  if owner < 8 then
    match s.laneCtx d owner with
    | some c => s.updCtx c fun x =>
        if m then { x with dM := x.dM + 32 * bursts } else { x with dH := x.dH + 32 * bursts }
    | none => s
  else s

/-! ### Tiles in tier H (06 R198, R199) -/

/-- HPA of a chunk. -/
def chunkAddr (d j n : Nat) : Nat := d * 2 ^ 36 + n * 2 ^ 15 + j * 2 ^ 12

/-- The landing record of tile `k` of a segment, read in window `w` (03 Table 5, 06 R199); a read that
meets an uncorrectable error has every bit of its check inverted (04 R119). -/
def State.tileRecord (s : State) (d j : Nat) (g : Seg) (k w : Nat) (tid : Nat) (ue : Bool) : List Byte :=
  let elems := s.memRead false (chunkAddr d j (g.ech + k)) 4096
  let scales := s.memRead false (chunkAddr d j (g.sch + k / 16) + k % 16 * 256) 256
  let check := s.memRead false
    (chunkAddr d j (g.tch + k / 64) + k % 64 / 4 * 256 + w % 8 * 32 + 8 * (k % 4)) 8
  elems ++ scales ++ (if ue then check.map (~~~ ·) else check) ++ leBytes 8 tid ++ List.replicate 48 0

/-- The segment of a model slot at an H stop. -/
def State.seg (s : State) (d j slot : Nat) : Seg :=
  Tab.look {} (Tab.look ({} : MemStop) (s.die d).hstops j).segs slot

/-- A tile range lies in the segment of its model slot. -/
def Seg.holds (g : Seg) (t n : Nat) : Bool := g.valid && decide (g.first ≤ t) && decide (t + n ≤ g.first + g.count)

/-! ### Stream lists (04 R116-R118, 06 R196, R197) -/

/-- A stream entry's bytes. -/
def entryBytes (e : BitVec 256) : List Byte := leBytes 32 e.toNat

/-- The fields of a stream entry are in range and its reserved bytes zero, and its tiles lie in the image
of its model slot (04 R118). -/
def State.entryOk (s : State) (d sp : Nat) (b : List Byte) : Bool :=
  let tid := field b 0 8
  let n := field b 14 2
  decide (field b 12 1 ≤ 8) && decide (1 ≤ n) && field b 16 2 % 4 == 0 && decide (1 ≤ field b 18 1)
    && decide (field b 18 1 ≤ 32) && decide (field b 19 1 ≤ 63) && zeros b 20 12
    && decide (field b 16 2 * 16 + field b 18 1 * 4416 ≤ 2 ^ 20)
    && (s.seg d sp (bits tid 59 48)).holds (bits tid 47 0) n

/-- A Spindle of a lane. -/
def State.spindle (s : State) (d l sp : Nat) : Spindle := Tab.look {} (s.lane d l).spindles sp

/-- Change a Spindle. -/
def State.updSpindle (s : State) (d l sp : Nat) (f : Spindle → Spindle) : State :=
  s.updLane d l fun L => { L with spindles := Tab.upd {} L.spindles sp f }

/-- A fault of a lane's stream: the lane is in FAULT (04 R118, 06 R196). -/
def State.streamFault (s : State) (d l code : Nat) (st : Status) : State :=
  let s := s.laneFault d l 3 code st (plocOf d 0xF 0x1F 7 0) 0 0
  s.updLane d l fun L => { L with st := .fault }

/-- A late start is noted (04 R118, Tables 14 and 16). (log 20, DEDUCED) -/
def Lane.noteLate (L : Lane) : Lane := { L with late := true, latec := satAdd L.latec 1 }

/-- The lane's tile slot `j` at H stop `sp` (06 R196). (log 16, DEDUCED) -/
def State.tileSlotOwned (s : State) (d l sp j : Nat) : Bool :=
  let e := (Tab.look ({} : MemStop) (s.die d).hstops sp).own j
  owValid e && owOwner e == l && owUse e == 0

/-- Issue the read of the next tile of a Spindle's stream list. -/
def State.tileRead (s : State) (d l sp : Nat) : State :=
  let L := s.lane d l
  let x := s.spindle d l sp
  match x.entries[x.entry]? with
  | none => s
  | some e =>
    let b := entryBytes e
    if L.st != .layers || decide (32 ≤ x.staging.length + x.issued) then s
    else if !s.entryOk d sp b then s.streamFault d l 2 .format
    else
      let tid := field b 0 8
      let n := field b 14 2
      let g0 := 9 * field b 8 4 + field b 12 1 + x.q
      let late := x.q == 0 && decide (g0 < 9 * L.fi.toNat)
      let g := max g0 (if late then max x.nextG (9 * L.fi.toNat) else x.nextG)
      let s := if late then s.updLane d l Lane.noteLate else s
      let s := s.updSpindle d l sp fun x =>
        { x with entry := if x.q + 1 = n then x.entry + 1 else x.entry,
                 q := if x.q + 1 = n then 0 else x.q + 1, nextG := g + 1 }
      if !s.tileSlotOwned d l sp (g % 9) then s.streamFault d l 3 .slot
      else
        let t := bits tid 47 0 + x.q
        let seg := s.seg d sp (bits tid 59 48)
        let req : MemReq :=
          { owner := l, use := 0, addr := chunkAddr d sp (seg.ech + (t - seg.first)), len := 4096, data := [],
            reply := .tile l (field b 13 1) (field b 16 2 + x.q % field b 18 1 * 276) (field b 19 1) g
              (BitVec.ofNat 64 (tid / 2 ^ 48 * 2 ^ 48 + t % 2 ^ 48)) }
        (s.updSpindle d l sp fun x => { x with issued := x.issued + 1 }).memArrive false d sp req

/-- TILE_READ_ISSUE. -/
def execTileReadIssue (die lane sp : Fin 8) (s : State) : Host.Outcome State Fault Refusal :=
  .next (s.tileRead die.val lane.val sp.val)

/-- The slot cycles in which some output of a stop's router takes a lane's WEIGHT flit from LOCAL.
(log 16, DEDUCED) -/
def Router.weightCycles (r : Router) (l : Nat) : List Nat :=
  (List.range 248).filter fun c => [1, 2, 3, 4].any fun p =>
    let e := r.entry p c
    slValid e && slIn e == 0 && slOwner e == l && slClass e == 0

/-- The 69 flits of a landing record (04 R115-R117). (log 16, DEDUCED) -/
def State.recordFlits (s : State) (d l sp : Nat) (x : Staged) : List Flit :=
  let r := stopRouter (.h sp)
  let cs := (s.router d r).weightCycles l
  (List.range 69).map fun i =>
    { owner := l, cls := 0, last := i == 68, ctr := x.ctr, faddr := (x.laddr / 4 + i) % 2 ^ 18, poison := false,
      payload := bytesPayload (slice x.record (64 * i) 64), use := .data, router := r, port := 0,
      cycle := (cs[i % max 1 cs.length]?).getD 0 }

/-- LANDING_RECORD_SEND: the oldest staged record leaves in its tile slot, or not at all where the slot
is not its lane's (04 R116, 06 R196, R197). -/
def execLandingRecordSend (die lane sp : Fin 8) (s : State) : Host.Outcome State Fault Refusal :=
  let (d, l, i) := (die.val, lane.val, sp.val)
  .next (match (s.spindle d l i).staging with
    | [] => s
    | x :: rest =>
      if (s.lane d l).st != .layers || decide ((s.lane d l).fi.toNat < x.g / 9) then s
      else
        let s := s.updSpindle d l i fun y => { y with staging := rest }
        if !s.tileSlotOwned d l i (x.g % 9) then s.streamFault d l 3 .slot
        else
          let fl := s.recordFlits d l i x
          s.updDie d fun y => { y with flights := y.flights ++ fl })

/-! ### Serving windows and blocks -/

/-- A stop of a die. -/
def State.memStop (s : State) (m : Bool) (d i : Nat) : MemStop :=
  Tab.look {} (if m then (s.die d).mstops else (s.die d).hstops) i

/-- Change a stop of a die. -/
def State.updMemStop (s : State) (m : Bool) (d i : Nat) (f : MemStop → MemStop) : State :=
  s.updDie d fun x => x.updStop (if m then .m else .h) i f

/-- Remove the first request of an owner and use that fits window `w` from a queue. -/
def takeReq (owner use w : Nat) : List MemReq → Option (MemReq × List MemReq)
  | [] => none
  | r :: l =>
    let fits := match r.reply with
      | .tile _ _ _ _ g _ => g % 9 == w
      | _ => true
    if r.owner == owner && r.use == use && fits then some (r, l)
    else (takeReq owner use w l).map fun x => (x.1, r :: x.2)

/-- Serve one request in window or block `w` (06 R194, R200, 04 R119). -/
def State.serve (s : State) (m : Bool) (d i w : Nat) (r : MemReq) (ue : Bool) : State :=
  match r.reply with
  | .tile l ch laddr ctr g tid =>
    let seg := s.seg d i (bits tid.toNat 59 48)
    let k := bits tid.toNat 47 0 - seg.first
    let s := if ue then s.updMemStop m d i fun t => t.noteUe r.addr r.owner else s
    let rcd := s.tileRecord d i seg k w tid.toNat ue
    let s := s.memBytes m d r.owner 137
    s.updSpindle d l i fun x =>
      { x with issued := x.issued - 1, staging := x.staging ++ [{ g, ch, laddr, ctr, record := rcd }] }
  | _ =>
    if r.data.isEmpty then
      if ue then
        let s := s.updMemStop m d i fun t => t.noteUe r.addr r.owner
        s.stopFault m d i 2 .link r.owner r.addr
      else
        let s := s.memBytes m d r.owner (cdiv r.len 32)
        match r.reply with
        | .obj tag => s.emit (.objData tag false (s.memRead m r.addr r.len))
        | _ => s
    else (s.memBytes m d r.owner (cdiv r.data.length 32)).memWrite m r.addr r.data

/-- While a supply warning is in force a stop starts no request of a lane (14 R459). -/
def State.laneHeld (s : State) (owner : Nat) : Bool := s.pwr.warn && decide (owner < 8)

/-- Window or block `w` of a stop: requests arrive, and the first of the entry's owner and use is
served. -/
def State.window (s : State) (m : Bool) (d i w : Nat) (arrivals : List MemReq) (ue : Bool) : State :=
  let s := arrivals.foldl (fun s r => s.memArrive m d i r) s
  let t := s.memStop m d i
  let e := t.own w
  if t.st != .ready || !t.enable || !owValid e || (m && owUse e == 0) || s.laneHeld (owOwner e) then s
  else
    match takeReq (owOwner e) (owUse e) w t.queue with
    | none => s
    | some (r, rest) => (s.updMemStop m d i fun t => { t with queue := rest }).serve m d i w r ue

/-- H_WINDOW_SERVICE. -/
def execHWindowService (die stop : Fin 8) (win : Fin 9) (arrivals : List MemReq) (ue : Bool) (s : State) :
    Host.Outcome State Fault Refusal :=
  .next (s.window false die.val stop.val win.val arrivals ue)

/-- M_BLOCK_SERVICE: blocks of mirror refetch are served by MIRROR_REFETCH_SERVE. -/
def execMBlockService (die : Fin 8) (stop : Fin 3) (block : Fin 9) (arrivals : List MemReq) (ue : Bool)
    (s : State) : Host.Outcome State Fault Refusal :=
  .next (s.window true die.val stop.val block.val arrivals ue)

/-! ### Refetch (03 R98, R99, 04 R121, R122, 06 R205-R207) -/

/-- The core that owns window `w` of the lane's current frame on a die (04 R121). -/
def State.windowCore (s : State) (d l w : Nat) : Option Nat :=
  match s.laneComp d l with
  | none => none
  | some n =>
    let cores := (s.comp n).coresOn d
    let L := s.lane d l
    cores.find? fun k => (s.core k).vindex == (L.fi.toNat * L.rfw.toNat + w) % max 1 cores.length

/-- MPA of the mirror record of a TID at an M stop, where its mirror entry covers it (06 R206, R207). -/
def State.mirrorAddr (s : State) (d i : Nat) (tid : BitVec 64) : Option Nat :=
  let e : Mirror := Tab.look {} (s.memStop true d i).mirrors (bits tid.toNat 59 48)
  let t := bits tid.toNat 47 0
  if e.valid && decide (e.first ≤ t) && decide (t < e.first + e.count) then
    some (mpa d i 0 (8 * e.mbase + 4360 * (t - e.first)))
  else none

/-- REFETCH_REQUEST: the window's core sends its pending request to M stop `w mod 3`, which refuses it
where the lane owns no block of use 0 there (06 R195); package 3 stands for a tile with no mirror. -/
def execRefetchRequest (die lane : Fin 8) (w : Fin 9) (s : State) : Host.Outcome State Fault Refusal :=
  let (d, l) := (die.val, lane.val)
  .next (if (s.lane d l).rfw.toNat ≤ w.val then s
    else
      match s.windowCore d l w.val with
      | none => s
      | some k =>
        let c := s.core k
        match c.refetch with
        | some r =>
          if r.sent then s
          else
            let i := w.val % 3
            let a := (s.mirrorAddr d i r.tid).getD (mpa d 3 0 0)
            let s := s.setCore k { c with refetch := some { r with sent := true } }
            let s := s.updLane d l fun L => { L with rfuse := satAdd L.rfuse 1 }
            if !(s.memStop true d i).grants l 0 then s.stopFault true d i 3 .slot l a
            else
              s.updMemStop true d i fun t =>
                { t with queue := t.queue ++ [{ owner := l, use := 0, addr := a, len := 4360, data := [],
                                                reply := .refetch k r.tid }] }
        | none => s)

/-- What an M stop returns for a TID: the landing record made from its mirror, or `none` (06 R205-R207).
(log 16, DEDUCED) -/
def State.mirrorRecord (s : State) (d i : Nat) (tid : BitVec 64) : Option (List Byte) :=
  (s.mirrorAddr d i tid).map fun a =>
    s.memRead true a 4360 ++ leBytes 8 tid.toNat ++ List.replicate 48 0

/-- MIRROR_REFETCH_SERVE: a block of use 0 serves its lane's oldest refetch request. -/
def execMirrorRefetchServe (die : Fin 8) (stop : Fin 3) (block : Fin 9) (s : State) :
    Host.Outcome State Fault Refusal :=
  let (d, i) := (die.val, stop.val)
  let t := s.memStop true d i
  let e := t.own block.val
  .next (if t.st != .ready || !t.enable || !owValid e || owUse e != 0 || s.laneHeld (owOwner e) then s
    else
      match takeReq (owOwner e) 0 block.val t.queue with
      | none => s
      | some (r, rest) =>
        let s := s.updMemStop true d i fun t => { t with queue := rest }
        match r.reply with
        | .refetch k tid =>
          let c := s.core k
          if c.refetch.isSome then
            (s.memBytes true d r.owner 137).setCore k { c with landing := some (s.mirrorRecord d i tid) }
          else s
        | _ => s)

/-- The plan of an instruction that reads a landing record. -/
def State.landingPlan (s : State) (k w : Nat) : Except CF Plan :=
  if iOp w = 0x41 then planMma s k w else planVcvt s k w

/-- REFETCH_LANDING: the record is written over the landing record, checked against the instructions of
the other engines, and the waiting instruction restarts; a refusal raises `CHECK` (03 R82, R98, R99). -/
def execRefetchLanding (c : CoreId) (ovl : List Eng) (ue : Option (Nat × Nat)) (s : State) :
    Host.Outcome State Fault Refusal :=
  let k := c.key
  let x := s.core k
  .next (match x.refetch, x.landing with
    | some r, some none => s.coreFault k (.check r.tid.toNat) r.pc r.eng.num
    | some r, some (some rcd) =>
      let s := s.inboundHazard k (ovl.filter (· != r.eng)) (r.addr, rcd.length)
      let x := s.core k
      let s := s.setCore k { (x.put r.addr rcd) with
        refetch := none, landing := none, refetched := x.refetched + 1 }
      if x.st == .fault then s
      else s.execute k r.eng r.pc ovl ue (s.landingPlan k (x.word r.pc.toNat))
    | _, _ => s)

/-! ### Upkeep of a stop (06 R193, R201, R216, R217, R221-R226) -/

/-- The stop exists on its die (06 Table 11). -/
def StopOk (t : StopId) : Bool := decide (t.idx.val < stopCount t.cls)

/-- REFRESH: one per-bank refresh on each pseudo-channel or channel. -/
def execRefresh (stop : StopId) (s : State) : Host.Outcome State Fault Refusal :=
  .next (if (s.stop stop).st == .ready then s.updStop stop fun t => { t with refreshed := t.refreshed + 1 } else s)

/-- PATROL_SCRUB: a service slot's scrub of a location (06 R201). (log 48, PRESUMED) -/
def execPatrolScrub (stop : StopId) (addr corrected : Nat) (ue : Bool) (s : State) :
    Host.Outcome State Fault Refusal :=
  .next (if (s.stop stop).st == .ready && (s.stop stop).scrub then
      s.updStop stop fun t =>
        let t := { t with corr := wrapAdd t.corr corrected }
        if ue then t.noteUe addr 0xE else t
    else s)

/-- Some owner-table entry of a stop is valid. -/
def MemStop.anyOwner (t : MemStop) : Bool := (List.range 9).any fun i => owValid (t.own i)

/-- A write of `STOP_CTL.TRAIN` (06 R223). -/
def MemStop.train (t : MemStop) : MemStop :=
  if t.st == .ready && t.anyOwner then { t with wign := true } else { t with st := .training }

/-- A write of an owner register goes to the shadow bank; ignored while a commit is armed (06 R226).
(log 17, DESIGN CHOICE) -/
def MemStop.writeOwn (t : MemStop) (armed second : Bool) (v : Word64) : MemStop :=
  if armed then { t with wign := true }
  else if second then { t with own1Shadow := v.setWidth 8 } else { t with own0Shadow := v }

/-- TRAIN (06 R223): ignored while the stop is READY with a valid owner-table entry. -/
def execTrain (stop : StopId) (s : State) : Host.Outcome State Fault Refusal :=
  .next (if StopOk stop then s.updStop stop MemStop.train else s)

/-- TIMING_UPKEEP (06 R222). -/
def execTimingUpkeep (stop : StopId) (margin : Bool) (s : State) : Host.Outcome State Fault Refusal :=
  .next (if (s.stop stop).st == .ready && margin then s.updStop stop fun t => { t with margin := true } else s)

/-- STOP_OWN_WRITE (06 R226): to the shadow bank; ignored while a commit is armed. F channels have no
owner table. -/
def execStopOwnWrite (stop : StopId) (second : Bool) (v : Word64) (s : State) :
    Host.Outcome State Fault Refusal :=
  .next (if stop.cls == .f || !StopOk stop then s
    else s.updStop stop fun t => t.writeOwn (s.die stop.die.val).ctl.arm second v)

/-- Some byte of a queued request lies in a region; a tile read also reads its scale and tag chunks. -/
def State.touches (s : State) (m : Bool) (r : Nat × Nat × Nat) (q : MemReq) : Bool :=
  let pts : List Nat := match q.reply with
    | .tile _ _ _ _ _ tid =>
      let g := s.seg r.1 r.2.1 (bits tid.toNat 59 48)
      let k := bits tid.toNat 47 0 - g.first
      [q.addr, chunkAddr r.1 r.2.1 (g.sch + k / 16), chunkAddr r.1 r.2.1 (g.tch + k / 64)]
    | _ => [q.addr, q.addr + (max q.len q.data.length - 1)]
  pts.any fun a => (if m then mpaRegion a else hpaRegion a) == r

/-- EPOCH_ADVANCE (06 R216, R217): once no queued request touches the region; a region that reaches the
last epoch is withdrawn. -/
def execEpochAdvance (stop : StopId) (region : Nat) (s : State) : Host.Outcome State Fault Refusal :=
  let m := stop.cls == .m
  let r := (stop.die.val, stop.idx.val, region)
  let x := s.region m r
  .next (if stop.cls == .f || !x.advance || (s.stop stop).queue.any (s.touches m r) then s else s.advanceRegion m r)

end Sys2Proof.Machine
end

