-- ==== Sys2Proof/Machine/SecOps.lean ====
section
/-! DEFINITION. Key material, the key store and the lifecycle vote (13 R429-R443, 06 R219). -/

namespace Sys2Proof.Machine

/-- The copy of the key store in force: the valid one with the higher version (13 R431). -/
def Sec.current (x : Sec) : KeyStore :=
  if x.store.valid && (!x.store1.valid || decide (x.store1.version.toNat < x.store.version.toNat)) then x.store
  else x.store1

/-- A KEK is programmed and not erased (13 R443). -/
def Sec.kekHeld (x : Sec) : Bool := x.kek == 1

/-- The module's keys are in the key store; it behaves as without a KEK while no copy is valid (13 R432). -/
def Sec.stored (x : Sec) : Bool := x.kekHeld && x.current.valid

/-- An update writes the copy that does not hold the higher valid version, with that version plus 1 (13 R431).
(log 38, DEDUCED) -/
def Sec.writeStore (x : Sec) (f : KeyStore → KeyStore) : Sec :=
  let c := x.current
  let n : KeyStore := { f (if c.valid then c else {}) with version := (if c.valid then c.version + 1 else 1), valid := true }
  if x.store.valid && (!x.store1.valid || decide (x.store1.version.toNat < x.store.version.toNat)) then
    { x with store1 := n }
  else { x with store := n }

/-- The identity key is held (13 R431, R432). -/
def Sec.idHeld (x : Sec) : Bool := x.stored && x.current.idkey

/-- The fabric secret held, in the key store or in volatile registers (13 R432, R447). -/
def Sec.fs (x : Sec) : Option Digest := if x.stored then x.current.fs else x.volFs

/-- The tier F epoch root in force: of the key store, or volatile (06 R219, 13 R431, R432). -/
def Sec.fRoot (x : Sec) : Digest := if x.stored then x.current.root else x.volRoot

/-- A new tier F epoch root. (log 38, DEDUCED) -/
def Sec.setRoot (x : Sec) (g : Digest) : Sec :=
  if x.stored then x.writeStore fun k => { k with root := g } else { x with volRoot := g }

/-- The identity modulus, as the spec's random source draws it (13 R430, R445). -/
def Sec.idModulus (x : Sec) : Nat := if x.idHeld then Config.keyBits (4 * x.genId + 2) % 2 ^ 3072 else 0

/-- The majority of three lifecycle words (13 R439). -/
def Sec.vote (x : Sec) : Byte := (x.copy0 &&& x.copy1) ||| (x.copy0 &&& x.copy2) ||| (x.copy1 &&& x.copy2)

/-- The state code of a lifecycle word; one that Table 3 does not list reads as TERMINAL (13 R439). -/
def lcCode (w : Byte) : Nat :=
  match w.toNat with
  | 0x00 => 0
  | 0x01 => 1
  | 0x03 => 2
  | 0x07 => 3
  | _ => 4

/-- The word of a lifecycle state (13 Table 3). -/
def lcWord : Nat → Byte
  | 0 => 0x00
  | 1 => 0x01
  | 2 => 0x03
  | 3 => 0x07
  | _ => 0xFF

/-- `SEC_LC.STATE`: the vote of the copies as they stand (13 R442). -/
def Sec.state (x : Sec) : Nat := lcCode x.vote

/-- Debug access is open: in TEST, PROVISION and RETURNED as the last reset decoded them, while no KEK is
programmed (13 R440). -/
def Sec.debug (x : Sec) : Bool := (x.lcForce == 0 || x.lcForce == 1 || x.lcForce == 3) && !x.kekHeld

/-- The module serves only reads of its security block (13 R440, 18 R548). -/
def Sec.terminal (x : Sec) : Bool := x.lcForce == 4

end Sys2Proof.Machine
end

