-- ==== Sys2Proof/Machine/FOps.lean ====
section
/-! DEFINITION. Model images, Hearth's regions in tiers H and M, and tier F commits (07 R227-R241,
06 R210, R219, 14 R465, R466). -/

namespace Sys2Proof.Machine

/-! ### Manifests (07 Table 1) -/

/-- Virtual-die entries of a manifest. -/
def manNvd (m : List Byte) : Nat := field m 7 1
/-- FIRST of entry `v`. -/
def manFirst (m : List Byte) (v : Nat) : Nat := field m (64 + 32 * v) 6
/-- COUNT[j] of entry `v`. -/
def manCount (m : List Byte) (v j : Nat) : Nat := field m (64 + 32 * v + 6 + 3 * j) 3
/-- The counts of entry `v` for stops 0-7. -/
def manCounts (m : List Byte) (v : Nat) : List Nat := (List.range 8).map (manCount m v)
/-- Tiles of entry `v`. -/
def manTiles (m : List Byte) (v : Nat) : Nat := (manCounts m v).sum
/-- Tiles of all entries. -/
def manTotal (m : List Byte) : Nat := ((List.range (manNvd m)).map (manTiles m)).sum
/-- Tiles of the entries before `v`: the place of entry `v` in the body (07 R228). -/
def manBefore (m : List Byte) (v : Nat) : Nat := ((List.range v).map (manTiles m)).sum

/-- The form of a manifest (07 R229): MAGIC, VERSION, AG, NVD and the zero bytes. -/
def manOk (m : List Byte) : Bool :=
  field m 0 4 == 0x31474D58 && field m 4 2 == 1 && field m 6 1 == 1 && decide (1 ≤ manNvd m)
    && decide (manNvd m ≤ 126) && decide (1 ≤ field m 8 4) && decide (field m 8 4 ≤ 2 ^ 20)
    && zeros m 48 16 && ((List.range (manNvd m)).all fun v => zeros m (64 + 32 * v + 30) 2)
    && zeros m (64 + 32 * manNvd m) (4096 - 64 - 32 * manNvd m)

/-- Record `i` of a body. -/
def bodyRecord (b : List Byte) (i : Nat) : List Byte := slice b (4360 * i) 4360

/-- The CRC-64 of a record's elements and scales equals the one it carries. -/
def crcOk (r : List Byte) : Bool := crc64 (r.take 4352) == field r 4352 8

/-- What a check of an image for MODEL_STORE finds (07 R229): `FORMAT`, `CHECK` or `OK`. `FORMAT` is
asked separately, since other refusals come between (08 R280). -/
def imageForm (img : List Byte) : Bool :=
  decide (4096 ≤ img.length) && manOk (img.take 4096)
    && img.length == 4096 + 4360 * manTotal (img.take 4096)

/-- Digests and CRCs of a well-formed image. (log 23, DEDUCED) -/
def imageCheck (img : List Byte) (digest : Digest) : Bool :=
  let m := img.take 4096
  let b := img.drop 4096
  sha256 m == digest && (sha256 b).toNat == field m 16 32
    && (List.range (manTotal m)).all fun i => crcOk (bodyRecord b i)

/-! ### Models -/

/-- The model of the library with a digest. -/
def State.model (s : State) (g : Digest) : Option Model := s.models.find? fun m => m.digest == g

/-- The model that holds a slot. -/
def State.slotModel (s : State) (slot : Nat) : Option Model :=
  s.models.find? fun m => m.slot == slot && decide (slot ≠ 0)

/-- Change the model with a digest. -/
def State.updModel (s : State) (g : Digest) (f : Model → Model) : State :=
  { s with models := s.models.map fun m => if m.digest == g then f m else m }

/-- A lane is bound to the model (07 R237): a composition that holds clusters streams it. -/
def State.boundTo (s : State) (g : Digest) : Bool :=
  s.comps.any fun e => e.2.st != .free && !(e.2.clusters.isEmpty && e.2.newClusters.isEmpty)
    && e.2.img.variants.any fun v => (v.idx == e.2.variant || (!e.2.newShape.isEmpty && v.idx == field e.2.newShape 11 1)) && v.models.contains g

/-- The lowest free model slot from 1 to 4,095 (07 R231). -/
def State.freeSlot (s : State) : Option Nat :=
  let k := lowestFree 1 ((s.models.map (·.slot)).foldr insNat [])
  if k ≤ 4095 then some k else none

/-- The pairs (physical die, virtual die) of a die map's eight bytes. -/
def dieMap (b : List Byte) : List (Nat × Nat) :=
  (b.zipIdx.filter fun e => e.1 != 0xFF).map fun e => (e.2, e.1.toNat)

/-- A die map names some virtual die, and none twice (07 R233). -/
def mapForm (m : List (Nat × Nat)) : Bool := !m.isEmpty && decide ((m.map Prod.snd).Nodup)

/-! ### Regions of Hearth (07 R233, R239, R240) -/

/-- Regions of a stop that serve arenas and Hearth: not the dump region (06 R208), nor on die 0 the
record rings and the firmware copy, which lie at the top of package 0. -/
def usableRegions (m : Bool) (d i : Nat) : Nat :=
  if !m then 4096 else if i = 2 then 32640 else if d = 0 ∧ i = 0 then 24448 else 32768

/-- A region that nothing holds. -/
def Region.free (r : Region) : Bool := r.hearth.isNone && r.arena.isNone && !r.withdrawn && !r.advance

/-- The stop serves and lies on a working die. -/
def State.stopUsable (s : State) (m : Bool) (d i : Nat) : Bool :=
  (s.die d).working && (s.memStop m d i).st == .ready

/-- The lowest run of `n` free regions of a stop. (log 23, DEDUCED) -/
def State.freeRun (s : State) (m : Bool) (d i n : Nat) : Option Nat :=
  if s.stopUsable m d i then
    let rs := (s.memStop m d i).regions
    let held := (rs.filter fun e => !e.2.free).map Prod.fst
    lowestRun held (usableRegions m d i) n
  else none

/-- Take a run of regions for a model slot. -/
def State.takeRun (s : State) (m : Bool) (d i n slot : Nat) : Option (Nat × State) :=
  (s.freeRun m d i n).map fun b =>
    (b, (List.range n).foldl (fun s k => s.updRegion m (d, i, b + k) fun r =>
      { r with hearth := some slot, revoked := false }) s)

/-- Take the tier H regions of virtual die `v` on die `d`: one segment for every stop with tiles, its
element, scale and tag chunks in one run (06 R198, R199, 07 R233). Its table entry is not valid yet. -/
def State.takeH (s : State) (man : List Byte) (slot d v : Nat) : Option State :=
  (List.range 8).foldlM (fun (s : State) j =>
    let n := manCount man v j
    if n = 0 then some s
    else
      let first := manFirst man v + ((manCounts man v).take j).sum
      (s.takeRun false d j (cdiv (n + cdiv n 16 + cdiv n 64) 512) slot).map fun e =>
        let ech := 512 * e.1
        let g : Seg := { first, count := n, ech, sch := ech + n, tch := ech + n + cdiv n 16, valid := false }
        e.2.updMemStop false d j fun t => { t with segs := Tab.put {} t.segs slot g }) s

/-- Take the tier M regions of `c` copies of virtual die `v` on die `d` (06 R206, 07 R232). -/
def State.takeM (s : State) (man : List Byte) (slot d v c : Nat) : Option State :=
  (List.range c).foldlM (fun (s : State) i =>
    let n := manTiles man v
    (s.takeRun true d i (cdiv (4360 * n) (2 ^ 21)) slot).map fun e =>
      let r : Mirror := { first := manFirst man v, count := n, mbase := 2 ^ 18 * e.1, valid := false }
      e.2.updMemStop true d i fun t => { t with mirrors := Tab.put {} t.mirrors slot r }) s

/-- A stop's regions held for a slot. -/
def MemStop.heldBy (t : MemStop) (slot : Nat) : List Nat :=
  (t.regions.filter fun e => e.2.hearth == some slot).map Prod.fst

/-- Release a slot's tier H regions on a die: entries go, epochs advance (06 R216). -/
def State.dropH (s : State) (slot d : Nat) : State :=
  (List.range 8).foldl (fun (s : State) j =>
    let rs := (s.memStop false d j).heldBy slot
    let s := s.updMemStop false d j fun t => { t with segs := Tab.put {} t.segs slot {} }
    rs.foldl (fun (s : State) r =>
      (s.updRegion false (d, j, r) fun x => { x with hearth := none }).advanceRegion false (d, j, r)) s) s

/-- Release a slot's tier M copies on a die. -/
def State.dropM (s : State) (slot d : Nat) : State :=
  (List.range 3).foldl (fun (s : State) i =>
    let rs := (s.memStop true d i).heldBy slot
    let s := s.updMemStop true d i fun t => { t with mirrors := Tab.put {} t.mirrors slot {} }
    rs.foldl (fun (s : State) r => s.updRegion true (d, i, r) fun x => { x with hearth := none }) s) s

/-- A HOT model becomes WARM (07 Table 3 MODEL_EVICT). (log 23, DEDUCED) -/
def State.toWarm (s : State) (m : Model) : State :=
  (((List.range 8).foldl (fun (s : State) d => s.dropH m.slot d) s)).updModel m.digest fun m =>
    { m with st := .warm, loadMap := [], pins := 0, waiters := [] }

/-- A model returns to LIBRARY with its slot freed (07 Table 3 MODEL_DROP). -/
def State.toLibrary (s : State) (m : Model) : State :=
  let s := (List.range 8).foldl (fun (s : State) d => (s.dropH m.slot d).dropM m.slot d) s
  s.updModel m.digest fun m =>
    { m with st := .library, slot := 0, warmMap := [], loadMap := [], copies := 0, pins := 0, waiters := [] }

/-- A die of a map holds tiles of a model. -/
def Model.onDie (m : Model) (map : List (Nat × Nat)) (d : Nat) : Bool :=
  map.any fun e => e.1 == d && decide (manTiles m.manifest e.2 ≠ 0)

/-- Models that may give up their place on a die, by ascending use stamp and slot (07 R239, R240).
(log 23, DEDUCED) -/
def State.victims (s : State) (tierM : Bool) (d : Nat) (g : Digest) : List Model :=
  (s.models.filter fun m => m.digest != g &&
    (if tierM then m.st == .warm && m.onDie m.warmMap d
     else m.st == .hot && m.pins == 0 && !s.boundTo m.digest && m.onDie m.loadMap d)).mergeSort fun a b =>
      decide (a.stamp < b.stamp) || (a.stamp == b.stamp && decide (a.slot ≤ b.slot))

/-- Take a place, giving up the shortest prefix of the victims that makes room. -/
def State.takeEvicting (take : State → Option State) (evict : State → Model → State) (s : State) :
    List Model → Option State
  | [] => take s
  | m :: l =>
    match take s with
    | some s => some s
    | none => State.takeEvicting take evict (evict s m) l

/-- Take the tier H place of a model under a map, evicting as R239 allows. (log 23, DEDUCED) -/
def State.placeH (s : State) (m : Model) (slot : Nat) (map : List (Nat × Nat)) : Option State :=
  map.foldlM (fun (s : State) e =>
    State.takeEvicting (fun s => s.takeH m.manifest slot e.1 e.2) (fun s v => s.toWarm v) s
      (s.victims false e.1 m.digest)) s

/-- Take the tier M place of a model's copies under a map, dropping as R240 allows. (log 23, DEDUCED) -/
def State.placeM (s : State) (m : Model) (slot c : Nat) (map : List (Nat × Nat)) : Option State :=
  map.foldlM (fun (s : State) e =>
    State.takeEvicting (fun s => s.takeM m.manifest slot e.1 e.2 c) (fun s v => s.toLibrary v) s
      (s.victims true e.1 m.digest)) s

/-- Write the copies of virtual die `v` on die `d` from the image and make their entries valid
(06 R206). -/
def State.copyM (s : State) (m : Model) (d v c : Nat) : State :=
  (List.range c).foldl (fun (s : State) i =>
    let e : Mirror := Tab.look {} (s.memStop true d i).mirrors m.slot
    let bytes := slice m.body (4360 * manBefore m.manifest v) (4360 * manTiles m.manifest v)
    (s.memWrite true (mpa d i 0 (8 * e.mbase)) bytes).updMemStop true d i fun t =>
      { t with mirrors := Tab.put {} t.mirrors m.slot { e with valid := true } }) s

/-- Write one tile to tier H with its eight tag copies, and its tag to its mirror records (06 R199,
R213). -/
def State.loadTile (s : State) (d j : Nat) (g : Seg) (k slot copies : Nat) (rcd : List Byte) : State :=
  let tid := slot * 2 ^ 48 + (g.first + k)
  let chk := leBytes 8 (s.tileCheck d (rcd.take 4352) tid)
  let s := s.memWrite false (chunkAddr d j (g.ech + k)) (slice rcd 0 4096)
  let s := s.memWrite false (chunkAddr d j (g.sch + k / 16) + k % 16 * 256) (slice rcd 4096 256)
  let s := (List.range 8).foldl (fun (s : State) w =>
    s.memWrite false (chunkAddr d j (g.tch + k / 64) + k % 64 / 4 * 256 + w * 32 + 8 * (k % 4)) chk) s
  (List.range copies).foldl (fun (s : State) i =>
    let e : Mirror := Tab.look {} (s.memStop true d i).mirrors slot
    s.memWrite true (mpa d i 0 (8 * e.mbase + 4360 * (g.first + k - e.first) + 4352)) chk) s

/-- The record of a tile in the first mirror copy on a die. -/
def State.copyRecord (s : State) (d slot tile : Nat) : List Byte :=
  let e : Mirror := Tab.look {} (s.memStop true d 0).mirrors slot
  s.memRead true (mpa d 0 0 (8 * e.mbase + 4360 * (tile - e.first))) 4360

/-- Every tile of a model's copies still carries the elements and scales of its CRC-64 (07 R241
step 4). -/
def State.copiesGood (s : State) (m : Model) : Bool :=
  m.loadMap.all fun e =>
    (List.range (manTiles m.manifest e.2)).all fun k =>
      crc64 ((s.copyRecord e.1 m.slot (manFirst m.manifest e.2 + k)).take 4352)
        == field (bodyRecord m.body (manBefore m.manifest e.2 + k)) 4352 8

/-- Load every tile of a model into tier H; the segment entries of all stops come last (07 R241). -/
def State.loadAll (s : State) (m : Model) : State :=
  let s := m.loadMap.foldl (fun (s : State) e =>
    (List.range 8).foldl (fun (s : State) j =>
      let g := s.seg e.1 j m.slot
      (List.range g.count).foldl (fun (s : State) k =>
        s.loadTile e.1 j g k m.slot m.copies (s.copyRecord e.1 m.slot (g.first + k))) s) s) s
  m.loadMap.foldl (fun (s : State) e =>
    (List.range 8).foldl (fun (s : State) j =>
      if (s.seg e.1 j m.slot).count = 0 then s
      else s.updMemStop false e.1 j fun t =>
        { t with segs := Tab.upd {} t.segs m.slot fun g => { g with valid := true } }) s) s

/-! ### Tier F commits (06 R210, R219, 14 R465, R466) -/

/-- T_avail in nanoseconds (14 R465), over the denominator 80,000 × P: `c` in units of 10 µF, the bank
voltage in mV, the input power in W. (log 24, DESIGN CHOICE) -/
def tAvailNum (c vbank p : Nat) : Int :=
  (c : Int) * (((vbank : Int) ^ 2 - 48000 ^ 2) * 400 + (48000 ^ 2 - 45000 ^ 2) * p)

/-- T_avail of the module in µs, at the latest sample; with no input power its first term is left
open. (log 24, DESIGN CHOICE) -/
def Pwr.tAvail (p : Pwr) : Nat :=
  if p.pin = 0 then Config.tAvailIdle p.bank p.vbank.toNat
  else (tAvailNum p.bank p.vbank.toNat p.pin.toNat / (80000000 * (p.pin.toNat : Int))).toNat

/-- A commit of `len` bytes on `n` channels may start (14 R465-R467). (log 24, DESIGN CHOICE) -/
def Pwr.commitOk (p : Pwr) (len n : Nat) : Bool :=
  !p.warn &&
    ((decide (len < 2 ^ 22) && !p.nodump) ||
      (if p.pin = 0 then decide (len + 3000000 * n ≤ 1000 * n * p.tAvail)
       else decide (((len : Int) + 3000000 * n) * (80000 * (p.pin.toNat : Int))
          ≤ n * tAvailNum p.bank p.vbank.toNat p.pin.toNat)))

/-- Bytes a commit writes. -/
def FCmd.bytes (c : FCmd) : Nat := 4096 * c.sectors

/-- The status an F command ends with (06 R210). -/
def FCmd.status (c : FCmd) (sealed uncorrectable : Bool) : Status :=
  if !c.wellFormed then .format
  else if !c.write && sealed && !c.sealedEpochOk then .denied
  else if !c.write && uncorrectable then .check
  else .ok

/-- A tier F write command in sealed mode chains a new root, whose value is left open (06 R219). -/
def State.newRoot (s : State) : State :=
  if (s.die 0).memsec.sealed then
    let (v, s) := s.fresh
    { s with sec := s.sec.setRoot (BitVec.ofNat 256 v) }
  else s

/-- The first sector of tier F behind the last byte written: where an image is stored (the spec fixes no
place). -/
def State.fEnd (s : State) : Nat :=
  match s.tierF.getLast? with
  | some e => e.1 / 4096 + 1
  | none => 0

/-- Put an F command for a queue's descriptor at the end of the F queue of the lowest working die. `data` is
what a write stores. (log 24, DESIGN CHOICE) -/
def State.pushF (s : State) (write : Bool) (bytes q : Nat) (data : List Byte := []) : State :=
  let d := (s.workingDies.head?).getD 0
  let c : FCmd :=
    { write, sector := s.fEnd, data, sectors := cdiv bytes 4096, channels := 2, sealedEpochOk := true,
      wellFormed := true, q := some q }
  s.updDie d fun x => { x with fqueue := x.fqueue ++ [c] }

end Sys2Proof.Machine
end

