-- ==== Sys2Proof/Machine/LinkOps.lean ====
section
/-! DEFINITION. Sending between modules: routing (11 R396-R398), general messages (R389, R390), lane units
(R386, R387) and pool blocks (R406). -/

namespace Sys2Proof

/-- General units of a message (11 Table 9). -/
def GenMsg.units : GenMsg → Nat
  | .join .. => 4
  | .ready .. | .refuse .. | .bal .. => 2
  | .caps _ _ l => 1 + cdiv (6 + 2 * l.length) 16
  | .offer .. => 3
  | .prepAck .. | .commit .. | .commitAck .. | .abort .. | .resolve .. | .resolveAns .. | .rekey .. => 2
  | .gone .. | .down .. | .lanes .. | .echo .. | .echoAns .. => 1
  | .hello .. => 3

/-- Payloads of a byte list. -/
def payloads (l : List Byte) : List Payload :=
  (List.range (cdiv l.length 64)).map fun i => bytesPayload (slice l (64 * i) 64)

/-- The flits of a pool block (11 R406). -/
def PoolData.flits (p : PoolData) : List Payload :=
  bytesPayload (leBytes 1 0x40 ++ leBytes 1 0 ++ leBytes 2 (cdiv p.data.length 64) ++ leBytes 4 0
    ++ leBytes 8 p.sid.toNat ++ leBytes 4 p.epoch.toNat ++ leBytes 4 0 ++ leBytes 8 p.off) :: payloads p.data

end Sys2Proof

namespace Sys2Proof.Machine

/-! ### Routing -/

/-- A port is UP. -/
def State.isUp (s : State) (p : Nat) : Bool := (s.port p).st == .up

/-- The port of a routing-table entry (11 Table 10, R397 steps 3 to 5). -/
def State.entryPort (s : State) (e : BitVec 16) : Option Nat :=
  if !bit e.toNat 0 then none
  else if s.isUp (bits e.toNat 4 1) then some (bits e.toNat 4 1)
  else if bit e.toNat 5 && s.isUp (bits e.toNat 9 6) then some (bits e.toNat 9 6)
  else none

/-- The port for a destination that is not the module (11 R397). -/
def State.routePort (s : State) (dest : Nat) : Option Nat :=
  if dest / 256 = s.route.devid.toNat / 256 then s.entryPort (Tab.look 0 s.route.member (dest % 256))
  else s.entryPort (Tab.look 0 s.route.group (dest / 256))

/-- A block or message has no route (11 R397 step 5). -/
def State.noRoute (s : State) : State := { s with route := { s.route with noroute := satAdd s.route.noroute 1 } }

/-- One block or message forwarded (11 Table 21). (log 37, DEDUCED) -/
def State.countFwd (s : State) : State := { s with route := { s.route with fwd := satAdd s.route.fwd 1 } }

/-- A transit block discarded (11 R399). -/
def State.countDrop (s : State) : State := { s with route := { s.route with drop := satAdd s.route.drop 1 } }

/-! ### General messages -/

/-- Units queued on a port. -/
def Port.queuedUnits (p : Port) : Nat := ((p.general ++ p.repeated).map fun h => h.msg.units).sum

/-- Queue a message on a port: a full queue of 256 units discards it (11 R390). -/
def Port.queueGeneral (p : Port) (dest src : Nat) (m : GenMsg) : Port :=
  if 256 < p.queuedUnits + m.units then { p with ctldrop := satAdd p.ctldrop 1 }
  else { p with general := p.general ++ [{ seq := p.txSeq, dest, src, msg := m }], txSeq := p.txSeq + 1 }

/-- Send a message to the peer of a port. -/
def State.sendPeer (s : State) (i : Nat) (m : GenMsg) : State :=
  s.updPort i fun p => p.queueGeneral p.peerId.toNat s.route.devid.toNat m

/-- Send a message to another module (11 R391, R397). -/
def State.sendGeneral (s : State) (dest : Nat) (m : GenMsg) : State :=
  match s.routePort dest with
  | some i => s.updPort i fun p => p.queueGeneral dest s.route.devid.toNat m
  | none => s.noRoute

/-! ### Lane units -/

/-- The empty unit. -/
def noUnit : LaneUnit := { code := 0, swap := false, gen := 0, word := 0 }

/-- A Lathe writes a unit of a port: it replaces the one held only after that one has been sent twice
(11 R386). -/
def Port.putUnit (p : Port) (pos : Nat) (u : LaneUnit) : Port :=
  let h := Tab.look (noUnit, 0) p.units pos
  if h.1.code = 0 ∨ 2 ≤ h.2 then { p with units := Tab.put (noUnit, 0) p.units pos (u, 0) }
  else { p with unitsNext := Tab.put noUnit p.unitsNext pos u }

/-- Write a unit on several ports. -/
def State.sendUnits (s : State) (ports : List Nat) (pos : Nat) (u : LaneUnit) : State :=
  ports.foldl (fun (s : State) i => s.updPort i fun p => p.putUnit pos u) s

/-- Offset of module entry `v` of a shape record (10 R327). -/
def shapeMod (shape : List Byte) (v : Nat) : Nat := 64 + 32 * field shape 6 1 + 16 * v

/-- Device ID of virtual module `v` (10 Table 3). -/
def Comp.devOf (m : Comp) (v : Nat) : Nat := field m.shape (shapeMod m.shape v) 4 % 2 ^ 18

/-- PORTS of virtual module `v`. -/
def Comp.portsOf (m : Comp) (v : Nat) : Nat := field m.shape (shapeMod m.shape v + 4) 2

/-- The parent in the module barrier tree (10 R346). -/
def Comp.parent (m : Comp) : Option Nat := if m.vmod = 0 then none else some ((m.vmod - 1) / max 1 m.fanout)

/-- The children in the module barrier tree (10 R346). -/
def Comp.kids (m : Comp) : List Nat :=
  (List.range m.nmod).filter fun v => decide (1 ≤ v) && (v - 1) / max 1 m.fanout == m.vmod

/-- The ports of a composition that lead to virtual module `v`: named in PORTS, UP, the peer as expected
(11 R381). -/
def State.portsTo (s : State) (m : Comp) (v : Nat) : List Nat :=
  (List.range 16).filter fun p =>
    bit (m.portsOf m.vmod) p && s.isUp p && (s.port p).peerId.toNat == m.devOf v

/-- A barrier word (04 Table 4). -/
def barrierWord (barid mask lane step : Nat) (commitNext : Bool) : Word64 :=
  BitVec.ofNat 64 (barid % 256 + 2 ^ 8 * (mask % 256) + 2 ^ 16 * (lane % 8) + 2 ^ 19 * b2n commitNext
    + 2 ^ 20 * (step % 2 ^ 16))

/-- A commit word (04 Table 10). -/
def CommitW.word (c : CommitW) : Word64 :=
  BitVec.ofNat 64 (c.last % 128 + 2 ^ 7 * b2n c.drop + 2 ^ 8 * (c.endc % 8) + 2 ^ 16 * c.token.toNat
    + 2 ^ 48 * c.step.toNat)

/-- The commit word a unit carries. -/
def commitOf (w : Word64) : CommitW :=
  { last := bits w.toNat 6 0, drop := bit w.toNat 7, endc := bits w.toNat 10 8,
    token := BitVec.ofNat 32 (bits w.toNat 47 16), step := BitVec.ofNat 16 (bits w.toNat 63 48) }

/-- The mean of the last waited frames (10 Table 19). -/
def meanOf (l : List Nat) : Nat := if l.isEmpty then 0 else l.sum / l.length

/-! ### Pool data -/

/-- Send session bytes to another module in blocks of up to 1,024 bytes (11 R406). -/
def State.sendPool (s : State) (dest : Nat) (sid : Word64) (epoch : BitVec 32) (l : List Byte) : State :=
  match s.routePort dest with
  | none => s.noRoute
  | some i =>
    let bs := (List.range (cdiv l.length 1024)).map fun j =>
      let p : PoolData := { sid, epoch, off := 1024 * j, data := (l.drop (1024 * j)).take 1024 }
      let b : Block := { dest, src := s.route.devid.toNat, cls := 4, last := false, ctr := 0, faddr := 0, gen := 0,
                         flits := p.flits }
      b
    s.updPort i fun p => { p with blocks := p.blocks ++ bs }

end Sys2Proof.Machine
end

