-- ==== Sys2Proof/Machine/CompOps.lean ====
section
/-! DEFINITION. Shapes, the binding checks and the binding, and the two swaps of a rebind (10 R327-R343,
R347, R351). -/

namespace Sys2Proof

/-- The part of a variant for a virtual die. -/
def Variant.die (v : Variant) (vd : Nat) : Option ImageDie := v.dies.find? fun x => x.vd == vd

/-- The variant of an image with an index. -/
def Image.variant (i : Image) (n : Nat) : Option Variant := i.variants.find? fun v => v.idx == n

end Sys2Proof

namespace Sys2Proof.Machine

/-! ### The shape record (10 Tables 1-3) -/

/-- NVD. -/
def shNvd (b : List Byte) : Nat := field b 6 1
/-- NMOD. -/
def shNmod (b : List Byte) : Nat := field b 7 1
/-- VMOD. -/
def shVmod (b : List Byte) : Nat := field b 8 1
/-- RFW. -/
def shRfw (b : List Byte) : Nat := field b 10 1
/-- VARIANT. -/
def shVariant (b : List Byte) : Nat := field b 11 1
/-- DRAINF. -/
def shDrainf (b : List Byte) : Nat := field b 12 2
/-- MOVEF. -/
def shMovef (b : List Byte) : Nat := field b 14 2
/-- Field `o` of `n` bytes of virtual-die entry `vd`. -/
def shDie (b : List Byte) (vd o n : Nat) : Nat := field b (64 + 32 * vd + o) n
/-- CLUSTERS, CORES, HWIN, MBLK, LPORTS. -/
def shClusters (b : List Byte) (vd : Nat) : Nat := shDie b vd 1 1
/-- CORES. -/
def shCores (b : List Byte) (vd : Nat) : Nat := shDie b vd 2 1
/-- HWIN. -/
def shHwin (b : List Byte) (vd : Nat) : Nat := shDie b vd 3 1
/-- MBLK. -/
def shMblk (b : List Byte) (vd : Nat) : Nat := shDie b vd 4 1
/-- LPORTS. -/
def shLports (b : List Byte) (vd : Nat) : Nat := shDie b vd 5 1
/-- HARENA (tier 0) and MARENA (tier 1). -/
def shArena (b : List Byte) (vd tier : Nat) : Nat := shDie b vd (8 + 4 * tier) 4

/-- The record has the form of R327 with every field in its range. -/
def shapeOk (b : List Byte) (len : Nat) : Bool :=
  len == 64 + 32 * shNvd b + 16 * shNmod b && field b 0 4 == 0x31504853 && field b 4 2 == 1
    && decide (1 ≤ shNvd b) && decide (shNvd b ≤ 8) && decide (1 ≤ shNmod b) && decide (shNmod b ≤ 64)
    && decide (shVmod b < shNmod b) && decide (2 ≤ field b 9 1) && decide (field b 9 1 ≤ 8)
    && decide (1 ≤ shRfw b) && decide (shRfw b ≤ 9) && decide (shVariant b ≤ 15) && decide (shMovef b ≤ 4096)
    && zeros b 24 8
    && ((List.range (shNvd b)).all fun v =>
      shDie b v 0 1 == v && decide (1 ≤ shClusters b v) && decide (shClusters b v ≤ 8)
        && decide (1 ≤ shCores b v) && decide (shCores b v ≤ 24) && decide (shHwin b v ≤ 9)
        && decide (shMblk b v ≤ 9) && decide (shLports b v ≤ 3)
        && zeros b (64 + 32 * v + 6) 2 && zeros b (64 + 32 * v + 16) 16)
    && ((List.range (shNmod b)).all fun v =>
      decide (field b (shapeMod b v) 4 < 2 ^ 18) && zeros b (shapeMod b v + 6) 10)

/-- The further conditions of R328. -/
def State.shapeFits (s : State) (ctx : Nat) (b : List Byte) (img : Image) : Bool :=
  img.digest.toNat == field b 32 32 && (img.variant (shVariant b)).isSome
    && field b (shapeMod b (shVmod b)) 4 == s.route.devid.toNat
    && (shDrainf b == 0xFFFF ||
      ((s.fence (shDrainf b)).st == .live && (s.fence (shDrainf b)).owner == ctx))

/-- What a COMP_REBIND must keep (10 R329). -/
def shapeKeeps (old new : List Byte) : Bool :=
  shNvd old == shNvd new && slice old 7 3 == slice new 7 3 && slice old 12 12 == slice new 12 12
    && slice old 32 32 == slice new 32 32
    && ((List.range (shNvd old)).all fun v => shArena old v 0 == shArena new v 0 && shArena old v 1 == shArena new v 1)
    && slice old (shapeMod old 0) (16 * shNmod old) == slice new (shapeMod new 0) (16 * shNmod new)

/-- The digest a JOIN carries: of the record with byte 8 zero (10 R345). -/
def shapeDigest (b : List Byte) : Digest := sha256 (b.take 8 ++ [0] ++ b.drop 9)

/-! ### Where a composition may be bound (10 Table 5) -/

/-- A binding: (virtual die, virtual cluster, die, cluster, core keys by virtual core). -/
abbrev Binding := List (Nat × Nat × Nat × Nat × List Nat)

/-- The physical die of each virtual die under the maps of HOT models; none where a model is not HOT, two
maps disagree or a virtual die has no place (check 3). -/
def State.diesFor (s : State) (v : Variant) (nvd : Nat) : Option (List (Nat × Nat)) :=
  if v.models.all fun g => (s.models.any fun m => m.digest == g && m.st == .hot) then
    let maps := v.models.flatMap fun g => match s.model g with
      | some m => m.loadMap
      | none => []
    (List.range nvd).mapM fun vd =>
      match (maps.filter fun e => e.2 == vd).map Prod.fst with
      | [] => none
      | d :: l => if l.all (· == d) then some (vd, d) else none
  else none

/-- The lowest lane free on every die (check 4). -/
def State.freeLane (s : State) (ds : List Nat) : Option Nat :=
  (List.range 8).find? fun l => ds.all fun d => (s.laneComp d l).isNone

/-- The free cores of a cluster in ascending index; those of `own` count as free. -/
def State.freeCores (s : State) (own : List Nat) (d cl : Nat) : List Nat :=
  ((List.range 26).map (coreKey d cl)).filter fun i =>
    let c := s.core i
    c.enable && !c.fence && !c.barred && c.good && (c.lane.isNone || own.contains i)

/-- A cluster is enabled and not bound; those of `own` count as free. -/
def State.clusterFree (s : State) (own : List (Nat × Nat)) (d cl : Nat) : Bool :=
  (s.die d).clusters.contains cl && !(s.die d).barredCl.contains cl
    && (Tab.look 0 (s.die d).boundCl cl == 0 || own.contains (d, cl))

/-- Place `n` virtual clusters from `vc` on at the lowest free clusters of a die, by ascending cluster. -/
def State.placeFrom (s : State) (ownK : List Nat) (ownC : List (Nat × Nat)) (vd d cores : Nat) :
    Nat → Nat → List Nat → Option Binding
  | 0, _, _ => some []
  | _ + 1, _, [] => none
  | n + 1, vc, cl :: l =>
    let free := s.freeCores ownK d cl
    if s.clusterFree ownC d cl && decide (cores ≤ free.length) then
      (State.placeFrom s ownK ownC vd d cores n (vc + 1) l).map fun r => (vd, vc, d, cl, free.take cores) :: r
    else State.placeFrom s ownK ownC vd d cores (n + 1) vc l

/-- The binding of R335. (log 30, DEDUCED) -/
def State.place (s : State) (ownK : List Nat) (ownC : List (Nat × Nat)) (shape : List Byte)
    (map : List (Nat × Nat)) : Option Binding :=
  (map.mapM fun e =>
    s.placeFrom ownK ownC e.1 e.2 (shCores shape e.1) (shClusters shape e.1) 0 (List.range 10)).map List.flatten

/-- What every composition but `k` holds on die `d`: its shape with the one a rebind adds and the old ones
held, and its virtual die. A composition whose resources are revoked holds nothing. -/
def State.shapesOn (s : State) (k d : Nat) : List (List (List Byte) × Nat) :=
  (s.comps.filter fun e => e.1 != k && e.2.st != .free && !e.2.clusters.isEmpty).filterMap fun e =>
    (e.2.diemap.find? fun p => p.2 == d).map fun p =>
      (e.2.shape :: (if e.2.newShape.isEmpty then [] else [e.2.newShape]) ++ e.2.heldShapes, p.1)

/-- The most that one of several shapes holds. -/
def maxOf (f : List Byte → Nat) (l : List (List Byte)) : Nat := l.foldl (fun n b => max n (f b)) 0

/-- Refetch windows of a lane at M stop `i` (04 R121): each owns three blocks (06 R204). (log 16, DEDUCED) -/
def refetchAt (rfw i : Nat) : Nat := ((List.range rfw).filter fun w => w % 3 == i).length

/-- Regions of a stop class in ascending physical order on a die: the first `n` free ones, from position
`i` on. (log 25, DEDUCED) -/
def State.freeRegions (s : State) (m : Bool) (d : Nat) : Nat → Nat → Nat → Option (List (Nat × Nat))
  | _, _, 0 => some []
  | 0, _, _ + 1 => none
  | fuel + 1, i, n + 1 =>
    let e : Nat × Nat := if m then (i / 32768, i % 32768) else (i % 8, i / 8)
    if decide (e.2 < usableRegions m d e.1) && s.stopUsable m d e.1 && (s.region m (d, e.1, e.2)).free then
      (State.freeRegions s m d fuel (i + 1) n).map fun l => e :: l
    else State.freeRegions s m d fuel (i + 1) (n + 1)

/-- Arena regions of a virtual die and tier: (stop, region). -/
def State.arenaRegions (s : State) (shape : List Byte) (vd d tier : Nat) : Option (List (Nat × Nat)) :=
  s.freeRegions (tier == 1) d (if tier = 1 then 98304 else 32768) 0 (shArena shape vd tier)

/-- Blocks of M stop `i` that the others hold for objects and refetch, and those for refetch in residues. -/
def blocksHeld (others : List (List (List Byte) × Nat)) (i : Nat) : Nat :=
  (others.map fun e => maxOf (fun b => shMblk b e.2) e.1 + 3 * maxOf (fun b => refetchAt (shRfw b) i) e.1).sum

/-- Tile windows and blocks suffice on a die, and each named link port has a slot that no other lane holds
(check 5). (log 30, DEDUCED) -/
def State.windowsOk (s : State) (k : Nat) (own : Option Nat) (shape : List Byte) (vd d : Nat) : Bool :=
  let others := s.shapesOn k d
  decide ((others.map fun e => maxOf (fun b => shHwin b e.2) e.1).sum + shHwin shape vd ≤ 9)
    && ((List.range 3).all fun i => decide (blocksHeld others i + shMblk shape vd ≤ 9))
    && ((List.range 2).all fun i => !bit (shLports shape vd) i ||
      ((List.range 16).any fun n =>
        let e := Tab.look 0 (s.port (2 * d + i)).tx n
        decide (n ≠ 0) && (!lkValid e || own == some (lkOwner e))))

/-- Refetch residues suffice on a die, and every model has copies on the stops the windows use
(check 6). -/
def State.refetchOk (s : State) (k : Nat) (shape : List Byte) (v : Variant) (vd d : Nat) : Bool :=
  let others := s.shapesOn k d
  ((List.range 3).all fun i =>
    let n := refetchAt (shRfw shape) i
    n == 0 ||
      (decide (blocksHeld others i + shMblk shape vd + 3 * n ≤ 9)
        && decide ((others.map fun e => maxOf (fun b => refetchAt (shRfw b) i) e.1).sum + n ≤ 3)))
    && v.models.all fun g => match s.model g with
      | some m => decide (min (shRfw shape) 3 ≤ m.copies)
      | none => false

/-- Every edge of the barrier tree and every exchange route has its port (11 R381). (log 30, DEDUCED) -/
def State.edgesOk (s : State) (m : Comp) (v : Variant) : Bool :=
  (m.kids ++ m.parent.toList).all (fun x => !(s.portsTo m x).isEmpty)
    && v.edges.all fun e => (s.portsTo m e.2).contains e.1

/-- Checks 3 to 6 of a binding (10 Table 5): the die map, the lane and the binding, or the status. `k` is the
composition bound (its own resources count as free), `lane` its lane where it has one. (log 30, DEDUCED) -/
def State.bindChecks (s : State) (k : Nat) (lane : Option Nat) (ownK : List Nat) (ownC : List (Nat × Nat))
    (m : Comp) (shape : List Byte) (v : Variant) (arenas : Bool) :
    Except Status (List (Nat × Nat) × Nat × Binding) :=
  match s.diesFor v (shNvd shape) with
  | none => .error .nomem
  | some map =>
    match (match lane with | some l => some l | none => s.freeLane (map.map Prod.snd)) with
    | none => .error .limit
    | some l =>
      match s.place ownK ownC shape map with
      | none => .error .nomem
      | some b =>
        if !(map.all fun e => s.windowsOk k lane shape e.1 e.2) then .error .nomem
        else if arenas && !(map.all fun e => (s.arenaRegions shape e.1 e.2 0).isSome
            && (s.arenaRegions shape e.1 e.2 1).isSome) then .error .nomem
        else if !((map.all fun e => s.refetchOk k shape v e.1 e.2) && v.allowOk && v.routesOk && s.edgesOk m v) then
          .error .bound
        else .ok (map, l, b)

/-! ### Binding (10 R335, R336, R340, 09 R324) -/

/-- A core that passes to a composition: its scratch, accumulators, counters and channel table are
clear. (log 30, DEDUCED) -/
def Core.clear (c : Core) : Core :=
  { c with scratch := [], accs := [], ctrs := [], chan := [], chanShadow := [], poison := [], mx := none, vx := none,
           tx := none, refetch := none, landing := none, refetchUsed := false, barWait := none, ended := false,
           st := if c.st == .off || c.st == .fenced then c.st else .idle }

/-- Clear cores for a composition's lane and hold them. (log 30, DEDUCED) -/
def State.takeCores (s : State) (l : Nat) (ks : List Nat) : State :=
  ks.foldl (fun (s : State) i => s.setCore i { (s.core i).clear with lane := some l }) s

/-- Clear cluster memories for a composition's lane and hold the clusters. -/
def State.takeClusters (s : State) (l : Nat) (cs : List (Nat × Nat)) : State :=
  cs.foldl (fun (s : State) e => s.updDie e.1 fun x =>
    { x with boundCl := Tab.put 0 x.boundCl e.2 (l + 1), clusterMem := Tab.put [] x.clusterMem e.2 [] }) s

/-- A channel entry with the lane as its owner. -/
def chanFor (l : Nat) (e : Word64) : Word64 :=
  BitVec.ofNat 64 (e.toNat - bits e.toNat 13 10 * 2 ^ 10 + l * 2 ^ 10)

/-- Load a virtual core's program, entry and channel table into its physical core, and name it. (log 30, DEDUCED) -/
def State.loadCore (s : State) (v : Variant) (l : Nat) (vd vc vk vindex i : Nat) : State :=
  let c := s.core i
  let p := (v.die vd).bind fun x => x.programs.find? fun e => e.1 == vc && e.2.1 == vk
  let ch := ((v.die vd).bind fun x => x.channels.find? fun e => e.1 == vc && e.2.1 == vk).map (·.2.2)
  let chan := (ch.getD []).foldl (fun t e => Tab.put 0 t e.1 (chanFor l e.2)) []
  let c := match p with
    | some (_, _, entry, prog) =>
      { c with entry := BitVec.ofNat 12 entry,
               prog := prog.zipIdx.foldl (fun t (e : BitVec 128 × Nat) => Tab.put 0 t e.2 e.1) [] }
    | none => c
  s.setCore i { c with lane := some l, vd, vc, vk, vindex, chan, chanShadow := chan }

/-- Load every core of a binding. Virtual indices count a die's cores in the order of the binding
(04 R121). -/
def State.loadCores (s : State) (v : Variant) (l : Nat) (b : Binding) : State :=
  let all := b.flatMap fun e => e.2.2.2.2.zipIdx.map fun k => (e.1, e.2.1, k.2, k.1)
  (all.foldl (fun (a : State × Tab Nat) e =>
    let d := keyDie e.2.2.2
    let n := Tab.look 0 a.2 d
    (a.1.loadCore v l e.1 e.2.1 e.2.2.1 n e.2.2.2, Tab.put 0 a.2 d (n + 1))) (s, [])).1

/-- The step image of a die's lane (04 R112, R136). -/
def Lane.image (L : Lane) (x : ImageDie) (rfw : Nat) : Lane :=
  { L with
    enable := true, rfw := BitVec.ofNat 4 rfw
    barriers := x.barriers.foldl (fun t e => Tab.put 0 t e.1 e.2) []
    spindles := x.streams.zipIdx.foldl (fun t (e : List (BitVec 256) × Nat) =>
      Tab.put ({} : Spindle) t e.2 { entries := e.1 }) []
    hdrAddr := x.hdrAddr, slots := x.slots, lmax := x.lmax, mapBase := x.mapBase }

/-- Give every die's lane its step image. -/
def State.laneImages (s : State) (map : List (Nat × Nat)) (l : Nat) (v : Variant) (rfw : Nat) : State :=
  map.foldl (fun (s : State) e =>
    match v.die e.1 with
    | some x => s.updLane e.2 l fun L => L.image x rfw
    | none => s) s

/-- The slot map's place on a die: the cluster of virtual cluster vc0 (04 R136). -/
def Comp.mapCluster (m : Comp) (d : Nat) : Nat :=
  ((m.clusters.find? fun e => e.2.1 == 0 && e.2.2.1 == d).map fun e => e.2.2.2.1).getD 0

/-- Every lane's KV state as after COMP_CREATE or KVRESET (04 R136). -/
def State.kvReset (s : State) (k : Nat) : State :=
  let m := s.comp k
  m.dies.foldl (fun (s : State) d =>
    let L := s.lane d m.lane
    let s := s.updLane d m.lane fun L => { L with lc := 0, root := none, used := [] }
    let zero (t : Memory) : Memory := t.clear L.mapBase (4 * L.lmax)
    s.updDie d fun x => { x with clusterMem := Tab.upd [] x.clusterMem (m.mapCluster d) zero })
    (s.updComp k fun m => { m with history := [] })

/-- Partitions of an arena (07 R246): one for each allocating core of the virtual die in ascending allocator
index, then the host's with what is left. -/
def partsOf (quotas : List (Nat × Nat)) (granules : Nat) : Tab Part :=
  let q := quotas.mergeSort fun a b => decide (a.1 ≤ b.1)
  let (t, n) := q.foldl (fun (a : Tab Part × Nat) e =>
    (Tab.put {} a.1 e.1 { start := a.2, g := e.2 }, a.2 + e.2)) ([], 0)
  Tab.put {} t hostPart { start := n, g := granules - n }

/-- Reserve, tag and partition the arenas of one virtual die and tier (07 R245, R246). -/
def State.takeArena (s : State) (k ctx : Nat) (shape : List Byte) (v : Variant) (vd d tier : Nat) : State :=
  match s.arenaRegions shape vd d tier with
  | none => s
  | some rs =>
    let key := arenaKey k vd tier
    let s := rs.foldl (fun (s : State) e => s.updRegion (tier == 1) (d, e.1, e.2) fun r =>
      { r with tag := ctx, tagged := true, revoked := false, arena := some key }) s
    let quotas := match v.die vd with
      | some x => x.quotas.map fun e => (e.2.2.1, if tier = 1 then e.2.2.2.2 else e.2.2.2.1)
      | none => []
    s.updArena key fun _ => { regions := rs, parts := partsOf quotas (32 * rs.length) }

/-! ### Records (12 Table 3) -/

/-- The models of a variant in model-slot order. -/
def State.modelsOf (s : State) (v : Variant) : List Digest :=
  ((s.models.filter fun m => v.models.contains m.digest).mergeSort fun a b => decide (a.slot ≤ b.slot)).map (·.digest)

/-- An OPEN body. -/
def State.openBody (s : State) (shape : List Byte) (v : Variant) : List Byte :=
  let ms := s.modelsOf v
  pad64 (slice shape 16 8 ++ slice shape 32 32 ++ leBytes 1 1 ++ leBytes 1 ms.length ++ leBytes 2 shape.length
    ++ leBytes 4 s.sec.fwver.toNat ++ leBytes 3 s.route.devid.toNat)
    ++ pad64 shape ++ ms.flatMap fun g => leBytes 32 g.toNat

/-- A BINDING body. -/
def bindingBody (gen kind : Nat) (shape : List Byte) (b : Binding) : List Byte :=
  leBytes 4 gen ++ leBytes 1 kind ++ leBytes 1 (shVariant shape) ++ leBytes 1 b.length ++ leBytes 1 0
    ++ (b.flatMap fun e =>
      leBytes 8 (e.1 + 2 ^ 3 * e.2.1 + 2 ^ 6 * e.2.2.1 + 2 ^ 9 * e.2.2.2.1
        + 2 ^ 13 * (e.2.2.2.2.map fun i => 2 ^ keyCore i).sum))
    ++ (if kind = 3 then slice shape 64 (32 * shNvd shape) ++ leBytes 1 (shRfw shape) else [])

/-! ### Rebinding (10 R336-R343) -/

/-- A range to be carried: source and destination (die, cluster, core key or none for the cluster memory),
offsets and length; `stop` distinguishes the two stops of a cluster memory. -/
structure Carry where
  src : Nat × Nat × Option Nat
  dst : Nat × Nat × Option Nat
  soff : Nat
  doff : Nat
  len : Nat
  deriving DecidableEq, Repr

/-- The unit a carry-table code names under a binding (10 Table 7). -/
def unitOf (b : Binding) (code : Nat) : Option (Nat × Nat × Option Nat) :=
  match b.find? fun e => e.1 == bits code 11 9 && e.2.1 == bits code 8 5 with
  | some e =>
    if bits code 4 0 = 31 then some (e.2.2.1, e.2.2.2.1, none)
    else (e.2.2.2.2[bits code 4 0]?).map fun i => (e.2.2.1, e.2.2.2.1, some i)
  | none => none

/-- The ranges of a variant's carry table. -/
def carryTable (v : Variant) (old new : Binding) : List Carry :=
  v.carry.filterMap fun e =>
    let n := e.toNat
    match unitOf old (bits n 15 0), unitOf new (bits n 31 16) with
    | some a, some b => some { src := a, dst := b, soff := bits n 63 32, doff := bits n 95 64, len := bits n 127 96 }
    | _, _ => none

/-- Bytes of a cluster memory (01 Table 1). -/
def clusterBytes : Nat := 2 ^ 24

/-- The ranges a MIGRATE carries: of every moved core and cluster, what the carry table lists for it, else
all of it (10 Table 6). A whole cluster memory goes by its two stops. -/
def migrateRanges (table : List Carry) (old new : Binding) : List Carry :=
  let units := (old.zip new).flatMap fun (a, b) =>
    ((a.2.2.2.2.zip b.2.2.2.2).filter fun p => p.1 != p.2).map (fun p =>
        (((a.2.2.1, a.2.2.2.1, some p.1) : Nat × Nat × Option Nat),
         ((b.2.2.1, b.2.2.2.1, some p.2) : Nat × Nat × Option Nat)))
      ++ (if (a.2.2.1, a.2.2.2.1) = (b.2.2.1, b.2.2.2.1) then []
          else [((a.2.2.1, a.2.2.2.1, none), (b.2.2.1, b.2.2.2.1, none))])
  units.flatMap fun u =>
    let listed := table.filter fun c => c.src == u.1
    if !listed.isEmpty then listed
    else if u.1.2.2.isSome then [{ src := u.1, dst := u.2, soff := 0, doff := 0, len := scratchBytes }]
    else
      [{ src := u.1, dst := u.2, soff := 0, doff := 0, len := clusterBytes / 2 },
       { src := u.1, dst := u.2, soff := clusterBytes / 2, doff := clusterBytes / 2, len := clusterBytes / 2 }]

/-- The kind of a rebind (10 Table 6): 3 RESHAPE, 2 MIGRATE, 1 ROUTE. -/
def rebindKind (oldShape newShape : List Byte) (old new : Binding) : Nat :=
  if slice oldShape 10 2 != slice newShape 10 2
      || (List.range (shNvd oldShape)).any fun v =>
        slice oldShape (64 + 32 * v + 1) 5 != slice newShape (64 + 32 * v + 1) 5 then 3
  else if old != new then 2
  else 1

/-- The ranges a rebind carries. -/
def carryOf (kind : Nat) (v : Variant) (old new : Binding) : List Carry :=
  match kind with
  | 3 => carryTable v old new
  | 2 => migrateRanges (carryTable v old new) old new
  | _ => []

/-- A route of the move plan: source, destination and, for a cluster memory, the stop it leaves by.
(log 31, DEDUCED) -/
def Carry.route (c : Carry) : (Nat × Nat × Option Nat) × (Nat × Nat × Option Nat) × Nat :=
  (c.src, c.dst, if c.src.2.2.isSome then 0 else c.soff / (clusterBytes / 2))

/-- Frames of the move plan (10 R339). -/
def planFrames (l : List Carry) : Nat :=
  ((l.map fun c => ((l.filter fun x => x.route == c.route).map fun x => cdiv x.len 15872 + 1).sum).max?).getD 0

/-- Bytes of a unit. -/
def State.unitRead (s : State) (u : Nat × Nat × Option Nat) (a n : Nat) : List Byte :=
  match u.2.2 with
  | some i => (s.core i).scratch.read a n
  | none => Memory.read (Tab.look [] (s.die u.1).clusterMem u.2.1) a n

/-- Write bytes of a unit. -/
def State.unitWrite (s : State) (u : Nat × Nat × Option Nat) (a : Nat) (l : List Byte) : State :=
  match u.2.2 with
  | some i => s.setCore i ((s.core i).put a l)
  | none => s.clusterWrite u.1 u.2.1 a l

/-- The move frames of a rebind: every source's ranges go to their destinations (10 R338 step 4).
(log 31, DEDUCED) -/
def State.moveRanges (s : State) (k : Nat) : State :=
  let m := s.comp k
  match m.img.variant (shVariant m.newShape) with
  | none => s
  | some v =>
    let l := (carryOf m.kind v m.clusters m.newClusters).map fun c => (c, s.unitRead c.src c.soff c.len)
    l.foldl (fun (s : State) e => s.unitWrite e.1.dst e.1.doff e.2) s

/-- Caps of the SHIFT balance return to their configured values (10 R351). -/
def State.capsBack (s : State) (k : Nat) : State :=
  if (s.comp k).balShift then
    (s.updComp k fun m => { m with capw := s.pwr.cap.toNat, caps := [], newCaps := none }).recap
  else s

/-- The next generation: never 0 (10 R331). (log 31, DEDUCED) -/
def nextGen (g : BitVec 32) : BitVec 32 := if g = 0xFFFFFFFF then 1 else g + 1

/-- The generation advances by 1 (10 R331, R347). -/
def State.advanceGen (s : State) (k : Nat) : State :=
  s.updComp k fun m => { m with gen := nextGen m.gen, genBarrier := false }

/-- The BINDING record of a rebind's second swap, unless it has been appended (12 R417). -/
def State.bindingRecord (s : State) (k : Nat) : State :=
  let m := s.comp k
  if m.bindRec then s
  else
    (s.append k 2 (bindingBody (nextGen m.gen).toNat m.kind m.newShape m.newClusters)).updComp k fun m =>
      { m with bindRec := true }

/-- A new shape holds less of something than the old one. -/
def shrinks (old new : List Byte) : Bool :=
  decide (shRfw new < shRfw old) || (List.range (shNvd old)).any fun v =>
    decide (shHwin new v < shHwin old v) || decide (shMblk new v < shMblk old v)
      || (List.range 2).any fun i => bit (shLports old v) i && !bit (shLports new v) i

/-- The second swap of a rebind (10 R338 steps 5 and 6, R340, R343): the new binding is in force, what it
does not use is held, and the COMP_REBIND completes. (log 31, DEDUCED) -/
def State.secondSwap (s : State) (k : Nat) : State :=
  let m := s.comp k
  match m.img.variant (shVariant m.newShape) with
  | none => s
  | some v =>
    let s := s.bindingRecord k
    let newK := m.newClusters.flatMap fun e => e.2.2.2.2
    let newC := m.newClusters.map fun e => (e.2.2.1, e.2.2.2.1)
    let oldK := (m.cores ++ m.heldCores).filter fun i => !newK.contains i
    let oldC := (m.boundClusters ++ m.heldClusters).filter fun c => !newC.contains c
    let s := s.advanceGen k
    let s := s.updComp k fun m =>
      { m with st := .ready, shape := m.newShape, variant := shVariant m.newShape, clusters := m.newClusters,
               newShape := [], newClusters := [], stage := 0, bindRec := false, heldCores := oldK, heldClusters := oldC,
               heldShapes := if shrinks m.shape m.newShape then m.heldShapes ++ [m.shape] else m.heldShapes,
               draining := true, rebinds := satAdd m.rebinds 1,
               rebindQ := none }
    let s := oldK.foldl (fun (s : State) i => s.setCore i { s.core i with st := .idle, ended := false }) s
    let s := s.loadCores v m.lane m.newClusters
    let s := m.diemap.foldl (fun (s : State) e =>
      match v.die e.1 with
      | some x => s.updLane e.2 m.lane fun L => L.image x (shRfw m.newShape)
      | none => s) s
    let s := s.capsBack k
    match m.rebindQ with
    | some q => s.complete q .ok (BitVec.ofNat 256 (k + 2 ^ 32 * (s.comp k).gen.toNat))
    | none => s

/-- The first member with the largest (`up`) or smallest mean of waited frames: (VMOD, sum, values). -/
def pickMember (up : Bool) : List (Nat × Nat × Nat) → Option (Nat × Nat × Nat)
  | [] => none
  | e :: l => some (l.foldl (fun b x =>
      if (if up then b.2.1 * x.2.2 < x.2.1 * b.2.2 else x.2.1 * b.2.2 < b.2.1 * x.2.2) then x else b) e)

/-- The caps after one balance decision: 50 W from the member that waited most to the one that waited least,
where their means differ by 8 frames. -/
def balanced (caps : List Nat) (configured : Nat) (waits : List (Nat × Nat × Nat)) : Option (List Nat) :=
  match pickMember true waits, pickMember false waits with
  | some a, some b =>
    let ca := (caps[a.1]?).getD configured
    let cb := (caps[b.1]?).getD configured
    if b.2.1 * a.2.2 + 8 * a.2.2 * b.2.2 ≤ a.2.1 * b.2.2 ∧ 3 * configured ≤ 4 * (ca - 50) ∧ 50 ≤ ca
        ∧ cb + 50 ≤ 3600 then
      some ((List.range caps.length).map fun v =>
        let c := (caps[v]?).getD configured
        if v = a.1 then c - 50 else if v = b.1 then c + 50 else c)
    else none
  | _, _ => none

/-- The balance decision at the root: the new caps go to every member with the start barrier's release. The root
knows no other configured cap than its own. (log 20, DEDUCED) -/
def State.balance (s : State) (k : Nat) : State :=
  let m := s.comp k
  if !m.balDue then s
  else
    let s := s.updComp k fun m => { m with balDue := false }
    let all := (List.range m.nmod).map fun v =>
      let l := Tab.look [] m.waits v
      (v, l.sum, l.length)
    let caps := (List.range m.nmod).map fun v => Tab.look s.pwr.cap.toNat m.caps v
    if all.any fun e => e.2.2 == 0 then s
    else match balanced caps s.pwr.cap.toNat all with
      | some l =>
        let s := s.updComp k fun m =>
          { m with caps := l.zipIdx.foldl (fun t (e : Nat × Nat) => Tab.put s.pwr.cap.toNat t e.2 e.1) [], newCaps := some l }
        ((List.range m.nmod).drop 1).foldl (fun (s : State) v =>
          s.sendGeneral (m.devOf v) (.caps m.cid (BitVec.ofNat 32 (s.compLane k).step.toNat) l)) s
      | none => s

/-- What the first die of a composition that releases a start barrier brings about: a rebind's swap, the
generation's advance for a member's swap, and caps sent with the release (10 R338, R347, R351). -/
def State.startSwap (s : State) (k : Nat) : State :=
  let s := s.balance k
  let m := s.comp k
  let mark := (s.lane m.rootDie m.lane).swapMark
  let s := s.updLane m.rootDie m.lane fun L => { L with swapMark := false }
  let s := match m.newCaps with
    | some l =>
      let cap := (l[m.vmod]?).getD m.capw
      (s.updComp k fun m => { m with capw := cap, newCaps := none }).recap
    | none => s
  if m.stage = 3 then s.secondSwap k
  else
    let s := if m.stage = 1 then s.updComp k fun m => { m with stage := 2 } else s
    if mark then (s.advanceGen k).capsBack k else s

end Sys2Proof.Machine
end

