-- ==== Sys2Proof/Machine/Objects.lean ====
section
/-! DEFINITION. The allocator's services: requests of tile programs, host objects, the effects of a commit
barrier and the object window (07 R249-R260, 12 R416-R418, 11 R404). -/

namespace Sys2Proof.Machine

/-! ### Effects on a composition's objects -/

/-- A HOSTOP body (12 Table 3). (log 25, DEDUCED) -/
def hostopBody (op : Nat) (st : Status) (race dir : Bool) (vdie tier pop handle off size : Nat)
    (dig : Digest) : List Byte :=
  leBytes 1 op ++ leBytes 1 st.code ++ leBytes 1 (b2n race + 2 * b2n dir) ++ leBytes 1 vdie
    ++ leBytes 1 tier ++ leBytes 1 pop ++ leBytes 2 0 ++ leBytes 4 handle ++ leBytes 4 0 ++ leBytes 8 off
    ++ leBytes 8 size ++ leBytes 32 dig.toNat

/-- A HOSTOP record takes effect: appended at once, or held for the step's STEP record (12 R417). -/
def State.hostop (s : State) (k : Nat) (hold : Bool) (body : List Byte) : State :=
  if hold then
    let l := s.compLane k
    s.updComp k fun m => { m with heldRecs := m.heldRecs ++ [(l.step.toNat, l.lc, body)] }
  else s.append k 6 body

/-- A host allocation takes effect, and its descriptor completes (07 R248, R249). -/
def State.hostAlloc (s : State) (hold : Bool) (q k vdie tier size : Nat) : State :=
  let (s, r) := s.alloc (s.comp k).ctx k vdie tier hostPart size
  let s := s.hostop k hold (hostopBody 0x30 r.st false false vdie tier 0 r.handle r.voff r.size 0)
  s.complete q r.st (BitVec.ofNat 256 (r.handle + 2 ^ 64 * r.voff + 2 ^ 128 * r.size))

/-- The reference a queue's front descriptor holds on the object it frees ends as the free takes effect. -/
def State.endRef (s : State) (q a h : Nat) : State :=
  match (s.queue q).acc with
  | x :: l =>
    if x.ref = some h then
      (s.updQueue q fun y => { y with acc := { x with ref := none } :: l }).updObj a h fun o =>
        { o with refs := o.refs - 1 }
    else s
  | [] => s

/-- A free takes effect in an arena, and its descriptor, if any, completes (07 R249, R256). (log 25, DEDUCED) -/
def State.freeNow (s : State) (hold barrier : Bool) (q : Option Nat) (a h : Nat) : State :=
  let o := s.objAt a h
  let s := s.hostop (a / 32) hold (hostopBody 0x31 .ok false false o.vdie o.tier 0 h 0 0 0)
  match q with
  | some q => ((s.endRef q a h).freeObj a h barrier).complete q .ok
  | none => s.freeObj a h barrier

/-- The arena of a composition in which a handle names a live object. -/
def State.compObj (s : State) (k h : Nat) : Option Nat :=
  (s.arenas.find? fun e => e.1 / 32 == k && (s.objAt e.1 h).live).map Prod.fst

/-- Everything pending on a composition takes effect at a commit barrier or at the loop's stop: frees in
ascending handle order, returned granules, then allocations in order of acceptance (07 R249, R256). -/
def State.applyPending (s : State) (k : Nat) (hold : Bool) : State :=
  let l := (s.comp k).pend
  let s := s.updComp k fun m => { m with pend := [] }
  let frees := l.filterMap fun p => match p with
    | .free h q => some (h, q)
    | .alloc .. => none
  let s := (frees.mergeSort fun a b => decide (a.1 ≤ b.1)).foldl (fun (s : State) e =>
    match s.compObj k e.1 with
    | some a => s.freeNow hold true e.2 a e.1
    | none => s) s
  let s := s.returnPending k
  l.foldl (fun (s : State) p => match p with
    | .alloc q vdie tier size => s.hostAlloc hold q k vdie tier size
    | .free .. => s) s

/-! ### Requests of tile programs (07 R251-R254) -/

/-- ALLOC_REQUEST_ARRIVAL. -/
def execAllocRequestArrival (die : Fin 8) (cluster : Fin 10) (r : AllocReq) (s : State) :
    Host.Outcome State Fault Refusal :=
  .next (s.ringArrive die.val cluster.val r)

/-- The allocator index of a core in its composition's image; none for a core that allocates nothing.
(log 25, DEDUCED) -/
def Comp.allocIndex (m : Comp) (vd vc vk : Nat) : Option Nat :=
  (((m.img.variants.filter fun v => v.idx == m.variant).flatMap (·.dies)).filter fun x => x.vd == vd).findSome?
    fun x => (x.quotas.find? fun e => e.1 == vc && e.2.1 == vk).map fun e => e.2.2.1

/-- The form of a request (07 R253). -/
def reqOk (b : List Byte) : Bool :=
  let op := field b 0 1
  decide (field b 1 1 ≤ 1) && zeros b 2 2 && zeros b 20 44 &&
    match op with
    | 1 => decide (1 ≤ field b 8 8) && decide (field b 8 8 ≤ 2 ^ 40) && zeros b 16 4
    | 2 => zeros b 8 8
    | _ => false

/-- A reply (07 Table 6). -/
def allocReply (b : List Byte) (r : AllocReply) : Payload :=
  bytesPayload (slice b 0 1 ++ leBytes 1 r.st.code ++ leBytes 2 0 ++ slice b 4 4 ++ leBytes 4 r.handle
    ++ leBytes 4 0 ++ leBytes 8 r.voff ++ leBytes 8 r.size)

/-- One request of a tile program is served. -/
def State.serveReq (s : State) (k : Nat) (r : AllocReq) : State × AllocReply :=
  let c := s.core r.core
  let b := payloadBytes r.req
  let tier := field b 1 1
  if !reqOk b then (s, { st := .format })
  else if field b 0 1 = 1 then
    match (s.comp k).allocIndex c.vd c.vc c.vk with
    | none => (s, { st := .nomem })
    | some p =>
      let (s, a) := s.alloc (s.comp k).ctx k c.vd tier p (field b 8 8)
      (s.append k 6 (hostopBody 0x30 a.st false false c.vd tier 0 a.handle a.voff a.size 0), a)
  else
    let h := field b 16 4
    match s.compObj k h with
    | some a =>
      if (s.objAt a h).freed || hCtx h != (s.comp k).ctx then (s, { st := .state })
      else if s.looping k then
        ((s.updObj a h fun o => { o with freed := true }).updComp k fun m =>
          { m with pend := m.pend ++ [.free h none] }, { st := .ok })
      else (s.freeNow false false none a h, { st := .ok })
    | none => (s, { st := .state })

/-- Serve a request and write its reply at the core (07 R252). (log 25, DEDUCED) -/
def State.answerReq (s : State) (k : Nat) (r : AllocReq) : State :=
  let (s, a) := s.serveReq k r
  s.scratchWrite r.core []
    { owner := r.lane, cls := 1, last := true, ctr := r.ctr, faddr := r.raddr / 4 % 2 ^ 18, poison := false,
      payload := allocReply (payloadBytes r.req) a, use := .data, router := 0, port := 0, cycle := 0 }

/-- Steward 1 sorts the requests in its die's rings into its lane queues. -/
def Die.sortRings (x : Die) : Die :=
  { x with
    laneQ := (x.reqRings.flatMap Prod.snd).foldl (fun q r => Tab.upd [] q r.lane (· ++ [r])) x.laneQ
    reqRings := [] }

/-- ALLOCATOR_SERVICE: lane f mod 8 of the die, up to 4 requests, in ascending virtual cluster order; the
revoked flag is read first (07 R254, R259). -/
def execAllocatorService (die : Fin 8) (s : State) : Host.Outcome State Fault Refusal :=
  let d := die.val
  let s := s.updDie d Die.sortRings
  let l := (s.die d).frames % 8
  let q := (Tab.look [] (s.die d).laneQ l).mergeSort fun a b => decide (a.vcluster ≤ b.vcluster)
  .next (match s.laneComp d l with
    | none => s
    | some k =>
      if (s.ctx (s.comp k).ctx).allocRevoked then s.dropContext (s.comp k).ctx
      else
        let s := s.updDie d fun x => { x with laneQ := Tab.put [] x.laneQ l (q.drop 4) }
        (q.take 4).foldl (fun (s : State) r => s.answerReq k r) s)

/-! ### Host objects (07 R255-R260) -/

/-- A handle names an object of another context (07 R255). (log 25, DEDUCED) -/
def State.foreign (s : State) (c h : Nat) : Bool := hCtx h != c && (s.findObj h).isSome

/-- OBJ_ALLOC. -/
def execObjAlloc (q : Fin 4096) (s : State) : Host.Outcome State Fault Refusal :=
  .next (s.descr q.val 0x30 [(16, 1), (17, 1), (24, 8)]
    (fun b => decide (field b 17 1 ≤ 1) && decide (1 ≤ field b 24 8) && decide (field b 24 8 ≤ 2 ^ 40))
    noDenied (fun s st =>
      let k := st.comp
      let (vd, tier, size) := (field st.b 16 1, field st.b 17 1, field st.b 24 8)
      if (s.queue q.val).started then s
      else if s.looping k then
        (s.updComp k fun m => { m with pend := m.pend ++ [.alloc q.val vd tier size] }).updQueue q.val fun x =>
          { x with started := true }
      else if !s.recRoom k 128 then s.complete q.val .limit
      else s.hostAlloc false q.val k vd tier size)
    (fun s b => (s.comp (field b 12 2)).st == .free || decide (field b 16 1 < field (s.comp (field b 12 2)).shape 6 1)))

/-- A descriptor that names an object by HANDLE: `DENIED` for another context's, `STATE` for none
(07 R255). -/
def State.objDescr (s : State) (q op : Nat) (used : List (Nat × Nat)) (fmt : List Byte → Bool)
    (f : State → Start → Nat → Nat → State) (fmtS : State → List Byte → Bool := fun _ _ => true) : State :=
  s.descr q op ((16, 4) :: used) fmt (fun s c b => s.foreign c (field b 16 4)) (fun s st =>
    let h := field st.b 16 4
    match s.findObj h with
    | some a => if hCtx h != st.ctx then s.complete q .state else f s st a h
    | none => s.complete q .state) fmtS

/-- OBJ_FREE: at once, or at the next commit barrier while a loop runs (07 R249, R253, R255). -/
def execObjFree (q : Fin 4096) (s : State) : Host.Outcome State Fault Refusal :=
  .next (s.objDescr q.val 0x31 [] (fun _ => true) fun s _ a h =>
    let k := a / 32
    if (s.queue q.val).started then s
    else if (s.objAt a h).freed then s.complete q.val .state
    else if s.looping k then
      ((s.updObj a h fun o => { o with freed := true }).updComp k fun m =>
        { m with pend := m.pend ++ [.free h (some q.val)] }).updQueue q.val fun x => { x with started := true }
    else if !s.recRoom k 128 then s.complete q.val .limit
    else s.freeNow false false (some q.val) a h)

/-- OBJ_MAP: one reference more; the window offset is the adapter's. -/
def execObjMap (q : Fin 4096) (s : State) : Host.Outcome State Fault Refusal :=
  .next (s.objDescr q.val 0x32 [] (fun _ => true) fun s _ a h =>
    (s.updObj a h fun o => { o with refs := o.refs + 1, maps := o.maps + 1 }).complete q.val .ok
      (BitVec.ofNat 256 (Config.windowBase h % 2 ^ 64)))

/-- OBJ_UNMAP: one mapping reference less. (log 25, DEDUCED) -/
def execObjUnmap (q : Fin 4096) (s : State) : Host.Outcome State Fault Refusal :=
  .next (s.objDescr q.val 0x33 [] (fun _ => true) fun s _ a h =>
    if (s.objAt a h).maps == 0 then s.complete q.val .state
    else
      ((s.updObj a h fun o => { o with refs := o.refs - 1, maps := o.maps - 1 }).dropIfDead a h false).complete
        q.val .ok)

/-- The record of an OBJ_COPY, and its completion (12 Table 3, R424). -/
def State.copyEnd (s : State) (q a h off len : Nat) (dir : Bool) (l : List Byte) (out : Nat) : State :=
  let k := a / 32
  let o := s.objAt a h
  let s := s.append k 6 (hostopBody 0x34 .ok (!dir && s.looping k) dir o.vdie o.tier 0 h off len (sha256 l))
  if dir then s.sendOut q out l .ok (BitVec.ofNat 256 len)
  else (s.objWrite a h off l).complete q .ok (BitVec.ofNat 256 len)

/-- OBJ_COPY (07 R255, 12 R418, R424). -/
def execObjCopy (q : Fin 4096) (s : State) : Host.Outcome State Fault Refusal :=
  .next (s.objDescr q.val 0x34 [(20, 1), (24, 8), (32, 8), (40, 8)]
    (fun b => decide (field b 20 1 ≤ 1) && field b 24 8 % 64 == 0 && al64 b 32 && field b 40 8 % 64 == 0
      && decide (64 ≤ field b 40 8) && decide (field b 40 8 ≤ 2 ^ 40))
    (fun s st a h =>
      let b := st.b
      let (off, len) := (field b 24 8, field b 40 8)
      let k := a / 32
      let o := s.objAt a h
      if !s.looping k && !s.recRoom k 128 then s.complete q.val .limit
      else if field b 20 1 = 1 then s.copyEnd q.val a h off len true (s.objRead a h off len) (field b 32 8)
      else if (s.queue q.val).readFailed then
        (s.append k 6 (hostopBody 0x34 .link false false o.vdie o.tier 0 h off len 0)).complete q.val .link
      else s.withData q.val len fun l => s.copyEnd q.val a h off len false l 0)
    (fun s b => match s.findObj (field b 16 4) with
      | some a => decide (field b 24 8 + field b 40 8 ≤ 2 ^ 16 * (s.objAt a (field b 16 4)).n)
      | none => true))

/-! ### The object window (08 Table 1, 11 R404) -/

/-- Every object mapped: arena and handle. -/
def State.mappedObjs (s : State) : List (Nat × Nat) :=
  s.arenas.flatMap fun e => e.2.parts.flatMap fun p =>
    (p.2.objs.filter fun o => o.2.live && decide (o.2.maps ≠ 0)).map fun o =>
      (e.1, handleOf (s.comp (e.1 / 32)).ctx p.1 o.1)

/-- The mapped object whose window holds a range: arena, handle and offset within the object. (log 26, DEDUCED) -/
def State.windowObj (s : State) (off len : Nat) : Option (Nat × Nat × Nat) :=
  (s.mappedObjs.find? fun e =>
    let b := Config.windowBase e.2 % 2 ^ 64
    decide (b ≤ off) && decide (off + len ≤ b + 2 ^ 16 * (s.objAt e.1 e.2).n)).map fun e =>
      (e.1, e.2, off - Config.windowBase e.2 % 2 ^ 64)

/-- The object's context is living: accesses after revocation are `LOST` (07 R260). (log 26, DEDUCED) -/
def State.windowOk (s : State) (e : Nat × Nat × Nat) : Bool := (s.ctx (hCtx e.2.1)).st != .lost

/-- An OBJ_RD record: the bytes, or a failure where nothing is mapped or the context is LOST. (log 26, DEDUCED) -/
def State.winRead (s : State) (tag off len : Nat) : State :=
  match s.windowObj off len with
  | some e =>
    if s.windowOk e then s.emit (.objData tag false (s.objRead e.1 e.2.1 e.2.2 len))
    else s.emit (.objData tag true [])
  | none => s.emit (.objData tag true [])

/-- OBJ_RD. -/
def execObjRd (tag off len : Nat) (s : State) : Host.Outcome State Fault Refusal := .next (s.winRead tag off len)

/-- An OBJ_WR record: posted; discarded where nothing is mapped or the context is LOST. (log 26, DEDUCED) -/
def State.winWrite (s : State) (off : Nat) (bytes : List Byte) : State :=
  match s.windowObj off bytes.length with
  | some e => if s.windowOk e then s.objWrite e.1 e.2.1 e.2.2 bytes else s
  | none => s

/-- OBJ_WR. -/
def execObjWr (off : Nat) (bytes : List Byte) (s : State) : Host.Outcome State Fault Refusal :=
  .next (s.winWrite off bytes)

end Sys2Proof.Machine
end

