-- ==== Sys2Proof/Machine/Sampler.lean ====
section
/-! DEFINITION. Draft trees and the sampler: the draw of a token, the walk of the tree and the form of draft
records and sampling parameters (04 R130-R143). -/

namespace Sys2Proof.Machine

/-! ### Sampling parameters (04 R138) -/

/-- SEED, INVT, TOPP, TOPK, stop tokens and MAXNEW of a parameter block (04 Table 8). -/
structure SParams where
  seed : List Nat
  invt : Nat
  topp : Nat
  topk : Nat
  stops : List Nat
  maxnew : Nat
  deriving DecidableEq, Repr

/-- Read a parameter block. -/
def sparams (b : List Byte) : SParams :=
  { seed := natBytes (slice b 0 16), invt := field b 16 4, topp := field b 20 4, topk := field b 24 2,
    stops := (List.range (min 4 (field b 26 1))).map fun i => field b (28 + 4 * i) 4, maxnew := field b 44 4 }

/-- The order of binary32 values as numbers: the two zeros are equal. -/
def realKey (c : Nat) : Int := if c < 2 ^ 31 then c else -((c : Int) - 2 ^ 31)

/-- A binary32 code of a finite value. -/
def finite32 (c : Nat) : Bool :=
  match v32 c with
  | .fin .. => true
  | _ => false

/-- 1.0 in binary32. -/
def one32 : Nat := 0x3F800000

/-- The range rules of 04 Table 8; TOPK 0 requires TOPP 1.0. -/
def sparamsOk (b : List Byte) : Bool :=
  let p := sparams b
  finite32 p.invt && decide (0 ≤ realKey p.invt) && finite32 p.topp && decide (0 < realKey p.topp)
    && decide (realKey p.topp ≤ realKey one32) && decide (p.topk ≤ 1024) && decide (field b 26 1 ≤ 4)
    && (p.topk != 0 || p.topp == one32)
    && (slice b 27 1).all (· == 0) && (slice b 48 16).all (· == 0)

/-! ### The draw (04 R139, R140) -/

/-- A logit or scaled score that may be a candidate: neither NaN nor minus infinity. -/
def candidate (c : Nat) : Bool := !isNan32 c && c != f32.sign true f32.infCode

/-- The counter block of position `n` and vocabulary index `i` (04 R140). -/
def ctrBlock (n i : Nat) : List Nat := natBytes (leBytes 8 n ++ leBytes 4 i ++ leBytes 4 1)

/-- The noise word of position `n` and index `i`. -/
def noiseWord (seed : List Nat) (n i : Nat) : Nat :=
  leNat (byteNats ((aesEncrypt 4 seed (ctrBlock n i)).take 4))

/-- Negation of a binary32 code. -/
def fneg (c : Nat) : Nat := (c + 2 ^ 31) % 2 ^ 32

/-- The Gumbel noise of a word (04 R139). -/
def gumbel (w : Nat) : Nat :=
  let u := f32.round false (2 * (w / 2 ^ 9) + 1) 1 (-24)
  fneg (flog (fneg (flog u)))

/-- The first pair with the largest key, by a list in the order of ties. -/
def bestOf : List (Nat × Nat) → Option (Nat × Nat)
  | [] => none
  | (i, k) :: l =>
    some (l.foldl (fun b e => if realKey b.2 < realKey e.2 then e else b) (i, k))

/-- A non-negative finite binary32 value in units of 2^-149. -/
def unit32 (c : Nat) : Nat :=
  match v32 c with
  | .fin _ n e => n * 2 ^ (e + 149).toNat
  | _ => 0

/-- The shortest prefix of scored candidates whose exact sum of exponentials reaches `topp` of the whole
(04 R139). -/
def toppPrefix (topp : Nat) (c : List (Nat × Nat)) : List (Nat × Nat) :=
  match c with
  | [] => []
  | (_, m) :: _ =>
    let e := c.map fun p => unit32 (fexp (fsub p.2 m))
    let total := e.sum
    let n := ((List.range (c.length + 1)).find? fun n =>
      decide (unit32 topp * total ≤ (e.take n).sum * 2 ^ 149)).getD c.length
    c.take n

/-- The token drawn for position `n` from a logit row (04 R139): none when there is no candidate. -/
def draw (p : SParams) (n : Nat) (z : List (BitVec 32)) : Option Nat :=
  if realKey p.invt = 0 then
    (bestOf (((z.map BitVec.toNat).zipIdx.filter fun e => candidate e.1).map fun e => (e.2, e.1))).map Prod.fst
  else
    let s := (z.map fun v => fmul v.toNat p.invt).zipIdx.map fun e => (e.2, e.1)
    let c := s.filter fun e => candidate e.2
    if c.isEmpty then none
    else
      match c.find? fun e => e.2 == f32.infCode with
      | some e => some e.1
      | none =>
        let c := c.mergeSort fun a b =>
          decide (realKey b.2 < realKey a.2) || (realKey a.2 == realKey b.2 && decide (a.1 ≤ b.1))
        let c := if p.topk = 0 then c else c.take p.topk
        let c := if realKey p.topp < realKey one32 then toppPrefix p.topp c else c
        let c := c.mergeSort fun a b => decide (a.1 ≤ b.1)
        (bestOf (c.map fun e => (e.1, fadd e.2 (gumbel (noiseWord p.seed n e.1))))).map Prod.fst

/-! ### Draft records (04 R130, R131) -/

/-- Node count P of a record. -/
def recNodes (b : List Byte) : Nat := field b 8 1 + 1
/-- FORCE. -/
def recForce (b : List Byte) : Bool := bit (field b 9 1) 0
/-- Parent byte of node `i`. -/
def recParent (b : List Byte) (i : Nat) : Nat := field b (16 + i) 1
/-- Token of node `i`. -/
def recToken (b : List Byte) (i : Nat) : Nat := field b (144 + 4 * i) 4

/-- A record is usable at committed length `lc` with pending root `root` and vocabulary `v` (04 R131). -/
def recUsable (b : List Byte) (lc v : Nat) (root : Option (BitVec 32)) : Bool :=
  let n := recNodes b
  let nodes := List.range n
  field b 0 8 == lc && decide (n ≤ 128) && bits (field b 9 1) 7 2 == 0 && decide (field b 10 1 ≤ 3)
    && field b 11 1 == 0 && (slice b 656 112).all (· == 0)
    && (nodes.all fun i => if i = 0 then recParent b i == 0xFF else decide (recParent b i < i))
    && ((List.range 128).all fun i => decide (i < n) || (recParent b i == 0 && recToken b i == 0))
    && (nodes.all fun i => decide (recToken b i < v))
    && (if recForce b then nodes.all fun i => i == 0 || recParent b i + 1 == i
        else match root with
          | some t => recToken b 0 == t.toNat
          | none => false)

/-- The tree of a record, its KV slots not yet assigned. -/
def recTree (b : List Byte) : Tree :=
  { base := field b 0 8, force := recForce b, last := bit (field b 9 1) 1, src := field b 10 1,
    seq := BitVec.ofNat 32 (field b 12 4),
    parents := (List.range (recNodes b)).map (recParent b),
    tokens := (List.range (recNodes b)).map fun i => BitVec.ofNat 32 (recToken b i), slots := [] }

/-- The one-node tree: the pending root at the committed length (04 R131). -/
def rootTree (lc : Nat) (t : BitVec 32) : Tree :=
  { base := lc, force := false, last := false, src := 3, seq := 0, parents := [0xFF], tokens := [t], slots := [] }

end Sys2Proof.Machine

namespace Sys2Proof

/-- Parent of a node; none for node 0. -/
def Tree.parent (t : Tree) (i : Nat) : Option Nat := if i = 0 then none else t.parents[i]?

/-- The path from node 0 to a node, with the node; `n` bounds its length. -/
def Tree.pathN (t : Tree) : Nat → Nat → List Nat
  | 0, i => [i]
  | n + 1, i =>
    match t.parent i with
    | some p => t.pathN n p ++ [i]
    | none => [i]

/-- The path from node 0 to a node. -/
def Tree.path (t : Tree) (i : Nat) : List Nat := t.pathN 128 i

/-- Depth of a node (04 R130). -/
def Tree.depth (t : Tree) (i : Nat) : Nat := (t.path i).length - 1

/-- Token of a node. -/
def Tree.token (t : Tree) (i : Nat) : BitVec 32 := (t.tokens[i]?).getD 0

/-- Slot of a node. -/
def Tree.slot (t : Tree) (i : Nat) : Nat := (t.slots[i]?).getD 0

/-- Node count. -/
def Tree.nodes (t : Tree) : Nat := t.parents.length

/-- The lowest-index child of a node that carries a token (04 R143). -/
def Tree.child (t : Tree) (x : Nat) (tok : Nat) : Option Nat :=
  (List.range t.nodes).find? fun i => t.parent i == some x && (t.token i).toNat == tok

/-- Keep the nodes of a rising list, renumbered in their order (04 R135). -/
def Tree.keep (t : Tree) (l : List Nat) : Tree :=
  { t with
    parents := l.map fun i => match t.parent i with
      | some p => l.idxOf p
      | none => 0xFF
    tokens := l.map t.token }

/-- The first 768 bytes of the step header: the tree as a draft record (04 Table 6). -/
def Tree.bytes (t : Tree) : List Byte :=
  leBytes 8 t.base ++ leBytes 1 (t.nodes - 1) ++ leBytes 1 (b2n t.force + 2 * b2n t.last) ++ leBytes 1 t.src
    ++ leBytes 1 0 ++ leBytes 4 t.seq.toNat ++ slice (t.parents.map (BitVec.ofNat 8)) 0 128
    ++ slice (t.tokens.flatMap fun x => leBytes 4 x.toNat) 0 512 ++ leBytes 112 0

/-- The step header: the record and one KV slot per node (04 R114). -/
def Tree.header (t : Tree) : List Byte := t.bytes ++ slice (t.slots.flatMap fun x => leBytes 4 x) 0 512

end Sys2Proof

namespace Sys2Proof.Machine

/-- The outcome of the sample phase: the node the walk ended at, the final draw, and END; none when a draw
found no candidate. -/
structure Walk where
  last : Nat
  token : Nat
  endc : Nat
  deriving DecidableEq, Repr

/-- END of a step whose `k`-th token of this step is `t` (04 R143). -/
def endOf (p : SParams) (produced k t : Nat) : Nat :=
  if p.stops.contains t then 1
  else if p.maxnew ≠ 0 ∧ produced + k = p.maxnew then 2
  else 0

/-- The walk of 04 R143 from node `x` with `k` tokens drawn; `n` bounds its length. -/
def walkTree (p : SParams) (t : Tree) (logits : List (List (BitVec 32))) (produced : Nat) :
    Nat → Nat → Nat → Option Walk
  | 0, _, _ => none
  | n + 1, x, k =>
    match draw p (t.base + t.depth x + 1) ((logits[x]?).getD []) with
    | none => none
    | some tok =>
      let e := endOf p produced (k + 1) tok
      if e ≠ 0 then some { last := x, token := tok, endc := e }
      else
        match t.child x tok with
        | some c => walkTree p t logits produced n c (k + 1)
        | none => some { last := x, token := tok, endc := 0 }

/-- The sample phase's result (04 R143): the walk, or the final draw of a FORCE record. -/
def sample (p : SParams) (t : Tree) (logits : List (List (BitVec 32))) (produced : Nat) : Option Walk :=
  if t.force then
    let x := t.nodes - 1
    (draw p (t.base + t.nodes) ((logits[x]?).getD [])).map fun tok =>
      { last := x, token := tok, endc := if t.last then endOf p produced 1 tok else 0 }
  else walkTree p t logits produced t.nodes 0 0

/-- Tokens a step emits (04 R143): those of the path without node 0, then the final draw. -/
def emitted (t : Tree) (c : CommitW) : List (BitVec 32) :=
  if t.force then (if t.last then [c.token] else [])
  else ((t.path c.last).drop 1).map t.token ++ [c.token]

end Sys2Proof.Machine
end

