-- ==== Sys2Proof/Machine/LoopOps.lean ====
section
/-! DEFINITION. The token loop: token events, the end of a loop, the choice and preparation of a draft tree
and the lookup drafter (04 R130-R137, R147, 08 R287-R289). -/

namespace Sys2Proof.Machine

/-! ### Token events (08 R266, R267, R287-R289) -/

/-- The records of a token event: one TOKEN and as many TOKEN_CONT as needed (08 R288). -/
def State.tokenRecords (s : State) (k : Nat) (st : Status) (pos endc step : Nat) (toks : List (BitVec 32)) :
    List Payload :=
  let c := (s.comp k).ctx
  let words (l : List (BitVec 32)) : List Byte := l.flatMap fun t => leBytes 4 t.toNat
  let conts := cdiv (toks.length - 8) 12
  let more (i : Nat) : Nat := if i < conts then 4 else 0
  s.recordOf 2 st.code (more 0) c k
      (leBytes 8 pos ++ leBytes 1 toks.length ++ leBytes 1 endc ++ leBytes 2 0 ++ leBytes 4 step ++ words (toks.take 8))
    :: (List.range conts).map fun i =>
      s.recordOf 3 st.code (more (i + 1)) c k (words ((toks.drop (8 + 12 * i)).take 12))

/-- The port a loop's token event leaves by: its ring's, or with a failover slot the other (08 R267). -/
def State.eventPort (s : State) (lp : Loop) : Option Bool :=
  if s.portUp lp.evPort then some lp.evPort
  else if lp.failover.isSome && s.portUp (!lp.evPort) then some (!lp.evPort)
  else none

/-- Write a token event, or drop it whole (08 R289); the result says whether it was written. (log 20, DEDUCED) -/
def State.tokenEvent (s : State) (k : Nat) (lp : Loop) (l : List Payload) : State × Bool :=
  let r := s.ring lp.tring
  match s.eventPort lp with
  | some p =>
    if r.live && !s.closing r.ctx && decide (l.length ≤ r.freeRecs) then
      ((l.foldl (fun (s : State) rcd => s.writeRecord lp.tring rcd p) s).updComp k fun m => { m with lastEvent := l }, true)
    else (s.updRing lp.tring fun r => { r with drops := r.drops + l.length }, false)
  | none => (s.updRing lp.tring fun r => { r with drops := r.drops + l.length }, false)

/-! ### The end of a loop (04 R147, 12 R416, R417) -/

/-- A LOOP body (12 Table 3). -/
def State.loopBody (s : State) (k : Nat) (stop kvreset : Bool) (endc : Nat) (lp : Loop) : List Byte :=
  let L := s.compLane k
  leBytes 1 (b2n stop) ++ leBytes 1 endc ++ leBytes 1 lp.dsrc ++ leBytes 1 L.theta.toNat
    ++ leBytes 1 (b2n (s.comp k).balShift) ++ leBytes 1 (b2n kvreset + 2 * b2n s.pwr.pinned)
    ++ leBytes 2 L.bound.toNat ++ leBytes 4 L.f.toNat ++ leBytes 4 lp.breq

/-- A lane between loops: its KV state stays (04 R136). -/
def Lane.rest (L : Lane) : Lane :=
  { L with st := .idle, stop := false, tree := none, commitw := none, arrived := [], dieArrived := false,
           relArrived := false, sentUp := false, sentDown := false }

/-- The KV slots assigned at the start phase return to the free list (14 R460). -/
def Lane.returnSlots (L : Lane) : Lane :=
  match L.tree with
  | some t => if L.commitw.isSome && L.lc != t.base then L else { L with used := L.used.filter fun x => !t.slots.contains x }
  | none => L

/-- A loop is over: the record of its stop, what waited for it takes effect, its event slots are free, its
lanes IDLE, and the LOOP_STOPs complete (04 R147, 07 R249, 08 R266, R279, 12 R417). -/
def State.endLoop (s : State) (k endc : Nat) : State :=
  let m := s.comp k
  match m.loop with
  | none => s
  | some lp =>
    let s := s.append k 4 (s.loopBody k true false endc lp)
    let s := s.updComp k fun m => { m with loop := none, holding := false }
    let s := s.applyPending k false
    let free (t : Tongs) : Tongs :=
      { t with evUse := Tab.mapVals none (fun _ (u : Option Nat) => if u == some k then none else u) t.evUse }
    let s := { s with tongs0 := free s.tongs0, tongs8 := free s.tongs8 }
    let s := s.updLanes m.dies m.lane Lane.rest
    let s := m.dies.foldl (fun (s : State) d => s.updDie d fun x =>
      { x with ucps := Tab.upd {} x.ucps m.lane fun u => { u with running := false, waiting := false } }) s
    lp.stoppers.foldl (fun (s : State) q => s.complete q .ok) s

/-- A final event with NTOK 0, and the loop's end (04 R132, R134-R136). (log 20, DEDUCED) -/
def State.finalEvent (s : State) (k : Nat) (st : Status) (endc : Nat) : State :=
  match (s.comp k).loop with
  | none => s
  | some lp =>
    let (pos, s) := s.fresh
    let l := s.tokenRecords k st (pos % 2 ^ 64) endc ((s.compLane k).step.toNat % 2 ^ 32) []
    (s.tokenEvent k lp l).1.endLoop k endc

/-! ### Preparing a tree (04 R135, R136) -/

/-- The next `n` lowest free slots below `top`, from slot `i` on. -/
def freeSlots (used : List Nat) (top : Nat) : Nat → Nat → List Nat
  | 0, _ => []
  | n + 1, i =>
    let k := lowestFree i used
    if k < top then k :: freeSlots used top n (k + 1) else []

/-- Drop nodes past the map capacity, renumber, and assign slots. -/
def prepareTree (t : Tree) (lmax slots : Nat) (used : List Nat) : Tree :=
  let t := t.keep ((List.range t.nodes).filter fun i => decide (t.base + t.depth i < lmax))
  let fs := freeSlots used slots t.nodes 0
  { t.keep (List.range fs.length) with slots := fs }

/-- A lane arrives at one of the Lathe's own barriers (04 R124). -/
def Lane.arriveOwn (L : Lane) (d b : Nat) : Lane :=
  { L with barid := BitVec.ofNat 8 b, arrived := [], dieArrived := true, mask := BitVec.ofNat 8 (2 ^ d) }

/-- Every lane of a composition arrives at one of the Lathe's own barriers. -/
def State.arriveAll (s : State) (k b : Nat) : State :=
  let m := s.comp k
  m.dies.foldl (fun (s : State) d => s.updLane d m.lane fun L => L.arriveOwn d b) s

/-- The step runs with a tree: slots are taken, the header goes to every core, and the lanes arrive at the
start barrier (04 R114, R135, R136). -/
def State.runTree (s : State) (k : Nat) (t : Tree) : State :=
  let m := s.comp k
  let L := s.compLane k
  if L.lmax ≤ t.base then s.finalEvent k .limit 0
  else
    let t := prepareTree t L.lmax L.slots L.used
    if t.slots.isEmpty then s.finalEvent k .nomem 0
    else
      let s := m.dies.foldl (fun (s : State) d => s.updLane d m.lane fun L =>
        { L with tree := some t, commitw := none, used := t.slots.foldl (fun u x => insNat x u) L.used }) s
      let s := m.cores.foldl (fun (s : State) i =>
        s.setCore i ((s.core i).put (s.lane (keyDie i) m.lane).hdrAddr t.header)) s
      let s := m.dies.foldl (fun (s : State) d => s.updDie d fun x =>
        { x with ucps := Tab.upd {} x.ucps m.lane fun u => { u with running := u.running || u.present && !u.ended } }) s
      (s.updComp k fun m => { m with holding := false }).arriveAll k 0xFF

/-- A draft record discarded by every lane of the composition (04 R131). (log 21, DEDUCED) -/
def State.rejectDraft (s : State) (k : Nat) : State :=
  let m := s.comp k
  s.updLanes m.dies m.lane fun L => { L with drej := satAdd L.drej 1 }

/-- The vocabulary size of the composition's models. -/
def Comp.vocabSize (m : Comp) : Nat := ((m.img.variant m.variant).map (·.vocab)).getD 0

/-- A stop request stands on some die's lane. -/
def State.stopAsked (s : State) (k : Nat) : Bool :=
  let m := s.comp k
  m.dies.any fun d => (s.lane d m.lane).stop

/-- The tree of the step from the record examined, if any (04 R131-R134). (log 21, DEDUCED) -/
def State.chooseTree (s : State) (k : Nat) (r : Option (List Byte)) : State :=
  let L := s.compLane k
  let idle (s : State) : State :=
    match L.root with
    | some t => s.runTree k (rootTree L.lc t)
    | none =>
      if s.stopAsked k then s.finalEvent k .ok 3 else s.updComp k fun m => { m with holding := true }
  match r with
  | none => idle s
  | some b =>
    if recUsable b L.lc (s.comp k).vocabSize L.root then s.runTree k (recTree b)
    else
      let s := s.rejectDraft k
      if recForce b then s.finalEvent k .format 0 else idle s

/-- A record belongs to what the lane examines under a draft source (04 R132): all of the source, and FORCE
records of the host. -/
def DraftRec.examined (r : DraftRec) (dsrc : Nat) : Bool :=
  if dsrc = 0 then r.host else !r.host || recForce r.bytes

/-- The newest record the lane examines. -/
def Comp.newest (m : Comp) (dsrc : Nat) : Option (List Byte) :=
  ((m.drafts.filter fun r => r.examined dsrc).getLast?).map (·.bytes)

/-- The flits of a record for a step-header address (17 R533). -/
def draftFlits (l hdr : Nat) (b : List Byte) : List Flit :=
  (List.range 12).map fun i =>
    { owner := l, cls := 2, last := i == 11, ctr := 0, faddr := (hdr / 64 + i) % 2 ^ 18, poison := false,
      payload := bytesPayload (slice b (64 * i) 64), use := .data, router := 0, port := 0, cycle := 0 }

/-- The root lane sends the record of the next step to every other member (17 R533). (log 21, DEDUCED) -/
def State.sendRecord (s : State) (k : Nat) (b : List Byte) : State :=
  let m := s.comp k
  let fs := draftFlits m.lane (s.compLane k).hdrAddr b
  ((List.range m.nmod).filter fun v => v != m.vmod).foldl (fun (s : State) v =>
    match (s.portsTo m v).head? with
    | some p => s.updPort p fun q => { q with egress := q.egress ++ fs }
    | none => s) s

/-- The record sent to the other members: the one the step takes, or that of the pending root. -/
def State.recordSent (s : State) (k : Nat) (r : Option (List Byte)) : Option (List Byte) :=
  let L := s.compLane k
  let one := L.root.map fun t => (rootTree L.lc t).bytes
  match r with
  | some b => if recUsable b L.lc (s.comp k).vocabSize L.root || recForce b then some b else one
  | none => one

/-! ### The lookup drafter (04 R137) -/

/-- Tokens that followed a sequence in the history, up to seven of each occurrence, in order. (log 21, DEDUCED) -/
def followed (hist seq : List Nat) : List (List Nat) :=
  (List.range (hist.length - seq.length)).filterMap fun i =>
    if (hist.drop i).take seq.length = seq then some ((hist.drop (i + seq.length)).take 7) else none

/-- Entry `i` of a lookup table: key and continuation; none where it breaks the table's rules. -/
def tableEntry (b : List Byte) : Option (List Nat × List Nat) :=
  let (n, c) := (field b 0 1, field b 1 1)
  if decide (1 ≤ n) && decide (n ≤ 8) && decide (1 ≤ c) && decide (c ≤ 7) && zeros b 2 2
      && zeros b (4 + 4 * n) (32 - 4 * n) && zeros b (36 + 4 * c) (28 - 4 * c) then
    some ((List.range n).map fun i => field b (4 + 4 * i) 4, (List.range c).map fun i => field b (36 + 4 * i) 4)
  else none

/-- The header of a lookup table: its entry count. -/
def tableHeader (b : List Byte) : Option Nat :=
  if field b 0 4 == 0x4B4F4F4C && field b 4 2 == 1 && zeros b 6 2 && zeros b 12 52 then some (field b 8 4) else none

/-- The entries of a table up to the first bad one, and whether a bad one ended the reading. -/
def State.tableEntries (s : State) (a h size : Nat) : Nat → Nat → List (List Nat × List Nat) × Bool
  | 0, _ => ([], false)
  | n + 1, i =>
    if size < 64 * (i + 2) then ([], true)
    else
      match tableEntry (s.objRead a h (64 * (i + 1)) 64) with
      | none => ([], true)
      | some e =>
        let (l, bad) := State.tableEntries s a h size n (i + 1)
        (e :: l, bad)

/-- A lookup table read as it stands. -/
def State.lookupTable (s : State) (k h : Nat) : List (List Nat × List Nat) × Bool :=
  match s.compObj k h with
  | none => ([], false)
  | some a =>
    match tableHeader (s.objRead a h 0 64) with
    | none => ([], true)
    | some n => s.tableEntries a h (2 ^ 16 * (s.objAt a h).n) n 0

/-- The lookup drafter's tree: parents and tokens by node. -/
abbrev LookTree := List (Nat × Nat)

/-- The path's tokens from node 0 to a node; `n` bounds its length. -/
def lookPath (t : LookTree) : Nat → Nat → List Nat
  | 0, _ => []
  | n + 1, i =>
    match t[i]? with
    | some (p, tok) => if i = 0 then [tok] else lookPath t n p ++ [tok]
    | none => []

/-- Chain tokens beneath a node, up to 128 nodes. -/
def lookChain : LookTree → Nat → List Nat → LookTree
  | t, _, [] => t
  | t, p, x :: l => if t.length < 128 then lookChain (t ++ [(p, x)]) t.length l else t

/-- Attach a continuation beneath node `x` unless a child already carries its first token. -/
def lookAttach (t : LookTree) (x : Nat) (c : List Nat) : LookTree :=
  match c with
  | [] => t
  | tok :: _ => if t.zipIdx.any fun e => e.2 != 0 && e.1 == (x, tok) then t else lookChain t x c

/-- The continuations of the last tokens of a path, longest match first. -/
def lookConts (hist : List Nat) (table : List (List Nat × List Nat)) (path : List Nat) : List (List Nat) :=
  let all := hist ++ path
  ((List.range 8).map (8 - ·)).flatMap fun m =>
    if all.length < m then []
    else
      let seq := all.drop (all.length - m)
      followed hist seq ++ (table.filter fun e => e.1 == seq).map Prod.snd

/-- The shallowest node that is open. -/
def lookOpen (t : LookTree) (closed : List Nat) : Option Nat :=
  (((List.range t.length).filter fun i => !closed.contains i).mergeSort fun a b =>
    decide ((lookPath t 128 a).length ≤ (lookPath t 128 b).length)).head?

/-- Grow the tree, one open node at a time. (log 21, DEDUCED) -/
def lookGrow (hist : List Nat) (table : List (List Nat × List Nat)) : Nat → List Nat → LookTree → LookTree
  | 0, _, t => t
  | n + 1, closed, t =>
    match lookOpen t closed with
    | none => t
    | some x =>
      if 128 ≤ t.length then t
      else
        lookGrow hist table n (x :: closed)
          ((lookConts hist table (lookPath t 128 x)).foldl (fun t c => lookAttach t x c) t)

/-- The draft record of a lookup tree. (log 21, DEDUCED) -/
def lookRecord (lc seq : Nat) (t : LookTree) : List Byte :=
  (Tree.mk lc false false 1 (BitVec.ofNat 32 seq)
    (t.zipIdx.map fun e => if e.2 = 0 then 0xFF else e.1.1) (t.map fun e => BitVec.ofNat 32 e.2) []).bytes

/-- The lookup drafter's record for the next step, and whether a bad table ended its reading. (log 21, DEDUCED) -/
def State.lookup (s : State) (k : Nat) (lp : Loop) : Option (List Byte) × Bool :=
  let L := s.compLane k
  match L.root with
  | none => (none, false)
  | some t =>
    let (table, bad) := if lp.ltab = 0 then ([], false) else s.lookupTable k lp.ltab
    let hist := (s.comp k).history.map BitVec.toNat
    (some (lookRecord L.lc L.step.toNat (lookGrow hist table 128 [] [(0, t.toNat)])), bad)

end Sys2Proof.Machine
end

