-- ==== Sys2Proof/Machine/Comps.lean ====
section
/-! DEFINITION. Compositions: creation, rebinding, destruction, draining, joining and the balance of power
(10 R327-R351). -/

namespace Sys2Proof.Machine

/-! ### COMP_CREATE (10 R327-R336, R345, 12 R413, R416) -/

/-- The lowest FREE composition index whose record ring is not orphaned (10 Table 5 check 2). -/
def State.freeIndex (s : State) : Option Nat :=
  (List.range 256).find? fun k => (s.comp k).st == .free && !(s.recRing k).orphan

/-- A composition as its shape names it, not yet bound. -/
def compOf (ctx : Nat) (shape : List Byte) (img : Image) (variant : Nat) : Comp :=
  { ctx, nmod := shNmod shape, vmod := shVmod shape, cid := BitVec.ofNat 64 (field shape 16 8), movef := shMovef shape,
    shape, img, variant, drainf := shDrainf shape, fanout := field shape 9 1 }

/-- A context that owns a composition is ACTIVE, and OPEN without one (09 Table 2). -/
def State.ctxActive (s : State) (c : Nat) : State :=
  s.updCtx c fun x =>
    if x.st == .opened || x.st == .active then
      { x with st := if (s.compsOf c).isEmpty then .opened else .active }
    else x

/-- Send a message to every child. -/
def State.sendKids (s : State) (k : Nat) (g : GenMsg) : State :=
  let m := s.comp k
  m.kids.foldl (fun (s : State) v => s.sendGeneral (m.devOf v) g) s

/-- The join fails (10 R345): REFUSE goes down the tree, the member is FAILED. -/
def State.joinFail (s : State) (k v : Nat) : State :=
  (s.sendKids k (.refuse (s.comp k).cid v)).updComp k fun m => { m with st := .failed, joinerr := true, refusedJoin := true }

/-- SHIFT is in force in a composition when every member is in SHIFT (10 R349). No message of R391 carries a
member's SHIFT to the root, so whether all of them are is a free value at the root. (log 32, DEDUCED) -/
def State.rootReady (s : State) (k : Nat) : State :=
  let (x, s) := s.fresh
  s.updComp k fun m => { m with st := .ready, balShift := s.pwr.shift && decide (x % 2 = 1) }

/-- A JOIN at a composition: a member passes it on toward the root; the root counts it, answers a different
digest with REFUSE and sends READY once every member has joined, with which it is READY itself. (log 32, DEDUCED) -/
def State.joinAt (s : State) (k vmod : Nat) (digest : Digest) : State :=
  let m := s.comp k
  if m.st != .joining then s
  else
    match m.parent with
    | some v => s.sendGeneral (m.devOf v) (.join m.cid vmod digest)
    | none =>
      if digest != shapeDigest m.shape then s.joinFail k vmod
      else if m.nmod ≤ vmod || m.joined.any (·.1 == vmod) then s
      else
        let s := s.updComp k fun m => { m with joined := m.joined ++ [(vmod, digest)] }
        if (s.comp k).joined.length = m.nmod then (s.sendKids k (.ready m.cid m.gen)).rootReady k else s

/-- A member joins: its JOIN goes toward the root, which counts its own; the JOINs that came for its CID before
follow (10 R345). -/
def State.joinUp (s : State) (k : Nat) : State :=
  let m := s.comp k
  let g := shapeDigest m.shape
  let early := s.joins.filter fun e => e.1 == m.cid
  let s := { s with joins := s.joins.filter fun e => e.1 != m.cid }
  let s := match m.parent with
    | some v => s.sendGeneral (m.devOf v) (.join m.cid m.vmod g)
    | none => s.updComp k fun m => { m with joined := [(0, g)] }
  early.foldl (fun (s : State) e => s.joinAt k e.2.1 e.2.2) s

/-- Bind a composition under index `k`. -/
def State.create (s : State) (k ctx : Nat) (shape : List Byte) (img : Image) (v : Variant)
    (map : List (Nat × Nat)) (l : Nat) (b : Binding) : State :=
  let m : Comp :=
    { compOf ctx shape img v.idx with
      st := if shNmod shape = 1 then .ready else .joining
      lane := l, gen := 1, diemap := map, clusters := b, capw := s.pwr.cap.toNat }
  let s := s.updComp k fun _ => m
  let s := s.takeCores l m.cores
  let s := s.takeClusters l m.boundClusters
  let s := s.loadCores v l b
  let s := m.dies.foldl (fun (s : State) d => s.updLane d l fun L => L.unbound) s
  let s := (s.laneImages map l v (shRfw shape)).kvReset k
  let s := map.foldl (fun (s : State) e =>
    let s := (s.takeArena k ctx shape v e.1 e.2 0).takeArena k ctx shape v e.1 e.2 1
    s.updDie e.2 fun x => { x with ucps := Tab.put {} x.ucps l { present := ((v.die e.1).map (·.ucp)).getD false } }) s
  let s := s.updCtx ctx fun x => { x with meshShown := x.meshShown + s.laneBytes k }
  let s := s.updRec k fun r => { wign := r.wign, cid := m.cid }
  let s := (s.append k 1 (s.openBody shape v)).append k 2 (bindingBody 1 0 shape b)
  let s := s.ctxActive ctx
  if 1 < shNmod shape then s.joinUp k else s

/-- COMP_CREATE: the checks of Table 5 in their order. The operand is what the image read says; its digest is that
of the bytes read. -/
def execCompCreate (q : Fin 4096) (img : Image) (s : State) : Host.Outcome State Fault Refusal :=
  .next (s.descr q.val 0x40 [(16, 8), (24, 4), (32, 8), (40, 8)] (fun b => al64 b 16 && al64 b 32)
    noDenied fun s st =>
      let len := field st.b 24 4
      s.withData q.val (len + field st.b 40 8) fun data =>
        let shape := data.take len
        let img := { img with digest := sha256 (data.drop len) }
        match img.variant (shVariant shape) with
        | none => s.complete q.val .format
        | some v =>
          if !(shapeOk shape len && s.shapeFits st.ctx shape img) then s.complete q.val .format
          else if st.ctx = 0 || s.sb.role then s.complete q.val .state
          else
            match s.freeIndex with
            | none => s.complete q.val .limit
            | some k =>
              match s.bindChecks k none [] [] (compOf st.ctx shape img v.idx) shape v true with
              | .error e => s.complete q.val e
              | .ok (map, l, b) =>
                (s.create k st.ctx shape img v map l b).complete q.val .ok (BitVec.ofNat 256 (k + 2 ^ 32)))

/-! ### COMP_REBIND (10 R329, R336-R342) -/

/-- A rebind is accepted: the resources its binding adds are taken and loaded, and the move image is armed
(10 R338 steps 1 and 2). (log 31, DEDUCED) -/
def State.rebind (s : State) (q k : Nat) (shape : List Byte) (v : Variant) (b : Binding) (kind plan : Nat) : State :=
  let m := s.comp k
  let addK := (b.flatMap fun e => e.2.2.2.2).filter fun i => !m.cores.contains i
  let addC := (b.map fun e => (e.2.2.1, e.2.2.2.1)).filter fun c => !m.boundClusters.contains c
  let s := (s.takeCores m.lane addK).takeClusters m.lane addC
  let s := addK.foldl (fun (s : State) i => s.setCore i { s.core i with
    prog := ((b.find? fun e => e.2.2.2.2.contains i).bind fun e => (v.die e.1).bind fun x =>
      (x.programs.find? fun p => p.1 == e.2.1 && p.2.1 == e.2.2.2.2.idxOf i).map fun p =>
        p.2.2.2.zipIdx.foldl (fun t (w : BitVec 128 × Nat) => Tab.put 0 t w.2 w.1) []).getD [] }) s
  (s.updComp k fun m =>
    { m with st := .rebind, stage := 1, newShape := shape, newClusters := b, kind, lastm := plan, rebindQ := some q,
             bindRec := false }).updQueue q fun x => { x with started := true }

/-- Bytes of the BINDING record of a rebind (12 Tables 2 and 3). -/
def bindingSize (old new : List Byte) : Nat :=
  let nvc := ((List.range (shNvd new)).map (shClusters new)).sum
  64 + 64 * cdiv (8 + 8 * nvc + (if rebindKind old new [] [] = 3 then 32 * shNvd new + 1 else 0)) 64

/-- COMP_REBIND: it completes at its second swap. -/
def execCompRebind (q : Fin 4096) (s : State) : Host.Outcome State Fault Refusal :=
  .next (s.descr q.val 0x41 [(16, 8), (24, 4)] (fun b => al64 b 16) noDenied fun s st =>
    let k := st.comp
    let m := s.comp k
    let len := field st.b 24 4
    if (s.queue q.val).started then s
    else
      s.withData q.val len fun shape =>
        match m.img.variant (shVariant shape) with
        | none => s.complete q.val .format
        | some v =>
          if !(shapeOk shape len && s.shapeFits st.ctx shape m.img && shapeKeeps m.shape shape) then
            s.complete q.val .format
          else if m.st != .ready then s.complete q.val .state
          else if m.loop.isNone && !s.recRoom k (bindingSize m.shape shape) then s.complete q.val .limit
          else
            match s.bindChecks k (some m.lane) m.cores m.boundClusters m shape v false with
            | .error e => s.complete q.val e
            | .ok (map, _, b) =>
              let kind := rebindKind m.shape shape m.clusters b
              let plan := planFrames (carryOf kind v m.clusters b)
              if map != m.diemap then s.complete q.val .nomem
              else if m.loop.isSome && decide (m.movef < plan) then s.complete q.val .bound
              else s.rebind q.val k shape v b kind plan)

/-! ### COMP_DESTROY and draining (10 R330, R333, R343) -/

/-- COMP_DESTROY. -/
def execCompDestroy (q : Fin 4096) (s : State) : Host.Outcome State Fault Refusal :=
  .next (s.descr q.val 0x42 [] (fun _ => true) noDenied fun s st =>
    let k := st.comp
    let m := s.comp k
    if m.loop.isSome || m.st == .rebind || !m.attached.isEmpty then s.complete q.val .state
    else
      let s := (s.appendClose k 0).capsBack k
      let s := m.dies.foldl (fun (s : State) d => s.revokeLane d m.lane) s
      ((s.freeComp k).ctxActive st.ctx).complete q.val .ok)

/-- A descriptor of a composition that started under an older generation has not completed (10 R343). -/
def State.oldWork (s : State) (k : Nat) : Bool :=
  s.queues.any fun e =>
    match e.2.front with
    | some a => e.2.started && e.2.fin.isNone && descNames a.op && field a.bytes 12 2 == k
        && field a.bytes 8 4 != (s.comp k).gen.toNat
    | none => false

/-- Routers of a cluster. -/
def clusterRouters (cl : Nat) : List Nat := (List.range 30).map fun i => routerAt cl (i % 6) (i / 6)

/-- The lane's elastic queues at the stops of held clusters are empty. (log 31, DEDUCED) -/
def State.heldDrained (s : State) (m : Comp) : Bool :=
  (m.heldClusters ++ m.heldCores.map fun i => (keyDie i, keyCluster i)).all fun c =>
    (clusterRouters c.2).all fun r => (Tab.look [] (s.die c.1).elastic (16 * r + m.lane)).isEmpty

/-- Held resources are cleared and become free (10 R343, 09 R324). -/
def State.freeHeld (s : State) (k : Nat) : State :=
  let m := s.comp k
  let s := m.heldCores.foldl (fun (s : State) i => s.setCore i (s.core i).clear) s
  let s := m.heldClusters.foldl (fun (s : State) c => s.updDie c.1 fun x =>
    { x with clusterMem := Tab.put [] x.clusterMem c.2 [] }) s
  (s.unbindCores m.lane m.heldCores m.heldClusters).updComp k fun m =>
    { m with heldCores := [], heldClusters := [], heldShapes := [], draining := false }

/-- DRAIN_RELEASE: the conditions of R343 hold; the drain fence is signalled with the generation.
(log 29, 31, DEDUCED) -/
def execDrainRelease (k : Fin 256) (s : State) : Host.Outcome State Fault Refusal :=
  let m := s.comp k.val
  .next (if m.draining && !s.oldWork k.val && s.heldDrained m && (m.nmod == 1 || m.genBarrier) then
      let s := s.freeHeld k.val
      if m.drainf = 0xFFFF then s
      else if (s.fence m.drainf).st == .live then
        (s.raiseFence m.drainf (BitVec.ofNat 64 m.gen.toNat) (s.ring (s.fence m.drainf).nring).port m.ctx).afterSignal m.drainf
      else s
    else s)

/-! ### Joining (10 R345, R349) -/

/-- The composition of a CID. -/
def State.compByCid (s : State) (cid : Word64) : Option Nat :=
  (s.comps.find? fun e => e.2.st != .free && e.2.cid == cid).map Prod.fst

/-- A JOIN arrives: at its composition, or held until COMP_CREATE binds one of its CID. (log 32, DEDUCED) -/
def State.takeJoin (s : State) (cid : Word64) (vmod : Nat) (digest : Digest) : State :=
  match s.compByCid cid with
  | none => { s with joins := s.joins ++ [(cid, vmod, digest)] }
  | some k => s.joinAt k vmod digest

/-- JOIN. -/
def execJoin (cid : Word64) (vmod : Nat) (digest : Digest) (s : State) : Host.Outcome State Fault Refusal :=
  .next (s.takeJoin cid vmod digest)

/-- READY arrives: a joining member passes it on and is READY; SHIFT is in force when every member is in SHIFT
(10 R349). The root sent READY and takes none. (log 32, DEDUCED) -/
def State.takeReady (s : State) (cid : Word64) (gen : BitVec 32) (allShift : Bool) : State :=
  match s.compByCid cid with
  | none => s
  | some k =>
    let m := s.comp k
    if m.gen != gen then s.updComp k fun m => { m with stales := satAdd m.stales 1 }
    else if m.st != .joining || m.vmod == 0 then s
    else (s.sendKids k (.ready cid gen)).updComp k fun m =>
      { m with st := .ready, balShift := allShift && s.pwr.shift }

/-- READY. -/
def execReady (cid : Word64) (gen : BitVec 32) (allShift : Bool) (s : State) : Host.Outcome State Fault Refusal :=
  .next (s.takeReady cid gen allShift)

/-- REFUSE arrives. -/
def State.takeRefuse (s : State) (cid : Word64) (vmod : Nat) : State :=
  match s.compByCid cid with
  | some k => if (s.comp k).st == .joining then s.joinFail k vmod else s
  | none => s

/-- REFUSE. -/
def execRefuse (cid : Word64) (vmod : Nat) (s : State) : Host.Outcome State Fault Refusal :=
  .next (s.takeRefuse cid vmod)

/-- JOIN_DEADLINE: the root has not sent READY in 10 s. (log 9, DESIGN CHOICE) -/
def execJoinDeadline (k : Fin 256) (s : State) : Host.Outcome State Fault Refusal :=
  let m := s.comp k.val
  .next (if m.st == .joining && m.vmod == 0 && m.joined.length != m.nmod then s.joinFail k.val 0xFF else s)

/-- MEMBER_JOIN_DEADLINE: no READY in 10.5 s. -/
def execMemberJoinDeadline (k : Fin 256) (s : State) : Host.Outcome State Fault Refusal :=
  .next (if (s.comp k.val).st == .joining then
      s.updComp k.val fun m => { m with st := .failed, joinerr := true }
    else s)

/-! ### Balance (10 R351) -/

/-- BAL: the root keeps a member's last 16 values; at a step whose count is a multiple of 16 a decision is due
with the next start barrier's release. (log 32, DEDUCED) -/
def State.takeBal (s : State) (cid : Word64) (vmod : Nat) (step : BitVec 32) (waited : Nat) : State :=
  match s.compByCid cid with
  | none => s
  | some k =>
    let m := s.comp k
    if !m.balShift || m.vmod != 0 || m.nmod ≤ vmod then s
    else s.updComp k fun m =>
      { m with waits := Tab.upd [] m.waits vmod fun l => (waited :: l).take 16,
               balDue := m.balDue || step.toNat % 16 == 0 }

/-- BAL. -/
def execBal (cid : Word64) (vmod : Nat) (step : BitVec 32) (waited : Nat) (s : State) :
    Host.Outcome State Fault Refusal :=
  .next (s.takeBal cid vmod step waited)

/-- CAPS arrives: the caps a member applies at the next start barrier's release. (log 32, DEDUCED) -/
def State.takeCaps (s : State) (cid : Word64) (caps : List Nat) : State :=
  (match s.compByCid cid with
    | some k => if (s.comp k).balShift then s.updComp k fun m => { m with newCaps := some caps } else s
    | none => s)

/-- CAPS. -/
def execCaps (cid : Word64) (_step : BitVec 32) (caps : List Nat) (s : State) : Host.Outcome State Fault Refusal :=
  .next (s.takeCaps cid caps)

end Sys2Proof.Machine
end

