-- ==== Sys2Proof/Machine/Lathe.lean ====
section
/-! DEFINITION. The step sequencers: frame starts, barriers, and the phases of the step cycle (04 R112-R147,
07 R254, 10 R338-R351, 12 R417). -/

namespace Sys2Proof.Machine

/-! ### Frame starts (04 R113, R126) -/

/-- SCOPE of a barrier-table entry (04 Table 3). -/
def barScope (e : Word64) : Nat := bits e.toNat 1 0
/-- RFI. -/
def barRfi (e : Word64) : Nat := bits e.toNat 39 8
/-- DLINE. -/
def barDline (e : Word64) : Nat := bits e.toNat 55 40

/-- The entry of the barrier a lane has arrived at. -/
def Lane.barrier (L : Lane) : Word64 := Tab.look 0 L.barriers L.barid.toNat

/-- The dies at the other ends of a die's three bridges (01 R24, 04 Table 5). -/
def bridgeDies (d : Nat) : List Nat := [d ^^^ 1, d ^^^ 2, d ^^^ 4]

/-- A lane's barrier word reaches the next die: its mask joins that of the same barrier and step
(04 R126). (log 16, DEDUCED) -/
def State.barrierWordTo (s : State) (d l e : Nat) : State :=
  let L := s.lane d l
  let M := s.lane e l
  if (s.laneComp d l).isSome && s.laneComp d l == s.laneComp e l && L.barid == M.barid
      && L.step.toNat % 2 ^ 16 == M.step.toNat % 2 ^ 16 && (M.dieArrived || !M.arrived.isEmpty)
  then s.updLane e l fun M => { M with mask := M.mask ||| L.mask }
  else s

/-- A lane waits at a composition barrier (10 R351). -/
def Lane.waitsAcross (L : Lane) : Bool := L.dieArrived && barScope L.barrier == 2

/-- FRAME_START: FI advances, the origins' counts start anew, the bound cores' frame energy is counted
(09 Table 8), and the barrier words cross the bridges. -/
def State.frameStart (s : State) (d : Nat) : State :=
  let s := s.updDie d fun x =>
    { x with slotCtr := 0, frames := x.frames + 1
             origins := Tab.mapVals {} (fun _ (o : Origin) => { o with sent := [] }) x.origins
             lanes := Tab.mapVals {} (fun _ (L : Lane) => if L.enable then { L with fi := L.fi + 1 } else L) x.lanes }
  let s := (s.comps.filter fun e => e.2.st != .free).foldl (fun (s : State) e =>
    let n := (e.2.coresOn d).length
    let s := if n = 0 then s else s.updCtx e.2.ctx fun c => { c with dFrames := c.dFrames + n }
    if e.2.rootDie = d ∧ (s.lane d e.2.lane).waitsAcross then s.updComp e.1 fun m => { m with wait := m.wait + 1 } else s) s
  (List.range 8).foldl (fun (s : State) l => (bridgeDies d).foldl (fun (s : State) e => s.barrierWordTo d l e) s) s

/-- FRAME_START. -/
def execFrameStart (die : Fin 8) (s : State) : Host.Outcome State Fault Refusal := .next (s.frameStart die.val)

/-! ### Composition barriers (04 R127, 10 R346, R347) -/

/-- The module's package mask is full on a die. -/
def State.maskFull (s : State) (m : Comp) (d : Nat) : Bool :=
  m.dies.all fun e => bit (s.lane d m.lane).mask.toNat e

/-- The barrier unit a composition sends. -/
def State.barrierUnit (s : State) (k code : Nat) (swap : Bool) : LaneUnit :=
  let m := s.comp k
  let L := s.compLane k
  { code, swap, gen := m.gen, word := barrierWord L.barid.toNat 0xFF m.lane L.step.toNat false }

/-- Send the release down the tree, once (04 R127). -/
def State.releaseDown (s : State) (k : Nat) : State :=
  let m := s.comp k
  let L := s.compLane k
  if L.sentDown then s
  else
    let s := m.kids.foldl (fun (s : State) v =>
      s.sendUnits (s.portsTo m v) (2 * m.lane) (s.barrierUnit k 2 L.swapMark)) s
    s.updLane m.rootDie m.lane fun L => { L with sentDown := true }

/-- The module's part of a composition barrier is complete: the root releases it, another member reports to
its parent; a release that has arrived goes on down (04 R127). The start barrier of a second swap is marked
(10 R347). -/
def State.compArrival (s : State) (k : Nat) : State :=
  let m := s.comp k
  let L := s.compLane k
  if !L.waitsAcross then s
  else if L.relArrived then s.releaseDown k
  else if s.maskFull m m.rootDie && m.kids.all L.children.contains && !L.sentUp then
    let mark := L.swapMark || (L.barid == 0xFF && m.stage == 3)
    let s := s.updLane m.rootDie m.lane fun L =>
      { L with swapMark := mark, sentUp := true, children := L.children.filter fun v => !m.kids.contains v }
    match m.parent with
    | some v => s.sendUnits (s.portsTo m v) (2 * m.lane) (s.barrierUnit k 1 mark)
    | none => (s.updLanes m.dies m.lane fun L => { L with relArrived := true }).releaseDown k
  else s

/-- COMPOSITION_ARRIVAL. -/
def execCompositionArrival (die lane : Fin 8) (s : State) : Host.Outcome State Fault Refusal :=
  .next (match s.laneComp die.val lane.val with
    | some k => s.compArrival k
    | none => s)

/-! ### Release (04 R128) -/

/-- A die's own condition for the release of the barrier it has arrived at. -/
def State.mayRelease (s : State) (m : Comp) (d : Nat) : Bool :=
  let L := s.lane d m.lane
  L.dieArrived && (L.st == .start || L.st == .layers || L.st == .commit) &&
    match barScope L.barrier with
    | 0 => true
    | 1 => s.maskFull m d
    | 2 => L.relArrived
    | _ => false

/-- The lane's registers at a release: FI is raised to RFI, and set to 0 at the start barrier; a release that
finds FI above RFI is late (04 R113, R128). (log 20, DEDUCED) -/
def Lane.release (L : Lane) : Lane :=
  let rfi := barRfi L.barrier
  let late := decide (rfi < L.fi.toNat)
  let L' := if late then L.noteLate else L
  { L' with fi := if L.barid = 0xFF then 0 else BitVec.ofNat 32 (max L.fi.toNat rfi),
            dieArrived := false, arrived := [], relArrived := false, sentUp := false, sentDown := false,
            linkLost := false }

/-- The cores of a die that wait at barrier `b` go on. -/
def State.resume (s : State) (m : Comp) (d : Nat) (b : BitVec 8) : State :=
  (m.coresOn d).foldl (fun (s : State) i =>
    let c := s.core i
    if c.barWait = some b then s.setCore i { c.next with barWait := none } else s) s

/-- A core starts its step program: arrival counters, loop and base registers and OVF are cleared, the PC is
ENTRY, everything else is kept (03 Table 1, 04 Table 1). -/
def Core.startStep (c : Core) : Core :=
  if c.st = .off ∨ c.st = .fenced ∨ c.st = .fault then c
  else { c with st := .run, pc := c.entry, ended := false, barWait := none, refetchUsed := false,
                ctrs := [], loops := [], bases := [], ovf := false, mx := none, vx := none, tx := none }

/-- The layers phase begins on a die (04 R114, R116). -/
def State.startLayers (s : State) (k d : Nat) : State :=
  let m := s.comp k
  let s := s.updLane d m.lane fun L =>
    { L with st := .layers
             spindles := Tab.mapVals {} (fun _ (x : Spindle) =>
               { x with entry := 0, q := 0, issued := 0, nextG := 0, staging := [] }) L.spindles }
  (m.coresOn d).foldl (fun (s : State) i => s.setCore i (s.core i).startStep) s

/-- The start barrier releases on a die: armed tables swap (05 R171), and the step's layers begin; without a
loop it is a pass of a rebind (10 R341). (log 20, DEDUCED) -/
def State.startRelease (s : State) (k d : Nat) : State :=
  let m := s.comp k
  let first := m.stage == 1 || m.stage == 3 || (s.lane m.rootDie m.lane).swapMark || m.newCaps.isSome || m.balDue
  let s := s.meshSwap d m.lane
  let s := if first then s.startSwap k else s
  if (s.comp k).loop.isSome then s.startLayers k d
  else s.updLane d m.lane fun L => { L with st := .draft }

/-- What the release of the commit barrier brings with it on the root die: the count of commit barriers,
the effects waiting for it, and the context's accounting (07 R238, R249, 09 R323). -/
def State.commitEffects (s : State) (k : Nat) : State :=
  let m := s.comp k
  let s := { s with commits := s.commits + 1 }
  let s := match m.img.variant m.variant with
    | some v => { s with models := s.models.map fun (g : Model) =>
        if v.models.contains g.digest then { g with stamp := s.commits } else g }
    | none => s
  (s.applyPending k true).account m.ctx

/-- The commit barrier releases on a die. (log 20, DEDUCED) -/
def State.commitRelease (s : State) (k d : Nat) : State :=
  let m := s.comp k
  let s := s.updLane d m.lane fun L => { L with st := .event, step := L.step + 1 }
  if d = m.rootDie then s.commitEffects k else s

/-- A die releases a barrier. -/
def State.releaseDie (s : State) (k d : Nat) : State :=
  let m := s.comp k
  let L := s.lane d m.lane
  let across := barScope L.barrier == 2
  let s := if d = m.rootDie ∧ across then s.releaseDown k else s
  let s := s.updLane d m.lane Lane.release
  let gen := (s.comp k).gen
  let s := if L.barid = 0xFF then s.startRelease k d
    else if L.barid = 0xFE then s.commitRelease k d
    else s.resume m d L.barid
  if across ∧ (s.comp k).gen = gen then s.updComp k fun m => { m with genBarrier := true } else s

/-- BARRIER_RELEASE. -/
def execBarrierRelease (die lane : Fin 8) (s : State) : Host.Outcome State Fault Refusal :=
  .next (match s.laneComp die.val lane.val with
    | some k => if s.mayRelease (s.comp k) die.val then s.releaseDie k die.val else s
    | none => s)

/-- BARRIER_TIMEOUT (04 R129, 15 R487): `LINK` where a missing arrival belongs to another module or the
lane's links went down, else `SLOT`; a shared unit that fails its self-check resets the module with cause
UNIT. (log 9, DESIGN CHOICE) -/
def execBarrierTimeout (die lane : Fin 8) (remote unitFail : Bool) (s : State) :
    Host.Outcome State Fault Refusal :=
  let (d, l) := (die.val, lane.val)
  let L := s.lane d l
  let e := L.barrier
  .next (if (L.dieArrived || !L.arrived.isEmpty) && decide (barRfi e + barDline e ≤ L.fi.toNat) then
      let link := remote || L.linkLost
      let s := s.laneFault d l 3 1 (if link then .link else .slot) (plocOf d 0xF 0x1F 7 0) L.barid.toNat 0
      let s := s.updLane d l fun L => { L with timeout := true, st := .fault }
      if unitFail && !link then s.resetEntry 9 else s
    else s)

/-! ### The start phase (04 R130-R136, R141; 12 R417, R418) -/

/-- New sampling parameters take effect (08 R279), with their record where none was appended yet.
(log 20, DEDUCED) -/
def State.takeParams (s : State) (k : Nat) : State :=
  match (s.comp k).newParams with
  | none => s
  | some (b, done) =>
    let s := if done then s else s.append k 3 b
    s.updComp k fun m => { m with params := some b, newParams := none }

/-- The ring has less than the reserve free: the loop is to stop (12 R418). -/
def State.guardRing (s : State) (k : Nat) : State :=
  let m := s.comp k
  if (s.recRing k).freeBytes < recReserve then s.updLane m.rootDie m.lane fun L => { L with stop := true } else s

/-- The draft source chosen takes effect (04 Table 7). -/
def State.takeSource (s : State) (k : Nat) : State :=
  let d := (s.compLane k).dsrc.toNat
  s.updComp k fun m => { m with loop := m.loop.map fun lp => { lp with dsrc := d } }

/-- The record another member's root lane has written at the step-header address (17 R533). -/
def State.sentRecord (s : State) (k : Nat) : List Byte :=
  let m := s.comp k
  (s.core ((m.coresOn m.rootDie).headD 0)).scratch.read (s.compLane k).hdrAddr 768

/-- The start phase of a lane whose loop runs. -/
def State.startStep (s : State) (k : Nat) (lp : Loop) : State :=
  let fresh := !(s.comp k).holding
  let s := if fresh then (s.takeParams k).guardRing k |>.takeSource k else s
  let m := s.comp k
  let dsrc := ((m.loop.map (·.dsrc)).getD lp.dsrc)
  if m.vmod = 0 then
    let r := m.newest dsrc
    let s := s.updComp k fun m => { m with drafts := [] }
    let s := if 1 < m.nmod then
        match s.recordSent k r with
        | some b => s.sendRecord k b
        | none => s
      else s
    s.chooseTree k r
  else s.chooseTree k (some (s.sentRecord k))

/-- START_PHASE: of a running loop, or of a pass of a rebind without one (10 R341). -/
def execStartPhase (k : Fin 256) (s : State) : Host.Outcome State Fault Refusal :=
  let k := k.val
  let m := s.comp k
  let L := s.compLane k
  .next (if m.st == .free || L.dieArrived || (s.ctx m.ctx).st == .lost then s
    else
      match m.loop with
      | some lp => if L.st == .start && L.tree.isNone then s.startStep k lp else s
      | none =>
        if (m.stage == 1 || m.stage == 3) && L.st == .idle then
          (s.updLanes m.dies m.lane fun L => { L with st := .start }).arriveAll k 0xFF
        else s)

/-! ### Sample and commit (04 R139-R146) -/

/-- A draw found no candidate: the step does not commit (04 R141). -/
def State.noCandidate (s : State) (k : Nat) : State :=
  let m := s.comp k
  let s := s.laneFault m.rootDie m.lane 4 1 .format (plocOf m.rootDie 0xF 0x1F 7 0) 0 0
  s.updLanes m.dies m.lane fun L => { L with st := .fault }

/-- The root sampler issues the commit word: it reaches every die of the module, and a commit unit goes to
every child module (04 R145, 11 R386). -/
def State.issueCommit (s : State) (k : Nat) (c : CommitW) : State :=
  let m := s.comp k
  let s := s.updLanes m.dies m.lane fun L => { L with st := .commit, commitw := some c }
  m.kids.foldl (fun (s : State) v =>
    s.sendUnits (s.portsTo m v) (2 * m.lane + 1) { code := 3, swap := false, gen := m.gen, word := c.word }) s

/-- SAMPLE_PHASE. A stop request before the commit word ends the loop with END 3 where nothing else ends it
(04 R143, R147). (log 20, DEDUCED) -/
def execSamplePhase (k : Fin 256) (logits : List (List (BitVec 32))) (s : State) :
    Host.Outcome State Fault Refusal :=
  let k := k.val
  let m := s.comp k
  let L := s.compLane k
  .next (match m.loop, L.tree, m.params with
    | some lp, some t, some b =>
      if m.vmod = 0 ∧ L.st = .sample then
        match sample (sparams b) t logits lp.produced with
        | none => s.noCandidate k
        | some w =>
          let endc := if w.endc = 0 ∧ s.stopAsked k then 3 else w.endc
          s.issueCommit k { last := w.last, drop := t.force && !t.last, endc, token := BitVec.ofNat 32 w.token,
                            step := BitVec.ofNat 16 L.step.toNat }
      else s
    | _, _, _ => s)

/-- A die applies the commit word to its slot map, and arrives at the commit barrier (04 R146). -/
def State.applyCommit (s : State) (m : Comp) (d : Nat) (t : Tree) (c : CommitW) : State :=
  let L := s.lane d m.lane
  let path := t.path c.last
  let kept := path.map t.slot
  let put (a : Memory) : Memory := path.foldl (fun a i => a.write (L.mapBase + 4 * (t.base + t.depth i)) (leBytes 4 (t.slot i))) a
  let s := s.updDie d fun x => { x with clusterMem := Tab.upd [] x.clusterMem (m.mapCluster d) put }
  s.updLane d m.lane fun L =>
    ({ L with
      used := L.used.filter fun x => !t.slots.contains x || kept.contains x
      lc := t.base + t.depth c.last + 1
      root := if c.drop then none else some c.token }).arriveOwn d 0xFE

/-- The tokens of the committed path join the history (04 R137). -/
def State.growHistory (s : State) (k : Nat) (t : Tree) (c : CommitW) : State :=
  s.updComp k fun m => { m with history := m.history.take t.base ++ (t.path c.last).map t.token }

/-- The member's waited frames go to the root of a SHIFT composition (10 R351). -/
def State.sendBal (s : State) (k : Nat) : State :=
  let m := s.comp k
  if m.balShift && decide (1 < m.nmod) then
    let step := BitVec.ofNat 32 (s.compLane k).step.toNat
    let s := s.updComp k fun m =>
      { m with wait := 0, waits := Tab.upd [] m.waits m.vmod fun l => (m.wait :: l).take 16,
               balDue := m.balDue || (m.vmod == 0 && step.toNat % 16 == 0) }
    if m.vmod = 0 then s else s.sendGeneral (m.devOf 0) (.bal m.cid step m.wait)
  else s

/-- COMMIT_WORD. -/
def execCommitWord (die lane : Fin 8) (s : State) : Host.Outcome State Fault Refusal :=
  let (d, l) := (die.val, lane.val)
  let L := s.lane d l
  .next (match s.laneComp d l, L.tree, L.commitw with
    | some k, some t, some c =>
      if L.st = .commit ∧ !L.dieArrived ∧ L.barid ≠ 0xFE then
        let m := s.comp k
        let s := s.applyCommit m d t c
        if d = m.rootDie then (s.growHistory k t c).sendBal k else s
      else s
    | _, _, _ => s)

/-! ### The event phase (01 R32, R33, 08 R287-R289, 12 R416, R417) -/

/-- A STEP body (12 Table 3). -/
def stepBody (t : Tree) (c : CommitW) (ntok stamp : Nat) : List Byte :=
  leBytes 1 (t.nodes - 1) ++ leBytes 1 (b2n t.force + 2 * b2n t.last) ++ leBytes 1 t.src ++ leBytes 1 c.last
    ++ leBytes 1 (b2n c.drop + 2 * c.endc) ++ leBytes 1 ntok ++ leBytes 2 0 ++ leBytes 4 c.token.toNat
    ++ leBytes 4 0 ++ leBytes 8 stamp ++ slice (t.parents.map (BitVec.ofNat 8)) 0 128
    ++ t.tokens.flatMap fun x => leBytes 4 x.toNat

/-- Programs that wait for the token event receive its records (01 R32). -/
def State.wakePrograms (s : State) (k : Nat) (l : List Payload) : State :=
  let m := s.comp k
  m.dies.foldl (fun (s : State) d =>
    let u := Tab.look ({} : Ucp) (s.die d).ucps m.lane
    if u.waiting then
      let u : Ucp := { u with waiting := false, buffer := l, a0 := BitVec.ofNat 64 l.length }
      (s.updDie d fun x => { x with ucps := Tab.put {} x.ucps m.lane u }).emit
        (.ecallResult d m.lane (BitVec.ofNat 64 l.length) 0)
    else s) s

/-- The records of a commit barrier follow the STEP record, which holds the event's STAMP, or the MGMT count at
which the event was dropped (12 R417). -/
def State.stepRecords (s : State) (k : Nat) (t : Tree) (c : CommitW) (ntok : Nat) (kept : Bool) : State :=
  let step := (s.compLane k).step.toNat - 1
  let s := s.updRec k fun r => r.append k 5 step t.base (stepBody t c ntok (if kept then s.stamp64 else s.stamp.toNat))
  let s := (s.comp k).heldRecs.foldl (fun (s : State) e => s.updRec k fun r => r.append k 6 e.1 e.2.1 e.2.2) s
  s.updComp k fun m => { m with heldRecs := [] }

/-- The records that precede the next step: BINDING of a second swap at the next start barrier, and PARAMS
(12 R417). -/
def State.nextRecords (s : State) (k : Nat) : State :=
  let s := if (s.comp k).stage = 2 then s.bindingRecord k else s
  match (s.comp k).newParams with
  | some (b, false) => (s.append k 3 b).updComp k fun m => { m with newParams := some (b, true) }
  | _ => s

/-- The event phase of a step: its token event, its records, and the end of the loop where the step or a
dropped event ends it (04 R147, 08 R289), or a supply warning that let the step run this far (14 R460, R461). -/
def State.eventStep (s : State) (k : Nat) (lp : Loop) (t : Tree) (c : CommitW) : State :=
  let m := s.comp k
  let toks := emitted t c
  let step := ((s.compLane k).step.toNat - 1) % 2 ^ 32
  let (pos, s) := if toks.isEmpty then s.fresh else ((if t.force then t.base + t.nodes else t.base + 1), s)
  let l := s.tokenRecords k .ok (pos % 2 ^ 64) c.endc step toks
  let (s, kept) := if m.vmod = 0 then s.tokenEvent k lp l else (s, true)
  let s := if kept && m.vmod == 0 then s.wakePrograms k l else s
  let s := s.stepRecords k t c toks.length kept
  let s := s.updComp k fun m => { m with loop := some { lp with produced := lp.produced + toks.length, dropped := !kept } }
  let s := s.updLanes m.dies m.lane fun L => { L with tree := none, commitw := none }
  if c.endc ≠ 0 then s.endLoop k c.endc
  else if !kept then s.endLoop k 3
  else if lp.warned then s.finalEvent k .ok 3
  else (s.nextRecords k).updLanes m.dies m.lane fun L => { L with st := .draft }

/-- EVENT_PHASE. -/
def execEventPhase (k : Fin 256) (s : State) : Host.Outcome State Fault Refusal :=
  let m := s.comp k.val
  let L := s.compLane k.val
  .next (match m.loop, L.tree, L.commitw with
    | some lp, some t, some c =>
      if m.dies.all fun d => (s.lane d m.lane).st == .event then s.eventStep k.val lp t c else s
    | _, _, _ => s)

/-! ### The draft phase (04 R137, 10 R338, R341) -/

/-- The record of the draft source for the next step. -/
def State.sourceRecord (s : State) (k : Nat) (lp : Loop) (r : Option (List Byte)) : State :=
  let put (s : State) (b : List Byte) : State :=
    s.updComp k fun m => { m with drafts := m.drafts ++ [{ bytes := b, host := false }] }
  if (s.comp k).vmod ≠ 0 then s
  else
    match lp.dsrc with
    | 1 =>
      let (b, bad) := s.lookup k lp
      let s := if bad then s.rejectDraft k else s
      match b with
      | some b => put s b
      | none => s
    | 2 => match r with
      | some b => put s b
      | none => s
    | _ => s

/-- DRAFT_PHASE: the source's part, then the move frames, which carry a rebind's ranges. -/
def execDraftPhase (k : Fin 256) (rcd : Option (List Byte)) (s : State) : Host.Outcome State Fault Refusal :=
  let k := k.val
  let m := s.comp k
  .next (if m.st == .free || m.dies.isEmpty || !(m.dies.all fun d => (s.lane d m.lane).st == .draft) then s
    else
      let s := match m.loop with
        | some lp => s.sourceRecord k lp rcd
        | none => s
      let s := if m.stage = 2 then (s.moveRanges k).updComp k fun m => { m with stage := 3 } else s
      s.updLanes m.dies m.lane fun L => { L with st := if m.loop.isSome then .start else .idle })

end Sys2Proof.Machine
end

