-- ==== Sys2Proof/Machine/Links.lean ====
section
/-! DEFINITION. Link ports: training, their own general messages, rekeying, loss and retraining
(11 R366-R371, R384, R391-R395, R400-R403, R412). -/

namespace Sys2Proof.Machine

/-! ### Training (11 R366, R368-R371) -/

/-- The lanes after the lane test: (excluded lane, spare active), or none with fewer than four passing (11 R366). -/
def laneChoice (pass : BitVec 5) : Option (Nat × Bool) :=
  match (List.range 4).filter fun n => !bit pass.toNat n with
  | [] => some (7, false)
  | [n] => if bit pass.toNat 4 then some (n, true) else none
  | _ => none

/-- A peer's HELLO is acceptable on a port (11 R370). -/
def State.helloOk (s : State) (i dev role : Nat) : Bool :=
  dev != s.route.devid.toNat && !(role == 2 && i != 0 && i != 8) && !(role != 2 && dev == 0x3FFFF)

/-- What a HELLO names, as the port keeps it. -/
def Port.meet (p : Port) (dev peerPort role : Nat) (nonce : Digest) : Port :=
  { p with peerId := BitVec.ofNat 18 dev, peerPort := BitVec.ofNat 4 peerPort, peerRole := BitVec.ofNat 2 role,
           peerNonce := nonce }

/-- The runs of an adapter's port: HOST class, owner 0xC, slots 1-7, 8-14 and 15 (11 R384). -/
def hostRuns : Tab (BitVec 16) :=
  (List.range 15).map fun j =>
    let n := j + 1
    (n, BitVec.ofNat 16 (1 + (if n = 1 ∨ n = 8 ∨ n = 15 then 0 else 2) + 4 * 3 + 32 * 0xC))

/-- The outcome of the lane test on the port's lanes. (log 36, DEDUCED) -/
def Port.tested (p : Port) (pass : BitVec 5) : Port :=
  { p with lanes := (List.range 5).foldl (fun t n => Tab.upd ({} : LinkLane) t n fun (x : LinkLane) =>
      { x with pass := bit pass.toNat n }) p.lanes }

/-- The excluded lane and the DEGRADED mask that LANES reports (11 Table 9). -/
def Port.lanesMsg (p : Port) : GenMsg :=
  .lanes p.excl.toNat (((List.range 5).map fun n => if (Tab.look ({} : LinkLane) p.lanes n).degraded then 2 ^ n else 0).sum)

/-- A port comes UP: epoch 1 and FC 0 in both directions (11 R392), its tables in force, those of an adapter's
port loaded by firmware. (log 36, DEDUCED) -/
def Port.comeUp (p : Port) (excl : Nat) (spare : Bool) (flight : Nat) : Port :=
  let p := { p with st := .up, excl := BitVec.ofNat 3 excl, spare, flight := BitVec.ofNat 8 flight, txEpoch := 1,
                    rxEpoch := 1, txfc := 0, rxfc := 0, txRekey := none, rxRekey := none, authTimes := [],
                    units := Tab.mapVals (noUnit, 0) (fun _ (u : LaneUnit × Nat) => (u.1, 0)) p.units }
  if p.peerRole = 2 then { p with tx := hostRuns, rx := hostRuns, txShadow := hostRuns, rxShadow := hostRuns } else p

/-- LINK_TRAINING: the phases of Table 2 of chapter 11 in their order; the first that fails takes the port DOWN
with its reason. -/
def execLinkTraining (port : Fin 16) (t : LinkTrain) (s : State) : Host.Outcome State Fault Refusal :=
  let i := port.val
  .next (if (s.port i).st != .training || !s.inRun then s
    else
      let s := s.updPort i fun p => p.tested t.pass
      match laneChoice t.pass with
      | none => s.portDown i 2
      | some (excl, spare) =>
        let (nonce, s) := s.fresh
        let s := s.updPort i fun p => { p.meet t.peerId t.peerPort t.peerRole t.peerNonce with nonce := BitVec.ofNat 256 nonce }
        if !s.helloOk i t.peerId t.peerRole then s.portDown i 3
        else if !t.keyOk || s.sec.fs.isNone then s.portDown i 4
        else if 30 < t.flight then s.portDown i 5
        else
          let s := s.updPort i fun p => p.comeUp excl spare t.flight
          let s := s.sendPeer i (s.port i).lanesMsg
          if (i = 0 ∨ i = 8) ∧ s.sb.step.toNat < 3 then { s with sb := { s.sb with step := 3 } } else s)

/-- LINK_TRAINING_TIMEOUT: reason TIMEOUT. -/
def execLinkTrainingTimeout (port : Fin 16) (s : State) : Host.Outcome State Fault Refusal :=
  .next (if (s.port port.val).st == .training then s.portDown port.val 1 else s)

/-- A port begins to train. -/
def Port.train (p : Port) : Port := { p with st := .training }

/-- RETRAIN_DELAY: an enabled port that is DOWN trains again. -/
def execRetrainDelay (port : Fin 16) (s : State) : Host.Outcome State Fault Refusal :=
  let p := s.port port.val
  .next (if s.inRun && p.enable && p.st == .down then s.updPort port.val Port.train else s)

/-! ### The port's own messages (11 R368, R370, R391) -/

/-- A HELLO in training: checked, then kept. -/
def State.takeHello (s : State) (i dev peerPort role : Nat) (nonce : Digest) : State :=
  if (s.port i).st != .training then s
  else if !s.helloOk i dev role then s.portDown i 3
  else s.updPort i fun p => p.meet dev peerPort role nonce

/-- HELLO. -/
def execHello (port : Fin 16) (dev : Nat) (peerPort role : Nat) (nonce : Digest) (s : State) :
    Host.Outcome State Fault Refusal :=
  .next (s.takeHello port.val dev peerPort role nonce)

/-- A port that trains or runs answers an ECHO, naming how long it held it. (log 36, DEDUCED) -/
def State.takeEcho (s : State) (i token hold : Nat) : State :=
  if (s.port i).st == .training || (s.port i).st == .up then s.sendPeer i (.echoAns token hold) else s

/-- ECHO. -/
def execEcho (port : Fin 16) (token hold : Nat) (s : State) : Host.Outcome State Fault Refusal :=
  .next (s.takeEcho port.val token hold)

/-- ECHO_ANS: the flight time is measured; above 30 ns the port goes DOWN with reason LATENCY. -/
def execEchoAns (port : Fin 16) (token hold : Nat) (flight : Nat) (s : State) : Host.Outcome State Fault Refusal :=
  let _ := (token, hold)
  .next (if (s.port port.val).st != .training then s
    else if 30 < flight then s.portDown port.val 5
    else s.updPort port.val fun p => { p with flight := BitVec.ofNat 8 flight })

/-- A peer's report of its lanes. -/
def State.takeLanes (s : State) (i excl degraded : Nat) : State :=
  if (s.port i).st == .up then s.updPort i fun p => { p with peerExcl := excl % 8, peerDegr := degraded % 32 } else s

/-- LANES. -/
def execLanes (port : Fin 16) (excl : Nat) (degraded : Nat) (s : State) : Host.Outcome State Fault Refusal :=
  .next (s.takeLanes port.val excl degraded)

/-! ### Rekeying (11 R392-R394) -/

/-- The receiver's side of a rekey: a REKEY with the next epoch, 16 to 2^20 codewords ahead, is taken. -/
def State.takeRekey (s : State) (i : Nat) (epoch : BitVec 32) (fcsw : Nat) : State :=
  let p := s.port i
  if p.st == .up && epoch == p.rxEpoch + 1 && decide (p.rxfc.toNat + 16 ≤ fcsw) && decide (fcsw ≤ p.rxfc.toNat + 2 ^ 20) then
    s.updPort i fun p => { p with rxRekey := some fcsw }
  else s

/-- REKEY. -/
def execRekey (port : Fin 16) (epoch : BitVec 32) (fcsw : Nat) (s : State) : Host.Outcome State Fault Refusal :=
  .next (s.takeRekey port.val epoch fcsw)

/-- The transmitter's side: REKEY goes out, and the switch is 64 frames ahead. Nothing happens while one is
pending. -/
def State.startRekey (s : State) (i : Nat) : State :=
  let p := s.port i
  if p.st == .up && p.txRekey.isNone then
    let sw := 16 * (p.txfc.toNat / 16 + 64)
    (s.updPort i fun p => { p with txRekey := some sw }).sendPeer i (.rekey (p.txEpoch + 1) sw)
  else s

/-- REKEY_START. -/
def execRekeyStart (port : Fin 16) (s : State) : Host.Outcome State Fault Refusal := .next (s.startRekey port.val)

/-- FC_THRESHOLD. -/
def execFcThreshold (port : Fin 16) (s : State) : Host.Outcome State Fault Refusal :=
  .next (if 2 ^ 47 ≤ (s.port port.val).txfc.toNat then s.startRekey port.val else s)

/-- COUNTER_EXHAUSTED: the next frame would take FC to 2^48 before a rekey takes effect; reason COUNTER. -/
def execCounterExhausted (port : Fin 16) (s : State) : Host.Outcome State Fault Refusal :=
  let p := s.port port.val
  let saved := match p.txRekey with
    | some f => decide (f < 2 ^ 48)
    | none => false
  .next (if p.st == .up && decide (2 ^ 48 ≤ p.txfc.toNat + 16) && !saved then s.portDown port.val 9 else s)

/-! ### Loss (11 R400-R402) and control writes (11 Table 12) -/

/-- A verified DOWN: reason PEER. -/
def State.takeDown (s : State) (i : Nat) : State := if (s.port i).st == .up then s.portDown i 7 else s

/-- DOWN. -/
def execDown (port : Fin 16) (reason : Fin 16) (s : State) : Host.Outcome State Fault Refusal :=
  let _ := reason
  .next (s.takeDown port.val)

/-- CONTROL_SILENCE: reason SILENT. -/
def execControlSilence (port : Fin 16) (s : State) : Host.Outcome State Fault Refusal :=
  .next (if (s.port port.val).st == .up then s.portDown port.val 8 else s)

/-- LOCK_LOSS: the spec gives the loss of lock no reason code, so DOWNRSN takes a free value. (log 36, DEDUCED) -/
def execLockLoss (port : Fin 16) (s : State) : Host.Outcome State Fault Refusal :=
  .next (if (s.port port.val).st == .up then s.fresh.2.portDown port.val s.fresh.1 else s)

/-- A write of `LNK_CTL.RETRAIN`: DOWN with reason DISABLED is sent, and the port trains again after its delay. -/
def State.retrain (s : State) (i : Nat) : State :=
  match (s.port i).st with
  | .up => (s.sendDown i 10).portDown i 10
  | .training => s.portDown i 10
  | _ => s

/-- RETRAIN. -/
def execRetrain (port : Fin 16) (s : State) : Host.Outcome State Fault Refusal := .next (s.retrain port.val)

/-- A write of `LNK_CTL.ENABLE`. (log 36, DEDUCED) -/
def State.linkEnable (s : State) (i : Nat) (on : Bool) : State :=
  let p := s.port i
  let s := s.updPort i fun p => { p with enable := on }
  if on then
    if !p.enable && (p.st == .down || p.st == .off) && s.inRun then s.updPort i Port.train else s
  else if p.st != .down then s.portDown i 10
  else s

/-- LINK_ENABLE_WRITE. -/
def execLinkEnableWrite (port : Fin 16) (on : Bool) (s : State) : Host.Outcome State Fault Refusal :=
  .next (s.linkEnable port.val on)

end Sys2Proof.Machine
end

