-- ==== Sys2Proof/Machine/Recorder.lean ====
section
/-! DEFINITION. Commands of the replay recorder: fetching a record, epoch marks, checkpoints, orphaned rings and
their release (12 R417-R428, 17 R538). -/

namespace Sys2Proof.Machine

/-! ### RECORD_FETCH (12 R420) -/

/-- The longest prefix of whole records within `n` bytes, and the first record that does not fit. -/
def takeWhole (n : Nat) : List Rec → List Byte × Option Rec
  | [] => ([], none)
  | x :: l =>
    if x.bytes.length ≤ n then
      let r := takeWhole (n - x.bytes.length) l
      (x.bytes ++ r.1, r.2)
    else ([], some x)

/-- What a fetch from step `n` writes, and the STEP of the first record that it does not write. -/
def RecRing.fetch (r : RecRing) (n len : Nat) : List Byte × Nat :=
  let t := takeWhole len (r.recs.dropWhile fun x => decide (x.step.toNat < n))
  (t.1, match t.2 with
    | some x => x.step.toNat
    | none => r.nextStep)

/-- Records whose STEP is below `n` are released. -/
def RecRing.releaseBelow (r : RecRing) (n : Nat) : RecRing :=
  { r with recs := r.recs.filter fun x => decide (n ≤ x.step.toNat) }

/-- RECORD_FETCH. (log 33, DEDUCED) -/
def execRecordFetch (q : Fin 4096) (s : State) : Host.Outcome State Fault Refusal :=
  .next (s.descr q.val 0x4C [(16, 8), (24, 8), (32, 4)]
    (fun b => al64 b 24 && field b 32 4 % 64 == 0 && decide (4096 ≤ field b 32 4)) noDenied fun s st =>
      let k := st.comp
      let n := field st.b 16 8
      let r := s.recRing k
      if (s.comp k).st != .ready || decide (r.nextStep < n) then s.complete q.val .state
      else
        let w := r.fetch n (field st.b 32 4)
        (s.updRec k fun r => r.releaseBelow n).sendOut q.val (field st.b 24 8) w.1 .ok
          (BitVec.ofNat 256 (w.1.length + 2 ^ 64 * w.2)))

/-! ### EPOCH_MARK (12 R417, R418) -/

/-- A MARK record goes to a ring whose composition is READY and that has at least 64 KiB free. (log 33, DEDUCED) -/
def State.markRing (s : State) (v : Word64) (k : Nat) : State :=
  if (s.comp k).st = .ready ∧ recReserve ≤ (s.recRing k).freeBytes then
    s.append k 7 (leBytes 8 v.toNat ++ leBytes 8 s.stamp64)
  else s

/-- EPOCH_MARK: later event records carry the low 16 bits of the value (08 Table 9). -/
def execEpochMark (q : Fin 4096) (s : State) : Host.Outcome State Fault Refusal :=
  .next (s.descr q.val 0x0A [(16, 8)] (fun _ => true) noDenied fun s st =>
    let v := BitVec.ofNat 64 (field st.b 16 8)
    let s := { s with mark := v }
    ((s.comps.map Prod.fst).foldl (fun (s : State) k => s.markRing v k) s).complete q.val .ok)

/-! ### Checkpoints (12 R419, 17 R538) -/

/-- The signature that the identity key makes has a random salt (12 R419): 384 bytes the spec leaves open.
(log 33, DEDUCED) -/
def State.signature (s : State) : List Byte × State :=
  if s.sec.idHeld then (leBytes 384 s.fresh.1, s.fresh.2) else (List.replicate 384 0, s)

/-- Append the oldest checkpoint due to a ring (12 Table 3). Its STEP and POS are those of the composition, and
of the record before it in a ring without one. (log 33, DEDUCED) -/
def State.checkpoint (s : State) (k : Nat) : State :=
  let r := s.recRing k
  match r.due with
  | [] => s
  | (seq, chain) :: rest =>
    let (sig, s) := s.signature
    let body := leBytes 8 seq ++ leBytes 32 chain.toNat ++ leBytes 8 r.cid.toNat ++ leBytes 3 s.route.devid.toNat
      ++ leBytes 1 1 ++ leBytes 4 s.sec.fwver.toNat
    let body := slice body 0 64 ++ sig
    let (step, pos) := if (s.comp k).st = .free then
        (match r.recs.getLast? with
          | some x => (x.step.toNat, field x.bytes 24 8)
          | none => (0, 0))
      else ((s.compLane k).step.toNat, (s.compLane k).lc)
    s.updRec k fun r => { r.append k 8 step pos body with due := rest }

/-- CHECKPOINT. -/
def execCheckpoint (k : Fin 256) (s : State) : Host.Outcome State Fault Refusal := .next (s.checkpoint k.val)

/-! ### Orphaned rings (12 R421, R422, R428) -/

/-- ORPHAN_CLOSE: after READY, a CLOSE record with REASON 3 goes to an orphaned ring that does not end with one,
and the checkpoints due follow. -/
def execOrphanClose (k : Fin 256) (s : State) : Host.Outcome State Fault Refusal :=
  let r := s.recRing k.val
  .next (if r.orphan && s.hif.ready && !r.closed && !r.recs.isEmpty then
      let (step, pos) := match r.recs.getLast? with
        | some x => (x.step.toNat, field x.bytes 24 8)
        | none => (0, 0)
      let s := s.updRec k.val fun r => r.append k.val 9 step pos [3, 0, 0, 0]
      (s.recRing k.val).due.foldl (fun (s : State) _ => s.checkpoint k.val) s
    else s)

/-- A write of `REC_CTL.RELEASE`: the selected orphaned ring is emptied; a ring that is not orphaned sets
WIGN. -/
def State.recRelease (s : State) : State :=
  s.updRec s.recIndex.toNat fun r => if r.orphan then { wign := r.wign } else { r with wign := true }

/-- RELEASE. -/
def execRelease (s : State) : Host.Outcome State Fault Refusal := .next s.recRelease

end Sys2Proof.Machine
end

