-- ==== Sys2Proof/Machine/Pool.lean ====
section
/-! DEFINITION. The KV pool: sessions and their ownership at a member, the two-phase hand-off, disputes, and the
pool map of a compute module (10 R352-R362, 15 R506, 17 R536). -/

namespace Sys2Proof.Machine

/-! ### Sessions at a member (10 R352, R353) -/

/-- A session of a SID. -/
def State.session (s : State) (sid : Word64) : Session := Tab.look {} s.pool.sessions sid.toNat

/-- Change a session. -/
def State.updSession (s : State) (sid : Word64) (f : Session → Session) : State :=
  { s with pool := { s.pool with sessions := Tab.upd {} s.pool.sessions sid.toNat f } }

/-- The module is a pool member that serves (10 R352, 15 R506). -/
def State.member (s : State) : Bool := s.sb.role && s.inRun

/-- The module's own device ID. -/
def State.devId (s : State) : Nat := s.route.devid.toNat

/-- Session bytes held or being received. -/
def State.poolUsed (s : State) : Nat :=
  (s.pool.sessions.map fun e => match e.2.offered with
    | some o => max e.2.bytes.length o.2.2
    | none => e.2.bytes.length).sum

/-- `n` more session bytes fit in tier M (10 Table 10). -/
def State.poolSpace (s : State) (n : Nat) : Bool :=
  decide (s.poolUsed + n ≤ (s.workingDies.map (Config.tierBytes 1)).sum)

/-- A SID whose session was discarded by a tenant switch, or lost with tier M (15 R506, 17 R536).
(log 34, DEDUCED) -/
def State.goneSid (s : State) (sid : Word64) : Bool :=
  s.pool.discarded.contains sid.toNat || (s.pool.amnesia && (s.session sid).own == Own.none && (s.session sid).offered.isNone)

/-- Answer GONE. -/
def State.sayGone (s : State) (dest : Nat) : State := s.sendGeneral dest (.gone s.devId)

/-- The reason for which the member refuses an entry on a session that must be owned (10 Table 10).
(log 34, DEDUCED) -/
def Session.refuses (x : Session) (mgen epoch : BitVec 32) : Nat :=
  if mgen.toNat < x.mgen.toNat then 1
  else match x.own with
    | .lost _ => 9
    | .own e => if e = epoch then 0 else 2
    | _ => 3

/-- CREATE at the member: the reason of a refusal, 0 when accepted. (log 34, DEDUCED) -/
def State.memCreate (s : State) (sid : Word64) (mgen : BitVec 32) (bytes : List Byte) : State × Nat :=
  let x := s.session sid
  if mgen.toNat < x.mgen.toNat then (s, 1)
  else match x.own with
    | .lost _ => (s, 9)
    | .own _ | .prep _ _ | .given _ _ => (s, 3)
    | .none | .dropped _ =>
      if s.poolSpace bytes.length then
        ((s.updSession sid fun _ => { mgen, own := .own 1, bytes }), 0)
      else (s, 7)

/-- ATTACH at the member. (log 34, DEDUCED) -/
def State.memAttach (s : State) (att : Nat) (sid : Word64) (mgen epoch : BitVec 32) (len lease : Nat) : State × Nat :=
  let x := s.session sid
  let r := x.refuses mgen epoch
  if r ≠ 0 then (s, r)
  else if x.attacher.isSome && x.attacher != some att then (s, 4)
  else if x.bytes.length < len then (s, 10)
  else ((s.updSession sid fun x => { x with mgen, attacher := some att, leaseMs := lease }), 0)

/-- Session bytes with a prefix replaced, extended where it is longer (10 R356). -/
def patchBytes (old new : List Byte) : List Byte := new ++ old.drop new.length

/-- SYNC at the member, and DETACH, which ends the attachment with it. (log 34, DEDUCED) -/
def State.memSync (s : State) (att : Nat) (sid : Word64) (mgen epoch : BitVec 32) (bytes : List Byte)
    (lease : Option Nat) : State × Nat :=
  let x := s.session sid
  let r := x.refuses mgen epoch
  if r ≠ 0 then (s, r)
  else if x.attacher != some att then (s, 5)
  else if !s.poolSpace (bytes.length - x.bytes.length) then (s, 7)
  else
    let s := s.updSession sid fun x => { x with mgen, bytes := patchBytes x.bytes bytes }
    match lease with
    | some l => ((s.updSession sid fun x => { x with leaseMs := l }), 0)
    | none => ((s.updSession sid fun x => { x with attacher := none, leaseMs := 0 }), 0)

/-- DROP at the member. (log 34, DEDUCED) -/
def State.memDrop (s : State) (sid : Word64) (mgen epoch : BitVec 32) : State × Nat :=
  let x := s.session sid
  let r := x.refuses mgen epoch
  if r ≠ 0 then (s, r)
  else if x.attacher.isSome || x.target.isSome then (s, 6)
  else ((s.updSession sid fun x => { x with mgen, own := .dropped epoch, bytes := [] }), 0)

/-- HANDOFF at the owning member: the offer and the session bytes go to the target (10 Table 11 step 1).
(log 35, DEDUCED) -/
def State.memHandoff (s : State) (sid : Word64) (mgen epoch : BitVec 32) (target : Nat) : State × Nat :=
  let x := s.session sid
  let r := x.refuses mgen epoch
  if r ≠ 0 then (s, r)
  else if x.attacher.isSome || x.target.isSome then (s, 6)
  else
    let s := s.updSession sid fun x => { x with mgen, target := some target, commits := 0, resolving := false }
    let s := s.sendGeneral target (.offer sid (epoch + 1) mgen x.bytes.length)
    (s.sendPool target sid (epoch + 1) x.bytes, 0)

/-- The epoch of the record a session holds. -/
def Session.epoch (x : Session) : BitVec 32 :=
  match x.own with
  | .own e | .prep e _ | .given e _ | .dropped e | .lost e => e
  | .none => 0

/-- RESOLVE at a party: a RESOLVE goes to `peer`, or the record already decides (10 R360, R361). The result says
whether the entry waits for the answer. -/
def State.memResolve (s : State) (sid : Word64) (mgen : BitVec 32) (peer : Nat) : State × Nat × Bool :=
  let x := s.session sid
  if mgen.toNat < x.mgen.toNat then (s, 1, false)
  else
    let ask (s : State) : State :=
      (s.updSession sid fun x => { x with mgen, resolving := true }).sendGeneral peer (.resolve sid x.epoch)
    match x.own with
    | .lost _ => (s, 9, false)
    | .prep _ _ => (ask s, 0, true)
    | .given _ _ => if x.target.isSome then (ask s, 0, true) else (s.updSession sid fun x => { x with mgen }, 0, false)
    | .own _ => (s.updSession sid fun x => { x with mgen }, 0, false)
    | _ => (s, 3, false)

/-- The other party of a session's hand-off. -/
def Session.party (x : Session) : Option Nat :=
  match x.own with
  | .prep _ a => some a
  | .given _ b => some b
  | _ => x.target

/-! ### POOL_MAP (10 R354-R356) -/

/-- An entry's 64 bytes. -/
def poolEntry (l : List Byte) (i : Nat) : List Byte := slice l (64 * i) 64
/-- OP of an entry. -/
def enOp (e : List Byte) : Nat := field e 20 1
/-- SID of an entry. -/
def enSid (e : List Byte) : Word64 := BitVec.ofNat 64 (field e 0 8)
/-- MGEN of an entry. -/
def enMgen (e : List Byte) : BitVec 32 := BitVec.ofNat 32 (field e 8 4)
/-- EPOCH of an entry. -/
def enEpoch (e : List Byte) : BitVec 32 := BitVec.ofNat 32 (field e 12 4)
/-- MEMBER of an entry. -/
def enMember (e : List Byte) : Nat := field e 16 4
/-- HANDLE of an entry. -/
def enHandle (e : List Byte) : Nat := field e 24 4
/-- TARGET of an entry. -/
def enTarget (e : List Byte) : Nat := field e 28 4
/-- OFFSET of an entry. -/
def enOff (e : List Byte) : Nat := field e 32 8
/-- LEN of an entry. -/
def enLen (e : List Byte) : Nat := field e 40 8
/-- LEASEMS of an entry. -/
def enLease (e : List Byte) : Nat := field e 48 4
/-- The entry moves object bytes. -/
def enObj (e : List Byte) : Bool := decide (1 ≤ enOp e) && decide (enOp e ≤ 4)

/-- An entry is well formed, and its OP is one the module's role accepts (10 R352, R354, R355). -/
def entryOk (member : Bool) (dev : Nat) (e : List Byte) : Bool :=
  field e 8 4 != 0 && decide (enMember e < 2 ^ 18) && decide (enTarget e < 2 ^ 18)
    && decide (1 ≤ enOp e) && decide (enOp e ≤ 7) && field e 21 3 == 0 && field e 52 12 == 0
    && (enOp e != 1 || field e 12 4 == 1)
    && (!enObj e || enOff e % 64 == 0 && enLen e % 64 == 0 && decide (64 ≤ enLen e) && decide (enLen e ≤ 2 ^ 40))
    && (!(decide (1 ≤ enOp e) && decide (enOp e ≤ 3)) || decide (1 ≤ enLease e) && decide (enLease e ≤ 600000))
    && (!member || decide (5 ≤ enOp e) && enMember e == dev)

/-- The range of an entry lies in the object its handle names, where that is live. -/
def State.entryRange (s : State) (k : Nat) (e : List Byte) : Bool :=
  !enObj e || match s.compObj k (enHandle e) with
    | some a => decide (enOff e + enLen e ≤ 2 ^ 16 * (s.objAt a (enHandle e)).n)
    | none => true

/-- The handle of an entry is live in the composition. -/
def State.entryLive (s : State) (k : Nat) (e : List Byte) : Bool := !enObj e || (s.compObj k (enHandle e)).isSome

/-- `POOL_LAST` names the refused entry (10 Table 22): the capture is written when VALID is clear (18 R550). -/
def State.poolRefused (s : State) (i reason member : Nat) : State :=
  if s.pool.lastValid then s
  else { s with pool := { s.pool with lastEntry := BitVec.ofNat 8 i, lastReason := BitVec.ofNat 8 reason,
                                      lastMember := BitVec.ofNat 18 member, lastValid := true } }

/-- A pool fault for one composition (10 Table 14). -/
def State.poolFault (s : State) (k code member addr : Nat) : State :=
  s.ctxFault (s.comp k).ctx (s.comp k).rootDie 9 code .pool (some k) member addr

/-- The compositions with an entry attached at a member. -/
def State.poolUsers (s : State) (dev : Nat) : List Nat :=
  (s.comps.filter fun e => e.2.st != .free && e.2.attached.any fun a => a.2.1 == dev).map Prod.fst

/-- A member is lost to the module (10 R362). -/
def State.loseMember (s : State) (dev : Nat) (also : Option Nat) : State :=
  let ks := s.poolUsers dev
  let ks := match also with
    | some k => if ks.contains k then ks else ks ++ [k]
    | none => ks
  ks.foldl (fun (s : State) k => s.poolFault k 1 dev 0) s

/-- The HOSTOP body of an entry carried out (12 Table 3). -/
def State.entryRecord (s : State) (k : Nat) (e : List Byte) (dig : Digest) : List Byte :=
  let o := match s.compObj k (enHandle e) with
    | some a => s.objAt a (enHandle e)
    | none => {}
  if enObj e then hostopBody 0x4D .ok false false o.vdie o.tier (enOp e) (enHandle e) (enOff e) (enLen e) dig
  else hostopBody 0x4D .ok false false 0 0 (enOp e) 0 0 0 0

/-- An entry accepted by a member takes effect on a compute module (10 R356): `bytes` are the session bytes of an
ATTACH. -/
def State.entryDone (s : State) (k : Nat) (e : List Byte) (bytes : List Byte) : State :=
  match s.compObj k (enHandle e) with
  | none => s.append k 6 (s.entryRecord k e 0)
  | some a =>
    let h := enHandle e
    let l := s.objRead a h (enOff e) (enLen e)
    match enOp e with
    | 1 => (s.sendPool (enMember e) (enSid e) 1 l).append k 6 (s.entryRecord k e 0)
    | 2 =>
      let b := slice bytes 0 (enLen e)
      let s := (s.objWrite a h (enOff e) b).updComp k fun m =>
        { m with attached := (m.attached.filter fun x => x.1 != enSid e) ++ [(enSid e, enMember e, h)] }
      s.append k 6 (s.entryRecord k e (sha256 b))
    | 3 => (s.sendPool (enMember e) (enSid e) (enEpoch e) l).append k 6 (s.entryRecord k e (sha256 l))
    | 4 =>
      let s := (s.sendPool (enMember e) (enSid e) (enEpoch e) l).updComp k fun m =>
        { m with attached := m.attached.filter fun x => x.1 != enSid e }
      s.append k 6 (s.entryRecord k e (sha256 l))
    | _ => s.append k 6 (s.entryRecord k e 0)

/-- A member refuses an entry: later entries have no effect, and the POOL_MAP completes with `POOL`. An
unreachable member is lost, and so is an attached session it reports LOST (10 R362). -/
def State.poolFail (s : State) (q : Nat) (k : Option Nat) (e : List Byte) (i reason : Nat) : State :=
  let s := (s.poolRefused i reason (enMember e)).complete q .pool
  match k with
  | none => s
  | some k =>
    if reason = 8 then s.loseMember (enMember e) (some k)
    else if reason = 9 ∧ (s.comp k).attached.any (fun x => x.1 == enSid e) then
      (s.poolUsers (enMember e)).foldl (fun (s : State) k => s.poolFault k 2 (enMember e) (enSid e).toNat) s
    else s

/-- Carry out the entries of a compute module's POOL_MAP in order. -/
def State.poolRun (q k : Nat) : List (List Byte) → List (PoolReason × List Byte) → Nat → State → State
  | [], _, _, s => s.complete q .ok
  | e :: es, ans, i, s =>
    let a := (ans.head?).getD (8, [])
    if a.1 ≠ 0 then s.poolFail q (some k) e i a.1
    else State.poolRun q k es (ans.drop 1) (i + 1) (s.entryDone k e a.2)

/-- Carry out the entries of a member's POOL_MAP in order: a hand-off or a dispute holds the rest back until it
is settled. (log 34, DEDUCED) -/
def State.memberRun (q : Nat) : List (List Byte) → Nat → State → State
  | [], _, s => s.complete q .ok
  | e :: es, i, s =>
    let sid := enSid e
    let wait (s : State) : State :=
      (s.updSession sid fun x => { x with jobs := x.jobs ++ [(q, i)] }).updQueue q fun x => { x with started := true }
    match enOp e with
    | 5 =>
      let (s, r) := s.memDrop sid (enMgen e) (enEpoch e)
      if r ≠ 0 then s.poolFail q none e i r else State.memberRun q es (i + 1) s
    | 6 =>
      let (s, r) := s.memHandoff sid (enMgen e) (enEpoch e) (enTarget e)
      if r ≠ 0 then s.poolFail q none e i r else wait s
    | _ =>
      let (s, r, w) := s.memResolve sid (enMgen e) (((s.session sid).party).getD 0)
      if r ≠ 0 then s.poolFail q none e i r
      else if w then wait s
      else State.memberRun q es (i + 1) s

/-- A POOL_MAP goes on after the entry it waited for, or completes with `POOL`. -/
def State.resumeMap (s : State) (q i reason : Nat) : State :=
  match (s.queue q).front with
  | some a =>
    let l := (s.queue q).buf
    if a.op != 0x4D then s
    else if reason ≠ 0 then s.poolFail q none (poolEntry l i) i reason
    else
      let n := field a.bytes 24 4
      State.memberRun q ((List.range (n - (i + 1))).map fun j => poolEntry l (i + 1 + j)) (i + 1) s
  | none => s

/-- The hand-off or dispute of a session is settled: the POOL_MAPs that wait for it go on. -/
def State.settleJob (s : State) (sid : Word64) (reason : Nat) : State :=
  let l := (s.session sid).jobs
  let s := s.updSession sid fun x => { x with jobs := [] }
  l.foldl (fun (s : State) j => s.resumeMap j.1 j.2 reason) s

/-- POOL_MAP (10 R333, R352, R355; 12 R418): every entry is checked before one takes effect. (log 34, DEDUCED) -/
def execPoolMap (q : Fin 4096) (answers : List (PoolReason × List Byte)) (s : State) : Host.Outcome State Fault Refusal :=
  .next (s.descr q.val 0x4D [(16, 8), (24, 4)]
    (fun b => al64 b 16 && decide (1 ≤ field b 24 4) && decide (field b 24 4 ≤ 256)) noDenied
    (fun s st =>
      let k := st.comp
      let n := field st.b 24 4
      let busy := decide (k < 256) && ((s.comp k).st != .ready || (s.comp k).loop.isSome)
      if (s.queue q.val).started then s
      else
        s.withData q.val (64 * n) (failed := if busy then .state else .link) fun l =>
          let es := (List.range n).map fun i => poolEntry l i
          if !(es.all fun e => entryOk s.sb.role s.devId e && s.entryRange k e) then s.complete q.val .format
          else if s.sb.role then State.memberRun q.val es 0 s
          else if busy || !(es.all fun e => s.entryLive k e) then s.complete q.val .state
          else if !s.recRoom k (128 * n) then s.complete q.val .limit
          else State.poolRun q.val k es answers 0 s)
    (fun s b => !s.sb.role || field b 12 2 == 0xFFFF && field b 8 4 == 0))

/-! ### Entries as a member receives them (10 R356) -/

/-- A discarded or lost session is answered with GONE, and an entry on any other by `f`. -/
def State.asMember (s : State) (att : Nat) (sid : Word64) (f : State → State) : State :=
  if !s.member then s else if s.goneSid sid then s.sayGone att else f s

/-- CREATE. -/
def execCreate (attacher : Nat) (sid : Word64) (mgen : BitVec 32) (bytes : List Byte) (s : State) :
    Host.Outcome State Fault Refusal :=
  let _ := attacher
  .next (if s.member then
      let r := s.memCreate sid mgen bytes
      if r.2 = 0 then { r.1 with pool := { r.1.pool with discarded := r.1.pool.discarded.filter (· != sid.toNat) } } else s
    else s)

/-- ATTACH: the session bytes go to the attaching module. -/
def execAttach (attacher : Nat) (sid : Word64) (mgen epoch : BitVec 32) (len leaseMs : Nat) (s : State) :
    Host.Outcome State Fault Refusal :=
  .next (s.asMember attacher sid fun s =>
    let r := s.memAttach attacher sid mgen epoch len leaseMs
    if r.2 = 0 then r.1.sendPool attacher sid epoch ((r.1.session sid).bytes.take len) else s)

/-- SYNC. -/
def execSync (attacher : Nat) (sid : Word64) (mgen epoch : BitVec 32) (leaseMs : Nat) (bytes : List Byte) (s : State) :
    Host.Outcome State Fault Refusal :=
  .next (s.asMember attacher sid fun s => (s.memSync attacher sid mgen epoch bytes (some leaseMs)).1)

/-- DETACH. -/
def execDetach (attacher : Nat) (sid : Word64) (mgen epoch : BitVec 32) (bytes : List Byte) (s : State) :
    Host.Outcome State Fault Refusal :=
  .next (s.asMember attacher sid fun s => (s.memSync attacher sid mgen epoch bytes none).1)

/-- DROP. -/
def execDrop (sid : Word64) (mgen epoch : BitVec 32) (s : State) : Host.Outcome State Fault Refusal :=
  .next (if s.member then (s.memDrop sid mgen epoch).1 else s)

/-- HANDOFF. -/
def execHandoff (sid : Word64) (mgen epoch : BitVec 32) (target : Nat) (s : State) : Host.Outcome State Fault Refusal :=
  .next (if s.member then (s.memHandoff sid mgen epoch target).1 else s)

/-- RESOLVE. -/
def execResolve (sid : Word64) (mgen : BitVec 32) (peer : Nat) (s : State) : Host.Outcome State Fault Refusal :=
  .next (if s.member then (s.memResolve sid mgen peer).1 else s)

/-! ### The hand-off (10 R358, Table 11) -/

/-- The last offered byte has arrived: PREP is written and acknowledged (step 2). -/
def State.prepared (s : State) (sid : Word64) (src : Nat) (epoch : BitVec 32) : State :=
  (s.updSession sid fun x => { x with own := .prep epoch src, offered := none, resolving := false }).sendGeneral src
    (.prepAck sid epoch)

/-- OFFER at the receiving member. One without space for it answers ABORT; an older acknowledged record stands
until PREP replaces it, and a session owned here or a newer record ends the offer. (log 35, DEDUCED) -/
def State.takeOffer (s : State) (src : Nat) (sid : Word64) (epoch mgen : BitVec 32) (len : Nat) : State :=
  let x := s.session sid
  let newer := match x.own with
    | .none => false
    | .own _ => true
    | _ => decide (epoch.toNat ≤ x.epoch.toNat)
  if !s.member then s
  else if s.goneSid sid then s.sayGone src
  else if newer then s
  else if mgen.toNat < x.mgen.toNat || !s.poolSpace len then s.sendGeneral src (.abort sid epoch)
  else
    let s := s.updSession sid fun x => { x with mgen, offered := some (src, epoch.toNat, len), bytes := [] }
    if len = 0 then s.prepared sid src epoch else s

/-- OFFER. -/
def execOffer (src : Nat) (sid : Word64) (epoch mgen : BitVec 32) (len : Nat) (s : State) : Host.Outcome State Fault Refusal :=
  .next (s.takeOffer src sid epoch mgen len)

/-- Session bytes of a pool block are placed at its offset. -/
def placeBytes (old : List Byte) (off : Nat) (new : List Byte) : List Byte :=
  slice old 0 off ++ new ++ old.drop (off + new.length)

/-- POOL_BLOCK: bytes of the offer being received; the last one completes it. -/
def State.takePool (s : State) (src : Nat) (p : PoolData) : State :=
  if !s.member then s
  else if s.goneSid p.sid then s.sayGone src
  else
    match (s.session p.sid).offered with
    | some (a, e, len) =>
      if a = src ∧ e = p.epoch.toNat ∧ p.off + p.data.length ≤ len then
        let s := s.updSession p.sid fun x => { x with bytes := placeBytes x.bytes p.off p.data }
        if p.off + p.data.length = len then s.prepared p.sid src p.epoch else s
      else s
    | none => s

/-- POOL_BLOCK. -/
def execPoolBlock (src : Nat) (p : PoolData) (s : State) : Host.Outcome State Fault Refusal := .next (s.takePool src p)

/-- PREP_ACK at the offering member: GIVEN is written, the bytes are read-only from here on, and COMMIT goes out
(step 4). -/
def State.takePrepAck (s : State) (src : Nat) (sid : Word64) (epoch : BitVec 32) : State :=
  let x := s.session sid
  if s.member && x.target == some src && x.own == Own.own (epoch - 1) then
    (s.updSession sid fun x => { x with own := .given epoch src, commits := 1 }).sendGeneral src (.commit sid epoch)
  else s

/-- PREP_ACK. -/
def execPrepAck (src : Nat) (sid : Word64) (epoch : BitVec 32) (s : State) : Host.Outcome State Fault Refusal :=
  .next (s.takePrepAck src sid epoch)

/-- COMMIT at the receiving member (step 5); a repeated COMMIT is acknowledged again. -/
def State.takeCommit (s : State) (src : Nat) (sid : Word64) (epoch : BitVec 32) : State :=
  let x := s.session sid
  if s.member && (x.own == Own.prep epoch src || x.own == Own.own epoch) then
    (s.updSession sid fun x => { x with own := .own epoch, resolving := false }).sendGeneral src (.commitAck sid epoch)
  else s

/-- COMMIT. -/
def execCommit (src : Nat) (sid : Word64) (epoch : BitVec 32) (s : State) : Host.Outcome State Fault Refusal :=
  .next (s.takeCommit src sid epoch)

/-- The receiver owns the session: the offerer deletes the bytes, keeps GIVEN, and its HANDOFF completes
(step 6). -/
def State.handedOff (s : State) (sid : Word64) : State :=
  let s := s.updSession sid fun x => { x with bytes := [], target := none, commits := 0, resolving := false }
  let s := { s with pool := { s.pool with handoffs := satAdd s.pool.handoffs 1 } }
  s.settleJob sid 0

/-- COMMIT_ACK at the offering member. -/
def State.takeCommitAck (s : State) (src : Nat) (sid : Word64) (epoch : BitVec 32) : State :=
  let x := s.session sid
  if s.member && x.target == some src && x.own == Own.given epoch src then s.handedOff sid else s

/-- COMMIT_ACK. -/
def execCommitAck (src : Nat) (sid : Word64) (epoch : BitVec 32) (s : State) : Host.Outcome State Fault Refusal :=
  .next (s.takeCommitAck src sid epoch)

/-- The offerer gives a hand-off up before any PREP_ACK: ABORT goes out, OWN stays (10 R358). (log 35, DEDUCED) -/
def State.giveUp (s : State) (sid : Word64) (reason : Nat) : State :=
  let x := s.session sid
  match x.own, x.target with
  | .own e, some b =>
    let s := (s.updSession sid fun x => { x with target := none }).sendGeneral b (.abort sid (e + 1))
    s.settleJob sid reason
  | _, _ => s

/-- ABORT: the receiver discards its PREP or what it has received; the offerer whose offer is turned away for
want of space gives it up. -/
def State.takeAbort (s : State) (src : Nat) (sid : Word64) (epoch : BitVec 32) : State :=
  let x := s.session sid
  if !s.member then s
  else if x.own == Own.prep epoch src then
    s.updSession sid fun x => { x with own := .none, bytes := [], resolving := false }
  else if x.offered.any fun o => o.1 == src && o.2.1 == epoch.toNat then
    s.updSession sid fun x => { x with offered := none, bytes := [] }
  else if x.target == some src && x.own == Own.own (epoch - 1) then s.giveUp sid 7
  else s

/-- ABORT. -/
def execAbort (src : Nat) (sid : Word64) (epoch : BitVec 32) (s : State) : Host.Outcome State Fault Refusal :=
  .next (s.takeAbort src sid epoch)

/-- PREP_ACK_TIMEOUT. -/
def execPrepAckTimeout (sid : Word64) (s : State) : Host.Outcome State Fault Refusal :=
  .next (if s.member then s.giveUp sid 8 else s)

/-- COMMIT_RESEND: three times again, then RESOLVE. (log 35, DEDUCED) -/
def execCommitResend (sid : Word64) (s : State) : Host.Outcome State Fault Refusal :=
  let x := s.session sid
  .next (match x.own, x.target with
    | .given e b, some _ =>
      if !s.member || x.resolving then s
      else if x.commits < 4 then
        (s.updSession sid fun x => { x with commits := x.commits + 1 }).sendGeneral b (.commit sid e)
      else (s.updSession sid fun x => { x with resolving := true }).sendGeneral b (.resolve sid e)
    | _, _ => s)

/-! ### Disputes (10 R359-R361) -/

/-- A RESOLVE is due: a PREP that has seen no COMMIT, or a GIVEN already resolving. -/
def State.askAgain (s : State) (sid : Word64) : State :=
  let x := s.session sid
  match x.own with
  | .prep e a => (s.updSession sid fun x => { x with resolving := true }).sendGeneral a (.resolve sid e)
  | .given e b => if x.resolving && x.target.isSome then s.sendGeneral b (.resolve sid e) else s
  | _ => s

/-- RESOLVE_TIMER. -/
def execResolveTimer (sid : Word64) (s : State) : Host.Outcome State Fault Refusal :=
  .next (if s.member then s.askAgain sid else s)

/-- The acknowledged record of a session as RESOLVE_ANS carries it (10 R359, 11 Table 9). (log 35, DEDUCED) -/
def Own.answer : Own → Nat × BitVec 32 × Nat
  | .own e => (1, e, 0)
  | .given e b => (2, e, b)
  | _ => (0, 0, 0)

/-- RESOLVE: the party answers with its highest acknowledged record. (log 35, DEDUCED) -/
def State.takeResolve (s : State) (src : Nat) (sid : Word64) : State :=
  if !s.member then s
  else if s.goneSid sid then s.sayGone src
  else
    let a := (s.session sid).own.answer
    s.sendGeneral src (.resolveAns sid a.1 a.2.1 a.2.2)

/-- RESOLVE_MESSAGE. -/
def execResolveMessage (src : Nat) (sid : Word64) (epoch : BitVec 32) (s : State) : Host.Outcome State Fault Refusal :=
  let _ := epoch
  .next (s.takeResolve src sid)

/-- A dispute is decided (10 Table 21). -/
def State.countResolve (s : State) : State :=
  { s with pool := { s.pool with resolves := satAdd s.pool.resolves 1 } }

/-- RESOLVE_ANS: a PREP becomes OWN when the deciding record gives the session to this module, and is discarded
otherwise; a GIVEN is settled by the OWN it gave (10 R360). -/
def State.takeAnswer (s : State) (src : Nat) (sid : Word64) (kind : Nat) (epoch : BitVec 32) (dev : Nat) : State :=
  let x := s.session sid
  if !s.member || kind = 0 then s
  else
    match x.own with
    | .prep e a =>
      if a ≠ src then s
      else if kind = 2 ∧ epoch = e ∧ dev = s.devId then
        let s := (s.updSession sid fun x => { x with own := .own e, resolving := false }).sendGeneral src (.commitAck sid e)
        s.countResolve.settleJob sid 0
      else
        (s.updSession sid fun x => { x with own := .none, bytes := [], resolving := false }).countResolve.settleJob sid 0
    | .given e b =>
      if x.target = some src ∧ b = src ∧ kind = 1 ∧ epoch = e then s.countResolve.handedOff sid else s
    | _ => s

/-- RESOLVE_ANS. -/
def execResolveAns (src : Nat) (sid : Word64) (kind : Nat) (epoch : BitVec 32) (dev : Nat) (s : State) :
    Host.Outcome State Fault Refusal :=
  .next (s.takeAnswer src sid kind epoch dev)

/-- RESOLVE_DEADLINE: the party writes LOST, and a HANDOFF that still executes completes with reason 0x09. -/
def execResolveDeadline (sid : Word64) (s : State) : Host.Outcome State Fault Refusal :=
  let x := s.session sid
  let undecided := match x.own with
    | .prep _ _ => true
    | .given _ _ => x.target.isSome
    | _ => false
  .next (if s.member && x.resolving && undecided then
      let s := s.updSession sid fun x => { x with own := .lost x.epoch, bytes := [], target := none, resolving := false }
      let s := { s with pool := { s.pool with losts := satAdd s.pool.losts 1 } }
      s.settleJob sid 9
    else s)

/-! ### Leases and lost members (10 R357, R362) -/

/-- LEASE_END: the member ends the attachment. (log 9, DESIGN CHOICE) -/
def execLeaseEnd (sid : Word64) (s : State) : Host.Outcome State Fault Refusal :=
  .next (if s.member then s.updSession sid fun x => { x with attacher := none, leaseMs := 0 } else s)

/-- ATTACHING_MODULE_LEASE_END: the module no longer counts the entry as attached. -/
def execAttachingModuleLeaseEnd (sid : Word64) (s : State) : Host.Outcome State Fault Refusal :=
  let f (m : Comp) : Comp := { m with attached := m.attached.filter fun x => x.1 != sid }
  .next { s with comps := Tab.mapVals {} (fun _ m => f m) s.comps }

/-- GONE. -/
def execGone (dev : Nat) (s : State) : Host.Outcome State Fault Refusal := .next (s.loseMember dev none)

/-- MEMBER_UNREACHABLE. -/
def execMemberUnreachable (dev : Nat) (s : State) : Host.Outcome State Fault Refusal := .next (s.loseMember dev none)

end Sys2Proof.Machine
end

