-- ==== Sys2Proof/Machine/DumpOps.lean ====
section
/-! DEFINITION. The layout of a dump slot (15 R497, R498) and the window that shows it (15 R508, R510). -/

namespace Sys2Proof.Machine

/-- Sections with their offset in the slot of their die: one after another, on die 0 behind the header. `used`
counts the bytes taken on each die. (log 44, DEDUCED) -/
def placeSections : List (Nat × Nat × List Byte) → (Nat → Nat) → List (Nat × Nat × Nat × List Byte)
  | [], _ => []
  | (k, d, l) :: t, used =>
    (k, d, used d, l) :: placeSections t fun x => if x = d then used d + l.length else used x

/-- The sections of a dump as they lie in the slots. -/
def Dump.placed (x : Dump) : List (Nat × Nat × Nat × List Byte) :=
  placeSections x.sections fun d => if d = 0 then 4096 else 0

/-- The directory (15 Table 6): up to 252 entries. (log 44, DEDUCED) -/
def Dump.directory (x : Dump) : List Byte :=
  slice ((x.placed.take 252).flatMap fun e =>
    leBytes 1 e.1 ++ leBytes 1 e.2.1 ++ leBytes 2 0 ++ leBytes 4 e.2.2.2.length ++ leBytes 8 e.2.2.1) 0 4032

/-- The dump header (15 Table 6). -/
def Dump.header (x : Dump) : List Byte :=
  leBytes 4 0x504D5544 ++ leBytes 2 1 ++ leBytes 1 x.cause ++ leBytes 1 x.kind ++ leBytes 4 x.resets
    ++ leBytes 4 x.absent ++ leBytes 8 x.stamp ++ leBytes 8 0
    ++ leBytes 32 (sha256 (x.directory ++ x.sections.flatMap fun e => e.2.2)).toNat ++ x.directory

/-- The byte at an offset of the slot on a die. -/
def Dump.byte (x : Dump) (d o : Nat) : Byte :=
  if d = 0 ∧ o < 4096 then (x.header[o]?).getD 0
  else
    match x.placed.find? fun e => e.2.1 == d && decide (e.2.2.1 ≤ o) && decide (o < e.2.2.1 + e.2.2.2.length) with
    | some e => (e.2.2.2[o - e.2.2.1]?).getD 0
    | none => 0

/-- A record of the module fault log as a 64-byte FAULT event record (15 R498). -/
def State.faultRecord (s : State) (m : FaultMsg) : List Byte :=
  leBytes 1 4 ++ leBytes 1 m.status.code ++ leBytes 2 0 ++ leBytes 2 m.ctx ++ leBytes 2 m.die ++ leBytes 6 m.stamp
    ++ leBytes 2 s.mark.toNat ++ faultBytes m false

/-- The last `n` records of the module fault log (15 R498, R500). -/
def State.faultSection (s : State) (n : Nat) : List Byte :=
  (s.faultLog.drop (s.faultLog.length - n)).flatMap s.faultRecord

/-- The dump a slot shows. (log 44, DEDUCED) -/
def Rst.shown (x : Rst) (slot : Bool) : Option Dump := if slot then x.shown1 else x.shown0

/-- Eight bytes of the dump window (15 R508); 0 for an invalid slot. -/
def Rst.window (x : Rst) (o : Nat) : Nat :=
  match x.shown x.selSlot with
  | none => 0
  | some m => leNat ((List.range 8).map fun i => m.byte x.selDie.toNat (4096 * x.selPage.toNat + o + i))

/-- `DUMP_STAT.PLOSS`: the newest dump shown is a power-loss dump (15 R500). -/
def Rst.ploss (x : Rst) : Bool :=
  match x.shown x.shownNewest with
  | some m => bit m.kind 1
  | none => false

end Sys2Proof.Machine
end

