-- ==== Sys2Proof/Machine/Regs.lean ====
section
/-! DEFINITION. The configuration space: addresses, aliases and the value of every register (18 R541-R551 and
the register tables of chapters 02 to 16). -/

namespace Sys2Proof.Machine

/-! ### Addresses (18 R541-R543, R549) -/

/-- A register of the module: its block, its place and its offset in the block. -/
inductive RegId where
  /-- A core by its key. -/
  | core (k o : Nat)
  | router (d r o : Nat)
  | mesh (d o : Nat)
  | lane (d l o : Nat)
  | stop (d : Nat) (c : StopClass) (i o : Nat)
  | memsec (d o : Nat)
  /-- A link port by its module-wide number. -/
  | link (p o : Nat)
  | thr (d o : Nat)
  | fmc (d o : Nat)
  | cfg (o : Nat)
  | hif (o : Nat)
  | ctx (c o : Nat)
  | comp (k o : Nat)
  | pool (o : Nat)
  | route (o : Nat)
  | recorder (o : Nat)
  | sec (o : Nat)
  | pwr (o : Nat)
  | rst (o : Nat)
  | sb (o : Nat)
  deriving DecidableEq, Repr

/-- `lo ≤ o < hi`. -/
def inR (o lo hi : Nat) : Bool := decide (lo ≤ o) && decide (o < hi)

/-- A register, or a byte of a window or table, stands at an offset of its block. -/
def RegId.valid : RegId → Bool
  | .core _ o => decide (o ≤ 0x20)
  | .router _ _ o => decide (o < 0xA20)
  | .mesh _ o => decide (o ≤ 0x18) || inR o 0x400 0x800
  | .lane _ _ o => decide (o ≤ 0x20)
  | .stop _ c _ o => decide (o ≤ 0x18) || (c != .f && inR o 0x100 0x110)
  | .memsec _ o => decide (o ≤ 0x18)
  | .link _ o => decide (o ≤ 0x30) || inR o 0x40 0x68 || inR o 0x100 0x120 || inR o 0x180 0x1A0 || inR o 0x400 0x480
  | .thr _ o => decide (o ≤ 0x10)
  | .fmc _ o => decide (o ≤ 0x18)
  | .cfg o => decide (o ≤ 0x10) || o == 0x40
  | .hif o => decide (o ≤ 0x30) || inR o 0x1000 0x2000
  | .ctx _ o => decide (o ≤ 0x48)
  | .comp _ o => decide (o ≤ 0x20)
  | .pool o => decide (o ≤ 0x10)
  | .route o => decide (o < 0xA00) || o == 0x1000 || o == 0x1008
  | .recorder o => decide (o ≤ 0x18) || inR o 0x1000 0x2000
  | .sec o => decide (o ≤ 0x38) || inR o 0x200 0x388
  | .pwr o => decide (o ≤ 0x28)
  | .rst o => decide (o ≤ 0x20) || inR o 0x1000 0x2000
  | .sb o => decide (o ≤ 0x10)

/-- The indices that a field of an aliased address selects: every one for the value `every`, or the one it names. -/
def pick (n every i : Nat) : List Nat := if i = every then List.range n else if i < n then [i] else []

/-- The stops of a class that a stop index of a die selects (06 R225). -/
def pickStop (m : MemSec) (c : StopClass) (i : Nat) : List Nat :=
  let n := stopCount c
  let g := match c with
    | .h => m.hmask.toNat
    | .m => m.mmask.toNat
    | .f => m.fmask.toNat
  if i = 0xFE then (List.range n).filter fun j => bit g j else pick n 0xFF i

/-- The registers at an offset of a die's window, and whether an aliased index names them (18 Tables 2 and 3).
(log 19, DESIGN CHOICE) -/
def State.dieRegs (s : State) (d off : Nat) : Bool × List RegId :=
  let x := off % 0x100000
  let stops (c : StopClass) : Bool × List RegId :=
    (decide (0xFE ≤ x / 0x1000), (pickStop (s.die d).memsec c (x / 0x1000)).map fun i => .stop d c i (x % 0x1000))
  if inR off 0x1000000 0x2000000 then
    let y := off - 0x1000000
    let (c, k) := (y / 0x10000, y % 0x10000 / 0x800)
    (c == 0xFF || k == 0x1F,
      (pick 10 0xFF c).flatMap fun cl => (pick 26 0x1F k).map fun i => .core (coreKey d cl i) (y % 0x800))
  else if inR off 0x2300000 0x2301000 then (false, [.mesh d (off - 0x2300000)])
  else if inR off 0x2800000 0x2810000 then
    let y := off - 0x2800000
    (y / 0x100 == 0xFF, (pick 8 0xFF (y / 0x100)).map fun l => .lane d l (y % 0x100))
  else if inR off 0x3000000 0x3100000 then stops .h
  else if inR off 0x3100000 0x3200000 then stops .m
  else if inR off 0x3200000 0x3300000 then stops .f
  else if inR off 0x3300000 0x3301000 then (false, [.memsec d (off - 0x3300000)])
  else if inR off 0x3400000 0x3500000 then
    let y := off - 0x3400000
    (y / 0x1000 == 0xFF, (pick 2 0xFF (y / 0x1000)).map fun i => .link (2 * d + i) (y % 0x1000))
  else if inR off 0x3500000 0x3501000 then (false, [.thr d (off - 0x3500000)])
  else if inR off 0x3600000 0x3601000 then (false, [.fmc d (off - 0x3600000)])
  else if inR off 0x2000000 0x4000000 then
    let y := off - 0x2000000
    let (c, r) := (y / 0x20000, y % 0x20000 / 0x1000)
    (c == 0xFF || r == 0x1F,
      (pick 10 0xFF c).flatMap fun cl => (pick 30 0x1F r).map fun i => .router d (routerAt cl (i % 6) (i / 6)) (y % 0x1000))
  else (false, [])

/-- The register at an offset of the module-common blocks (18 Table 4). -/
def commonReg (off : Nat) : Option RegId :=
  let b := off / 0x10000
  let o := off % 0x10000
  match b with
  | 0 => some (.cfg o)
  | 1 => some (.hif o)
  | 2 | 3 => if off - 0x20000 < 0x20000 then some (.ctx ((off - 0x20000) / 0x80) (off % 0x80)) else none
  | 4 => if o < 0x4000 then some (.comp (o / 0x40) (o % 0x40)) else none
  | 5 => some (.pool o)
  | 6 => some (.route o)
  | 7 => some (.recorder o)
  | 8 => some (.sec o)
  | 9 => some (.pwr o)
  | 10 => some (.rst o)
  | 11 => some (.sb o)
  | _ => none

/-- What an aligned address names. -/
inductive Target where
  | unmapped
  /-- The window of a die reported as failed (18 R542). -/
  | dead
  /-- One register by its own address. -/
  | one (r : RegId)
  /-- An aliased access to the registers selected (18 R543). -/
  | many (l : List RegId)
  deriving DecidableEq, Repr

/-- Resolve an address of the configuration space (18 R541-R543). -/
def State.resolve (s : State) (a : Nat) : Target :=
  let window (ds : List Nat) (off : Nat) : Target :=
    let mapped (d : Nat) : Bool := (s.dieRegs d off).2.any RegId.valid || (s.dieRegs d off).1 && (s.dieRegs d off).2.isEmpty
    if ds.isEmpty then (if mapped 0 then .many [] else .unmapped)
    else if ds.any mapped then .many ((ds.flatMap fun d => (s.dieRegs d off).2).filter RegId.valid)
    else .unmapped
  if a < 0x20000000 then
    let d := a / 0x4000000
    let r := s.dieRegs d (a % 0x4000000)
    if !(s.die d).working then .dead
    else if r.1 then (if r.2.isEmpty || r.2.any RegId.valid then .many (r.2.filter RegId.valid) else .unmapped)
    else
      match r.2 with
      | x :: _ => if x.valid then .one x else .unmapped
      | [] => .unmapped
  else if a < 0x30000000 then
    match commonReg (a - 0x20000000) with
    | some r => if r.valid then .one r else .unmapped
    | none => .unmapped
  else if a < 0x34000000 then window ((List.range 8).filter fun d => (s.die d).working) (a - 0x30000000)
  else if a < 0x38000000 then
    window ((List.range 8).filter fun d => (s.die d).working && bit s.cfg.dmask.toNat d) (a - 0x34000000)
  else .unmapped

/-! ### Values -/

/-- A register value from its fields: (lowest bit, value). -/
def pack (l : List (Nat × Nat)) : Nat := (l.map fun f => f.2 * 2 ^ f.1).sum

/-- Four 16-bit table entries. -/
def pack4 (t : Tab (BitVec 16)) (k : Nat) : Nat :=
  pack ((List.range 4).map fun i => (16 * i, (Tab.look 0 t (k + i)).toNat))

/-- Code of `CORE_STAT.STATE`. (log 19, DESIGN CHOICE) -/
def CoreState.code : CoreState → Nat
  | .off => 0 | .fenced => 1 | .idle => 2 | .run => 3 | .fault => 4
/-- Code of `LATHE_LSTAT.STATE`. -/
def LaneState.code : LaneState → Nat
  | .idle => 0 | .start => 1 | .layers => 2 | .sample => 3 | .commit => 4 | .event => 5 | .draft => 6 | .fault => 7
/-- Code of `STOP_STAT.STATE`. -/
def StopState.code : StopState → Nat
  | .off => 0 | .training => 1 | .ready => 2 | .selfref => 3 | .failed => 4
/-- Code of `LNK_STAT.STATE`. -/
def PortState.code : PortState → Nat
  | .off => 0 | .training => 1 | .up => 2 | .down => 3
/-- Code of a context's state (09 Table 1). -/
def CtxState.code : CtxState → Nat
  | .closed => 0 | .opened => 1 | .active => 2 | .lost => 3
/-- Code of a composition's state (10 Table 4). -/
def CompState.code : CompState → Nat
  | .free => 0 | .joining => 1 | .ready => 2 | .rebind => 3 | .failed => 4

/-- Core registers (03 Tables 11-15). -/
def Core.reg (c : Core) (o : Nat) : Nat :=
  match o with
  | 0x00 => pack [(0, b2n c.enable), (1, b2n c.fence), (4, c.entry.toNat)]
  | 0x08 => pack [(0, c.st.code), (3, b2n c.mx.isSome), (4, b2n c.vx.isSome), (5, b2n c.tx.isSome), (6, b2n c.ovf),
      (7, b2n c.wign), (8, c.pc.toNat)]
  | 0x10 => pack [(0, c.fault.status.toNat), (8, c.fault.code.toNat), (16, c.fault.pc.toNat),
      (28, c.fault.engine.toNat), (30, b2n c.fault.valid), (31, b2n c.fault.more), (32, c.fault.info.toNat)]
  | 0x18 => pack [(0, c.mismatch.toNat), (32, c.refetched.toNat)]
  | 0x20 => c.corr.toNat
  | _ => 0

/-- Router registers and slot tables (05 R187, Tables 12-15). -/
def Router.reg (r : Router) (o : Nat) : Nat :=
  if o < 0xA00 then pack4 (if r.view then r.active else r.shadow) (256 * (o / 0x200) + o % 0x200 / 2)
  else
    match o with
    | 0xA00 => pack [(0, b2n r.bypass), (1, b2n r.view)]
    | 0xA08 => pack [(0, b2n r.failed), (1, b2n r.bypassed), (2, b2n r.bypfail), (3, b2n r.pwr)]
    | 0xA10 => pack [(0, r.fault.code.toNat), (8, r.fault.port.toNat), (11, r.fault.cycle.toNat),
        (19, r.fault.owner.toNat), (23, b2n r.fault.valid), (24, b2n r.fault.more)]
    | 0xA18 => pack [(0, r.corr.toNat), (32, r.uncorr.toNat)]
    | _ => 0

/-- Mesh control registers (05 Tables 16-19, R189). -/
def Die.meshReg (x : Die) (o : Nat) : Nat :=
  let c := x.ctl
  if 0x400 ≤ o then (Tab.look 0 x.bcnt ((o - 0x400) / 8)).toNat
  else
    match o with
    | 0x00 => pack [(6, c.base.toNat)]
    | 0x08 => pack [(1, b2n c.busy), (2, b2n c.err), (8, c.errcode.toNat), (16, c.errrec.toNat)]
    | 0x10 => pack [(0, b2n c.arm), (1, c.lane.toNat), (4, b2n c.done), (5, b2n c.refused)]
    | 0x18 => pack [(0, c.vRouter.toNat), (9, c.vPort.toNat), (12, c.vCycle.toNat), (20, c.vOwner.toNat),
        (24, c.vClass.toNat), (27, c.vKind.toNat), (30, b2n c.vValid), (31, b2n c.wign), (32, c.count.toNat)]
    | _ => 0

/-- Lathe lane registers (04 Tables 13-17). -/
def Lane.reg (L : Lane) (o : Nat) : Nat :=
  match o with
  | 0x00 => pack [(0, b2n L.enable), (1, b2n L.stop), (2, L.dsrc.toNat), (4, L.rfw.toNat)]
  | 0x08 => pack [(0, L.st.code), (3, L.barid.toNat), (11, b2n L.late), (12, b2n L.timeout)]
  | 0x10 => pack [(0, L.fi.toNat), (32, L.step.toNat % 2 ^ 32)]
  | 0x18 => pack [(0, L.drej.toNat), (16, L.latec.toNat), (32, L.rfuse.toNat)]
  | 0x20 => pack [(0, L.f.toNat), (32, L.bound.toNat), (48, L.theta.toNat)]
  | _ => 0

/-- Memory stop registers (06 Tables 12-16): the owner registers read as they were last written. -/
def MemStop.reg (t : MemStop) (o : Nat) : Nat :=
  match o with
  | 0x000 => pack [(0, b2n t.enable), (2, b2n t.scrub)]
  | 0x008 => pack [(0, t.st.code), (3, b2n t.wign), (4, t.lanes.toNat), (12, t.rows.toNat), (20, t.temp.toNat)]
  | 0x010 => pack [(0, t.corr.toNat), (32, t.uncorr.toNat), (48, b2n t.uev), (49, b2n t.margin)]
  | 0x018 => pack [(0, t.ueaddr.toNat), (41, t.ueowner.toNat)]
  | 0x100 => t.own0Shadow.toNat
  | 0x108 => t.own1Shadow.toNat
  | _ => 0

/-- The region that `MEM_EPOCHSEL` selects. -/
def Die.selRegion (x : Die) : Region :=
  let t := Tab.look ({} : MemStop) (if x.memsec.selTier then x.mstops else x.hstops) x.memsec.selStop.toNat
  Tab.look {} t.regions x.memsec.selRegion.toNat

/-- Memory security registers (06 Tables 17-20). -/
def Die.secReg (x : Die) (o : Nat) : Nat :=
  let m := x.memsec
  match o with
  | 0x00 => pack [(0, b2n m.sealedNext), (1, b2n m.sealed)]
  | 0x08 => pack [(0, m.hmask.toNat), (8, m.mmask.toNat), (11, m.fmask.toNat)]
  | 0x10 => pack [(0, b2n m.selTier), (1, m.selStop.toNat), (4, m.selRegion.toNat)]
  | 0x18 => pack [(0, x.selRegion.epoch.toNat), (32, b2n x.selRegion.withdrawn), (48, m.withdrawn.toNat)]
  | _ => 0

/-- The control entry of every link table: VALID, CLASS 5, OWNER 0xC (11 R379). -/
def lkControl : BitVec 16 := 0x195

/-- A link table as software reads it: entry 0 is the fixed control entry (11 Table 19). -/
def lkShown (t : Tab (BitVec 16)) : Tab (BitVec 16) := Tab.put 0 t 0 lkControl

/-- Link port registers (11 Tables 12-19). -/
def Port.reg (p : Port) (o : Nat) : Nat :=
  if inR o 0x40 0x68 then
    let n := Tab.look ({} : LinkLane) p.lanes ((o - 0x40) / 8)
    pack [(0, n.symerr.toNat), (32, b2n n.pass), (33, b2n n.degraded)]
  else if inR o 0x100 0x120 then pack4 (lkShown p.tx) ((o - 0x100) / 2)
  else if inR o 0x180 0x1A0 then pack4 (lkShown p.rx) ((o - 0x180) / 2)
  else if inR o 0x400 0x480 then (Tab.look 0 p.bcnt ((o - 0x400) / 8)).toNat
  else
    match o with
    | 0x00 => pack [(0, b2n p.enable), (3, b2n p.mgmtin)]
    | 0x08 => pack [(0, p.st.code), (2, p.downrsn.toNat), (6, p.excl.toNat), (9, b2n p.spare), (10, b2n p.wign),
        (16, p.peerId.toNat), (34, p.peerPort.toNat), (38, p.peerRole.toNat), (40, p.flight.toNat)]
    | 0x10 => pack [(0, p.txEpoch.toNat), (32, p.rxEpoch.toNat)]
    | 0x18 => p.txfc.toNat
    | 0x20 => pack [(0, p.corr.toNat), (32, p.uncorr.toNat), (48, p.auth.toNat)]
    | 0x28 => pack [(0, p.mismatch.toNat), (16, p.ctldrop.toNat), (32, p.losses.toNat)]
    | 0x30 => p.lmap.toNat
    | _ => 0

/-- Throttle registers (14 Tables 14-16). -/
def Throttle.reg (t : Throttle) (o : Nat) : Nat :=
  match o with
  | 0x00 => pack [(0, t.level.toNat), (7, b2n t.sat), (8, t.temp.toNat), (16, t.pdie.toNat)]
  | 0x08 => pack [(0, t.units.toNat), (32, t.droops.toNat)]
  | 0x10 => pack [(0, t.vmin.toNat), (16, (t.vmin + 60).toNat), (32, t.vlow.toNat)]
  | _ => 0

/-- FMC registers (14 Tables 17-20). -/
def Fmc.reg (f : Fmc) (o : Nat) : Nat :=
  match o with
  | 0x00 => pack [(0, f.gsrc.toNat), (4, f.gcyc.toNat)]
  | 0x08 => pack [(0, f.msrc.toNat), (5, b2n f.busy), (6, b2n f.done), (7, b2n f.wign)]
  | 0x10 => f.count.toNat
  | 0x18 => pack [(0, b2n f.qualified), (1, f.run.toNat), (8, f.badwin.toNat), (16, f.lastdev.toNat)]
  | _ => 0

/-- The value of `ARITH_ID` (02 Table 11). -/
def arithId : Nat := pack [(0, 0x01), (8, 0x0FFF), (24, 0xC0), (32, 0x10), (40, 0x20)]

/-- A bit set of indices. -/
def bitSet (n : Nat) (f : Nat → Bool) : Nat := ((List.range n).map fun i => if f i then 2 ^ i else 0).sum

/-- Configuration registers (18 Tables 5-7, 02 Table 11). -/
def State.cfgReg (s : State) (o : Nat) : Nat :=
  match o with
  | 0x00 => pack [(0, s.cfg.unmapped.toNat), (32, bitSet 8 fun d => (s.die d).working)]
  | 0x08 => s.cfg.dmask.toNat
  | 0x10 => pack [(0, b2n s.cfg.same), (16, s.cfg.nsel.toNat)]
  | 0x40 => arithId
  | _ => 0

/-! ### The capability table (08 R291, Table 12) -/

/-- The values of the keys that stay as they were built at READY. -/
def State.fixedCaps (s : State) : List (Nat × Nat) :=
  let ready (t : Tab MemStop) (n : Nat) : Nat :=
    ((List.range n).filter fun i => (Tab.look ({} : MemStop) t i).st == .ready).length
  let per (base : Nat) (f : Nat → Die → Nat) : List (Nat × Nat) :=
    (List.range 8).map fun d => (base + d, if (s.die d).working then f d (s.die d) else 0)
  [(0x0001, 1), (0x0002, 0x36352D3858415856), (0x0003, s.sec.fwver.toNat + 2 ^ 32 * Config.fwBuild.toNat),
   (0x0004, arithId), (0x0010, 4096), (0x0011, 1024), (0x0012, 512), (0x0013, 65536), (0x0014, 8), (0x0015, 4095),
   (0x0016, 16384), (0x0017, 4), (0x0018, 128), (0x0019, 1048576),
   (0x0020, ((List.range 8).filter fun d => (s.die d).working).length)]
  ++ per 0x0100 (fun _ x => pack [(0, x.clusters.length), (4, x.stew.good.length), (8, ready x.hstops 8),
      (16, ready x.mstops 3), (19, ready x.fstops 2)])
  ++ per 0x0110 (fun _ x => bitSet 64 fun i => (Tab.look ({} : MemStop) x.hstops (i / 8)).st == .ready)
  ++ per 0x0120 (fun d _ => Config.tierBytes 0 d)
  ++ per 0x0130 (fun d _ => Config.tierBytes 1 d)
  ++ per 0x0140 (fun d _ => Config.tierBytes 2 d)

/-- The values of the live keys as they stand. -/
def State.liveCaps (s : State) : List (Nat × Nat) :=
  [(0x0005, s.sec.state),
   (0x0006, pack [(0, b2n (s.die 0).memsec.sealed), (1, b2n s.pwr.shift), (2, b2n s.rst.pset), (3, b2n s.sb.role),
      (4, b2n s.pwr.pinned), (8, s.pwr.theta.toNat)]),
   (0x0007, s.route.devid.toNat),
   (0x0021, pack [(0, bitSet 16 fun p => (s.port p).st == .up), (16, bitSet 16 fun p => (s.port p).st == .up && (s.port p).spare)]),
   (0x0022, pack [(0, b2n (s.portUp false)), (1, b2n (s.portUp true))])]

/-- The capability table in ascending KEY order, without END; empty until it is built at READY. -/
def State.capTable (s : State) : List (Nat × Nat) :=
  if s.caps.isEmpty then []
  else
    (s.caps.map fun e => (e.1.toNat, e.2.toNat)) ++ s.liveCaps |>.mergeSort fun a b => decide (a.1 ≤ b.1)

/-- The table as bytes, END included. -/
def State.capBytes (s : State) : List Byte :=
  (s.capTable.flatMap fun e => leBytes 8 e.1 ++ leBytes 8 e.2) ++ List.replicate 16 0

/-- Host interface registers and the capability window (08 Tables 13-19). -/
def State.hifReg (s : State) (o : Nat) : Nat :=
  let h := s.hif
  if 0x1000 ≤ o then field s.capBytes (o - 0x1000) 8
  else
    match o with
    | 0x00 => b2n h.enable
    | 0x08 => pack [(0, b2n h.ready), (1, b2n (s.portUp false)), (2, b2n (s.portUp true)), (3, b2n h.wign)]
    | 0x10 => pack [(12, h.aqBase.toNat)]
    | 0x18 => pack [(0, h.qlog2n.toNat), (5, h.elog2n.toNat), (10, b2n h.port), (16, h.vector.toNat)]
    | 0x20 => pack [(3, h.aqHeadwb.toNat)]
    | 0x28 => pack [(12, h.aevBase.toNat)]
    | 0x30 => pack [(0, h.badowner.toNat), (16, h.badtail.toNat), (32, h.badform.toNat)]
    | _ => 0

/-- Context registers (09 Tables 10-12). -/
def State.ctxReg (s : State) (c o : Nat) : Nat :=
  let x := s.ctx c
  match o with
  | 0x00 => pack [(0, x.st.code), (2, b2n x.closing), (3, b2n x.revoked), (4, (s.compsOf c).length % 256),
      (12, (s.queues.filter fun e => e.2.st != .free && e.2.ctx == c).length % 4096),
      (24, (s.rings.filter fun e => e.2.live && e.2.ctx == c).length % 1024), (48, x.lowsig.toNat)]
  | 0x08 => pack [(0, x.fUnit.toNat), (8, x.fCode.toNat), (16, x.fStatus.toNat), (24, b2n x.fValid),
      (25, b2n x.fDropped), (32, x.fCount.toNat)]
  | 0x10 => x.mx.toNat
  | 0x18 => x.vx.toNat
  | 0x20 => x.tx.toNat
  | 0x28 => x.meshb.toNat
  | 0x30 => x.hbytes.toNat
  | 0x38 => x.mbytes.toNat
  | 0x40 => x.hostb.toNat
  | 0x48 => x.energy / 1024 % 2 ^ 64
  | _ => 0

/-- Composition registers (10 Tables 15-19); those of a FREE composition read 0. -/
def State.compReg (s : State) (k o : Nat) : Nat :=
  let m := s.comp k
  if m.st = .free then 0
  else
    match o with
    | 0x00 => pack [(0, m.st.code), (3, b2n m.balShift), (4, b2n (!(m.heldCores.isEmpty && m.heldClusters.isEmpty && m.heldShapes.isEmpty))), (5, b2n m.joinerr), (6, m.lane % 8),
        (9, m.ctx % 1024), (19, m.nmod % 128), (26, m.vmod % 64)]
    | 0x08 => pack [(0, m.gen.toNat), (32, m.stales.toNat)]
    | 0x10 => m.cid.toNat
    | 0x18 => pack [(0, m.movef % 2 ^ 13), (16, m.lastm % 2 ^ 13), (32, m.rebinds.toNat)]
    | 0x20 => pack [(0, m.capw % 2 ^ 12), (12, meanOf (Tab.look [] m.waits m.vmod) % 2 ^ 16)]
    | _ => 0

/-- Sessions held under OWN. -/
def Own.isOwn : Own → Bool
  | .own _ => true
  | _ => false

/-- Pool registers (10 Tables 20-22). -/
def State.poolReg (s : State) (o : Nat) : Nat :=
  let p := s.pool
  match o with
  | 0x00 =>
    let att := if s.sb.role then (p.sessions.filter fun e => e.2.attacher.isSome).length
      else (s.comps.map fun e => e.2.attached.length).sum
    pack [(0, b2n s.sb.role), (8, (p.sessions.filter fun e => e.2.own.isOwn).length % 2 ^ 24), (32, att % 2 ^ 16)]
  | 0x08 => pack [(0, p.handoffs.toNat), (16, p.resolves.toNat), (32, p.losts.toNat)]
  | 0x10 => pack [(0, p.lastEntry.toNat), (8, p.lastReason.toNat), (16, p.lastMember.toNat), (34, b2n p.lastValid)]
  | _ => 0

/-- Routing registers (11 R398, Tables 20 and 21). -/
def Route.reg (r : Route) (o : Nat) : Nat :=
  if o < 0x800 then pack4 r.group (o / 2)
  else if o < 0xA00 then pack4 r.member ((o - 0x800) / 2)
  else if o = 0x1000 then pack [(0, r.devid.toNat), (18, b2n r.wign)]
  else pack [(0, r.fwd.toNat), (32, r.drop.toNat), (48, r.noroute.toNat)]

/-- Recorder registers and window (12 Tables 4-7). (log 33, DEDUCED) -/
def State.recReg (s : State) (o : Nat) : Nat :=
  let r := s.recRing s.recIndex.toNat
  if 0x1000 ≤ o then field (r.recs.flatMap (·.bytes)) (4096 * s.recPage.toNat + (o - 0x1000)) 8
  else
    match o with
    | 0x00 => pack [(0, s.recIndex.toNat), (8, s.recPage.toNat)]
    | 0x08 => pack [(0, b2n r.orphan), (1, b2n r.closed), (2, b2n r.wign), (3, b2n (!r.due.isEmpty)), (32, r.used)]
    | 0x10 => match r.recs.head? with
      | some x => x.seq
      | none => r.nextSeq
    | _ => 0

/-- Security registers (13 Tables 9-13). -/
def State.secReg (s : State) (o : Nat) : Nat :=
  let x := s.sec
  if inR o 0x200 0x380 then field (leBytes 384 x.idModulus) (o - 0x200) 8
  else
    match o with
    | 0x000 => pack [(0, x.op.toNat), (4, x.target.toNat), (8, b2n x.busy), (9, b2n x.wign), (10, b2n x.done),
        (16, x.status.toNat), (24, x.fails.toNat), (32, b2n x.sel)]
    | 0x028 => pack [(0, x.state), (3, b2n x.debug), (4, b2n x.kekHeld), (5, b2n x.idHeld), (6, b2n x.fs.isSome),
        (7, b2n x.defer), (8, x.copy0.toNat), (16, x.copy1.toNat), (24, x.copy2.toNat),
        (32, b2n x.vk0.isSome), (33, b2n x.vk1.isSome), (34, b2n x.vk2.isSome), (35, x.revoked.toNat),
        (38, x.floor % 128), (45, b2n x.tDeploy.isSome), (46, b2n x.tTerm.isSome)]
    | 0x030 => pack [(0, x.fwver.toNat), (32, x.fwSvn.toNat), (39, x.fwSlot.toNat), (41, b2n x.fwSource)]
    | 0x038 => pack [(0, x.tenancy % 4), (2, b2n x.clean), (3, b2n (s.die 0).memsec.sealed), (4, b2n (x.fRoot != 0)),
        (16, x.switches.toNat)]
    | 0x380 => if x.idHeld then 65537 else 0
    | _ => 0

/-- Power registers (14 Tables 8-13). -/
def Pwr.reg (p : Pwr) (o : Nat) : Nat :=
  match o with
  | 0x00 => pack [(0, b2n p.warn), (1, p.cause.toNat), (4, b2n p.warned), (5, b2n p.banklow), (6, b2n p.nodump),
      (7, b2n p.sat), (8, b2n p.droop), (9, b2n p.wign), (16, p.warns.toNat)]
  | 0x08 => pack [(0, p.cap.toNat), (12, p.inforce.toNat), (24, p.theta.toNat), (30, b2n p.shift), (31, b2n p.pinned)]
  | 0x10 => pack [(0, p.vector.toNat), (11, b2n p.irqEnable)]
  | 0x18 => pack [(0, p.vin.toNat), (16, p.vbank.toNat), (32, p.iin.toNat), (48, p.pin.toNat)]
  | 0x20 => pack [(0, p.cmeas.toNat), (16, p.tavail.toNat), (32, p.defer.toNat)]
  | 0x28 => pack [(0, p.tin.toNat), (8, p.tout.toNat), (16, p.tmax.toNat), (24, b2n p.flowlow)]
  | _ => 0

/-- Reset registers and the dump window (15 Tables 11-15). -/
def Rst.reg (r : Rst) (o : Nat) : Nat :=
  if 0x1000 ≤ o then r.window (o - 0x1000)
  else
    match o with
    | 0x00 => b2n r.pset
    | 0x08 => pack [(0, r.cause.toNat), (4, b2n r.psetUsed), (5, b2n r.restored), (6, b2n r.wign), (16, r.resets.toNat),
        (32, r.absent.toNat)]
    | 0x10 => pack [(0, r.stewfail.toNat), (40, r.stuck.toNat)]
    | 0x18 => pack [(0, b2n r.selSlot), (1, r.selDie.toNat), (4, r.selPage.toNat)]
    | 0x20 => pack [(0, b2n r.shown0.isSome), (1, b2n r.shown1.isSome), (2, b2n r.shownNewest), (3, b2n r.ploss)]
    | _ => 0

/-- Sideband registers (16 Tables 9-11). -/
def Sb.reg (b : Sb) (o : Nat) : Nat :=
  match o with
  | 0x00 => pack [(0, b.slot.toNat), (4, b.ghint.toNat), (8, b2n b.role), (9, b2n b.pset), (10, b2n b.bad),
      (11, b2n b.unstable), (12, b.raw.toNat)]
  | 0x08 => pack [(0, b.hcode.toNat), (8, b.step.toNat)]
  | 0x10 => pack [(0, b.pecerr.toNat), (16, b.refused.toNat), (32, b.abandoned.toNat)]
  | _ => 0

/-- The value a register holds. -/
def State.regVal (s : State) : RegId → Nat
  | .core k o => (s.core k).reg o
  | .router d r o => (s.router d r).reg o
  | .mesh d o => (s.die d).meshReg o
  | .lane d l o => (s.lane d l).reg o
  | .stop d c i o => (Tab.look ({} : MemStop) (match c with
      | .h => (s.die d).hstops
      | .m => (s.die d).mstops
      | .f => (s.die d).fstops) i).reg o
  | .memsec d o => (s.die d).secReg o
  | .link p o => (s.port p).reg o
  | .thr d o => (s.die d).thr.reg o
  | .fmc d o => (s.die d).fmc.reg o
  | .cfg o => s.cfgReg o
  | .hif o => s.hifReg o
  | .ctx c o => s.ctxReg c o
  | .comp k o => s.compReg k o
  | .pool o => s.poolReg o
  | .route o => s.route.reg o
  | .recorder o => s.recReg o
  | .sec o => s.secReg o
  | .pwr o => s.pwr.reg o
  | .rst o => s.rst.reg o
  | .sb o => s.sb.reg o

end Sys2Proof.Machine
end

