-- ==== Sys2Proof/Machine/HostCmds.lean ====
section
/-! DEFINITION. QUERY, the enabling of the host interface and the throttle setting (08 R291-R296, 14 R472,
R473). -/

namespace Sys2Proof.Machine

/-- QUERY: as much of the capability table as LEN holds. -/
def execQuery (q : Fin 4096) (s : State) : Host.Outcome State Fault Refusal :=
  .next (s.descr q.val 0x11 [(16, 8), (24, 4)]
    (fun b => al64 b 16 && field b 24 4 % 16 == 0 && decide (16 ≤ field b 24 4) && decide (field b 24 4 ≤ 4096))
    noDenied fun s st =>
      let l := s.capBytes.take (field st.b 24 4)
      s.sendOut q.val (field st.b 16 8) l .ok (BitVec.ofNat 256 l.length))

/-- A write of `HIF_CTL.ENABLE`; a write of 0 is ignored: only a module reset clears it. With 1 queue 0 and event ring 0 exist and belong to context 0, which is OPEN (08 R295,
R296). -/
def State.hifEnable (s : State) (v : Bool) : State :=
  let h := s.hif
  let bad : State := { s with hif := { h with wign := true } }
  if v then
    if h.enable then s
    else if !h.ready || h.qlog2n.toNat < 4 || 16 < h.qlog2n.toNat || h.elog2n.toNat < 6 || 16 < h.elog2n.toNat then bad
    else
      let s := { s with hif := { h with enable := true } }
      let s := s.updCtx 0 fun _ => { st := .opened }
      let s := s.updRing 0 fun _ =>
        { live := true, ctx := 0, log2n := h.elog2n.toNat, port := h.port, vector := h.vector.toNat,
          base := BitVec.ofNat 64 (4096 * h.aevBase.toNat) }
      s.updQueue 0 fun _ =>
        { st := .live, ctx := 0, log2n := h.qlog2n.toNat, port := h.port, evring := 0,
          base := BitVec.ofNat 64 (4096 * h.aqBase.toNat), headwb := BitVec.ofNat 64 (8 * h.aqHeadwb.toNat) }
  else bad

/-- ENABLE. -/
def execEnable (v : Bool) (s : State) : Host.Outcome State Fault Refusal :=
  .next (if s.inRun && !s.sec.terminal then s.hifEnable v else s)

/-- Some lane has an admitted loop. -/
def State.anyLoop (s : State) : Bool := s.comps.any fun e => e.2.st != .free && e.2.loop.isSome

/-- THROTTLE_SET (14 R472, R473): a value of 0xFF leaves BALANCE or PIN as it is; adaptive levels start at θ. -/
def execThrottleSet (q : Fin 4096) (s : State) : Host.Outcome State Fault Refusal :=
  .next (s.descr q.val 0x09 [(16, 1), (17, 1), (18, 1)]
    (fun b => decide (field b 16 1 ≤ 32) && (decide (field b 17 1 ≤ 1) || field b 17 1 == 0xFF)
      && (decide (field b 18 1 ≤ 1) || field b 18 1 == 0xFF)) noDenied fun s st =>
      let th := field st.b 16 1
      if s.pwr.theta.toNat < th ∧ s.anyLoop then s.complete q.val .state
      else
        let bal := field st.b 17 1
        let pin := field st.b 18 1
        let level (t : Throttle) : Throttle :=
          if pin = 1 || (pin = 0 && s.pwr.pinned) then { t with level := BitVec.ofNat 7 th }
          else { t with level := BitVec.ofNat 7 (min t.level.toNat th) }
        let s := { s with
          pwr := { s.pwr with
            theta := BitVec.ofNat 6 th
            shift := if bal = 0xFF then s.pwr.shift else bal == 1
            pinned := if pin = 0xFF then s.pwr.pinned else pin == 1 } }
        let s := (List.range 8).foldl (fun (s : State) d => s.updDie d fun x => { x with thr := level x.thr }) s
        s.complete q.val .ok)

end Sys2Proof.Machine
end

