-- ==== Sys2Proof/Machine/LoopCmds.lean ====
section
/-! DEFINITION. Commands on token loops: admission, stop, sampling parameters, drafts, the lane registers that
steer a loop, and user control programs (01 R31, R32, 04 R148-R153, 08 R266, R267, R279, 17 R533, R534). -/

namespace Sys2Proof.Machine

/-! ### Admission (04 R148-R150) -/

/-- Draft-phase frames of a variant's draft source. -/
def Variant.draftOf (v : Variant) (dsrc : Nat) : Nat := (v.draftFrames[dsrc]?).getD 0

/-- F in frames: the release index of the commit barrier, 4 event frames, the draft phase with its move frames,
and the start barrier's cost (04 R148). -/
def loopFrames (v : Variant) (dsrc movef : Nat) : Nat := v.commitRfi + 4 + (Variant.draftOf v dsrc + movef) + v.startCost

/-- B in whole microseconds (04 R148). -/
def loopBound (f theta : Nat) : Nat := cdiv (cdiv (f * 64) (64 - theta) * 160 * 100015) 100000000

/-- The lowest event slot of a port that a context holds and no loop uses (08 R266). -/
def Tongs.freeEvSlot (t : Tongs) (c : Nat) : Option Nat :=
  (List.range 4).find? fun e => Tab.look none t.evHolder e == some c && (Tab.look none t.evUse e).isNone

/-- LTAB is 0 or names a live tier M object of the composition on virtual die 0 (04 R137). -/
def State.ltabOk (s : State) (k h : Nat) : Bool :=
  h == 0 ||
    match s.compObj k h with
    | some a => (s.objAt a h).tier == 1 && (s.objAt a h).vdie == 0
    | none => false

/-- A loop is admitted (04 R150): its slots are taken, its lanes start, and its records are appended
(12 R417). -/
def State.startLoop (s : State) (q k : Nat) (b params : List Byte) (v : Variant) (slot : Nat) (fail : Option Nat)
    (f bound : Nat) : State :=
  let m := s.comp k
  let (dsrc, kv, r) := (field b 20 1, bit (field b 21 1) 0, field b 22 2)
  let p := (s.ring r).port
  let use (s : State) (p : Bool) (e : Nat) : State :=
    s.updTongs p fun t => { t with evUse := Tab.put none t.evUse e (some k) }
  let s := use s p slot
  let s := match fail with
    | some e => use s (!p) e
    | none => s
  let s := if kv then s.kvReset k else s
  let s := s.updLanes m.dies m.lane fun L =>
    { L.rest with st := .start, dsrc := BitVec.ofNat 2 dsrc, f := BitVec.ofNat 32 f, bound := BitVec.ofNat 16 bound,
                  theta := s.pwr.theta }
  let s := m.dies.foldl (fun (s : State) d => s.updDie d fun x =>
    { x with ucps := Tab.upd {} x.ucps m.lane fun u => { u with ended := false } }) s
  let lp : Loop :=
    { tring := r, bound, evPort := p, evSlot := slot, failover := fail, produced := 0, stoppers := [], dropped := false,
      ltab := field b 32 4, breq := field b 16 4, dsrc,
      draftAdm := Variant.draftOf v dsrc :: (List.range 4).map (Variant.draftOf v) }
  let s := s.updComp k fun m => { m with loop := some lp, params := some params, newParams := none, holding := false }
  let s := s.append k 3 params
  let s := s.append k 4 (s.loopBody k false kv 0 lp)
  s.complete q .ok (BitVec.ofNat 256 (bound + 2 ^ 32 * f + 2 ^ 64 * slot + 2 ^ 72 * fail.getD 0xFF))

/-- LOOP_START (04 R137, R148-R150, 08 R266, R267, R281, 10 R333, R352, 12 R418, 14 R461). -/
def execLoopStart (q : Fin 4096) (s : State) : Host.Outcome State Fault Refusal :=
  .next (s.descr q.val 0x48 [(16, 4), (20, 1), (21, 1), (22, 2), (24, 8), (32, 4)]
    (fun b => decide (1 ≤ field b 16 4) && decide (field b 16 4 ≤ 65535) && decide (field b 20 1 ≤ 3)
      && decide (field b 21 1 ≤ 1) && al64 b 24)
    (fun s c b => ((s.ring (field b 22 2)).live && (s.ring (field b 22 2)).ctx != c)
      || (field b 32 4 != 0 && s.foreign c (field b 32 4)))
    fun s st =>
      let b := st.b
      let k := st.comp
      let m := s.comp k
      let r := field b 22 2
      let bad := m.st != .ready || s.sb.role || m.loop.isSome || s.pwr.warn || !(s.ring r).live
        || !s.ltabOk k (field b 32 4)
      s.withData q.val 64 (failed := if bad then .state else .link) fun params =>
      if !sparamsOk params then s.complete q.val .format
      else if bad then s.complete q.val .state
      else
        let p := (s.ring r).port
        match (s.tongs p).freeEvSlot st.ctx, m.img.variant m.variant with
        | some slot, some v =>
          if (s.recRing k).freeBytes < recReserve then s.complete q.val .limit
          else
            let f := loopFrames v (field b 20 1) m.movef
            let bound := loopBound f s.pwr.theta.toNat
            if field b 16 4 < bound || 65535 < bound then s.complete q.val .bound
            else s.startLoop q.val k b params v slot ((s.tongs (!p)).freeEvSlot st.ctx) f bound
        | _, _ => s.complete q.val .limit)

/-- A stop request for a composition's loop (04 R147). -/
def State.askStop (s : State) (k : Nat) : State :=
  let m := s.comp k
  s.updLane m.rootDie m.lane fun L => { L with stop := true }

/-- LOOP_STOP (08 R279): it completes after the loop's final event. -/
def execLoopStop (q : Fin 4096) (s : State) : Host.Outcome State Fault Refusal :=
  .next (s.descr q.val 0x49 [] (fun _ => true) noDenied fun s st =>
    if (s.queue q.val).started then s
    else
      match (s.comp st.comp).loop with
      | none => s.complete q.val .state
      | some lp =>
        ((s.askStop st.comp).updComp st.comp fun m =>
          { m with loop := some { lp with stoppers := lp.stoppers ++ [q.val] } }).updQueue q.val fun x =>
            { x with started := true })

/-- SAMPLE_SET (04 R138, 08 R279, 10 R333, 12 R417, R418). -/
def execSampleSet (q : Fin 4096) (s : State) : Host.Outcome State Fault Refusal :=
  .next (s.descr q.val 0x4A [(24, 8)] (fun b => al64 b 24) noDenied fun s st =>
    let k := st.comp
    let m := s.comp k
    s.withData q.val 64 (failed := if m.st != .ready then .state else .link) fun params =>
      if !sparamsOk params then s.complete q.val .format
      else if m.st != .ready then s.complete q.val .state
      else if m.loop.isNone && !s.recRoom k 128 then s.complete q.val .limit
      else
        let s := if m.loop.isNone then s.append k 3 params else s
        (s.updComp k fun m => { m with newParams := some (params, m.loop.isNone) }).complete q.val .ok)

/-- DRAFT (04 R130-R132, 08 R279, 10 R333, 17 R533). -/
def execDraft (q : Fin 4096) (s : State) : Host.Outcome State Fault Refusal :=
  .next (s.descr q.val 0x4B [(16, 8)] (fun b => al64 b 16) noDenied fun s st =>
    let m := s.comp st.comp
    if m.st != .ready || m.vmod != 0 then s.complete q.val .state
    else s.withData q.val 768 fun r =>
      (s.updComp st.comp fun m => { m with drafts := m.drafts ++ [{ bytes := r, host := true }] }).complete q.val .ok)

/-! ### Lane registers that steer a loop (04 R153, 17 R534) -/

/-- A lane has an admitted loop. -/
def State.laneLoop (s : State) (d l : Nat) : Option Loop := (s.laneComp d l).bind fun k => (s.comp k).loop

/-- A write of `LATHE_LCTL.STOP`: without effect while the lane has no admitted loop (04 R153). -/
def State.laneStop (s : State) (d l : Nat) : State :=
  if (s.laneLoop d l).isSome then s.updLane d l fun L => { L with stop := true } else s

/-- A write of `LATHE_LCTL.DSRC`: without effect while a loop is admitted for a source with more draft-phase frames
than F counts (17 R534). -/
def State.laneDsrc (s : State) (d l v : Nat) : State :=
  let ok := match s.laneLoop d l with
    | some lp => decide ((lp.draftAdm[v + 1]?).getD 0 ≤ lp.draftAdm.headD 0)
    | none => true
  if ok then s.updLane d l fun L => { L with dsrc := BitVec.ofNat 2 v } else s

/-- STOP: a write of `LATHE_LCTL.STOP`; without an admitted loop it has no effect. -/
def execStop (die lane : Fin 8) (s : State) : Host.Outcome State Fault Refusal :=
  .next (s.laneStop die.val lane.val)

/-- DSRC_WRITE: while a loop is admitted, a source with more draft-phase frames than F counts has no
effect. -/
def execDsrcWrite (die lane : Fin 8) (v : Fin 4) (s : State) : Host.Outcome State Fault Refusal :=
  .next (s.laneDsrc die.val lane.val v.val)

/-! ### User control programs (01 R31, R32) -/

/-- The program of a lane on a die. -/
def State.ucp (s : State) (d l : Nat) : Ucp := Tab.look {} (s.die d).ucps l

/-- Change the program of a lane on a die. -/
def State.updUcp (s : State) (d l : Nat) (f : Ucp → Ucp) : State :=
  s.updDie d fun x => { x with ucps := Tab.upd {} x.ucps l f }

/-- A call returns: a0 and a1. (log 22, DEDUCED) -/
def State.ucpReturn (s : State) (d l a0 a1 : Nat) : State :=
  (s.updUcp d l fun u => { u with a0 := BitVec.ofNat 64 a0, a1 := BitVec.ofNat 64 a1 }).emit
    (.ecallResult d l (BitVec.ofNat 64 a0) (BitVec.ofNat 64 a1))

/-- `UCP_FAULT`: the program stops and its context is charged. (log 22, DEDUCED) -/
def State.ucpFault (s : State) (d l : Nat) : State :=
  (s.laneFault d l 0x0A 1 .format (plocOf d 0xF 0x1F 7 0) 0 0).updUcp d l fun u => { u with running := false }

/-- A system call with number `call` of a program that runs in its lane's quantum: call `n` has the effect
`f`, a number outside the list is a fault. (log 22, DEDUCED) -/
def State.ucpCall (s : State) (d l n call : Nat) (f : Nat → State) : State :=
  let u := s.ucp d l
  if u.running && !u.waiting && (s.die d).quantum.toNat == l then
    if call = n then
      match s.laneComp d l with
      | some k => f k
      | none => s
    else if call = 0 ∨ 5 < call then s.ucpFault d l
    else s
  else s

/-- WAIT_EVENT: the program waits for the lane's next token event; it names no argument. -/
def execWaitEvent (die lane : Fin 8) (call _addr : Nat) (s : State) : Host.Outcome State Fault Refusal :=
  .next (s.ucpCall die.val lane.val 1 call fun _ => s.updUcp die.val lane.val fun u => { u with waiting := true })

/-- DRAFT_CALL: the record joins the draft buffer as a host's does. -/
def execDraftCall (die lane : Fin 8) (call addr : Nat) (rcd : List Byte) (s : State) :
    Host.Outcome State Fault Refusal :=
  let (d, l) := (die.val, lane.val)
  .next (s.ucpCall d l 2 call fun k =>
    if !Config.ucpSpace d l addr 768 then s.ucpFault d l
    else if (s.lane d l).dsrc != 0 || (s.comp k).vmod != 0 then s.ucpReturn d l Status.state.code 0
    else if recForce rcd then s.ucpReturn d l Status.format.code 0
    else (s.updComp k fun m => { m with drafts := m.drafts ++ [{ bytes := rcd, host := true }] }).ucpReturn d l 0 0)

/-- STOP_CALL. -/
def execStopCall (die lane : Fin 8) (call : Nat) (s : State) : Host.Outcome State Fault Refusal :=
  let (d, l) := (die.val, lane.val)
  .next (s.ucpCall d l 3 call fun _ => (s.updLane d l fun L => { L with stop := true }).ucpReturn d l 0 0)

/-- STATE_READ: Lc, and the low 32 bits of the step count. -/
def execStateRead (die lane : Fin 8) (call : Nat) (s : State) : Host.Outcome State Fault Refusal :=
  let (d, l) := (die.val, lane.val)
  .next (s.ucpCall d l 4 call fun _ => s.ucpReturn d l (s.lane d l).lc ((s.lane d l).step.toNat % 2 ^ 32))

/-- EXIT: the program ends until the next LOOP_START. -/
def execExit (die lane : Fin 8) (call : Nat) (s : State) : Host.Outcome State Fault Refusal :=
  .next (s.ucpCall die.val lane.val 5 call fun _ =>
    s.updUcp die.val lane.val fun u => { u with running := false, ended := true })

/-- UCP_QUANTUM: steward 3 of a die goes on to the next lane. (log 22, DEDUCED) -/
def execUcpQuantum (die : Fin 8) (s : State) : Host.Outcome State Fault Refusal :=
  .next (s.updDie die.val fun x => { x with quantum := x.quantum + 1 })

end Sys2Proof.Machine
end

