-- ==== Sys2Proof/Machine/Power.lean ====
section
/-! DEFINITION. Supply, clocks, throttle and telemetry (14 R457-R485) and the power-loss dump (15 R500,
R501). -/

namespace Sys2Proof.Machine

/-! ### The supply-warning action (14 R459-R462, R466, 15 R500, R501) -/

/-- The interrupt message of `PWR_IRQ` goes to the adapter on each host port that is UP. -/
def State.pwrIrq (s : State) : State :=
  if s.pwr.irqEnable then
    [false, true].foldl (fun (s : State) p => if s.portUp p then s.emit (.irq p s.pwr.vector.toNat) else s) s
  else s

/-- A lane runs on to its event phase under a warning (14 R460). -/
def Lane.goesOn (L : Lane) : Bool := L.st == .commit || L.st == .event

/-- A lane that a warning stops at once: neither idle, nor stopped by a fault, nor in its commit or event
phase. -/
def Lane.cut (L : Lane) : Bool := L.st != .idle && L.st != .fault && !L.goesOn

/-- A lane stopped at once: its step's KV slots are free again, its Spindles send nothing further, its slot map
and Lc stand. -/
def Lane.warnStop (L : Lane) : Lane :=
  let L := L.returnSlots.rest
  { L with spindles := Tab.mapVals {} (fun _ (x : Spindle) => { x with staging := [], issued := 0 }) L.spindles }

/-- Every lane but those in their commit or event phase stops, with its cores. (log 41, DEDUCED) -/
def State.cutLanes (s : State) : State :=
  let stops (k : Nat) (c : Core) : Bool :=
    match c.lane with
    | some l => (s.lane (keyDie k) l).cut
    | none => false
  { s with
    cores := Tab.mapVals {} (fun k (c : Core) =>
      if stops k c && (c.st == .run || c.st == .fault) then c.stopped else c) s.cores
    dies := Tab.mapVals {} (fun _ (x : Die) =>
      { x with lanes := Tab.mapVals {} (fun _ (L : Lane) => if L.cut then L.warnStop else L) x.lanes }) s.dies }

/-- The loops of a warning: one whose lane goes on ends with its step's event, any other ends at once with a
final event of NTOK 0, END 3 and status `OK` (14 R461). -/
def State.endLoops (s : State) : State :=
  (s.comps.filter fun e => e.2.loop.isSome).foldl (fun (s : State) e =>
    let m := e.2
    if m.dies.any fun d => (s.lane d m.lane).st == .fault then s
    else if m.dies.any fun d => (s.lane d m.lane).goesOn then
      s.updComp e.1 fun m => { m with loop := m.loop.map fun lp => { lp with warned := true } }
    else s.finalEvent e.1 .ok 3) s

/-- The content of a power-loss dump: header with POWERLOSS, the last 1,024 fault records, and the firmware log,
whose content the spec does not give (15 R500). (log 41, DEDUCED) -/
def State.lossDump (s : State) : Dump :=
  { cause := 0, kind := b2n s.rst.pset + 2, resets := s.rst.resets.toNat, absent := 0,
    stamp := s.stamp64, sections := [(1, 0, s.faultSection 1024), (2, 0, [])] }

/-- The power-loss dump of a warning: none with NODUMP, nor while the blocks hold an earlier one.
(log 41, DEDUCED) -/
def State.writeLossDump (s : State) : State :=
  if s.pwr.nodump || s.rst.flossDump.isSome then s
  else { s with rst := { s.rst with flossDump := some s.lossDump, marked := false } }

/-- The registers of a warning. (log 41, DEDUCED) -/
def Pwr.warnSet (p : Pwr) (cause stamp : Nat) : Pwr :=
  { p with warn := true, cause := BitVec.ofNat 3 cause, warned := true, warns := satAdd p.warns 1,
           causes := insNat cause p.causes, warnStamp := if p.warn then p.warnStamp else stamp }

/-- The supply-warning action of a cause: 1 UV, 2 OV, 3 OC, 4 THERMAL, 5 CLOCK. (log 41, DEDUCED) -/
def State.warning (s : State) (cause stamp : Nat) : State :=
  if s.inRun then
    let s := { s with pwr := s.pwr.warnSet cause stamp }
    (s.cutLanes.endLoops.pwrIrq).writeLossDump
  else s

/-- Causes that have ended: with none left the warning releases, a second interrupt message goes out and a
power-loss dump gets its release mark. (log 41, DEDUCED) -/
def State.endCauses (s : State) (cs : List Nat) : State :=
  let l := s.pwr.causes.filter fun c => !cs.contains c
  if s.pwr.warn && l.isEmpty then
    let s := { s with
      pwr := { s.pwr with warn := false, causes := [] }
      rst := { s.rst with marked := s.rst.marked || s.rst.flossDump.isSome } }
    s.pwrIrq
  else { s with pwr := { s.pwr with causes := l } }

/-- UNDERVOLTAGE. -/
def execUndervoltage (stamp : Nat) (s : State) : Host.Outcome State Fault Refusal := .next (s.warning 1 stamp)

/-- OVERVOLTAGE. -/
def execOvervoltage (stamp : Nat) (s : State) : Host.Outcome State Fault Refusal := .next (s.warning 2 stamp)

/-- OVERCURRENT. -/
def execOvercurrent (stamp : Nat) (s : State) : Host.Outcome State Fault Refusal := .next (s.warning 3 stamp)

/-- THERMAL: a die sensor at or above 105 C. -/
def execThermal (die : Fin 8) (temp : Nat) (s : State) : Host.Outcome State Fault Refusal :=
  let _ := die
  .next (if 105 ≤ temp then s.warning 4 s.stamp.toNat else s)

/-- WARNING_RELEASE: supply and sensors have been in range for 10 ms; a clock stop ends by its own windows.
(log 41, DEDUCED) -/
def execWarningRelease (s : State) : Host.Outcome State Fault Refusal := .next (s.endCauses [1, 2, 3, 4])

/-- POWER_LOSS_DUMP_ERASE: after a release mark the blocks are erased. -/
def execPowerLossDumpErase (s : State) : Host.Outcome State Fault Refusal :=
  .next (if s.rst.marked then { s with rst := { s.rst with flossDump := none, marked := false } } else s)

/-- Put a dump in the slot that does not hold the newest (15 R497). (log 44, DEDUCED) -/
def Rst.storeDump (x : Rst) (m : Dump) : Rst :=
  let slot := if x.dump0.isNone && x.dump1.isNone then false else !x.newest
  if slot then { x with dump1 := some m, newest := true } else { x with dump0 := some m, newest := false }

/-- POWER_LOSS_DUMP_COPY: before READY after a power-on, an unmarked dump becomes the newest dump; a marked one is
discarded. (log 44, DEDUCED) -/
def execPowerLossDumpCopy (s : State) : Host.Outcome State Fault Refusal :=
  .next (if !s.inRun || s.hif.ready || s.rst.resets != 0 || s.pwr.warn then s
    else
      match s.rst.flossDump with
      | none => s
      | some m =>
        let x := if s.rst.marked then s.rst else s.rst.storeDump m
        { s with rst := { x with flossDump := none, marked := false } })

/-! ### Power-on reset and power-up (14 R463, R464, R467) -/

/-- What the security block keeps without power: the fuses and the key store in tier F (13 Table 1). The running
number of keys drawn goes on. -/
def Sec.unpowered (x : Sec) : Sec :=
  { copy0 := x.copy0, copy1 := x.copy1, copy2 := x.copy2, vk0 := x.vk0, vk1 := x.vk1, vk2 := x.vk2, revoked := x.revoked,
    floor := x.floor, tProv := x.tProv, tReturn := x.tReturn, tDeploy := x.tDeploy, tTerm := x.tTerm, kek := x.kek,
    store := x.store, store1 := x.store1, genH := x.genH, genM := x.genM, genId := x.genId }

/-- A power-on reset: DOWN goes out on every UP port, every rail goes off, and only fuses and tier F keep their
content (14 R463). (log 43, DEDUCED) -/
def State.powerOff (s : State) : State :=
  let s := s.allPortsDown
  { State.reset with
    pending := s.pending, out := s.out, free := s.free, tierF := s.tierF, models := s.models.map fun m =>
      { digest := m.digest, manifest := m.manifest, body := m.body },
    sec := s.sec.unpowered, rst := { flossDump := s.rst.flossDump, marked := s.rst.marked },
    repairCores := s.repairCores, repairClusters := s.repairClusters, repairDies := s.repairDies,
    repairLog := s.repairLog, hardRows := s.hardRows }

/-- POWER_ON_RESET. -/
def execPowerOnReset (s : State) : Host.Outcome State Fault Refusal := .next s.powerOff

/-- THERMAL_POWER_ON_RESET: a die sensor at or above 110 C. -/
def execThermalPowerOnReset (die : Fin 8) (temp : Nat) (s : State) : Host.Outcome State Fault Refusal :=
  let _ := die
  .next (if 110 ≤ temp then s.powerOff else s)

/-- Rows with a soft repair standing in the log, which the next power-on repairs hard; tier F has no such repair
(06 Table 10). (log 17, DESIGN CHOICE) -/
def State.hardened (s : State) : Tab Nat :=
  (s.repairLog.filter fun e => decide (e.1 % 32 < 16) && decide (e.2.2 ≠ 0)).map fun e => (e.1, e.2.2)

/-- POWER_ON: the power-up sequence begins; the bank is measured and new tier H and tier M keys are drawn. -/
def execPowerOn (cmeas : Nat) (s : State) : Host.Outcome State Fault Refusal :=
  .next (if s.rst.phase == .off then
    { s with
      rst := { s.rst with phase := .powerUp false }
      pwr := { s.pwr with bank := cmeas, cmeas := BitVec.ofNat 16 cmeas, banklow := decide (cmeas < 2000), nodump := decide (cmeas < 1600) }
      sec := { s.sec with genH := s.sec.genH + 1, genM := s.sec.genM + 1 }
      hardRows := s.hardened }
    else s)

/-- POWER_UP_RETRY: step 0x41 + i missed its time and repeats. (log 45, DEDUCED) -/
def execPowerUpRetry (step : Fin 4) (s : State) : Host.Outcome State Fault Refusal :=
  .next (match s.rst.phase with
    | .powerUp true => { s with sb := s.sb.halt (0x61 + step.val) }
    | _ => s)

/-! ### Core voltage and the throttle (14 R469-R474) -/

/-- A core rail sample below VMIN + 20 mV counts as a dip. -/
def Throttle.dip (t : Throttle) (mv : Nat) : Throttle :=
  { t with droops := satAdd t.droops 1, vlow := BitVec.ofNat 16 (min t.vlow.toNat mv) }

/-- DROOP. -/
def execDroop (die : Fin 8) (mv : Nat) (s : State) : Host.Outcome State Fault Refusal :=
  let v := (s.die die.val).thr.vmin.toNat
  .next (if !s.inRun || v + 20 ≤ mv then s
    else
      let s := s.updDie die.val fun x => { x with thr := x.thr.dip mv }
      let s := { s with pwr := { s.pwr with droop := true } }
      if mv < v then s.resetEntry 5 else s)

/-- `ceil(64 x)` of the excess of a quantity over its limit. -/
def excess (v lim : Nat) : Nat := if lim < v then cdiv (64 * (v - lim)) v else 0

/-- A die's hottest sensor with those of its HBM stacks. -/
def Die.hottest (x : Die) : Nat := (x.hstops.map fun e => e.2.temp.toNat).foldl max x.thr.temp.toNat

/-- `ceil(64 x)` of a die (14 R471): 0 exactly when nothing is in excess. -/
def State.pressure (s : State) (x : Die) : Nat :=
  max (max (excess s.pwr.pin.toNat s.pwr.inforce.toNat) (excess s.pwr.iin.toNat 7200))
    (max (excess x.thr.pdie.toNat 300) (if 100 < x.hottest then 4 * (x.hottest - 100) else 0))

/-- Everything lies far enough below its limit for the level to fall. -/
def State.relaxed (s : State) (x : Die) : Bool :=
  decide (100 * s.pwr.pin.toNat ≤ 98 * s.pwr.inforce.toNat) && decide (100 * s.pwr.iin.toNat ≤ 98 * 7200)
    && decide (x.thr.pdie.toNat ≤ 294) && decide (x.hottest ≤ 98)

/-- The next level of a die (14 R471). -/
def State.nextLevel (s : State) (x : Die) : Nat :=
  let th := s.pwr.theta.toNat
  let b := x.thr.level.toNat
  let u := s.pressure x
  min th (if s.pwr.pinned then th else if 0 < u then min th (b + u) else if s.relaxed x then b - 1 else b)

/-- The die reaches θ with excess remaining. -/
def State.saturates (s : State) (x : Die) : Bool := decide (0 < s.pressure x) && s.nextLevel x == s.pwr.theta.toNat

/-- THROTTLE_UPDATE. -/
def execThrottleUpdate (s : State) : Host.Outcome State Fault Refusal :=
  let t := (List.range 8).foldl (fun (t : State) d => t.updDie d fun x =>
    { x with thr := { x.thr with level := BitVec.ofNat 7 (s.nextLevel x), sat := x.thr.sat || s.saturates x } }) s
  .next { t with pwr := { t.pwr with sat := t.pwr.sat || (List.range 8).any fun d => s.saturates (s.die d) } }

/-- BUBBLE_PERIOD: the period runs at the level that stands, and its bubbles are counted. -/
def execBubblePeriod (die : Fin 8) (s : State) : Host.Outcome State Fault Refusal :=
  .next (s.updDie die.val fun x =>
    { x with thr := { x.thr with inForce := x.thr.level, units := x.thr.units + BitVec.ofNat 32 x.thr.level.toNat } })

/-- Unit `u` of a period at level `b` is a bubble (14 R470). -/
def isBubble (b u : Nat) : Bool := decide (u * b / 64 < (u + 1) * b / 64)

/-- A SHIFT composition exists. -/
def State.anyShift (s : State) : Bool := s.comps.any fun e => e.2.st != .free && e.2.balShift

/-- A write of `PWR_CAP.CAP`. -/
def State.capWrite (s : State) (v : Nat) : State :=
  if v < 1000 || 3600 < v || s.anyShift then { s with pwr := { s.pwr with wign := true } }
  else ({ s with pwr := { s.pwr with cap := BitVec.ofNat 12 v } }).recap

/-- CAP_WRITE. -/
def execCapWrite (v : Nat) (s : State) : Host.Outcome State Fault Refusal := .next (s.capWrite v)

/-! ### Telemetry (14 R476, R483) -/

/-- A die's sample. -/
def Die.sample (x : Die) (d : Nat) (t : Telemetry) : Die :=
  let (w, temp, mv) := (t.dies[d]?).getD (0, 0, 0xFFFF)
  let at' (c : StopClass) (i : Nat) (m : MemStop) : MemStop :=
    match t.stops.find? fun e => e.1.die.val == d && e.1.cls == c && e.1.idx.val == i with
    | some e => { m with temp := BitVec.ofNat 8 e.2 }
    | none => m
  let on (c : StopClass) (l : Tab MemStop) : Tab MemStop :=
    (List.range (stopCount c)).foldl (fun l i => Tab.upd ({} : MemStop) l i (at' c i)) l
  { x with
    thr := { x.thr with pdie := BitVec.ofNat 12 w, temp := BitVec.ofNat 8 temp,
                        vlow := BitVec.ofNat 16 (min x.thr.vlow.toNat mv) }
    hstops := on .h x.hstops, mstops := on .m x.mstops, fstops := on .f x.fstops }

/-- The module's sample. -/
def Pwr.sample (p : Pwr) (t : Telemetry) : Pwr :=
  { p with vin := BitVec.ofNat 16 t.vin, vbank := BitVec.ofNat 16 t.vbank, iin := BitVec.ofNat 16 t.iin,
           pin := BitVec.ofNat 16 t.pin, tin := BitVec.ofNat 8 t.tin, tout := BitVec.ofNat 8 t.tout,
           tmax := BitVec.ofNat 8 ((t.dies.map fun e => e.2.1).foldl max 0),
           flowlow := p.flowlow || decide (t.tin + 15 < t.tout) }

/-- T_avail of a sample in whole microseconds; a value the field cannot show is left open. (log 24, DESIGN CHOICE) -/
def State.showTAvail (s : State) : State :=
  let v := if s.pwr.pin = 0 then (s.pwr.tAvail : Int)
    else tAvailNum s.pwr.bank s.pwr.vbank.toNat s.pwr.pin.toNat / (80000000 * (s.pwr.pin.toNat : Int))
  if 0 ≤ v ∧ v < 65536 then { s with pwr := { s.pwr with tavail := BitVec.ofNat 16 v.toNat } }
  else { s.fresh.2 with pwr := { s.pwr with tavail := BitVec.ofNat 16 s.fresh.1 } }

/-- TELEMETRY_SAMPLE. -/
def execTelemetrySample (t : Telemetry) (s : State) : Host.Outcome State Fault Refusal :=
  .next (if s.rst.phase == .off then s
    else
      let s := { s with pwr := s.pwr.sample t }
      ((List.range 8).foldl (fun (s : State) d => s.updDie d fun x => x.sample d t) s).showTAvail)

/-! ### Clocks (14 R477, R478, R481) -/

/-- A window within 102,400 ± 13. -/
def goodWindow (n : Nat) : Bool := decide (102387 ≤ n) && decide (n ≤ 102413)

/-- A window beyond 102,400 ± 102, or a count of 0. -/
def lostWindow (n chk : Nat) : Bool := decide (n < 102298) || decide (102502 < n) || n == 0 || chk == 0

/-- A window's registers (14 Table 20). (log 42, DEDUCED) -/
def Fmc.window (f : Fmc) (n : Nat) : Fmc :=
  let f := { f with lastdev := BitVec.ofInt 16 ((n : Int) - 102400) }
  if goodWindow n then { f with run := satAdd f.run 1, bad := 0 }
  else { f with run := 0, bad := f.bad + 1, badwin := satAdd f.badwin 1 }

/-- Every die's FMC. -/
def State.eachFmc (s : State) (f : Fmc → Fmc) : State :=
  (List.range 8).foldl (fun (s : State) d => s.updDie d fun x => { x with fmc := f x.fmc }) s

/-- A qualification window of die 0: after eight good ones in a row the primary is qualified. (log 42, DEDUCED) -/
def State.qualify (s : State) (n : Nat) : State :=
  let s := s.updDie 0 fun x => { x with fmc := x.fmc.window n }
  let s := if s.rst.phase == .powerUp true then { s with sb := s.sb.halt 0x41 } else s
  if 8 ≤ (s.die 0).fmc.run.toNat then
    let s := s.eachFmc fun f => { f with qualified := true, bad := 0, warned := false }
    if s.rst.phase == .powerUp true then { s with sb := s.sb.halt 0x42 } else s
  else s

/-- A window of the monitor. (log 42, DEDUCED) -/
def State.monitor (s : State) (d n chk : Nat) : State :=
  let s := s.updDie d fun x => { x with fmc := x.fmc.window n }
  if lostWindow n chk then
    let t := s.resetEntry 6
    if s.inRun then t.eachFmc fun f => { f with qualified := false, run := 0, bad := 0, warned := false } else t
  else
    let f := (s.die d).fmc
    if 4 ≤ f.bad && !f.warned then
      (s.updDie d fun x => { x with fmc := { x.fmc with warned := true } }).warning 5 s.stamp.toNat
    else if 10 ≤ f.run.toNat && f.warned then
      let s := s.updDie d fun x => { x with fmc := { x.fmc with warned := false } }
      if (List.range 8).any fun d => (s.die d).fmc.warned then s else s.endCauses [5]
    else s

/-- FMC_WINDOW: before the primary is qualified only die 0's windows count. (log 42, DEDUCED) -/
def execFmcWindow (die : Fin 8) (count chk : Nat) (s : State) : Host.Outcome State Fault Refusal :=
  .next (if s.rst.phase == .off || s.rst.phase == .powerUp false then s
    else if (s.die 0).fmc.qualified then s.monitor die.val count chk
    else if die.val = 0 then s.qualify (if chk = 0 then 0 else count)
    else s)

/-- A write of `FMC_CTL.GO`: ignored with a code not used, with GCYC 0, and in a qualification window.
(log 42, DEDUCED) -/
def State.fmcGo (s : State) (d : Nat) : State :=
  s.updDie d fun x =>
    if 11 ≤ x.fmc.msrc.toNat || 11 ≤ x.fmc.gsrc.toNat || x.fmc.gcyc == 0 || !(s.die 0).fmc.qualified then
      { x with fmc := { x.fmc with wign := true } }
    else { x with fmc := { x.fmc with busy := true } }

/-- GO. -/
def execGo (die : Fin 8) (s : State) : Host.Outcome State Fault Refusal := .next (s.fmcGo die.val)

/-- FMC_MEASUREMENT_DONE. -/
def execFmcMeasurementDone (die : Fin 8) (count : Nat) (s : State) : Host.Outcome State Fault Refusal :=
  .next (s.updDie die.val fun x =>
    if x.fmc.busy then { x with fmc := { x.fmc with busy := false, done := true, count := BitVec.ofNat 40 count } } else x)

end Sys2Proof.Machine
end

