-- ==== Sys2Proof/Machine/Security.lean ====
section
/-! DEFINITION. Security commands, firmware start, tenancy and attestation (13 R433-R456, 17 R536, R537). -/

namespace Sys2Proof.Machine

/-! ### The command register (13 R455, R456, Table 10) -/

/-- A command of the security block completes: status, DONE, and the argument registers zeroed. -/
def State.secEnd (s : State) (st : Status) : State :=
  { s with sec := { s.sec with status := BitVec.ofNat 8 st.code, done := true, busy := false, arg0 := 0, arg1 := 0,
                               arg2 := 0, arg3 := 0 } }

/-- The 32 bytes of `SEC_ARG0` to `SEC_ARG3`. -/
def Sec.args (x : Sec) : List Byte :=
  leBytes 8 x.arg0.toNat ++ leBytes 8 x.arg1.toNat ++ leBytes 8 x.arg2.toNat ++ leBytes 8 x.arg3.toNat

/-- The argument as a 32-byte value. -/
def Sec.argDigest (x : Sec) : Digest := BitVec.ofNat 256 (leNat x.args)

/-- A security command runs: the boot ROM or firmware serves it in RUN, and not in TERMINAL (13 R440); over the
sideband bus only an FS_SET without FS is accepted (13 R455). -/
def State.secCmd (s : State) (op : Nat) (sideband allowed : Bool) (f : State → State) : State :=
  if !s.inRun || s.sec.terminal then s
  else
    let s := { s with sec := { s.sec with op := BitVec.ofNat 4 op } }
    if sideband && !allowed then s.secEnd .denied else f s

/-- The input is at or above 50.0 V by the latest sample (13 R436, R441). -/
def State.fuseVolts (s : State) : Bool := decide (50000 ≤ s.pwr.vin.toNat)

/-! ### Lifecycle (13 R441-R444) -/

/-- The token digest a transition needs (13 Table 5): `none` for a pair not allowed, `some none` for no token. -/
def Sec.transition (x : Sec) (tgt : Nat) : Option (Option (Option Digest)) :=
  match x.state, tgt with
  | 0, 1 => some (some x.tProv)
  | 0, 4 | 1, 4 | 3, 4 => some none
  | 1, 2 => some (some x.tDeploy)
  | 2, 3 => some (some x.tReturn)
  | 2, 4 => some (some x.tTerm)
  | _, _ => none

/-- The further precondition of a transition. -/
def Sec.ready (x : Sec) (tgt : Nat) : Bool :=
  match x.state, tgt with
  | 0, 1 => x.vk0.isSome
  | 1, 2 => x.kekHeld && x.idHeld && x.fs.isSome && x.tTerm.isSome
  | _, _ => true

/-- The erase before RETURNED (13 R443). (log 38, DEDUCED) -/
def Sec.erase (x : Sec) : Sec :=
  { x with volFs := none, volTierF := none, volRoot := 0, kek := 2, tDeploy := some (BitVec.allOnes 256),
           tTerm := some (BitVec.allOnes 256), store := {}, store1 := {} }

/-- Program the three lifecycle copies to a word (13 R442). (log 38, DEDUCED) -/
def Sec.program (x : Sec) (w : Byte) : Sec :=
  { x with copy0 := x.copy0 ||| w, copy1 := x.copy1 ||| w, copy2 := x.copy2 ||| w }

/-- A refused token is counted (13 R444). -/
def State.lcDenied (s : State) : State :=
  ({ s with sec := { s.sec with fails := satAdd s.sec.fails 1 } }).secEnd .denied

/-- LC_ADVANCE. (log 38, DEDUCED) -/
def State.lcAdvance (s : State) : State :=
  let x := s.sec
  let tgt := x.target.toNat
  if 8 ≤ x.fails.toNat then s.lcDenied
  else
    match x.transition tgt with
    | none => s.secEnd .format
    | some tok =>
      if x.tenancy = 1 || !s.fuseVolts || !x.ready tgt then s.secEnd .state
      else if (match tok with
          | none => false
          | some d => d != some (sha256 x.args)) then s.lcDenied
      else
        let w := lcWord tgt
        let y := (if tgt = 3 then x.erase else x).program w
        if y.copy0 = w ∧ y.copy1 = w ∧ y.copy2 = w then ({ s with sec := y }).secEnd .ok
        else s.secEnd .state

/-- LC_ADVANCE. -/
def execLcAdvance (sideband : Bool) (s : State) : Host.Outcome State Fault Refusal :=
  .next (s.secCmd 1 sideband false State.lcAdvance)

/-! ### Provisioning (13 R445-R447) -/

/-- KEYGEN: the KEK, the identity key, and a new key store that seals what was volatile. (log 38, DEDUCED) -/
def State.keygen (s : State) : State :=
  let x := s.sec
  if x.lcForce = 1 ∧ x.kek = 0 then
    let y := ({ x with kek := 1, genId := x.genId + 1 }).writeStore fun k =>
      { k with root := x.volRoot, idkey := true, fs := x.volFs, tierF := x.volTierF }
    ({ s with sec := { y with volFs := none, volTierF := none, volRoot := 0 } }).secEnd .ok
  else s.secEnd .state

/-- KEYGEN. -/
def execKeygen (sideband : Bool) (s : State) : Host.Outcome State Fault Refusal :=
  .next (s.secCmd 2 sideband false State.keygen)

/-- DIGEST_SET. -/
def State.digestSet (s : State) : State :=
  let x := s.sec
  if x.lcForce ≠ 1 then s.secEnd .state
  else if x.sel then
    if x.tTerm.isSome then s.secEnd .state else ({ s with sec := { x with tTerm := some x.argDigest } }).secEnd .ok
  else if x.tDeploy.isSome then s.secEnd .state
  else ({ s with sec := { x with tDeploy := some x.argDigest } }).secEnd .ok

/-- DIGEST_SET. -/
def execDigestSet (sideband : Bool) (s : State) : Host.Outcome State Fault Refusal :=
  .next (s.secCmd 3 sideband false State.digestSet)

/-- FS_SET over a link port, or over the sideband bus. (log 38, DEDUCED) -/
def State.fsSet (s : State) (port : Option Nat) : State :=
  let x := s.sec
  if (List.range 16).any fun p => (s.port p).st == .up && some p != port then s.secEnd .state
  else
    let v := some x.argDigest
    ({ s with sec := if x.kekHeld then x.writeStore fun k => { k with fs := v } else { x with volFs := v } }).secEnd .ok

/-- FS_SET. -/
def execFsSet (port : Option (Fin 16)) (s : State) : Host.Outcome State Fault Refusal :=
  .next (s.secCmd 4 port.isNone s.sec.fs.isNone fun s => s.fsSet (port.map (·.val)))

/-! ### Firmware (13 R433-R437) -/

/-- The vendor key slot whose digest matches an image's key, if programmed and not revoked. -/
def Sec.keySlot (x : Sec) (img : List Byte) : Option Nat :=
  let g := sha256 (slice img 64 388)
  let slots := [x.vk0, x.vk1, x.vk2]
  (List.range 3).find? fun k => slots[k]? == some (some g) && !bit x.revoked.toNat k

/-- The form of an image (13 R434, R435 step 1). (log 39, DEDUCED) -/
def Sec.imageForm (x : Sec) (img : List Byte) : Bool :=
  let len := field img 16 8
  let rev := field img 7 1
  let zero (a n : Nat) : Bool := (slice img a n).all (· == 0)
  field img 0 4 == 0x4D574658 && field img 4 2 == 1 && decide (field img 6 1 ≤ 1) && decide (rev < 8)
    && len % 4096 == 0 && decide (4096 ≤ len) && decide (len ≤ 2 ^ 28) && img.length == 4096 + len
    && zero 24 8 && field img 448 4 == 65537 && zero 452 3260
    && (match x.keySlot img with
      | some k => !bit rev k
      | none => true)

/-- The checks of R435 in order: the first that fails gives the status. (log 39, DEDUCED) -/
def Sec.verify (x : Sec) (img : List Byte) : Status :=
  if !x.imageForm img then .format
  else if (x.keySlot img).isNone then .denied
  else if field img 12 4 < x.floor then .denied
  else if !rsaVerify (leNat (slice img 64 384)) (leNat (slice img 3712 384)) (slice img 0 3712) then .denied
  else if sha256 (img.drop 4096) != BitVec.ofNat 256 (leNat (slice img 32 32)) then .denied
  else .ok

/-- The fuse actions of an image, deferred at low input (13 R436). (log 38, DEDUCED) -/
def Sec.fuses (x : Sec) (img : List Byte) (volts : Bool) : Sec :=
  let rev := field img 7 1
  let svn := bit (field img 6 1) 0
  if rev = 0 ∧ !svn then x
  else if volts then
    { x with revoked := x.revoked ||| BitVec.ofNat 3 rev, floor := if svn then max x.floor (field img 12 4) else x.floor,
             defer := false }
  else { x with defer := true }

/-- A verified image is started. -/
def Sec.startFw (x : Sec) (img : List Byte) (volts source : Bool) : Sec :=
  let slot := (x.keySlot img).getD 0
  let y := x.fuses img volts
  { y with fwRunning := true, fwver := BitVec.ofNat 32 (field img 8 4), fwSvn := BitVec.ofNat 7 (field img 12 4),
           fwSlot := BitVec.ofNat 2 slot, fwSource := source, fwDigest := sha256 img, fwCopy := some img,
           bootFailed := false }

/-- Firmware starts: SB_PROG shows it (16 Table 10). (log 39, DEDUCED) -/
def State.startFw (s : State) (img : List Byte) (source : Bool) : State :=
  { s with sec := s.sec.startFw img s.fuseVolts source, sb := { s.sb with step := 4 } }

/-- BOOT: an image as read from host memory through the port that SEL names. (log 39, DEDUCED) -/
def State.boot (s : State) (img : List Byte) (failed : Bool) : State :=
  if s.sec.fwRunning || !(s.portUp false || s.portUp true) then s.secEnd .state
  else if failed then s.secEnd .link
  else
    match s.sec.verify img with
    | .ok => (s.startFw img false).secEnd .ok
    | e => ({ s with sec := { s.sec with bootFailed := true }, sb := { s.sb with step := 14 } }).secEnd e

/-- BOOT. -/
def execBoot (sideband : Bool) (image : List Byte) (failed : Bool) (s : State) : Host.Outcome State Fault Refusal :=
  .next (s.secCmd 5 sideband false fun s => s.boot image failed)

/-! ### The tenant switch (13 R451, R452, 17 R536, R537) -/

/-- A core after a switch: only ENABLE and FENCE stay, and what the self-test and supervisor found.
(log 40, DEDUCED) -/
def Core.blank (c : Core) : Core :=
  { enable := c.enable, fence := c.fence, good := c.good, barred := c.barred
    st := if c.fence then .fenced else if c.enable then .idle else .off }

/-- Entries of lanes are cleared from a table. -/
def dropLanes {w : Nat} (owner : BitVec w → Nat) (t : Tab (BitVec w)) : Tab (BitVec w) :=
  t.filter fun e => decide (8 ≤ owner e.2)

/-- An owner register without the lanes' entries (06 Table 16). -/
def dropLaneOwners {w : Nat} (v : BitVec w) : BitVec w := (List.range 8).foldl (fun v l => clearOwn v l) v

/-- A router after a switch. -/
def Router.blank (r : Router) : Router :=
  { r with active := dropLanes slOwner r.active, shadow := dropLanes slOwner r.shadow,
           mirror := dropLanes slOwner r.mirror, mirrorShadow := dropLanes slOwner r.mirrorShadow,
           fault := {}, corr := 0, uncorr := 0 }

/-- A memory stop after a switch. -/
def MemStop.blank (t : MemStop) : MemStop :=
  { t with corr := 0, uncorr := 0, uev := false, margin := false, ueaddr := 0, ueowner := 0, wign := false,
           own0 := dropLaneOwners t.own0, own1 := dropLaneOwners t.own1, own0Shadow := dropLaneOwners t.own0Shadow,
           own1Shadow := dropLaneOwners t.own1Shadow, segs := [], mirrors := [], queue := [], regions := [] }

/-- A die after a switch. (log 40, DEDUCED) -/
def Die.blank (x : Die) : Die :=
  { x with
    ctl := { x.ctl with err := false, errcode := 0, errrec := 0, vRouter := 0, vPort := 0, vCycle := 0, vOwner := 0,
                        vClass := 0, vKind := 0, vValid := false, count := 0 }
    bcnt := [], origins := [], elastic := [], flights := [], gets := [], stewMem := [], clusterMem := [], boundCl := []
    routers := Tab.mapVals {} (fun _ (r : Router) => r.blank) x.routers
    bridges := Tab.mapVals {} (fun _ (b : Bridge) =>
      { b with active := dropLanes slOwner b.active, shadow := dropLanes slOwner b.shadow }) x.bridges
    lanes := [], ucps := [], reqRings := [], laneQ := [], sampler := [], fqueue := [], fdefer := false
    hstops := Tab.mapVals {} (fun _ (t : MemStop) => t.blank) x.hstops
    mstops := Tab.mapVals {} (fun _ (t : MemStop) => t.blank) x.mstops
    fstops := Tab.mapVals {} (fun _ (t : MemStop) => t.blank) x.fstops
    memsec := { x.memsec with sealed := x.memsec.sealedNext, withdrawn := 0 } }

/-- A link port after a switch: module state stays. (log 40, DEDUCED) -/
def Port.blank (p : Port) : Port :=
  { p with corr := 0, uncorr := 0, auth := 0, mismatch := 0, ctldrop := 0, losses := 0, bcnt := [], lmap := 0,
           lmapShadow := 0, tx := dropLanes lkOwner p.tx, rx := dropLanes lkOwner p.rx,
           txShadow := dropLanes lkOwner p.txShadow, rxShadow := dropLanes lkOwner p.rxShadow,
           egress := [], blocks := [], transit := [], general := [], repeated := [], units := [], unitsNext := [],
           acted := [], lanes := Tab.mapVals {} (fun _ (n : LinkLane) => { n with symerr := 0 }) p.lanes }

/-- A model back in the library (07 R244). -/
def Model.toLibrary (m : Model) : Model := { digest := m.digest, manifest := m.manifest, body := m.body }

/-- New keys, a zero root and zero epochs (13 R451 steps 3 and 4). -/
def Sec.switchKeys (x : Sec) : Sec :=
  let t := some (x.genH + 1)
  let y := { x with genH := x.genH + 1, genM := x.genM + 1, switches := satAdd x.switches 1 }
  if x.kekHeld then y.writeStore fun k => { k with root := 0, tierF := t }
  else { y with volTierF := t, volRoot := 0 }

/-- The sessions of a pool member are discarded; their SIDs are answered with GONE (17 R536). -/
def Pool.blank (p : Pool) (member : Bool) : Pool :=
  { discarded := if member then p.discarded ++ (p.sessions.map Prod.fst).filter (fun k => !p.discarded.contains k) else [] }

/-- What a Tongs keeps: the work of context 0. (log 40, DEDUCED) -/
def Tongs.blank (t : Tongs) : Tongs := { t with work := t.work.filter (fun e => e.1 == 0), evUse := [] }

/-- A tenant switch. (log 40, DEDUCED) -/
def State.tenantSwitch (s : State) : State :=
  let old := (s.die 0).memsec.sealed
  let new := (s.die 0).memsec.sealedNext
  let c0 := s.ctx 0
  let s := { s with
    cores := Tab.mapVals {} (fun _ (c : Core) => c.blank) s.cores
    dies := Tab.mapVals {} (fun _ (x : Die) => x.blank) s.dies
    ports := Tab.mapVals {} (fun _ (p : Port) => p.blank) s.ports
    tongs0 := s.tongs0.blank, tongs8 := s.tongs8.blank
    reads := s.reads.filter fun r => r.ctx == 0
    hif := { s.hif with badowner := 0, badtail := 0, badform := 0 }
    ctxs := Tab.put {} [] 0 { st := c0.st, pasid := c0.pasid }
    mark := 0, comps := [], joins := [], arenas := [], fences := [], recs := [], recIndex := 0, recPage := 0, revs := []
    faultQ := [], faultLog := []
    pool := s.pool.blank s.sb.role
    models := if old || new then [] else s.models.map Model.toLibrary
    tierF := if old || new then [] else s.tierF
    tierH := if new then s.tierH else [], tierM := if new then s.tierM else []
    sealH := if new then s.sealH else [], sealM := if new then s.sealM else []
    sec := { s.sec.switchKeys with clean := true }
    rst := { s.rst with dump0 := none, dump1 := none, newest := false, shown0 := none, shown1 := none, shownNewest := false } }
  s.recap

/-! ### Tenancy (13 R448-R450) -/

/-- TENANT_START. (log 40, DEDUCED) -/
def execTenantStart (q : Fin 4096) (s : State) : Host.Outcome State Fault Refusal :=
  .next (s.descr q.val 0x07 [(16, 32)] (fun _ => true) noDenied fun s st =>
    if s.sec.tenancy = 1 then s.complete q.val .state
    else if BitVec.ofNat 256 (field st.b 16 32) ≠ s.sec.fRoot then s.complete q.val .denied
    else
      let s := if s.sec.tenancy = 0 ∧ !s.sec.clean then s.tenantSwitch else s
      ({ s with sec := { s.sec with tenancy := 1, clean := false } }).complete q.val .ok)

/-- TENANT_END. (log 40, DEDUCED) -/
def execTenantEnd (q : Fin 4096) (s : State) : Host.Outcome State Fault Refusal :=
  .next (s.descr q.val 0x08 [] (fun _ => true) noDenied fun s _ =>
    if s.sec.tenancy = 0 || s.ctxs.any (fun e => e.1 != 0 && e.2.st != .closed) then s.complete q.val .state
    else
      let s := s.tenantSwitch
      ({ s with sec := { s.sec with tenancy := 0, clean := true } }).complete q.val .ok)

/-! ### Attestation (13 R453, R454) -/

/-- Bytes 0-639 of a quote (13 Table 8). -/
def State.quoteBody (s : State) (nonce : List Byte) : List Byte :=
  let x := s.sec
  leBytes 4 0x51545841 ++ leBytes 2 1 ++ leBytes 2 1024 ++ leBytes 3 s.route.devid.toNat ++ leBytes 1 x.state
    ++ leBytes 1 1 ++ leBytes 1 x.fwSlot.toNat ++ leBytes 1 x.revoked.toNat
    ++ leBytes 1 (pack [(0, x.tenancy % 4), (2, b2n (s.die 0).memsec.sealed), (3, b2n x.debug)])
    ++ leBytes 4 x.fwver.toNat ++ leBytes 4 x.fwSvn.toNat ++ leBytes 4 x.floor ++ leBytes 4 x.switches.toNat
    ++ slice nonce 0 32 ++ leBytes 32 x.fwDigest.toNat ++ leBytes 6 s.stamp.toNat ++ leBytes 2 s.mark.toNat
    ++ leBytes 8 (((s.liveCaps.find? fun e => e.1 == 6).map Prod.snd).getD 0) ++ leBytes 16 0
    ++ leBytes 384 x.idModulus ++ leBytes 4 65537 ++ leBytes 124 0

/-- ATTEST: DENIED in TEST, RETURNED and without an identity key. The signature's salt is random, so its bytes are
left open. (log 38, DEDUCED) -/
def execAttest (q : Fin 4096) (s : State) : Host.Outcome State Fault Refusal :=
  .next (s.descr q.val 0x0B [(16, 32), (48, 8), (56, 4)]
    (fun b => al64 b 48 && field b 56 4 % 64 == 0 && decide (1024 ≤ field b 56 4)) noDenied fun s st =>
      if s.sec.lcForce = 0 || s.sec.lcForce = 3 || !s.sec.idHeld then s.complete q.val .denied
      else
        let (sig, s) := s.fresh
        s.sendOut q.val (field st.b 48 8) (s.quoteBody (slice st.b 16 32) ++ leBytes 384 sig) .ok (BitVec.ofNat 256 1024))

end Sys2Proof.Machine
end

