-- ==== Sys2Proof/Machine/Reset.lean ====
section
/-! DEFINITION. Watchdogs, reset entry, the dump, reset release and recovery (15 R486-R511, 01 R17, R18, R27-R29,
06 R208, R221, 07 R243, 12 R422, 13 R437, R442, 18 R551). -/

namespace Sys2Proof.Machine

/-! ### Causes (15 R486-R490, R495, R511, 16 R523, 01 R28) -/

/-- A write of `RST_CTL.RESET` with a KEY. -/
def State.resetWrite (s : State) (key : Byte) : State :=
  if !s.inRun then s
  else if key == 0xA5 then s.resetEntry 1
  else { s with rst := { s.rst with wign := true } }

/-- RESET. -/
def execReset (key : Byte) (s : State) : Host.Outcome State Fault Refusal := .next (s.resetWrite key)

/-- SB_RST: a counted low in RUN. -/
def execSbRst (s : State) : Host.Outcome State Fault Refusal := .next (s.resetEntry 2)

/-- The spare of a die can take a role: it passed its self-test, has not failed and holds none. (log 46, DEDUCED) -/
def Stewards.spare (x : Stewards) : Bool := x.good.contains 4 && !x.failed.contains 4 && !x.roles.contains 4

/-- STEWARD_WATCHDOG: the spare takes the role at the next step boundary; with none the module resets.
(log 28, DEDUCED) -/
def execStewardWatchdog (die : Fin 8) (steward : Fin 5) (s : State) : Host.Outcome State Fault Refusal :=
  let d := die.val
  let x := (s.die d).stew
  .next (if !s.inRun || x.failed.contains steward.val || !x.good.contains steward.val then s
    else
      let second := !x.failed.isEmpty
      let s := { s with rst := { s.rst with stewfail := s.rst.stewfail ||| BitVec.ofNat 40 (2 ^ (5 * d + steward.val)) } }
      let s := s.updDie d fun y => { y with stew := { y.stew with
        failed := y.stew.failed ++ [steward.val]
        takeover := if x.roles.contains steward.val && x.spare then some steward.val else y.stew.takeover } }
      if second || (x.roles.contains steward.val && !x.spare) then s.resetEntry 3 else s)

/-- STEWARD_TAKEOVER: steward 4 takes the role of the failed one. (log 46, DEDUCED) -/
def execStewardTakeover (die : Fin 8) (s : State) : Host.Outcome State Fault Refusal :=
  .next (s.updDie die.val fun x =>
    match x.stew.takeover with
    | some f => { x with stew := { x.stew with roles := x.stew.roles.map (fun r => if r = f then 4 else r), takeover := none } }
    | none => x)

/-- MODULE_WATCHDOG. (log 46, DEDUCED) -/
def execModuleWatchdog (s : State) : Host.Outcome State Fault Refusal := .next (s.resetEntry 7)

/-- TEARDOWN_TIMEOUT: a revocation of the context is still under way. (log 9, DESIGN CHOICE) -/
def execTeardownTimeout (ctx : Fin 1024) (s : State) : Host.Outcome State Fault Refusal :=
  .next (if s.revs.any fun r => r.ctx == ctx.val then s.resetEntry 4 else s)

/-- ENGINE_WATCHDOG: the core is counted as stuck and bound no more; no context is charged. (log 46, DEDUCED) -/
def execEngineWatchdog (c : CoreId) (e : Eng) (s : State) : Host.Outcome State Fault Refusal :=
  let _ := e
  let x := s.core c.key
  .next (if x.st == .run then
      { (s.setCore c.key { x with barred := true }) with rst := { s.rst with stuck := satAdd s.rst.stuck 1 } }
    else s)

/-- FIRMWARE_ERROR. -/
def execFirmwareError (s : State) : Host.Outcome State Fault Refusal := .next (s.resetEntry 8)

/-! ### Collection (15 R486, R496, R498) -/

/-- A unit that answers or is given up leaves the list. -/
def Rst.drop (x : Rst) (l : List (Nat × Nat)) : Rst :=
  { x with collecting := x.collecting.filter fun e => !l.contains e }

/-- COLLECT: scratch heads and cluster-memory headers of a die go into the dump. -/
def execCollect (die : Fin 8) (s : State) : Host.Outcome State Fault Refusal :=
  let d := die.val
  let l := s.rst.collecting.filter fun e => e.1 == d
  .next (if !s.inEntry || l.isEmpty then s
    else
      let heads := (l.filter fun e => decide (e.2 < 512)).flatMap fun e => (s.core (512 * d + e.2)).scratch.read 0 4096
      let mems := (l.filter fun e => decide (512 ≤ e.2)).flatMap fun e =>
        Memory.read (Tab.look [] (s.die d).clusterMem (e.2 - 512)) 0 16384
      let x := s.rst.drop l
      { s with
        rst := { x with sections := x.sections ++ [(4, d, heads), (5, d, mems)] }
        sb := s.sb.halt 0x81 })

/-- COLLECTION_TIMEOUT: the unit is recorded as absent (section kind 7). -/
def execCollectionTimeout (die : Fin 8) (unit : Nat) (s : State) : Host.Outcome State Fault Refusal :=
  let e := (die.val, unit)
  .next (if s.inEntry && s.rst.collecting.contains e then
      let x := s.rst.drop [e]
      { s with rst := { x with absent := satAdd x.absent 1, sections := x.sections ++ [(7, die.val, leBytes 2 unit)] } }
    else s)

/-- The registers with a VALID, ERR or UEV bit of a die (15 R498): their offsets and places. -/
def dieCaptures (d : Nat) : List (Nat × RegId) :=
  let w := d * 0x4000000
  ((List.range 10).flatMap fun c => (List.range 26).map fun k =>
      (w + 0x1000000 + c * 0x10000 + k * 0x800 + 0x10, RegId.core (coreKey d c k) 0x10))
    ++ ((List.range 10).flatMap fun c => (List.range 30).map fun r =>
      (w + 0x2000000 + c * 0x20000 + r * 0x1000 + 0xA10, RegId.router d (routerAt c (r % 6) (r / 6)) 0xA10))
    ++ [(w + 0x2300008, RegId.mesh d 0x08), (w + 0x2300018, RegId.mesh d 0x18)]
    ++ ((List.range 8).map fun i => (w + 0x3000000 + i * 0x1000 + 0x10, RegId.stop d .h i 0x10))
    ++ ((List.range 3).map fun i => (w + 0x3100000 + i * 0x1000 + 0x10, RegId.stop d .m i 0x10))
    ++ ((List.range 2).map fun i => (w + 0x3200000 + i * 0x1000 + 0x10, RegId.stop d .f i 0x10))

/-- Those of the module-common blocks. -/
def commonCaptures : List (Nat × RegId) :=
  ((List.range 1024).map fun c => (0x20020000 + c * 0x80 + 0x08, RegId.ctx c 0x08)) ++ [(0x20050010, RegId.pool 0x10)]

/-- Pairs of offset and value. (log 44, DEDUCED) -/
def State.captures (s : State) (l : List (Nat × RegId)) : List Byte :=
  l.flatMap fun e => leBytes 8 e.1 ++ leBytes 8 (s.regVal e.2)

/-- Entries of owners 0xC and 0xE of a link table (15 Table 7). -/
def keepLinks (t : Tab (BitVec 16)) : Tab (BitVec 16) := t.filter fun e => lkOwner e.2 == 0xC || lkOwner e.2 == 0xE

/-- The link save (15 Table 7). -/
def State.linkSave (s : State) : LinkSave :=
  { group := s.route.group, member := s.route.member, devid := s.route.devid,
    ports := (List.range 16).map fun i => ((s.port i).mgmtin, keepLinks (s.port i).tx, keepLinks (s.port i).rx) }

/-- The link save as bytes of its section. (log 24, DESIGN CHOICE) -/
def LinkSave.bytes (x : LinkSave) : List Byte :=
  let tab (t : Tab (BitVec 16)) (n : Nat) : List Byte := (List.range n).flatMap fun i => leBytes 2 (Tab.look 0 t i).toNat
  tab x.group 1024 ++ tab x.member 256 ++ leBytes 4 x.devid.toNat
    ++ x.ports.flatMap fun p => leBytes 1 (b2n p.1) ++ tab p.2.1 16 ++ tab p.2.2 16

/-- The dump of a module reset (15 R498, R502). (log 44, DEDUCED) -/
def State.resetDump (s : State) : Dump :=
  let x := s.rst
  { cause := x.cause.toNat, kind := b2n x.psetUsed, resets := x.resets.toNat, absent := x.absent.toNat, stamp := x.stamp,
    sections := [(1, 0, s.faultSection 4096)] ++ ((List.range 8).map fun d => (2, d, []))
      ++ ((List.range 8).map fun d =>
        (3, d, s.captures (dieCaptures d ++ (if d = 0 then commonCaptures else []))))
      ++ x.sections ++ (if x.psetUsed then [(6, 0, s.linkSave.bytes)] else []) }

/-! ### Release (15 R502, R504, R509, 18 R551) -/

/-- A region keeps its epoch; what an arena held is released (06 R216, R218). (log 43, DEDUCED) -/
def Region.afterReset (r : Region) (keepModels : Bool) : Region :=
  { epoch := r.epoch, withdrawn := r.withdrawn, advance := r.advance || r.arena.isSome,
    hearth := if keepModels then r.hearth else none }

/-- A memory stop begins to train (06 R221); tier M keeps its mirror tables. -/
def MemStop.afterReset (t : MemStop) (keepModels : Bool) : MemStop :=
  { st := .training, regions := Tab.mapVals {} (fun _ (r : Region) => r.afterReset keepModels) t.regions,
    mirrors := if keepModels then t.mirrors else [] }

/-- The stops of a class. -/
def stopsAfter (n : Nat) (keepModels : Bool) (t : Tab MemStop) : Tab MemStop :=
  (List.range n).foldl (fun l i => Tab.upd ({} : MemStop) l i fun x => x.afterReset keepModels) t

/-- A die after a reset. (log 43, DEDUCED) -/
def Die.afterReset (x : Die) (d : Nat) : Die :=
  { hstops := stopsAfter 8 false x.hstops, mstops := stopsAfter 3 true x.mstops, fstops := stopsAfter 2 false x.fstops,
    memsec := { sealedNext := x.memsec.sealedNext, sealed := x.memsec.sealed },
    thr := { vmin := Config.vmin d }, fmc := { qualified := x.fmc.qualified } }

/-- A model after a reset: HOT and LOADING become WARM, pins are gone (07 R243). (log 43, DEDUCED) -/
def Model.afterReset (m : Model) : Model :=
  if m.st == .library then { digest := m.digest, manifest := m.manifest, body := m.body }
  else { m with st := .warm, loadMap := [], pins := 0, waiters := [] }

/-- The power block after a reset. (log 43, DEDUCED) -/
def Pwr.afterReset (p : Pwr) : Pwr :=
  { cap := p.cap, theta := p.theta, shift := p.shift, pinned := p.pinned, bank := p.bank }

/-- The security block after a reset: the vote is decoded anew, a started tenancy is held (13 R442, R448).
(log 43, DEDUCED) -/
def Sec.afterReset (x : Sec) : Sec :=
  { x with op := 0, target := 0, busy := false, wign := false, done := false, status := 0, fails := 0, sel := false,
           arg0 := 0, arg1 := 0, arg2 := 0, arg3 := 0, lcForce := lcCode x.vote, defer := false, fwRunning := false,
           fwver := 0, fwSvn := 0, fwSlot := 0, fwSource := false, fwDigest := 0,
           tenancy := if x.tenancy = 1 then 2 else x.tenancy }

/-- A record ring that held records is orphaned (12 R422). -/
def RecRing.afterReset (r : RecRing) : RecRing :=
  { r with orphan := r.orphan || !r.recs.isEmpty, wign := false }

/-- What a pool member keeps of its sessions (10 R353, 15 R506). (log 43, DEDUCED) -/
def Pool.afterReset (p : Pool) : Pool :=
  { sessions := Tab.mapVals {} (fun _ (x : Session) => { x with jobs := [] }) p.sessions, discarded := p.discarded,
    amnesia := p.amnesia }

/-- The device ID of the straps (16 R520). -/
def Sb.devid (x : Sb) : BitVec 18 := BitVec.ofNat 18 (x.slot.toNat + 256 * x.ghint.toNat)

/-- The state at internal reset release: the kept fields as they stand, everything else at its reset value; stops
and ports train. (log 43, DEDUCED) -/
def State.release (s : State) : State :=
  let t : State := { State.reset with
    pending := s.pending, out := s.out, free := s.free, tierM := s.tierM, sealM := s.sealM, tierF := s.tierF,
    models := s.models.map Model.afterReset, commits := s.commits,
    recs := Tab.mapVals {} (fun _ (r : RecRing) => r.afterReset) s.recs,
    pool := s.pool.afterReset, sec := s.sec.afterReset, pwr := s.pwr.afterReset, rst := { s.rst with
      phase := .run, collecting := [], sections := [], selfTested := false, selSlot := false, selDie := 0, selPage := 0 },
    sb := { s.sb with step := if lcCode s.sec.vote = 4 then 15 else 1 },
    route := { devid := s.sb.devid },
    repairCores := s.repairCores, repairClusters := s.repairClusters, repairDies := s.repairDies,
    repairLog := s.repairLog, hardRows := s.hardRows }
  let t := (List.range 8).foldl (fun (t : State) d => t.setDie d ((s.die d).afterReset d)) t
  let t := (List.range 16).foldl (fun (t : State) i => t.updPort i fun p => { p with st := .training }) t
  t.recap

/-- RESET_RELEASE: after power-up with straps latched and the primary qualified, or at the end of a reset entry,
whose dump is written first. -/
def execResetRelease (s : State) : Host.Outcome State Fault Refusal :=
  .next (match s.rst.phase with
    | .powerUp true =>
      if (s.die 0).fmc.qualified then
        let s := { s with sb := s.sb.halt 0x44 }
        { s.release with pool := { amnesia := s.sb.role } }
      else s
    | .entry =>
      if s.rst.collecting.isEmpty && (s.die 0).fmc.qualified then
        let m := s.resetDump
        let s := { s with
          rst := { s.rst.storeDump m with save := if s.rst.psetUsed then some s.linkSave else none }
          sb := s.sb.halt 0x83 }
        s.release
      else s
    | _ => s)

/-! ### Recovery (15 R502-R506, 01 R17, R18, R27-R29) -/

/-- A stage of recovery shown in `SB_PROG.STEP` (16 Table 10). (log 39, DEDUCED) -/
def Sb.stage (x : Sb) (n : Nat) : Sb := if x.step.toNat < n then { x with step := BitVec.ofNat 4 n } else x

/-- The link save comes back (15 R502). -/
def State.restoreLinks (s : State) : State :=
  match s.rst.save with
  | none => s
  | some v =>
    let s := { s with
      route := { s.route with group := v.group, member := v.member, devid := v.devid }
      rst := { s.rst with save := none, restored := true } }
    v.ports.zipIdx.foldl (fun (s : State) e => s.updPort e.2 fun p =>
      { p with mgmtin := e.1.1, tx := e.1.2.1, txShadow := e.1.2.1, rx := e.1.2.2, rxShadow := e.1.2.2 }) s

/-- The firmware copy in tier M is verified and started, or the boot ROM waits for BOOT (13 R437).
(log 39, DEDUCED) -/
def State.startCopy (s : State) : State :=
  match s.sec.fwCopy with
  | some img =>
    if s.sec.fwRunning then s
    else if s.sec.verify img == .ok then s.startFw img true
    else { s with sec := { s.sec with fwCopy := none }, sb := { s.sb with step := 14 } }
  | none => s

/-- Every stop of a tier on the working dies has ended its training. -/
def State.tierReady (s : State) (c : StopClass) : Bool :=
  s.workingDies.all fun d => (List.range (stopCount c)).all fun i =>
    let t : MemStop := Tab.look {} (match c with
      | .h => (s.die d).hstops
      | .m => (s.die d).mstops
      | .f => (s.die d).fstops) i
    t.st == .ready || t.st == .failed

/-- What follows the end of a stop's training: the link save lies on die 0's package 2, firmware and record rings on
its package 0. A package that failed loses what it held. (log 17, 43, DEDUCED) -/
def State.afterStop (s : State) (c : StopClass) (d i : Nat) (good : Bool) : State :=
  let s := if s.tierReady .h then { s with sb := s.sb.stage 5 }
    else if s.tierReady .m then { s with sb := s.sb.stage 2 } else s
  if c == .m && d == 0 && i == 2 then
    if good then s.restoreLinks else { s with rst := { s.rst with save := none } }
  else if c == .m && d == 0 && i == 0 then
    if good then s.startCopy
    else
      let s := { s with
        recs := [], pool := { s.pool with sessions := [], amnesia := s.sb.role }
        sec := { s.sec with fwCopy := none } }
      if s.sec.fwRunning then s else { s with sb := { s.sb with step := 14 } }
  else s

/-- The key of a stop in the repair log. -/
def stopLogKey (i : StopId) : Nat :=
  32 * i.die.val + 8 * (match i.cls with | .h => 0 | .m => 1 | .f => 2) + i.idx.val

/-- The repair log takes up what a training repaired (06 R224). (log 17, DESIGN CHOICE) -/
def State.logRepairs (s : State) (i : StopId) (lanes rows : Nat) : State :=
  { s with repairLog := Tab.put (0, 0) s.repairLog (stopLogKey i) (lanes, rows) }

/-- STOP_READY (06 R221, R224): training ends; a stop without a spare for a required repair fails. -/
def execStopReady (stop : StopId) (lanes rows : Nat) (spareLeft : Bool) (s : State) :
    Host.Outcome State Fault Refusal :=
  .next (if (s.stop stop).st == .training then
      let s := s.updStop stop fun t =>
        if spareLeft then
          { t with st := .ready, enable := true, lanes := BitVec.ofNat 8 lanes, rows := BitVec.ofNat 8 rows,
                   own0 := 0, own1 := 0, own0Shadow := 0, own1Shadow := 0, queue := [] }
        else { t with st := .failed }
      let s := if spareLeft then s.logRepairs stop lanes rows else s
      s.afterStop stop.cls stop.die.val stop.idx.val spareLeft
    else s)

/-- STOP_TRAINING_TIMEOUT (06 R221). -/
def execStopTrainingTimeout (stop : StopId) (s : State) : Host.Outcome State Fault Refusal :=
  .next (if (s.stop stop).st == .training then
      (s.updStop stop fun t => { t with st := .failed }).afterStop stop.cls stop.die.val stop.idx.val false
    else s)

/-- Self-test of a die: its routers, bypass switches and stewards, and whether it works (01 R28).
(log 17, DESIGN CHOICE) -/
def Die.tested (x : Die) (d : Nat) (dead : Bool) (badR badB : List (Fin 8 × Fin 300)) (good : List Nat) : Die :=
  let g := (List.range 5).filter fun i => good.contains (5 * d + i)
  let mine (l : List (Fin 8 × Fin 300)) : List Nat := (l.filter fun e => e.1.val == d).map fun e => e.2.val
  let r := Tab.updAll ({} : Router) x.routers (mine badR) fun r => { r with failed := true }
  let r := Tab.updAll ({} : Router) r (mine badB) fun r => { r with bypfail := true }
  let fails (t : Tab MemStop) (u : Nat → Unit1) (n : Nat) : Tab MemStop :=
    Tab.updAll ({} : MemStop) t ((List.range n).filter fun i => (mine badR).contains (stopRouter (u i))) fun m =>
      { m with st := .failed }
  { x with
    working := !dead && decide (4 ≤ g.length)
    routers := r
    hstops := fails x.hstops Unit1.h 8, mstops := fails x.mstops Unit1.m 3
    fstops := fails x.fstops (fun _ => Unit1.f) 2
    stew := { good := g, roles := g.take 4 } }

/-- SELF_TEST_COMPLETE. -/
def execSelfTestComplete (failed : List CoreId) (deadDies : BitVec 8) (badRouters badBypass : List (Fin 8 × Fin 300))
    (goodStewards : List Nat) (s : State) : Host.Outcome State Fault Refusal :=
  .next (if !s.inRun || s.rst.selfTested || s.sec.terminal then s
    else
      let s := (List.range 8).foldl (fun (s : State) d => s.updDie d fun x =>
        x.tested d (bit deadDies.toNat d || s.repairDies.contains d) badRouters badBypass goodStewards) s
      let s := failed.foldl (fun (s : State) c => s.setCore c.key { s.core c.key with good := false }) s
      let s := { s with rst := { s.rst with selfTested := true } }
      { s with sb := if (s.die 0).working then { s.sb with step := 6 } else { s.sb with step := 13 } })

/-- The cores of a cluster that may be enabled, in ascending order (01 R17). -/
def State.goodCores (s : State) (d c : Nat) : List Nat :=
  ((List.range 26).map (coreKey d c)).filter fun k => (s.core k).good && !s.repairCores.contains k

/-- The clusters a die enables (01 R17, R18, 05 R176). -/
def State.enabledClusters (s : State) (d : Nat) : List Nat :=
  if (s.die d).working then
    ((List.range 10).filter fun c => decide (24 ≤ (s.goodCores d c).length) && !s.repairClusters.contains (d, c)
      && !(s.router d (routerAt c 2 2)).failed && !(s.router d (routerAt c 3 2)).failed).take 8
  else []

/-- The enabled set of a die, its firmware route plan, and the ports of a die that does not work (01 R17, R29,
05 R161). -/
def State.enableDie (s : State) (d : Nat) : State :=
  let cl := s.enabledClusters d
  let ks := cl.flatMap fun c => (s.goodCores d c).take 24
  let s := ks.foldl (fun (s : State) k => s.setCore k { s.core k with enable := true, st := .idle }) s
  let s := s.updDie d fun x => { x with clusters := cl }
  if (s.die d).working then
    (List.range 300).foldl (fun (s : State) r => s.updRouter d r fun x =>
      (Config.routePlan d r).foldl (fun (x : Router) e =>
        { x with active := Tab.put 0 x.active e.1 e.2,
                 mirror := if 256 ≤ e.1 then Tab.put 0 x.mirror e.1 e.2 else x.mirror }) x) s
  else [2 * d, 2 * d + 1].foldl (fun (s : State) i => s.updPort i fun p => { p with st := .off }) s

/-- HIF_READY: with die 0 working and firmware running the enabled set is chosen, the capability table is built and
the dump slots are shown as they stand (15 R504, R505, R510). -/
def execHifReady (s : State) : Host.Outcome State Fault Refusal :=
  .next (if !s.inRun || !s.rst.selfTested || s.hif.ready || s.sec.terminal then s
    else if !(s.die 0).working then { s with sb := { s.sb with step := 13 } }
    else
      let s := s.startCopy
      if !s.sec.fwRunning then { s with sb := { s.sb with step := 14 } }
      else
        let s := (List.range 8).foldl (fun (s : State) d => s.enableDie d) s
        { s with
          hif := { s.hif with ready := true }
          caps := s.fixedCaps.map fun e => (BitVec.ofNat 64 e.1, BitVec.ofNat 64 e.2)
          rst := { s.rst with shown0 := s.rst.dump0, shown1 := s.rst.dump1, shownNewest := s.rst.newest }
          sb := { s.sb with step := 7 } })

/-- Both slots become invalid (15 R510). -/
def State.clearDumps (s : State) : State :=
  { s with rst := { s.rst with dump0 := none, dump1 := none, newest := false, shown0 := none, shown1 := none,
                               shownNewest := false } }

/-- CLEAR. -/
def execClear (s : State) : Host.Outcome State Fault Refusal := .next (if s.inEntry then s else s.clearDumps)

/-! ### Straps (16 R518-R520) -/

/-- What 16 samples of the shared pins latch. (log 45, DEDUCED) -/
def Sb.latch (x : Sb) (samples : List (BitVec 12)) : Sb :=
  let raw := (samples.getLast?).getD 0
  let badMark := samples.any fun v => !bit v.toNat 0 || !bit v.toNat 1
  let unstable := samples.any fun v => v != raw
  let v := if badMark || unstable then 0 else raw.toNat
  { x with slot := BitVec.ofNat 4 (bits v 5 2), ghint := BitVec.ofNat 4 (bits v 9 6), role := bit v 10, pset := bit v 11,
           bad := badMark, unstable, raw }

/-- STRAP_WINDOW: once in the power-up, before reset release; then HALT begins. -/
def execStrapWindow (samples : List (BitVec 12)) (s : State) : Host.Outcome State Fault Refusal :=
  .next (match s.rst.phase with
    | .powerUp false =>
      let b := s.sb.latch samples
      { s with
        rst := { s.rst with phase := .powerUp true, pset := b.pset }
        sb := b.halt 0x40
        route := { s.route with devid := b.devid } }
    | _ => s)

end Sys2Proof.Machine
end

