-- ==== Sys2Proof/Machine/RegWrite.lean ====
section
/-! DEFINITION. Writes of the registers, field by field as their access types and their chapters' rules say, and
the clearing of RC fields (00 R10-R12, 18 R544, R547, R550 and the register tables of chapters 02 to 16). -/

namespace Sys2Proof.Machine

/-- A W1C flag after a write of bit `i`. -/
def w1c (f : Bool) (v i : Nat) : Bool := f && !bit v i

/-- A field `[hi:lo]` of a written value. -/
def fld (w : Nat) (v hi lo : Nat) : BitVec w := BitVec.ofNat w (bits v hi lo)

/-! ### Blocks of a die -/

/-- A write of `CORE_CTL`: ignored while the core runs (03 R111). -/
def Core.writeCtl (c : Core) (v : Nat) : Core :=
  if c.st == .run then { c with wign := true }
  else
    let st := if bit v 1 then CoreState.fenced else if !bit v 0 then .off
      else if c.st == .off || c.st == .fenced then .idle else c.st
    { c with enable := bit v 0, fence := bit v 1, entry := fld 12 v 15 4, st }

/-- A write to a core's registers. -/
def Core.write (c : Core) (o v : Nat) : Core :=
  match o with
  | 0x00 => c.writeCtl v
  | 0x08 => { c with wign := w1c c.wign v 7 }
  | 0x10 => { c with fault := { c.fault with valid := w1c c.fault.valid v 30, more := w1c c.fault.more v 31 } }
  | _ => c

/-- Four 16-bit entries written from entry `k` on. (log 17, DESIGN CHOICE) -/
def put4 (t : Tab (BitVec 16)) (k v : Nat) : Tab (BitVec 16) :=
  (List.range 4).foldl (fun t i => Tab.put 0 t (k + i) (fld 16 v (16 * i + 15) (16 * i))) t

/-- A write to a router's registers: table writes go to the shadow bank and to the bypass switch's mirror of it
(05 R187). -/
def Router.write (r : Router) (o v : Nat) : Router :=
  if o < 0xA00 then
    let k := 256 * (o / 0x200) + o % 0x200 / 2
    { r with shadow := put4 r.shadow k v, mirrorShadow := if 0x200 ≤ o then put4 r.mirrorShadow k v else r.mirrorShadow }
  else
    match o with
    | 0xA00 => { r with bypass := bit v 0, view := bit v 1 }
    | 0xA10 => { r with fault := { r.fault with valid := w1c r.fault.valid v 23, more := w1c r.fault.more v 24 } }
    | _ => r

/-- A write to the mesh control registers (05 Tables 16-19, R188): an ignored write leaves the register's other
fields. (log 19, DESIGN CHOICE) -/
def Die.writeMesh (x : Die) (o v : Nat) : Die :=
  match o with
  | 0x00 => { x with ctl := { x.ctl with base := fld 42 v 47 6 } }
  | 0x08 =>
    if bit v 0 && x.ctl.arm then x.loadGo
    else
      let x := { x with ctl := { x.ctl with err := w1c x.ctl.err v 2 } }
      if bit v 0 then x.loadGo else x
  | 0x10 =>
    if x.ctl.busy then { x with ctl := { x.ctl with wign := true } }
    else
      { x with ctl := { x.ctl with
          lane := fld 3 v 3 1, arm := x.ctl.arm || bit v 0, done := w1c x.ctl.done v 4, refused := w1c x.ctl.refused v 5 } }
  | 0x18 => { x with ctl := { x.ctl with vValid := w1c x.ctl.vValid v 30, wign := w1c x.ctl.wign v 31 } }
  | _ => x

/-- A write to a lane's registers (04 R153, 17 R534). -/
def State.writeLane (s : State) (d l o v : Nat) : State :=
  match o with
  | 0x00 =>
    let s := s.updLane d l fun L =>
      if L.st == .idle then { L with enable := bit v 0, rfw := fld 4 v 7 4 } else L
    let s := if bit v 1 then s.laneStop d l else s
    s.laneDsrc d l (bits v 3 2)
  | 0x08 => s.updLane d l fun L => { L with late := w1c L.late v 11, timeout := w1c L.timeout v 12 }
  | _ => s

/-- A write to a memory stop's registers (06 Tables 12-16, R223, R226). -/
def MemStop.write (t : MemStop) (armed owners : Bool) (o v : Nat) : MemStop :=
  match o with
  | 0x000 =>
    if bit v 1 && t.st == .ready && t.anyOwner then { t with wign := true }
    else
      let t := { t with enable := bit v 0, scrub := bit v 2 }
      if bit v 1 then t.train else t
  | 0x008 => { t with wign := w1c t.wign v 3 }
  | 0x010 => { t with uev := w1c t.uev v 48, margin := w1c t.margin v 49 }
  | 0x100 => if owners then t.writeOwn armed false (BitVec.ofNat 64 v) else t
  | 0x108 => if owners then t.writeOwn armed true (BitVec.ofNat 64 v) else t
  | _ => t

/-- A write to the memory security registers (06 Tables 17-20). -/
def MemSec.write (m : MemSec) (o v : Nat) : MemSec :=
  match o with
  | 0x00 => { m with sealedNext := bit v 0 }
  | 0x08 => { m with hmask := fld 8 v 7 0, mmask := fld 3 v 10 8, fmask := fld 2 v 12 11 }
  | 0x10 => { m with selTier := bit v 0, selStop := fld 3 v 3 1, selRegion := fld 15 v 18 4 }
  | _ => m

/-- A write of a link table register: entry 0 is fixed (11 R410, Table 19). (log 17, DESIGN CHOICE) -/
def putLink (t : Tab (BitVec 16)) (k v : Nat) : Tab (BitVec 16) := Tab.put 0 (put4 t k v) 0 0

/-- A port's tables are in use (11 R410). -/
def Port.busy (p : Port) : Bool := p.st == .training || p.st == .up

/-- A write to a link port's registers (11 Tables 12-19). -/
def State.writeLink (s : State) (i o v : Nat) : State :=
  let tables (f : Port → Port) : State := s.updPort i fun p => if p.busy then { p with wign := true } else f p
  if inR o 0x40 0x68 then
    s.updPort i fun p => { p with lanes := Tab.upd ({} : LinkLane) p.lanes ((o - 0x40) / 8) fun (n : LinkLane) =>
      { n with degraded := w1c n.degraded v 33 } }
  else if inR o 0x100 0x120 then
    tables fun p => { p with tx := putLink p.tx ((o - 0x100) / 2) v, txShadow := putLink p.txShadow ((o - 0x100) / 2) v }
  else if inR o 0x180 0x1A0 then
    tables fun p => { p with rx := putLink p.rx ((o - 0x180) / 2) v, rxShadow := putLink p.rxShadow ((o - 0x180) / 2) v }
  else
    match o with
    | 0x00 =>
      let s := (s.updPort i fun p => { p with mgmtin := bit v 3 }).linkEnable i (bit v 0)
      let s := if bit v 1 then s.retrain i else s
      if bit v 2 then s.startRekey i else s
    | 0x08 => s.updPort i fun p => { p with wign := w1c p.wign v 10 }
    | _ => s

/-- A write to the throttle registers. -/
def Throttle.write (t : Throttle) (o v : Nat) : Throttle := if o = 0 then { t with sat := w1c t.sat v 7 } else t

/-- A write to a die's FMC (14 Tables 17-20, R481, R485): a GO that is ignored leaves MSRC.
(log 19, DESIGN CHOICE) -/
def Fmc.write (f : Fmc) (qualified : Bool) (o v : Nat) : Fmc :=
  match o with
  | 0x00 => if f.busy then { f with wign := true } else { f with gsrc := fld 4 v 3 0, gcyc := fld 24 v 27 4 }
  | 0x08 =>
    if f.busy || (bit v 4 && (decide (11 ≤ bits v 3 0) || decide (11 ≤ f.gsrc.toNat) || f.gcyc == 0 || !qualified)) then
      { f with wign := true }
    else
      { f with msrc := fld 4 v 3 0, done := w1c f.done v 6, wign := w1c f.wign v 7, busy := f.busy || bit v 4 }
  | _ => f

/-! ### Module-common blocks -/

/-- A write to the host interface registers (08 Tables 14-19, R296). (log 19, DESIGN CHOICE) -/
def State.writeHif (s : State) (o v : Nat) : State :=
  let locked (f : Hif → Hif) : State :=
    { s with hif := if s.hif.enable then { s.hif with wign := true } else f s.hif }
  match o with
  | 0x00 => s.hifEnable (bit v 0)
  | 0x08 => { s with hif := { s.hif with wign := w1c s.hif.wign v 3 } }
  | 0x10 => locked fun h => { h with aqBase := fld 52 v 63 12 }
  | 0x18 => locked fun h =>
      { h with qlog2n := fld 5 v 4 0, elog2n := fld 5 v 9 5, port := bit v 10, vector := fld 11 v 26 16 }
  | 0x20 => locked fun h => { h with aqHeadwb := fld 61 v 63 3 }
  | 0x28 => locked fun h => { h with aevBase := fld 52 v 63 12 }
  | _ => s

/-- Some port of the module trains or is UP (11 R410). -/
def State.anyBusyPort (s : State) : Bool := (List.range 16).any fun i => (s.port i).busy

/-- A write to the routing block (11 R410, Tables 20 and 21). -/
def State.writeRoute (s : State) (o v : Nat) : State :=
  let r := s.route
  if o < 0x800 then { s with route := { r with group := put4 r.group (o / 2) v } }
  else if o < 0xA00 then { s with route := { r with member := put4 r.member ((o - 0x800) / 2) v } }
  else if o = 0x1000 then
    if s.anyBusyPort then { s with route := { r with wign := true } }
    else { s with route := { r with devid := fld 18 v 17 0, wign := w1c r.wign v 18 } }
  else s

/-- A write to the recorder block (12 Tables 4-7). -/
def State.writeRec (s : State) (o v : Nat) : State :=
  match o with
  | 0x00 => { s with recIndex := fld 8 v 7 0, recPage := fld 14 v 21 8 }
  | 0x08 => s.updRec s.recIndex.toNat fun r => { r with wign := w1c r.wign v 2 }
  | 0x18 => if bit v 0 then s.recRelease else s
  | _ => s

/-- The command of `SEC_CMD.OP`: BOOT goes on until the image has been read (13 R433, R455).
(log 19, DESIGN CHOICE) -/
def State.secGo (s : State) (src : CfgSrc) : State :=
  let side := match src with
    | .sideband => true
    | _ => false
  let port : Option Nat := match src with
    | .host p => some (if p then 8 else 0)
    | .mgmt p => some p.val
    | .sideband => none
  match s.sec.op.toNat with
  | 1 => s.secCmd 1 side false State.lcAdvance
  | 2 => s.secCmd 2 side false State.keygen
  | 3 => s.secCmd 3 side false State.digestSet
  | 4 => s.secCmd 4 side s.sec.fs.isNone fun s => s.fsSet port
  | 5 =>
    if side then s.secEnd .denied
    else if s.sec.fwRunning || !(s.portUp false || s.portUp true) then s.secEnd .state
    else { s with sec := { s.sec with busy := true } }
  | _ => if side then s.secEnd .denied else s.secEnd .format

/-- A write to the security block (13 Tables 9 and 10, R456). -/
def State.writeSec (s : State) (src : CfgSrc) (o v : Nat) : State :=
  let x := s.sec
  let w := BitVec.ofNat 64 v
  if 0x28 ≤ o then s
  else if x.busy then { s with sec := { x with wign := true } }
  else
    match o with
    | 0x000 =>
      let s := { s with sec := { x with
        op := fld 4 v 3 0, target := fld 3 v 6 4, wign := w1c x.wign v 9, done := w1c x.done v 10, sel := bit v 32 } }
      if bit v 7 then s.secGo src else s
    | 0x008 => { s with sec := { x with arg0 := w } }
    | 0x010 => { s with sec := { x with arg1 := w } }
    | 0x018 => { s with sec := { x with arg2 := w } }
    | 0x020 => { s with sec := { x with arg3 := w } }
    | _ => s

/-- A write to the power block (14 Tables 8-13). -/
def State.writePwr (s : State) (o v : Nat) : State :=
  let p := s.pwr
  match o with
  | 0x00 => { s with pwr := { p with
      warned := w1c p.warned v 4, sat := w1c p.sat v 7, droop := w1c p.droop v 8, wign := w1c p.wign v 9 } }
  | 0x08 => s.capWrite (bits v 11 0)
  | 0x10 => { s with pwr := { p with vector := fld 11 v 10 0, irqEnable := bit v 11 } }
  | 0x28 => { s with pwr := { p with flowlow := w1c p.flowlow v 24 } }
  | _ => s

/-- A write to the reset block (15 Tables 11-15, R511). -/
def State.writeRst (s : State) (o v : Nat) : State :=
  let r := s.rst
  match o with
  | 0x00 =>
    if bit v 1 && bits v 15 8 != 0xA5 then s.resetWrite (fld 8 v 15 8)
    else
      let s := { s with rst := { r with pset := bit v 0 } }
      if bit v 1 then s.resetWrite 0xA5 else s
  | 0x08 => { s with rst := { r with wign := w1c r.wign v 6 } }
  | 0x18 => { s with rst := { r with selSlot := bit v 0, selDie := fld 3 v 3 1, selPage := fld 15 v 18 4 } }
  | 0x20 => if bit v 4 then s.clearDumps else s
  | _ => s

/-- The armed commit of a die. -/
def State.armed (s : State) (d : Nat) : Bool := (s.die d).ctl.arm

/-- A write to one register. (log 19, DESIGN CHOICE) -/
def State.regWrite (s : State) (src : CfgSrc) (r : RegId) (v : Nat) : State :=
  match r with
  | .core k o => s.setCore k ((s.core k).write o v)
  | .router d r o => s.updRouter d r fun x => x.write o v
  | .mesh d o => s.updDie d fun x => x.writeMesh o v
  | .lane d l o => s.writeLane d l o v
  | .stop d c i o => s.updDie d fun x => x.updStop c i fun t => t.write (s.armed d) (c != .f) o v
  | .memsec d o => s.updDie d fun x => { x with memsec := x.memsec.write o v }
  | .link p o => s.writeLink p o v
  | .thr d o => s.updDie d fun x => { x with thr := x.thr.write o v }
  | .fmc d o => s.updDie d fun x => { x with fmc := x.fmc.write (s.die 0).fmc.qualified o v }
  | .cfg o => if o = 0x08 then { s with cfg := { s.cfg with dmask := fld 8 v 7 0 } } else s
  | .hif o => s.writeHif o v
  | .ctx c o =>
    if o = 0x08 then s.updCtx c fun x => { x with fValid := w1c x.fValid v 24, fDropped := w1c x.fDropped v 25 } else s
  | .comp k o => if o = 0 then s.updComp k fun m => { m with joinerr := w1c m.joinerr v 5 } else s
  | .pool o =>
    if o = 0x10 then { s with pool := { s.pool with lastValid := w1c s.pool.lastValid v 34 } } else s
  | .route o => s.writeRoute o v
  | .recorder o => s.writeRec o v
  | .sec o => s.writeSec src o v
  | .pwr o => s.writePwr o v
  | .rst o => s.writeRst o v
  | .sb _ => s

/-! ### RC fields (00 R11, R12) -/

/-- A read of a register leaves its RC fields at what hardware adds in the read's own cycle, `h`. -/
def State.rcRead (s : State) (r : RegId) (h : Nat) : State :=
  match r with
  | .core k o => s.setCore k (let c := s.core k
      if o = 0x18 then { c with mismatch := fld 32 h 31 0, refetched := fld 32 h 63 32 }
      else if o = 0x20 then { c with corr := fld 32 h 31 0 } else c)
  | .router d r o => s.updRouter d r fun x =>
      if o = 0xA18 then { x with corr := fld 32 h 31 0, uncorr := fld 16 h 47 32 } else x
  | .mesh d o => s.updDie d fun x => if o = 0x18 then { x with ctl := { x.ctl with count := fld 32 h 63 32 } } else x
  | .lane d l o => s.updLane d l fun L =>
      if o = 0x18 then { L with drej := fld 16 h 15 0, latec := fld 16 h 31 16, rfuse := fld 16 h 47 32 } else L
  | .stop d c i o => s.updDie d fun x => x.updStop c i fun t =>
      if o = 0x10 then { t with corr := fld 32 h 31 0, uncorr := fld 16 h 47 32 } else t
  | .memsec d o => s.updDie d fun x =>
      if o = 0x18 then { x with memsec := { x.memsec with withdrawn := fld 16 h 63 48 } } else x
  | .link p o => s.updPort p fun x =>
      if o = 0x20 then { x with corr := fld 32 h 31 0, uncorr := fld 16 h 47 32, auth := fld 16 h 63 48 }
      else if o = 0x28 then { x with mismatch := fld 16 h 15 0, ctldrop := fld 16 h 31 16, losses := fld 16 h 47 32 }
      else if inR o 0x40 0x68 then
        { x with lanes := Tab.upd ({} : LinkLane) x.lanes ((o - 0x40) / 8) fun (n : LinkLane) =>
          { n with symerr := fld 32 h 31 0 } }
      else x
  | .thr d o => s.updDie d fun x =>
      if o = 0x08 then { x with thr := { x.thr with units := fld 32 h 31 0, droops := fld 16 h 47 32 } }
      else if o = 0x10 then
        { x with thr := { x.thr with vlow := if bits h 47 32 = 0 then 0xFFFF else fld 16 h 47 32 } }
      else x
  | .fmc d o => s.updDie d fun x => if o = 0x18 then { x with fmc := { x.fmc with badwin := fld 8 h 15 8 } } else x
  | .cfg o => if o = 0 then { s with cfg := { s.cfg with unmapped := fld 32 h 31 0 } } else s
  | .hif o =>
    if o = 0x30 then { s with hif := { s.hif with
      badowner := fld 16 h 15 0, badtail := fld 16 h 31 16, badform := fld 16 h 47 32 } } else s
  | .ctx c o => s.updCtx c fun x =>
      if o = 0 then { x with lowsig := fld 16 h 63 48 } else if o = 0x08 then { x with fCount := fld 16 h 47 32 } else x
  | .comp k o => s.updComp k fun m =>
      if m.st == .free then m else if o = 0x08 then { m with stales := fld 16 h 47 32 }
      else if o = 0x18 then { m with rebinds := fld 16 h 47 32 } else m
  | .pool o =>
    if o = 0x08 then { s with pool := { s.pool with
      handoffs := fld 16 h 15 0, resolves := fld 16 h 31 16, losts := fld 16 h 47 32 } } else s
  | .route o =>
    if o = 0x1008 then { s with route := { s.route with
      fwd := fld 32 h 31 0, drop := fld 16 h 47 32, noroute := fld 16 h 63 48 } } else s
  | .pwr o =>
    if o = 0 then { s with pwr := { s.pwr with warns := fld 16 h 31 16 } }
    else if o = 0x20 then { s with pwr := { s.pwr with defer := fld 16 h 47 32 } } else s
  | .rst o => if o = 0x10 then { s with rst := { s.rst with stuck := fld 16 h 55 40 } } else s
  | .sb o =>
    if o = 0x10 then { s with sb := { s.sb with
      pecerr := fld 16 h 15 0, refused := fld 16 h 31 16, abandoned := fld 16 h 47 32 } } else s
  | .recorder _ | .sec _ => s

end Sys2Proof.Machine
end

