-- ==== Sys2Proof/Machine/RegCmds.lean ====
section
/-! DEFINITION. Configuration accesses and the sideband bus (00 R9, R11, R12, 11 R405, 16 R524, R525, 18 R542-R548). -/

namespace Sys2Proof.Machine

/-! ### Access (18 R542-R548) -/

/-- All ones. -/
def allOnes : Nat := 2 ^ 64 - 1

/-- A register of the blocks served before READY (18 R548). -/
def RegId.early : RegId → Bool
  | .cfg _ | .hif _ | .sec _ | .pwr _ | .rst _ | .sb _ => true
  | _ => false

/-- A register of the security block. -/
def RegId.isSec : RegId → Bool
  | .sec _ => true
  | _ => false

/-- The module's condition lets a register be read. (log 19, DESIGN CHOICE) -/
def State.readable (s : State) (r : RegId) : Bool :=
  if s.sec.terminal then r.isSec else s.hif.ready || r.early

/-- The module's condition lets an aliased access be carried out: none of its registers is served early. -/
def State.aliasable (s : State) : Bool := s.hif.ready && !s.sec.terminal

/-- An unmapped access is counted (18 R542). -/
def State.countUnmapped (s : State) : State :=
  if s.sec.terminal then s else { s with cfg := { s.cfg with unmapped := satAdd s.cfg.unmapped 1 } }

/-- The answer of an aliased read (18 R545). -/
def State.aliasRead (s : State) (l : List RegId) : Nat × State :=
  let vs := l.map s.regVal
  let same := match vs with
    | [] => true
    | v :: t => t.all (· == v)
  (vs.foldl (· ||| ·) 0, { s with cfg := { s.cfg with same, nsel := BitVec.ofNat 16 vs.length } })

/-- A read of the configuration space in RUN: its value and what it leaves. `h` holds what hardware adds to RC
fields in the read's own cycle. (log 19, DESIGN CHOICE) -/
def State.cfgRead (s : State) (a : CfgAddr) (h : Nat) : Nat × State :=
  if !a.aligned || a.off % 8 != 0 then (allOnes, s)
  else
    match s.resolve a.off with
    | .unmapped => (if s.sec.terminal then allOnes else 0, s.countUnmapped)
    | .dead => (allOnes, s)
    | .one r => if s.readable r then (s.regVal r, s.rcRead r h) else (allOnes, s)
    | .many l => if s.aliasable then s.aliasRead l else (allOnes, s)

/-- A write of the configuration space in RUN. (log 19, DESIGN CHOICE) -/
def State.cfgWrite (s : State) (src : CfgSrc) (a : CfgAddr) (v : Nat) : State :=
  if !a.aligned || a.off % 8 != 0 then s
  else
    match s.resolve a.off with
    | .unmapped => s.countUnmapped
    | .dead => s
    | .one r => if !s.sec.terminal && (s.hif.ready || r.early) then s.regWrite src r v else s
    | .many l => if s.aliasable then l.foldl (fun (s : State) r => s.regWrite src r v) s else s

/-- A record of a peer is carried out only with MGMTIN set on its port; it is counted otherwise (11 R405). -/
def State.mgmtOk (s : State) : CfgSrc → Bool
  | .mgmt p => (s.port p.val).mgmtin
  | _ => true

/-- The count of a record discarded for MGMTIN. -/
def State.mgmtDrop (s : State) : CfgSrc → State
  | .mgmt p => s.updPort p.val fun x => { x with mismatch := satAdd x.mismatch 1 }
  | _ => s

/-- A read record: in reset entry it is neither carried out nor answered. -/
def State.takeCfgRd (s : State) (src : CfgSrc) (tag : Nat) (a : CfgAddr) : State :=
  if !s.inRun then s
  else if !s.mgmtOk src then s.mgmtDrop src
  else (s.cfgRead a 0).2.emit (.cfgData tag (BitVec.ofNat 64 (s.cfgRead a 0).1))

/-- CFG_RD. -/
def execCfgRd (src : CfgSrc) (tag : Nat) (a : CfgAddr) (s : State) : Host.Outcome State Fault Refusal :=
  .next (s.takeCfgRd src tag a)

/-- A write record. -/
def State.takeCfgWr (s : State) (src : CfgSrc) (a : CfgAddr) (v : Nat) : State :=
  if !s.inRun then s else if !s.mgmtOk src then s.mgmtDrop src else s.cfgWrite src a v

/-- CFG_WR. -/
def execCfgWr (src : CfgSrc) (a : CfgAddr) (v : Word64) (s : State) : Host.Outcome State Fault Refusal :=
  .next (s.takeCfgWr src a v.toNat)

/-- REGISTER_WRITE, through host port 0. -/
def execRegisterWrite (a : CfgAddr) (v : Word64) (s : State) : Host.Outcome State Fault Refusal :=
  .next (if s.inRun then s.cfgWrite (.host false) a v.toNat else s)

/-- A read that answers on the access's own path. -/
def State.plainRead (s : State) (a : CfgAddr) (h : Nat) : State :=
  if s.inRun then (s.cfgRead a h).2.emit (.regData (BitVec.ofNat 64 (s.cfgRead a h).1)) else s

/-- ALIASED_READ. -/
def execAliasedRead (a : CfgAddr) (s : State) : Host.Outcome State Fault Refusal := .next (s.plainRead a 0)

/-- RC_READ. -/
def execRcRead (a : CfgAddr) (hw : Word64) (s : State) : Host.Outcome State Fault Refusal := .next (s.plainRead a hw.toNat)

/-- CORE_CTL_WRITE: a write through the core's own address. -/
def execCoreCtlWrite (c : CoreId) (v : Word64) (s : State) : Host.Outcome State Fault Refusal :=
  let a : CfgAddr := { off := c.die.val * 0x4000000 + 0x1000000 + c.cluster.val * 0x10000 + c.core.val * 0x800, aligned := true }
  .next (if s.inRun then s.cfgWrite (.host false) a v.toNat else s)

/-! ### The sideband bus (16 R524, R525) -/

/-- A transaction with a wrong PEC is ignored and counted; one that the change to HALT cuts short is abandoned and
counted; outside RUN the target does not answer. -/
def State.smb (s : State) (pecOk : Bool) (f : State → State) : State :=
  match s.rst.phase with
  | .run => if pecOk then f s else { s with sb := { s.sb with pecerr := satAdd s.sb.pecerr 1 } }
  | .entry => { s with sb := { s.sb with abandoned := satAdd s.sb.abandoned 1 } }
  | _ => s

/-- The answer CFG_DATA will give. (log 45, DEDUCED) -/
def State.smbAnswer (s : State) (st : Status) (v : Nat) : State :=
  { s with sb := { s.sb with ansStatus := BitVec.ofNat 8 st.code, ansValue := BitVec.ofNat 64 v } }

/-- An offset is judged FORMAT. -/
def smbBad (off : Nat) : Bool := off % 8 != 0 || decide (0x40000000 ≤ off)

/-- An offset lies in the security block. -/
def smbSec (off : Nat) : Bool := inR off 0x20080000 0x20090000

/-- An offset that is read before READY. -/
def smbEarly (off : Nat) : Bool := off == 0x20000040 || inR off 0x20080000 0x200C0000

/-- SMB_CFG_WR. -/
def execSmbCfgWr (off : BitVec 32) (v : Word64) (pecOk : Bool) (s : State) : Host.Outcome State Fault Refusal :=
  .next (s.smb pecOk fun s =>
    if smbBad off.toNat then s.smbAnswer .format 0
    else if !smbSec off.toNat then
      ({ s with sb := { s.sb with refused := satAdd s.sb.refused 1 } }).smbAnswer .denied 0
    else (s.cfgWrite .sideband { off := off.toNat, aligned := true } v.toNat).smbAnswer .ok 0)

/-- SMB_CFG_ADDR. -/
def execSmbCfgAddr (off : BitVec 32) (pecOk : Bool) (s : State) : Host.Outcome State Fault Refusal :=
  .next (s.smb pecOk fun s =>
    if smbBad off.toNat then s.smbAnswer .format 0
    else if !s.hif.ready && !smbEarly off.toNat then s.smbAnswer .state allOnes
    else
      let r := s.cfgRead { off := off.toNat, aligned := true } 0
      r.2.smbAnswer .ok r.1)

/-- SMB_CFG_DATA. (log 45, DEDUCED) -/
def execSmbCfgData (pecOk : Bool) (s : State) : Host.Outcome State Fault Refusal :=
  .next (s.smb pecOk fun s => s.emit (.smbData s.sb.ansStatus s.sb.ansValue))

/-! ### The pins (16 Table 3, R517, R521, R522, R526) -/

/-- PHASE[1:0]. -/
def State.phasePins (s : State) : Nat :=
  match s.rst.phase with
  | .off | .powerUp false => 0
  | .powerUp true | .entry => 1
  | .run => 2

/-- ALERT# is low. (log 45, DEDUCED) -/
def State.alertLow (s : State) : Bool := s.pwr.warn

/-- FAULT# is low (16 R521). (log 45, DEDUCED) -/
def State.faultLow (s : State) : Bool :=
  s.sec.terminal || s.workingDies.length < 8 || s.pwr.nodump || s.sec.bootFailed || s.sb.bad || s.sb.unstable

/-- POOLBUSY# is low: a pool member holds a session under OWN or PREP. (log 45, DEDUCED) -/
def State.poolBusyLow (s : State) : Bool :=
  s.sb.role && s.pool.sessions.any fun e =>
    match e.2.own with
    | .own _ => true
    | .prep _ _ => true
    | _ => false

/-- Levels of SP2 to SP10, by pin, where the module drives them; `none` is high-impedance. -/
def State.pinLevel (s : State) (i : Nat) : Option Bool :=
  match s.phasePins, i with
  | 2, 2 => some (!s.alertLow)
  | 2, 3 => some (!s.faultLow)
  | 2, 4 => some true
  | 2, 5 => some s.sb.role
  | 2, 6 => some (!s.poolBusyLow)
  | 1, 10 => some s.sb.pstb
  | 1, n => if 2 ≤ n ∧ n ≤ 9 then some (bit s.sb.hcode.toNat (n - 2)) else none
  | _, _ => none

end Sys2Proof.Machine
end

