-- ==== Sys2Proof/Machine/Blocks.lean ====
section
/-! DEFINITION. Link blocks: the transmit runs (11 R377, R382, R399), the check and delivery of received
blocks (R383, R404-R406), and the control block (R385-R391). -/

namespace Sys2Proof.Machine

/-! ### Runs (11 R374, R378) -/

/-- Entry `j` of a link slot table: entry 0 is the fixed control entry, CLASS 5 and OWNER 0xC (11 R379). -/
def lkEntry (t : Tab (BitVec 16)) (j : Nat) : BitVec 16 := if j = 0 then lkControl else Tab.look 0 t j

/-- Entry `j` starts a run. -/
def lkStart (t : Tab (BitVec 16)) (j : Nat) : Bool := lkValid (lkEntry t j) && !lkCont (lkEntry t j)

/-- Codewords of the run that starts at slot `j`: 1 where the entry is not VALID. -/
def lkRun (t : Tab (BitVec 16)) (j : Nat) : Nat :=
  if lkStart t j then
    min 7 (1 + ((List.range (15 - j)).takeWhile fun n =>
      lkValid (lkEntry t (j + 1 + n)) && lkCont (lkEntry t (j + 1 + n))).length)
  else 1

/-- Flits a run of `k` codewords holds (11 Table 3). -/
def lkCap (k : Nat) : Nat := min 64 (10 * k - 1)

/-- A count of bytes of a port: direction 0 transmit, 1 receive (11 R408). -/
def Port.count (p : Port) (dir cls n : Nat) : Port :=
  { p with bcnt := Tab.upd 0 p.bcnt (8 * dir + cls) fun b => b + BitVec.ofNat 64 n }

/-! ### Sending -/

/-- The frame counter reaches the codeword of `slot`, under the new epoch from the switch on (11 R372, R393).
None where FC would reach 2^48 (R394). -/
def Port.atSlot (p : Port) (slot : Nat) : Option Port :=
  let fc := p.txfc.toNat + (slot + 16 - p.txfc.toNat % 16) % 16
  let sw := match p.txRekey with
    | some f => decide (f ≤ fc)
    | none => false
  if sw then
    some { p with txEpoch := p.txEpoch + 1, txfc := BitVec.ofNat 48 (fc - (p.txRekey.getD 0)), txRekey := none }
  else if 2 ^ 48 ≤ fc then none
  else some { p with txfc := BitVec.ofNat 48 fc }

/-- A block leaves: `k` codewords, and 64 bytes counted for each flit. (log 37, DEDUCED) -/
def State.sendBlock (s : State) (i k : Nat) (b : Block) : State :=
  (s.updPort i fun p => { p.count 0 b.cls (64 * b.flits.length) with txfc := p.txfc + BitVec.ofNat 48 k }).emit (.block i b)

/-- An empty block of a class (11 R377). -/
def State.emptyBlock (s : State) (i cls : Nat) : Block :=
  { dest := (s.port i).peerId.toNat, src := s.route.devid.toNat, cls, last := false, ctr := 0, faddr := 0, gen := 0, flits := [] }

/-- The longest sequence of queued flits, from the oldest, with one CTR and consecutive FADDR, LAST only at the
end, and at most `cap` of them (11 R382). -/
def takeFlits : Nat → List Flit → List Flit
  | 0, _ => []
  | _, [] => []
  | n + 1, f :: l =>
    match l with
    | [] => [f]
    | g :: _ => if f.last || g.ctr != f.ctr || g.faddr != f.faddr + 1 then [f] else f :: takeFlits n l

/-- The lane's current generation on a die, 0 without a composition. -/
def State.laneGen (s : State) (d l : Nat) : BitVec 32 :=
  match s.laneComp d l with
  | some k => (s.comp k).gen
  | none => 0

/-- The block of a lane's run and the egress queue without its flits. (log 37, DEDUCED) -/
def State.laneBlock (s : State) (i owner cls cap : Nat) : Block × List Flit :=
  let q := (s.port i).egress
  let mine := q.filter fun f => f.owner == owner && f.cls == cls
  let rest := q.filter fun f => !(f.owner == owner && f.cls == cls)
  let fs := takeFlits cap mine
  match fs with
  | [] => (s.emptyBlock i cls, q)
  | f :: _ =>
    ({ s.emptyBlock i cls with
        last := (fs.getLast?.map fun f => f.last).getD false, ctr := f.ctr, faddr := f.faddr, gen := s.laneGen (i / 2) owner,
        flits := fs.map fun f => f.payload }, mine.drop fs.length ++ rest)

/-- What a run of a firmware owner or of transit sends: the oldest waiting block, where the run holds it.
(log 37, DEDUCED) -/
def takeBlock (cls cap : Nat) (l : List Block) : Option (Block × List Block) :=
  match l.find? fun b => b.cls == cls with
  | some b => if b.flits.length ≤ cap then some (b, l.erase b) else none
  | none => none

/-- A run sends one block, or an empty one of its class. -/
def State.sendRun (s : State) (i : Nat) (e : BitVec 16) (k : Nat) : State :=
  let cls := lkClass e
  let cap := lkCap k
  let p := s.port i
  if lkTransit e then
    match Tab.look [] p.transit (lkInport e) with
    | b :: l =>
      if b.flits.length ≤ cap then
        ((s.updPort i fun p => { p with transit := Tab.put [] p.transit (lkInport e) l }).countFwd).sendBlock i k b
      else s.sendBlock i k (s.emptyBlock i cls)
    | [] => s.sendBlock i k (s.emptyBlock i cls)
  else if lkOwner e < 8 then
    let (b, l) := s.laneBlock i (lkOwner e) cls cap
    (s.updPort i fun p => { p with egress := l }).sendBlock i k b
  else
    match takeBlock cls cap p.blocks with
    | some (b, l) => (s.updPort i fun p => { p with blocks := l }).sendBlock i k b
    | none => s.sendBlock i k (s.emptyBlock i cls)

/-- Messages that fit whole, in order, in `n` general units (11 R389). -/
def fitMsgs : Nat → List GenHdr → List GenHdr
  | _, [] => []
  | n, h :: l => if h.msg.units ≤ n then h :: fitMsgs (n - h.msg.units) l else []

/-- The lane units after a control block has carried them: one sent twice gives way to the next (11 R386). -/
def Port.unitsSent (p : Port) : Port :=
  let bump := Tab.mapVals (noUnit, 0) (fun _ (u : LaneUnit × Nat) => if u.1.code = 0 then u else (u.1, u.2 + 1)) p.units
  p.unitsNext.foldl (fun (p : Port) e =>
    let h := Tab.look (noUnit, 0) p.units e.1
    if 2 ≤ h.2 then
      { p with units := Tab.put (noUnit, 0) p.units e.1 (e.2, 0), unitsNext := Tab.put noUnit p.unitsNext e.1 noUnit }
    else p) { p with units := bump }

/-- The control codeword's block (11 R385, R389): the lane units held; repeated messages, then new ones. -/
def State.sendControl (s : State) (i : Nat) : State :=
  let p := s.port i
  let units := (List.range 16).map fun n => (Tab.look (noUnit, 0) p.units n).1
  let rep := fitMsgs 20 p.repeated
  let new := fitMsgs (20 - (rep.map fun h => h.msg.units).sum) p.general
  (s.updPort i fun p =>
    { p.unitsSent.count 0 5 576 with
      general := p.general.drop new.length, repeated := new, txfc := p.txfc + 1 }).emit (.control i units (rep ++ new))

/-- TX_RUN: the codeword of `slot` of an UP port. A slot that continues a run begins no block. -/
def execTxRun (port slot : Fin 16) (s : State) : Host.Outcome State Fault Refusal :=
  let i := port.val
  let p := s.port i
  let e := lkEntry p.tx slot.val
  .next (if p.st != .up then s
    else if slot.val != 0 && lkValid e && lkCont e then s
    else
      match p.atSlot slot.val with
      | none => s.portDown i 9
      | some p' =>
        let s := s.updPort i fun _ => p'
        if slot.val = 0 then s.sendControl i
        else if lkValid e then s.sendRun i e (lkRun p.tx slot.val)
        else s.sendBlock i 1 (s.emptyBlock i 7))

/-! ### Receiving: frame counter and tag (11 R383 checks 1 and 2, R393, R395) -/

/-- A verified codeword sequence of `k` at `slot`: the receive counter follows, with the epoch from the
switch on. -/
def Port.verified (p : Port) (slot k : Nat) : Port :=
  let fc := p.rxfc.toNat + (slot + 16 - p.rxfc.toNat % 16) % 16
  let sw := match p.rxRekey with
    | some f => decide (f ≤ fc)
    | none => false
  if sw then { p with rxEpoch := p.rxEpoch + 1, rxfc := BitVec.ofNat 48 (fc - p.rxRekey.getD 0 + k), rxRekey := none }
  else { p with rxfc := BitVec.ofNat 48 (fc + k) }

/-- A tag failure: 8 within 1 ms (200,000 MGMT cycles) take the port DOWN with reason AUTH. -/
def State.authFail (s : State) (i : Nat) : State :=
  let now := s.stamp.toNat
  let s := s.updPort i fun p =>
    { p with auth := satAdd p.auth 1, authTimes := now :: p.authTimes.filter fun t => decide (now < t + 200000) }
  if 8 ≤ (s.port i).authTimes.length then s.portDown i 6 else s

/-- Symbol counts and degraded lanes of a block's codewords (11 R367, Table 18). (log 48, PRESUMED) -/
def Port.symbols (p : Port) (symerr : List Nat) (degraded : BitVec 5) : Port :=
  { p with lanes := (List.range 5).foldl (fun t n => Tab.upd ({} : LinkLane) t n fun (x : LinkLane) =>
      { x with symerr := satAdd x.symerr ((symerr[n]?).getD 0), degraded := x.degraded || bit degraded.toNat n }) p.lanes }

/-- A block discarded by check 3 or 4 of R383, or by R405. -/
def State.mismatched (s : State) (i : Nat) : State :=
  s.updPort i fun p => { p with mismatch := satAdd p.mismatch 1 }

/-! ### Delivery -/

/-- ACT and KV flits enter the elastic queue of the entry's owner at the L stop. -/
def State.deliverFlits (s : State) (i owner : Nat) (b : Block) : State :=
  let r := stopRouter (.l (i % 2))
  let n := b.flits.length
  s.elasticAll (i / 2) r (b.flits.zipIdx.map fun (e : Payload × Nat) =>
    { owner, cls := b.cls, last := b.last && e.2 + 1 == n, ctr := b.ctr, faddr := b.faddr + e.2, poison := false,
      payload := e.1, use := .data, router := r, port := 0, cycle := 0 })

/-- The bytes of a block's data flits. -/
def dataBytes (l : List Payload) : List Byte := l.flatMap fun x => payloadBytes x

/-- A host record at module port 0 or 8, with its data flits (11 R404). (log 37, DEDUCED) -/
def State.hostRecord (s : State) (i : Nat) (r : List Byte) (data : List Byte) : State :=
  let tag := field r 4 4
  let src : CfgSrc := .host (i == 8)
  let off : CfgAddr := { off := field r 8 4, aligned := field r 8 4 % 8 == 0 }
  match field r 0 1 with
  | 2 => s.dataIn tag (field r 8 1 != 0) data
  | 4 => s.doorbell (field r 24 2) (BitVec.ofNat 64 (field r 16 8)) (field r 26 2 == 0)
  | 6 => s.takeCfgRd src tag off
  | 7 => s.takeCfgWr src off (field r 16 8)
  | 9 => s.winRead tag (field r 8 8) (field r 16 4)
  | 10 => s.winWrite (field r 8 8) (slice data 0 (field r 16 4))
  | _ => s

/-- The records of a block in order: each is followed by its NDATA data flits. -/
def State.records (f : State → List Byte → List Byte → State) : Nat → List Payload → State → State
  | 0, _, s => s
  | _, [], s => s
  | n + 1, r :: l, s =>
    let h := payloadBytes r
    let k := field h 2 2
    State.records f n (l.drop k) (f s h (dataBytes (l.take k)))

/-- A management record (11 R405): MGMTIN is looked at with the record. -/
def State.mgmtRecord (s : State) (port : Fin 16) (r : List Byte) : State :=
  let off : CfgAddr := { off := field r 8 4, aligned := field r 8 4 % 8 == 0 }
  match field r 0 1 with
  | 6 => s.takeCfgRd (.mgmt port) (field r 4 4) off
  | 7 => s.takeCfgWr (.mgmt port) off (field r 16 8)
  | _ => s

/-- A pool record with its data: the bytes past the session's length are padding (11 R406). -/
def State.poolRecord (s : State) (src : Nat) (r data : List Byte) : State :=
  let sid := BitVec.ofNat 64 (field r 8 8)
  let off := field r 24 8
  let len := match (s.session sid).offered with
    | some o => min data.length (o.2.2 - off)
    | none => data.length
  if field r 0 1 = 0x40 then
    s.takePool src { sid, epoch := BitVec.ofNat 32 (field r 16 4), off, data := data.take len }
  else s

/-- A block for this module goes to the user of its class. -/
def State.deliverOwn (s : State) (port : Fin 16) (b : Block) : State :=
  let n := b.flits.length
  match b.cls with
  | 3 => if port.val = 0 ∨ port.val = 8 then State.records (fun s => s.hostRecord port.val) n b.flits s else s
  | 4 => State.records (fun s => s.poolRecord b.src) n b.flits s
  | 6 => State.records (fun s r _ => s.mgmtRecord port r) n b.flits s
  | _ => s

/-- A run of port `o` sends transit blocks of port `i` of `n` flits. -/
def State.transitFits (s : State) (o i n : Nat) : Bool :=
  (List.range 16).any fun j =>
    let e := lkEntry (s.port o).tx j
    lkStart (s.port o).tx j && lkTransit e && lkInport e == i && decide (n ≤ lkCap (lkRun (s.port o).tx j))

/-- A block in transit (11 R397, R399). -/
def State.transit (s : State) (i : Nat) (b : Block) : State :=
  match s.routePort b.dest with
  | none => s.noRoute
  | some o =>
    let q := Tab.look [] (s.port o).transit i
    if q.length < 8 && s.transitFits o i b.flits.length then
      s.updPort o fun p => { p with transit := Tab.put [] p.transit i (q ++ [b]) }
    else s.countDrop

/-- Checks 3 to 5 of R383 on a verified block, and its delivery. -/
def State.takeBlock (s : State) (port : Fin 16) (x : RxBlock) : State :=
  let i := port.val
  let p := s.port i
  let b := x.blk
  let e := lkEntry p.rx x.slot.val
  let cls := if lkStart p.rx x.slot.val then lkClass e else 7
  if (lkValid e && lkCont e) || b.cls != cls || x.k != lkRun p.rx x.slot.val then s.mismatched i
  else if b.flits.isEmpty then s
  else if b.cls = 1 ∨ b.cls = 2 then
    if b.dest != s.route.devid.toNat || b.src != p.peerId.toNat then s.mismatched i
    else
      match s.laneComp (i / 2) (lkOwner e) with
      | none => s
      | some k =>
        if b.gen != (s.comp k).gen then s.updComp k fun m => { m with stales := satAdd m.stales 1 }
        else s.deliverFlits i (lkOwner e) b
  else if b.dest = s.route.devid.toNat then s.deliverOwn port b
  else if lkTransit e then s.transit i b
  else s.mismatched i

/-- LINK_BLOCK_RECEIVE. (log 37, DEDUCED) -/
def execLinkBlockReceive (port : Fin 16) (x : RxBlock) (s : State) : Host.Outcome State Fault Refusal :=
  let i := port.val
  .next (if (s.port i).st != .up then s
    else
      let s := s.updPort i fun p => { p.symbols x.symerr x.degraded with corr := satAdd p.corr x.corrected }
      if 0 < x.bad then s.updPort i fun p => { p with uncorr := satAdd p.uncorr x.bad }
      else if !x.tagOk then s.authFail i
      else
        let s := s.updPort i fun p => (p.verified x.slot.val x.k).count 1 x.blk.cls (64 * x.blk.flits.length)
        s.takeBlock port x)

/-! ### Control blocks (11 R385-R391) -/

/-- The lane that a unit position maps to. -/
def Port.mapLane (p : Port) (n : Nat) : Option Nat :=
  let r := n / 2
  if bit p.lmap.toNat (4 * r + 3) then some (bits p.lmap.toNat (4 * r + 2) (4 * r)) else none

/-- The virtual module of a composition with a device ID. -/
def Comp.modOf (m : Comp) (dev : Nat) : Option Nat := (List.range m.nmod).find? fun v => m.devOf v == dev

/-- A lane unit at the root die's Lathe of its composition: ARRIVE, RELEASE or COMMIT (11 Table 6).
(log 37, DEDUCED) -/
def State.actUnit (s : State) (k peer : Nat) (n : Nat) (u : LaneUnit) : State :=
  let m := s.comp k
  match n % 2, u.code with
  | 0, 1 =>
    match m.modOf peer with
    | some v => s.updLane m.rootDie m.lane fun L =>
        { L with children := if L.children.contains v then L.children else L.children ++ [v], swapMark := L.swapMark || u.swap }
    | none => s
  | 0, 2 =>
    (s.updLanes m.dies m.lane fun L => { L with relArrived := true }).updLane m.rootDie m.lane fun L =>
      { L with swapMark := L.swapMark || u.swap }
  | 1, 3 => if (s.compLane k).st = .sample then s.issueCommit k (commitOf u.word) else s
  | _, _ => s

/-- The unit in position `n` of a verified control block. -/
def State.takeUnit (s : State) (i n : Nat) (u : LaneUnit) : State :=
  let p := s.port i
  match p.mapLane n with
  | none => s
  | some l =>
    let old := Tab.look noUnit p.acted n
    if u.code = 0 ∨ (u.code = old.code ∧ u.gen = old.gen ∧ u.word = old.word) then s
    else
      match s.laneComp (i / 2) l with
      | none => s
      | some k =>
        if u.gen ≠ (s.comp k).gen then s.updComp k fun m => { m with stales := satAdd m.stales 1 }
        else (s.updPort i fun p => { p with acted := Tab.put noUnit p.acted n u }).actUnit k p.peerId.toNat n u

/-- Codes that always name the peer and are never forwarded (11 R391). -/
def peerOnly : GenMsg → Bool
  | .hello .. | .down .. | .lanes .. | .echo .. | .echoAns .. => true
  | _ => false

/-- A general message for this module is handed to its user. -/
def State.useMsg (s : State) (i src : Nat) : GenMsg → State
  | .join c v g => s.takeJoin c v g
  | .ready c g => let (x, s) := s.fresh; s.takeReady c g (decide (x % 2 = 1))
  | .refuse c v => s.takeRefuse c v
  | .bal c st w =>
    match (s.compByCid c).bind fun k => (s.comp k).modOf src with
    | some v => s.takeBal c v st w
    | none => s
  | .caps c _ l => s.takeCaps c l
  | .offer sid e g len => s.takeOffer src sid e g len
  | .prepAck sid e => s.takePrepAck src sid e
  | .commit sid e => s.takeCommit src sid e
  | .commitAck sid e => s.takeCommitAck src sid e
  | .abort sid e => s.takeAbort src sid e
  | .resolve sid _ => s.takeResolve src sid
  | .resolveAns sid kd e dev => s.takeAnswer src sid kd e dev
  | .gone dev => s.loseMember dev none
  | .hello dev port role nonce => s.takeHello i dev port role nonce
  | .rekey e f => s.takeRekey i e f
  | .down _ => s.takeDown i
  | .lanes x g => s.takeLanes i x g
  | .echo t => s.takeEcho i t 0
  | .echoAns .. => s

/-- Forward a general message into the queue of the port that R397 chooses. -/
def State.forward (s : State) (h : GenHdr) : State :=
  match s.routePort h.dest with
  | some o => (s.updPort o fun p => p.queueGeneral h.dest h.src h.msg).countFwd
  | none => s.noRoute

/-- A general message of a verified control block: one of the last 64 SEQ is discarded (11 R390).
(log 36, DEDUCED) -/
def State.takeMsg (s : State) (i : Nat) (h : GenHdr) : State :=
  let p := s.port i
  if p.seen.contains h.seq then s
  else
    let s := s.updPort i fun p => { p with seen := (h.seq :: p.seen).take 64 }
    if h.dest = s.route.devid.toNat ∨ peerOnly h.msg = true then s.useMsg i h.src h.msg else s.forward h

/-- CONTROL_BLOCK: a verified control block, slot 0. -/
def execControlBlock (port : Fin 16) (units : List LaneUnit) (msgs : List GenHdr) (s : State) :
    Host.Outcome State Fault Refusal :=
  let i := port.val
  .next (if (s.port i).st != .up then s
    else
      let s := s.updPort i fun p => (p.verified 0 1).count 1 5 576
      let s := ((units.take 16).zipIdx).foldl (fun (s : State) (e : LaneUnit × Nat) => s.takeUnit i e.2 e.1) s
      msgs.foldl (fun (s : State) h => s.takeMsg i h) s)

end Sys2Proof.Machine
end

