-- ==== Sys2Proof/Machine/Control.lean ====
section
/-! DEFINITION. The control instructions (03 R87-R89, Table 4; 04 R124, R125). A command whose waiting
condition does not hold yet leaves the state as it is: the instruction has not issued. -/

namespace Sys2Proof.Machine

/-- A core goes on at the next instruction. -/
def State.advance (s : State) (k : Nat) (c : Core) : State := s.setCore k c.next

/-- REG must hold 0 (03 R84). -/
def regZero (r : Nat) : Bool := r == 0

/-- NOP. -/
def execNop (c : CoreId) (s : State) : Host.Outcome State Fault Refusal :=
  .next (s.control c.key 0x00 regZero fun x _ => s.advance c.key x)

/-- A lane's Layers phase ends when every core of the composition has executed END (04 Table 1). -/
def State.layersEnd (s : State) (k : Nat) (lane : Option Nat) : State :=
  match lane with
  | none => s
  | some l =>
    match s.laneComp (keyDie k) l with
    | none => s
    | some n =>
      let m := s.comp n
      if m.cores.all fun i => (s.core i).ended then
        m.dies.foldl (fun s d => s.updLane d l fun L =>
          if L.st = .layers then { L with st := .sample } else L) s
      else s

/-- END: with all engines idle the core's step program ends, and it reports done. -/
def execEndp (c : CoreId) (s : State) : Host.Outcome State Fault Refusal :=
  .next (s.control c.key 0x01 regZero fun x _ =>
    if x.refetch.isSome then s
    else (s.setCore c.key { x.drained.next with ended := true, st := .idle }).layersEnd c.key x.lane)

/-- JMP. -/
def execJmp (c : CoreId) (s : State) : Host.Outcome State Fault Refusal :=
  .next (s.control c.key 0x02 regZero fun x w => s.setCore c.key (x.jump (iTarget w)))

/-- A loop register. -/
def Core.loopReg (c : Core) (i : Nat) : BitVec 16 := Tab.look 0 c.loops i

/-- Write a loop register. -/
def Core.setLoop (c : Core) (i : Nat) (v : BitVec 16) : Core :=
  { c with loops := Tab.put 0 c.loops i v }

/-- LSET. -/
def execLset (c : CoreId) (s : State) : Host.Outcome State Fault Refusal :=
  .next (s.control c.key 0x03 (fun r => decide (r ≤ 7)) fun x w =>
    s.advance c.key (x.setLoop (iReg w) (BitVec.ofNat 16 (iValue w))))

/-- LOOP. -/
def execLoop (c : CoreId) (s : State) : Host.Outcome State Fault Refusal :=
  .next (s.control c.key 0x04 (fun r => decide (r ≤ 7)) fun x w =>
    let v := x.loopReg (iReg w) - 1
    let x := x.setLoop (iReg w) v
    s.setCore c.key (if v = 0 then x.next else x.jump (iTarget w)))

/-- BRC. -/
def execBrc (c : CoreId) (s : State) : Host.Outcome State Fault Refusal :=
  .next (s.control c.key 0x05 (fun r => decide (r ≤ 1)) fun x w =>
    s.setCore c.key (if brcTaken (iReg w) x.ovf then x.jump (iTarget w) else x.next))

/-- CLRC. -/
def execClrc (c : CoreId) (hwSet : Bool) (s : State) : Host.Outcome State Fault Refusal :=
  .next (s.control c.key 0x06 regZero fun x _ => s.advance c.key { x with ovf := ovfCleared hwSet })

/-- Write a base register; X0 reads 0 and is not written (03 Table 1). -/
def Core.setBase (c : Core) (i : Nat) (v : BitVec 16) : Core :=
  if i = 0 then c else { c with bases := Tab.put 0 c.bases i v }

/-- REG of XSET and XADD names X1-X3. -/
def regBase (r : Nat) : Bool := decide (1 ≤ r) && decide (r ≤ 3)

/-- XSET. -/
def execXset (c : CoreId) (s : State) : Host.Outcome State Fault Refusal :=
  .next (s.control c.key 0x07 regBase fun x w =>
    s.advance c.key (x.setBase (iReg w) (BitVec.ofNat 16 (iValue w))))

/-- XADD. -/
def execXadd (c : CoreId) (s : State) : Host.Outcome State Fault Refusal :=
  .next (s.control c.key 0x08 regBase fun x w =>
    s.advance c.key (x.setBase (iReg w) (BitVec.ofNat 16 (x.base (iReg w) + iValue w))))

/-- The engines WAITE names. -/
def waiteEngines (r : Nat) : List Eng :=
  (if bit r 0 then [.mx] else []) ++ (if bit r 1 then [.vx] else []) ++ (if bit r 2 then [.tx] else [])

/-- WAITE: goes on once every named engine is idle. -/
def execWaite (c : CoreId) (s : State) : Host.Outcome State Fault Refusal :=
  .next (s.control c.key 0x09 (fun r => decide (1 ≤ r) && decide (r ≤ 7)) fun x w =>
    if (waiteEngines (iReg w)).any x.busy then s
    else s.advance c.key ((waiteEngines (iReg w)).foldl (fun x e => x.setFlying e none) x))

/-- WAITC: goes on once the counter has reached VALUE, which it consumes (03 R88). -/
def execWaitc (c : CoreId) (s : State) : Host.Outcome State Fault Refusal :=
  .next (s.control c.key 0x0A regZero fun x w =>
    if (x.ctr (iCtr w)).toNat < iValue w then s
    else s.advance c.key (x.setCtr (iCtr w) (x.ctr (iCtr w) - BitVec.ofNat 32 (iValue w))))

/-- CSET. -/
def execCset (c : CoreId) (s : State) : Host.Outcome State Fault Refusal :=
  .next (s.control c.key 0x0B regZero fun x w =>
    s.advance c.key (x.setCtr (iCtr w) (BitVec.ofNat 32 (iValue w))))

/-- The step frame index a core sees: FI of its lane on its die (04 R113). -/
def State.frameIndex (s : State) (k : Nat) : Nat :=
  match (s.core k).lane with
  | some l => (s.lane (keyDie k) l).fi.toNat
  | none => 0

/-- WAITF. -/
def execWaitf (c : CoreId) (s : State) : Host.Outcome State Fault Refusal :=
  .next (s.control c.key 0x0C regZero fun x w =>
    if s.frameIndex c.key < iValue w then s else s.advance c.key x)

/-- The arrival of a core at a barrier; with the last core of the composition on the die the die's own
arrival is complete (04 R125) and its bit enters the mask (04 R126); the mask of
the barrier before is gone with the first arrival. -/
def State.arrive (s : State) (k l : Nat) (b : BitVec 8) : State :=
  let d := keyDie k
  let mine : List Nat := match s.laneComp d l with
    | some n => (s.comp n).coresOn d
    | none => []
  s.updLane d l fun L =>
    let mask := if L.arrived.isEmpty && !L.dieArrived then 0 else L.mask
    let arrived := insNat k L.arrived
    let done := mine.all arrived.contains
    { L with barid := b, arrived, dieArrived := done,
             mask := if done then mask ||| BitVec.ofNat 8 (2 ^ d) else mask }

/-- BAR: with all engines idle the core arrives at the barrier and waits for its release; barriers 254
and 255 are the Lathe's own (03 R87, 04 R124). The PC goes on at the release. -/
def execBar (c : CoreId) (s : State) : Host.Outcome State Fault Refusal :=
  .next (s.control c.key 0x0D regZero fun x w =>
    let b := iValue w % 256
    if 0xFE ≤ b then s.coreFault c.key (.illegal w) x.pc 3
    else if x.refetch.isSome then s
    else
      let s := s.setCore c.key { x.drained with barWait := some (BitVec.ofNat 8 b), refetchUsed := false }
      match x.lane with
      | some l => s.arrive c.key l (BitVec.ofNat 8 b)
      | none => s)

end Sys2Proof.Machine
end

