-- ==== Sys2Proof/Machine/Hearth.lean ====
section
/-! DEFINITION. Hearth's commands and the tier F queue (07 R229-R243, 06 R210, 14 R465). -/

namespace Sys2Proof.Machine

/-- The digest a Hearth descriptor names. -/
def descDigest (b : List Byte) : Digest := BitVec.ofNat 256 (field b 16 32)

/-- A queue's front is the MODEL_LOAD whose transfer to tier H continues (07 R234). -/
def State.transferring (s : State) (q : Nat) (a : Accepted) : Bool :=
  a.op == 0x22 &&
    match s.model (descDigest a.bytes) with
    | some m => m.st == .loading && m.waiters.head? == some q
    | none => false

/-- A queue's front is a Hearth command that goes before the one accepted at `seq`, or that runs. -/
def State.goesBefore (s : State) (seq : Nat) (e : Nat × Queue) : Bool :=
  match e.2.front with
  | some a =>
    e.2.fin.isNone && decide (0x20 ≤ a.op) && decide (a.op ≤ 0x27) &&
      (if e.2.started then !s.transferring e.1 a else decide (a.seq < seq))
  | none => false

/-- The primary steward may start or go on with the Hearth command at the front of a queue
(07 R234). -/
def State.hearthTurn (s : State) (q : Nat) : Bool :=
  match (s.queue q).front with
  | some a => !(s.queues.any fun e => e.1 != q && s.goesBefore a.seq e)
  | none => false

/-- A Hearth command other than MODEL_STORE: its turn, and a model of the library (07 R234). (log 2, 23, DEDUCED) -/
def State.hearth (s : State) (q op : Nat) (used : List (Nat × Nat)) (fmt : List Byte → Bool)
    (f : State → Model → List Byte → State) : State :=
  s.descr q op ((16, 32) :: used) fmt noDenied fun s st =>
    if !s.hearthTurn q then s
    else match s.model (descDigest st.b) with
      | none => s.complete q .state
      | some m => f s m st.b

/-- The steward has begun the front command of a queue. -/
def State.begin (s : State) (q : Nat) : State := s.updQueue q fun x => { x with started := true }

/-- The tier F root as a completion result. -/
def State.rootResult (s : State) : BitVec 256 := s.sec.fRoot

/-! ### The tier F queue -/

/-- Tier M copies of a model that are not complete yet are read from tier F (07 R232). -/
def State.copyMissing (s : State) (m : Model) : State :=
  m.warmMap.foldl (fun (s : State) e =>
    let r : Mirror := Tab.look {} (s.memStop true e.1 0).mirrors m.slot
    if r.valid then s else s.copyM m e.1 e.2 m.copies) s

/-- The tier F part of a queue's Hearth command ends with a status. (log 23, DEDUCED) -/
def State.hearthEnd (s : State) (q : Nat) (st : Status) : State :=
  let x := s.queue q
  match x.front with
  | none => s
  | some a =>
    if !x.hearthBegun a || x.fin.isSome then s
    else
      let b := a.bytes
      let g := descDigest b
      match a.op, s.model g with
      | 0x20, none =>
        let img := x.buf.take (field b 56 8)
        let m : Model := { digest := g, manifest := img.take 4096, body := img.drop 4096 }
        let s := { s with models := s.models ++ [m] }
        s.complete q .ok s.rootResult
      | 0x21, some m =>
        if st = .ok then ((s.copyMissing m).updModel g fun m => { m with st := .warm }).complete q .ok
        else (s.toLibrary m).complete q st
      | 0x22, some m =>
        if st = .ok then
          (s.copyMissing m).updModel g fun m => { m with st := .loading, waiters := [q] }
        else (s.toLibrary m).complete q st
      | 0x27, some m =>
        ({ s with models := s.models.filter fun x => x.digest != m.digest }).complete q .ok s.rootResult
      | _, _ => s.complete q st

/-- The front F command of a die runs, or waits for the hold-up check (14 R465). -/
def State.fRun (s : State) (d : Nat) (uncorrectable : Bool) : State :=
  let x := s.die d
  match x.fqueue with
  | [] => s
  | c :: rest =>
    if x.fdefer then s
    else if c.write && !s.pwr.commitOk c.bytes c.channels then
      let s := s.updDie d fun x => { x with fdefer := true }
      { s with pwr := { s.pwr with defer := satAdd s.pwr.defer 1 } }
    else
      let st := c.status x.memsec.sealed uncorrectable
      let s := s.updDie d fun x => { x with fqueue := rest }
      let s := if c.write && st = .ok then { s.newRoot with tierF := s.tierF.write (4096 * c.sector) c.data } else s
      match c.q with
      | some q => s.hearthEnd q st
      | none => s

/-- F_COMMAND. -/
def execFCommand (die : Fin 8) (uncorrectable : Bool) (s : State) : Host.Outcome State Fault Refusal :=
  .next (if s.inEntry then s else s.fRun die.val uncorrectable)

/-- F_COMMIT_RECHECK: the check of a waiting commit is repeated; each wait is counted. -/
def execFCommitRecheck (die : Fin 8) (s : State) : Host.Outcome State Fault Refusal :=
  let x := s.die die.val
  .next (match x.fqueue with
    | c :: _ =>
      if !x.fdefer then s
      else if s.pwr.commitOk c.bytes c.channels then s.updDie die.val fun x => { x with fdefer := false }
      else { s with pwr := { s.pwr with defer := satAdd s.pwr.defer 1 } }
    | [] => s.updDie die.val fun x => { x with fdefer := false })

/-! ### Commands of 07 Table 3 -/

/-- Free bytes of tier F for images: those the dies report, less the images held. -/
def State.fFree (s : State) : Nat :=
  ((s.workingDies.map (Config.tierBytes 2)).sum) -
    (s.models.map fun m => 4096 * cdiv (m.manifest.length + m.body.length) 4096).sum

/-- MODEL_STORE (07 R229, R234, R236): refusals, then a write of the image to tier F. -/
def execModelStore (q : Fin 4096) (s : State) : Host.Outcome State Fault Refusal :=
  .next (s.descr q.val 0x20 [(16, 32), (48, 8), (56, 8)] (fun b => al64 b 48) noDenied fun s st =>
    if (s.queue q.val).started || !s.hearthTurn q.val then s
    else s.withData q.val (field st.b 56 8) fun img =>
      let g := descDigest st.b
      if !imageForm img then s.complete q.val .format
      else if (s.model g).isSome then s.complete q.val .state
      else if 16384 ≤ s.models.length then s.complete q.val .limit
      else if s.fFree < img.length then s.complete q.val .nomem
      else if !imageCheck img g then s.complete q.val .check
      else (s.begin q.val).pushF true img.length q.val img)

/-- The die map of MODEL_WARM and MODEL_LOAD. -/
def descMap (b : List Byte) : List (Nat × Nat) := dieMap (slice b 56 8)

/-- The form of a body with COPIES and DIEMAP (08 Table 7, 07 R233). -/
def mapBodyOk (b : List Byte) : Bool :=
  decide (1 ≤ field b 48 1) && decide (field b 48 1 ≤ 3) && mapForm (descMap b)

/-- A status for a die map against the manifest and the dies (07 R233). -/
def State.mapStatus (s : State) (m : Model) (map : List (Nat × Nat)) : Option Status :=
  if map.any fun e => decide (manNvd m.manifest ≤ e.2) then some .format
  else if map.any fun e => !(s.die e.1).working then some .state
  else none

/-- Bytes that tier F delivers for the virtual dies of a map. -/
def mapBytes (man : List Byte) (map : List (Nat × Nat)) : Nat :=
  4360 * (map.map fun e => manTiles man e.2).sum

/-- MODEL_WARM (07 R232, R234, R236). -/
def execModelWarm (q : Fin 4096) (s : State) : Host.Outcome State Fault Refusal :=
  .next (s.hearth q.val 0x21 [(48, 1), (56, 8)] mapBodyOk fun s m b =>
    let map := descMap b
    if (s.queue q.val).started then s
    else match s.mapStatus m map with
      | some st => s.complete q.val st
      | none =>
        if m.st != .library then s.complete q.val .state
        else match s.freeSlot with
          | none => s.complete q.val .limit
          | some slot =>
            match s.placeM m slot (field b 48 1) map with
            | none => s.complete q.val .nomem
            | some s =>
              let s := s.updModel m.digest fun m => { m with slot, warmMap := map, copies := field b 48 1 }
              (s.begin q.val).pushF false (mapBytes m.manifest map) q.val)

/-- The place of a load in tiers M and H: copies that a new warm map moves are released and placed
again, then the tier H regions are taken (07 R232, R239-R241). -/
def State.placeLoad (s : State) (m : Model) (slot c : Nat) (map : List (Nat × Nat)) : Option State :=
  let moved := map.filter fun e => !m.warmMap.contains e
  let gone := m.warmMap.filter fun e => !map.contains e
  let s := gone.foldl (fun (s : State) e => s.dropM m.slot e.1) s
  match s.placeM m slot c moved with
  | none => none
  | some s => s.placeH m slot map

/-- MODEL_LOAD (07 R232-R236, R241). -/
def execModelLoad (q : Fin 4096) (s : State) : Host.Outcome State Fault Refusal :=
  .next (s.hearth q.val 0x22 [(48, 1), (56, 8)] mapBodyOk fun s m b =>
    let map := descMap b
    if (s.queue q.val).started then s
    else match s.mapStatus m map with
      | some st => s.complete q.val st
      | none =>
        match m.st with
        | .hot =>
          if m.loadMap = map then
            (s.updModel m.digest fun m => { m with stamp := s.commits }).complete q.val .ok (BitVec.ofNat 256 m.slot)
          else s.complete q.val .state
        | .loading => (s.updModel m.digest fun m => { m with waiters := m.waiters ++ [q.val] }).begin q.val
        | _ =>
          let c := if m.st == .library then field b 48 1 else m.copies
          match (if m.st == .library then s.freeSlot else some m.slot) with
          | none => s.complete q.val .limit
          | some slot =>
            match s.placeLoad m slot c map with
            | none => s.complete q.val .nomem
            | some s =>
              let s := (s.updModel m.digest fun m =>
                { m with slot, warmMap := map, loadMap := map, copies := c }).begin q.val
              if m.st == .warm && m.warmMap == map then
                s.updModel m.digest fun m => { m with st := .loading, waiters := [q.val] }
              else s.pushF false (mapBytes m.manifest (map.filter fun e => !m.warmMap.contains e)) q.val)

/-- MODEL_LOAD_COMPLETE (07 R241): the transfer of a slot's model ends. -/
def execModelLoadComplete (slot : Nat) (bad : Bool) (s : State) : Host.Outcome State Fault Refusal :=
  .next (match s.slotModel slot with
    | none => s
    | some m =>
      if m.st != .loading then s
      else if bad || !s.copiesGood m then m.waiters.foldl (fun s q => s.complete q .check) (s.toWarm m)
      else
        let s := (s.loadAll m).updModel m.digest fun m =>
          { m with st := .hot, stamp := s.commits, waiters := [] }
        m.waiters.foldl (fun s q => s.complete q .ok (BitVec.ofNat 256 slot)) s)

/-- MODEL_PIN. -/
def execModelPin (q : Fin 4096) (s : State) : Host.Outcome State Fault Refusal :=
  .next (s.hearth q.val 0x23 [] (fun _ => true) fun s m _ =>
    if m.st != .hot || decide (65535 ≤ m.pins) then s.complete q.val .state
    else (s.updModel m.digest fun m => { m with pins := m.pins + 1 }).complete q.val .ok)

/-- MODEL_UNPIN. -/
def execModelUnpin (q : Fin 4096) (s : State) : Host.Outcome State Fault Refusal :=
  .next (s.hearth q.val 0x24 [] (fun _ => true) fun s m _ =>
    if m.st != .hot || m.pins == 0 then s.complete q.val .state
    else (s.updModel m.digest fun m => { m with pins := m.pins - 1 }).complete q.val .ok)

/-- MODEL_EVICT (07 Table 3, R235): it waits for a load of its model to end. -/
def execModelEvict (q : Fin 4096) (s : State) : Host.Outcome State Fault Refusal :=
  .next (s.hearth q.val 0x25 [] (fun _ => true) fun s m _ =>
    if m.st == .loading then s.begin q.val
    else if m.st != .hot || m.pins != 0 || s.boundTo m.digest then s.complete q.val .state
    else (s.toWarm m).complete q.val .ok)

/-- MODEL_DROP. (log 23, DEDUCED) -/
def execModelDrop (q : Fin 4096) (s : State) : Host.Outcome State Fault Refusal :=
  .next (s.hearth q.val 0x26 [] (fun _ => true) fun s m _ =>
    if m.st != .warm then s.complete q.val .state else (s.toLibrary m).complete q.val .ok)

/-- MODEL_DELETE: the image leaves tier F by a write of its metadata (06 R210). -/
def execModelDelete (q : Fin 4096) (s : State) : Host.Outcome State Fault Refusal :=
  .next (s.hearth q.val 0x27 [] (fun _ => true) fun s m _ =>
    if (s.queue q.val).started then s
    else if m.st != .library then s.complete q.val .state
    else (s.begin q.val).pushF true 4096 q.val)

end Sys2Proof.Machine
end

