-- ==== Sys2Proof/Machine/Tx.lean ====
section
/-! DEFINITION. The TX instructions: channels, slot and allowance checks, and the flits a transfer sends
(03 R103-R106, 05 R163, R181-R184). -/

namespace Sys2Proof.Machine

/-! ### Channel-table entries (05 Table 4) -/

/-- VALID. -/
def chValid (e : Nat) : Bool := bit e 0
/-- KIND. -/
def chKind (e : Nat) : Nat := bits e 3 1
/-- CLASS. -/
def chClass (e : Nat) : Nat := bits e 6 4
/-- PORT. -/
def chPort (e : Nat) : Nat := bits e 9 7
/-- OWNER. -/
def chOwner (e : Nat) : Nat := bits e 13 10
/-- RSLOT. -/
def chRslot (e : Nat) : Nat := bits e 47 40
/-- RRUN: return flits per frame minus 1. -/
def chRrun (e : Nat) : Nat := bits e 55 48

/-- The channel entry a word names. -/
def Core.channel (c : Core) (w : Nat) : Nat := (Tab.look 0 c.chan (iCh w)).toNat

/-- A channel a TX instruction may name (05 R163). -/
def chDefined (e : Nat) : Bool :=
  chValid e && decide (chKind e ≤ 4) && decide (1 ≤ chPort e) && decide (chPort e ≤ 4)

/-- Units of a channel's destination, where it has a size: scratch or cluster memory (03 R85). -/
def chUnits (e : Nat) : Nat :=
  match chKind e with
  | 0 => 2 ^ 16
  | _ => 2 ^ 20

/-- Flits per frame RUN. -/
def iRunN (w : Nat) : Nat := iRun w + 1

/-- Flits the core's origin has sent in a class in the transfer's first frame: the current one when
cycle SLOT has not begun (03 R104). -/
def State.priorSent (s : State) (d origin cls slot : Nat) : Nat :=
  if (s.die d).slotCtr.toNat < slot then Tab.look 0 (s.origin d origin).sent cls else 0

/-- The first cycle of the run that is not granted to the channel: by the slot table of its port
(03 R103) or by its class allowance (05 R182). -/
def State.ungranted (s : State) (k w : Nat) : Option Nat :=
  let e := (s.core k).channel w
  let d := keyDie k
  let r := coreRouter (keyCluster k) (keyCore k)
  let n := originOf r
  let prior := s.priorSent d n (chClass e) (iSlot w)
  let allow := Tab.look 0 (s.origin d n).allow (chClass e)
  ((List.range (iRunN w)).find? fun j =>
    let x := (s.router d r).entry (chPort e) (iSlot w + j)
    !(slValid x && slIn x == 0 && slOwner x == chOwner e && slClass x == chClass e)
      || decide (allow < prior + j + 1)).map (iSlot w + ·)

/-- Layout X has its reserved bits zero (03 R84). (log 11, DEDUCED) -/
def txIllegal (w : Nat) : Option CF :=
  faultIf (bits w 39 36 != 0 || bits w 79 76 != 0 || bits w 127 108 != 0) (.illegal w)

/-- The `RANGE` of a channel or of a slot run (03 R104, 05 R163); INFO is the offending field. (log 11, DEDUCED) -/
def txRange (e w : Nat) : Option CF :=
  firstSome
    [faultIf (!chDefined e) (.range (iCh w)),
     faultIf (decide (256 < iSlot w + iRunN w)) (.range (iSlot w + iRunN w)),
     faultIf (iLen w == 0) (.range 0)]

/-- `SLOT_VIOLATION` of a transfer. -/
def State.txSlots (s : State) (k w : Nat) : Option CF :=
  (s.ungranted k w).map fun c => .slotv (iCh w) c (chPort ((s.core k).channel w))

/-- Busy cycles of a transfer of `n` flits (03 R105): from its start to SLOT, whole frames, and the
flits of the last frame. -/
def State.txCycles (s : State) (k w n : Nat) : Nat :=
  let now := (s.die (keyDie k)).slotCtr.toNat
  let wait := if now < iSlot w then iSlot w - now else 256 + iSlot w - now
  let frames := cdiv n (iRunN w) - 1
  wait + 256 * frames + (n - frames * iRunN w)

/-- Flit `j` of a transfer of `n` flits: it is on the LOCAL input of the core's router. -/
def txFlit (k e w n j faddr : Nat) (payload : Payload) (use : FlitUse) : Flit :=
  { owner := chOwner e, cls := chClass e, last := j + 1 == n, ctr := iXctr w, faddr := faddr % 2 ^ 18,
    poison := false, payload, use, router := coreRouter (keyCluster k) (keyCore k), port := 0,
    cycle := (iSlot w + j % iRunN w) % 256 }

/-- TSND: LEN flits from local scratch to RADDR of the channel's destination (03 Table 9). -/
def planTsnd (s : State) (k w : Nat) : Except CF Plan :=
  let c := s.core k
  let e := c.channel w
  let la := c.ea (iLaddr w) (iLx w)
  let ra := c.remote (iRaddr w) (iRx w)
  let n := iLen w
  checked
    [txIllegal w, txRange e w, areaBad false (la, 64 * n),
     faultIf (decide (chUnits e ≤ ra)) (.range ra), s.txSlots k w]
    { reads := [(la, 64 * n)],
      cycles := s.txCycles k w n,
      flits := (List.range n).map fun j =>
        txFlit k e w n j (ra / 4 + j) (bytesPayload (c.scratch.read (la + 64 * j) 64)) .data }

/-- TGET: one request flit; the destination returns LEN flits to local LADDR (03 Table 9). -/
def planTget (s : State) (k w : Nat) : Except CF Plan :=
  let c := s.core k
  let e := c.channel w
  let la := c.ea (iLaddr w) (iLx w)
  let ra := c.remote (iRaddr w) (iRx w)
  checked
    [txIllegal w, txRange e w, faultIf (iRun w != 0) (.range (iRun w)), areaBad false (la, 64 * iLen w),
     faultIf (decide (chUnits e ≤ ra)) (.range ra), s.txSlots k w]
    { reads := [(la, 64 * iLen w)],
      cycles := s.txCycles k w 1,
      flits := [txFlit k e w 1 0 (ra / 4) 0
        (.getReq ra (iLen w) (la / 16) (iXctr w) k (chRslot e) (chRrun e))] }

/-- TREQ: the 64-byte request at LADDR goes to the cluster's allocator request ring; its reply is
written to local RADDR (03 Table 9). -/
def planTreq (s : State) (k w : Nat) : Except CF Plan :=
  let c := s.core k
  let e := c.channel w
  let la := c.ea (iLaddr w) (iLx w)
  let ra := c.remote (iRaddr w) (iRx w)
  checked
    [txIllegal w, txRange e w, faultIf (iRun w != 0) (.range (iRun w)),
     faultIf (iLen w != 1) (.range (iLen w)), areaBad false (la, 64),
     faultIf (decide (scratchBytes < 16 * ra + 64)) (.range ra), s.txSlots k w]
    { reads := [(la, 64), (16 * ra, 64)],
      cycles := s.txCycles k w 1,
      flits := [txFlit k e w 1 0 0 (bytesPayload (c.scratch.read la 64)) (.allocReq k ra (iXctr w))] }

/-- Count the flits a transfer injects (05 R182, R184): in the first frame at most RUN. -/
def State.txInject (s : State) (k w n : Nat) : State :=
  let e := (s.core k).channel w
  let d := keyDie k
  let frame := if (s.die d).slotCtr.toNat < iSlot w then min n (iRunN w) else 0
  s.inject d (originOf (coreRouter (keyCluster k) (keyCore k))) (chOwner e) (chClass e) frame n

/-- A `SLOT_VIOLATION` is copied to the registers of the core's router (05 Table 11 `INJECT`). -/
def State.txRecord (s : State) (k w : Nat) (f : CF) : State :=
  if f.code = 5 then
    let e := (s.core k).channel w
    s.meshRecord (keyDie k) (coreRouter (keyCluster k) (keyCore k)) (chPort e) (bits f.info 15 8)
      (chOwner e) (chClass e) 7
  else s

/-- Issue a TX instruction. -/
def State.transfer (s : State) (k op : Nat) (ovl : List Eng) (ue : Option (Nat × Nat))
    (plan : State → Nat → Nat → Except CF Plan) : State :=
  s.issue k op fun c w =>
    if c.busy .tx then s
    else
      let r := plan s k w
      let s' := (s.setCore k c.next).execute k .tx c.pc ovl ue r
      match r with
      | .error f => s'.txRecord k w f
      | .ok p => if (s'.core k).st == .fault then s' else s'.txInject k w p.flits.length

/-- TSND. -/
def execTsnd (c : CoreId) (ovl : List Eng) (ue : Option (Nat × Nat)) (s : State) :
    Host.Outcome State Fault Refusal :=
  .next (s.transfer c.key 0xC0 ovl ue planTsnd)

/-- TGET. -/
def execTget (c : CoreId) (ovl : List Eng) (ue : Option (Nat × Nat)) (s : State) :
    Host.Outcome State Fault Refusal :=
  .next (s.transfer c.key 0xC1 ovl ue planTget)

/-- TREQ. -/
def execTreq (c : CoreId) (ovl : List Eng) (ue : Option (Nat × Nat)) (s : State) :
    Host.Outcome State Fault Refusal :=
  .next (s.transfer c.key 0xC2 ovl ue planTreq)

end Sys2Proof.Machine
end

