-- ==== Sys2Proof/Machine/Dispatch.lean ====
section
/-! DEFINITION. Dispatch: one arm per command, each one direct call of its meaning. -/

namespace Sys2Proof.Machine

def exec (i : Instr) (s : State) : Host.Outcome State Fault Refusal :=
  match i with
  | .nop c => Sys2Proof.Machine.execNop c s
  | .endp c => Sys2Proof.Machine.execEndp c s
  | .jmp c => Sys2Proof.Machine.execJmp c s
  | .lset c => Sys2Proof.Machine.execLset c s
  | .loop c => Sys2Proof.Machine.execLoop c s
  | .brc c => Sys2Proof.Machine.execBrc c s
  | .clrc c hwSet => Sys2Proof.Machine.execClrc c hwSet s
  | .xset c => Sys2Proof.Machine.execXset c s
  | .xadd c => Sys2Proof.Machine.execXadd c s
  | .waite c => Sys2Proof.Machine.execWaite c s
  | .waitc c => Sys2Proof.Machine.execWaitc c s
  | .cset c => Sys2Proof.Machine.execCset c s
  | .waitf c => Sys2Proof.Machine.execWaitf c s
  | .bar c => Sys2Proof.Machine.execBar c s
  | .aclr c ovl => Sys2Proof.Machine.execAclr c ovl s
  | .mma c ovl ue => Sys2Proof.Machine.execMma c ovl ue s
  | .arnd c ovl ue => Sys2Proof.Machine.execArnd c ovl ue s
  | .aexp c ovl ue => Sys2Proof.Machine.execAexp c ovl ue s
  | .aadd c ovl ue => Sys2Proof.Machine.execAadd c ovl ue s
  | .vadd c ovl ue => Sys2Proof.Machine.execVadd c ovl ue s
  | .vsub c ovl ue => Sys2Proof.Machine.execVsub c ovl ue s
  | .vmul c ovl ue => Sys2Proof.Machine.execVmul c ovl ue s
  | .vfma c ovl ue => Sys2Proof.Machine.execVfma c ovl ue s
  | .vdiv c ovl ue => Sys2Proof.Machine.execVdiv c ovl ue s
  | .vsqrt c ovl ue => Sys2Proof.Machine.execVsqrt c ovl ue s
  | .vmin c ovl ue => Sys2Proof.Machine.execVmin c ovl ue s
  | .vmax c ovl ue => Sys2Proof.Machine.execVmax c ovl ue s
  | .vfn c ovl ue => Sys2Proof.Machine.execVfn c ovl ue s
  | .vcvt c ovl ue => Sys2Proof.Machine.execVcvt c ovl ue s
  | .vqnt c ovl ue => Sys2Proof.Machine.execVqnt c ovl ue s
  | .vsum c ovl ue => Sys2Proof.Machine.execVsum c ovl ue s
  | .vrnd c ovl ue => Sys2Proof.Machine.execVrnd c ovl ue s
  | .vsmx c ovl ue => Sys2Proof.Machine.execVsmx c ovl ue s
  | .vrms c ovl ue => Sys2Proof.Machine.execVrms c ovl ue s
  | .vln c ovl ue => Sys2Proof.Machine.execVln c ovl ue s
  | .vtmk c ovl ue => Sys2Proof.Machine.execVtmk c ovl ue s
  | .tsnd c ovl ue => Sys2Proof.Machine.execTsnd c ovl ue s
  | .tget c ovl ue => Sys2Proof.Machine.execTget c ovl ue s
  | .treq c ovl ue => Sys2Proof.Machine.execTreq c ovl ue s
  | .refetchRequest die lane w => Sys2Proof.Machine.execRefetchRequest die lane w s
  | .mirrorRefetchServe die stop block => Sys2Proof.Machine.execMirrorRefetchServe die stop block s
  | .refetchLanding c ovl ue => Sys2Proof.Machine.execRefetchLanding c ovl ue s
  | .flitDelivery die n cyc ovl bad badMirror ecc => Sys2Proof.Machine.execFlitDelivery die n cyc ovl bad badMirror ecc s
  | .elasticQueueArrival die stop f => Sys2Proof.Machine.execElasticQueueArrival die stop f s
  | .routerFail die router => Sys2Proof.Machine.execRouterFail die router s
  | .tgetReply die router => Sys2Proof.Machine.execTgetReply die router s
  | .frameStart die => Sys2Proof.Machine.execFrameStart die s
  | .compositionArrival die lane => Sys2Proof.Machine.execCompositionArrival die lane s
  | .barrierRelease die lane => Sys2Proof.Machine.execBarrierRelease die lane s
  | .barrierTimeout die lane remote unitFail => Sys2Proof.Machine.execBarrierTimeout die lane remote unitFail s
  | .startPhase k => Sys2Proof.Machine.execStartPhase k s
  | .samplePhase k logits => Sys2Proof.Machine.execSamplePhase k logits s
  | .commitWord die lane => Sys2Proof.Machine.execCommitWord die lane s
  | .eventPhase k => Sys2Proof.Machine.execEventPhase k s
  | .draftPhase k rcd => Sys2Proof.Machine.execDraftPhase k rcd s
  | .tileReadIssue die lane sp => Sys2Proof.Machine.execTileReadIssue die lane sp s
  | .landingRecordSend die lane sp => Sys2Proof.Machine.execLandingRecordSend die lane sp s
  | .hWindowService die stop win arrivals ue => Sys2Proof.Machine.execHWindowService die stop win arrivals ue s
  | .mBlockService die stop block arrivals ue => Sys2Proof.Machine.execMBlockService die stop block arrivals ue s
  | .refresh stop => Sys2Proof.Machine.execRefresh stop s
  | .patrolScrub stop addr corrected ue => Sys2Proof.Machine.execPatrolScrub stop addr corrected ue s
  | .train stop => Sys2Proof.Machine.execTrain stop s
  | .stopTrainingTimeout stop => Sys2Proof.Machine.execStopTrainingTimeout stop s
  | .timingUpkeep stop margin => Sys2Proof.Machine.execTimingUpkeep stop margin s
  | .stopOwnWrite stop second v => Sys2Proof.Machine.execStopOwnWrite stop second v s
  | .epochAdvance stop region => Sys2Proof.Machine.execEpochAdvance stop region s
  | .fCommand die uncorrectable => Sys2Proof.Machine.execFCommand die uncorrectable s
  | .fCommitRecheck die => Sys2Proof.Machine.execFCommitRecheck die s
  | .modelStore q => Sys2Proof.Machine.execModelStore q s
  | .modelWarm q => Sys2Proof.Machine.execModelWarm q s
  | .modelLoad q => Sys2Proof.Machine.execModelLoad q s
  | .modelLoadComplete slot bad => Sys2Proof.Machine.execModelLoadComplete slot bad s
  | .modelPin q => Sys2Proof.Machine.execModelPin q s
  | .modelUnpin q => Sys2Proof.Machine.execModelUnpin q s
  | .modelEvict q => Sys2Proof.Machine.execModelEvict q s
  | .modelDrop q => Sys2Proof.Machine.execModelDrop q s
  | .modelDelete q => Sys2Proof.Machine.execModelDelete q s
  | .allocRequestArrival die cluster r => Sys2Proof.Machine.execAllocRequestArrival die cluster r s
  | .allocatorService die => Sys2Proof.Machine.execAllocatorService die s
  | .tailDoorbell port ctx word zero => Sys2Proof.Machine.execTailDoorbell port ctx word zero s
  | .headDoorbell port ctx word zero => Sys2Proof.Machine.execHeadDoorbell port ctx word zero s
  | .armDoorbell port ctx word zero => Sys2Proof.Machine.execArmDoorbell port ctx word zero s
  | .serviceSlot port => Sys2Proof.Machine.execServiceSlot port s
  | .data tag failed bytes => Sys2Proof.Machine.execData tag failed bytes s
  | .tongsReadTimeout tag => Sys2Proof.Machine.execTongsReadTimeout tag s
  | .cfgRd src tag a => Sys2Proof.Machine.execCfgRd src tag a s
  | .cfgWr src a v => Sys2Proof.Machine.execCfgWr src a v s
  | .objRd tag off len => Sys2Proof.Machine.execObjRd tag off len s
  | .objWr off bytes => Sys2Proof.Machine.execObjWr off bytes s
  | .ctxOpen q => Sys2Proof.Machine.execCtxOpen q s
  | .close q => Sys2Proof.Machine.execClose q s
  | .closeComplete ctx => Sys2Proof.Machine.execCloseComplete ctx s
  | .queueCreate q => Sys2Proof.Machine.execQueueCreate q s
  | .queueDestroy q => Sys2Proof.Machine.execQueueDestroy q s
  | .evringCreate q => Sys2Proof.Machine.execEvringCreate q s
  | .evringDestroy q => Sys2Proof.Machine.execEvringDestroy q s
  | .tenantStart q => Sys2Proof.Machine.execTenantStart q s
  | .tenantEnd q => Sys2Proof.Machine.execTenantEnd q s
  | .throttleSet q => Sys2Proof.Machine.execThrottleSet q s
  | .epochMark q => Sys2Proof.Machine.execEpochMark q s
  | .attest q => Sys2Proof.Machine.execAttest q s
  | .descriptorNop q => Sys2Proof.Machine.execDescriptorNop q s
  | .query q => Sys2Proof.Machine.execQuery q s
  | .objAlloc q => Sys2Proof.Machine.execObjAlloc q s
  | .objFree q => Sys2Proof.Machine.execObjFree q s
  | .objMap q => Sys2Proof.Machine.execObjMap q s
  | .objUnmap q => Sys2Proof.Machine.execObjUnmap q s
  | .objCopy q => Sys2Proof.Machine.execObjCopy q s
  | .compCreate q img => Sys2Proof.Machine.execCompCreate q img s
  | .compRebind q => Sys2Proof.Machine.execCompRebind q s
  | .compDestroy q => Sys2Proof.Machine.execCompDestroy q s
  | .drainRelease k => Sys2Proof.Machine.execDrainRelease k s
  | .loopStart q => Sys2Proof.Machine.execLoopStart q s
  | .loopStop q => Sys2Proof.Machine.execLoopStop q s
  | .sampleSet q => Sys2Proof.Machine.execSampleSet q s
  | .draft q => Sys2Proof.Machine.execDraft q s
  | .recordFetch q => Sys2Proof.Machine.execRecordFetch q s
  | .poolMap q answers => Sys2Proof.Machine.execPoolMap q answers s
  | .create attacher sid mgen bytes => Sys2Proof.Machine.execCreate attacher sid mgen bytes s
  | .attach attacher sid mgen epoch len leaseMs => Sys2Proof.Machine.execAttach attacher sid mgen epoch len leaseMs s
  | .sync attacher sid mgen epoch leaseMs bytes => Sys2Proof.Machine.execSync attacher sid mgen epoch leaseMs bytes s
  | .detach attacher sid mgen epoch bytes => Sys2Proof.Machine.execDetach attacher sid mgen epoch bytes s
  | .drop sid mgen epoch => Sys2Proof.Machine.execDrop sid mgen epoch s
  | .handoff sid mgen epoch target => Sys2Proof.Machine.execHandoff sid mgen epoch target s
  | .resolve sid mgen peer => Sys2Proof.Machine.execResolve sid mgen peer s
  | .fenceCreate q => Sys2Proof.Machine.execFenceCreate q s
  | .fenceAttach q => Sys2Proof.Machine.execFenceAttach q s
  | .fenceDetach q => Sys2Proof.Machine.execFenceDetach q s
  | .fenceSignal q => Sys2Proof.Machine.execFenceSignal q s
  | .fenceWait q => Sys2Proof.Machine.execFenceWait q s
  | .faultRecording ctx window => Sys2Proof.Machine.execFaultRecording ctx window s
  | .revokeLane die lane ctx => Sys2Proof.Machine.execRevokeLane die lane ctx s
  | .revokeTag die ctx => Sys2Proof.Machine.execRevokeTag die ctx s
  | .collect die => Sys2Proof.Machine.execCollect die s
  | .ack die seq => Sys2Proof.Machine.execAck die seq s
  | .revocationComplete ctx => Sys2Proof.Machine.execRevocationComplete ctx s
  | .join cid vmod digest => Sys2Proof.Machine.execJoin cid vmod digest s
  | .ready cid gen allShift => Sys2Proof.Machine.execReady cid gen allShift s
  | .refuse cid vmod => Sys2Proof.Machine.execRefuse cid vmod s
  | .joinDeadline k => Sys2Proof.Machine.execJoinDeadline k s
  | .memberJoinDeadline k => Sys2Proof.Machine.execMemberJoinDeadline k s
  | .bal cid vmod step waited => Sys2Proof.Machine.execBal cid vmod step waited s
  | .caps cid step caps => Sys2Proof.Machine.execCaps cid step caps s
  | .offer src sid epoch mgen len => Sys2Proof.Machine.execOffer src sid epoch mgen len s
  | .prepAck src sid epoch => Sys2Proof.Machine.execPrepAck src sid epoch s
  | .commit src sid epoch => Sys2Proof.Machine.execCommit src sid epoch s
  | .commitAck src sid epoch => Sys2Proof.Machine.execCommitAck src sid epoch s
  | .abort src sid epoch => Sys2Proof.Machine.execAbort src sid epoch s
  | .resolveMessage src sid epoch => Sys2Proof.Machine.execResolveMessage src sid epoch s
  | .resolveAns src sid kind epoch dev => Sys2Proof.Machine.execResolveAns src sid kind epoch dev s
  | .gone dev => Sys2Proof.Machine.execGone dev s
  | .prepAckTimeout sid => Sys2Proof.Machine.execPrepAckTimeout sid s
  | .commitResend sid => Sys2Proof.Machine.execCommitResend sid s
  | .resolveTimer sid => Sys2Proof.Machine.execResolveTimer sid s
  | .resolveDeadline sid => Sys2Proof.Machine.execResolveDeadline sid s
  | .leaseEnd sid => Sys2Proof.Machine.execLeaseEnd sid s
  | .memberUnreachable dev => Sys2Proof.Machine.execMemberUnreachable dev s
  | .poolBlock src p => Sys2Proof.Machine.execPoolBlock src p s
  | .linkTraining port t => Sys2Proof.Machine.execLinkTraining port t s
  | .linkTrainingTimeout port => Sys2Proof.Machine.execLinkTrainingTimeout port s
  | .retrainDelay port => Sys2Proof.Machine.execRetrainDelay port s
  | .hello port dev peerPort role nonce => Sys2Proof.Machine.execHello port dev peerPort role nonce s
  | .echo port token hold => Sys2Proof.Machine.execEcho port token hold s
  | .echoAns port token hold flight => Sys2Proof.Machine.execEchoAns port token hold flight s
  | .lanes port excl degraded => Sys2Proof.Machine.execLanes port excl degraded s
  | .rekey port epoch fcsw => Sys2Proof.Machine.execRekey port epoch fcsw s
  | .rekeyStart port => Sys2Proof.Machine.execRekeyStart port s
  | .fcThreshold port => Sys2Proof.Machine.execFcThreshold port s
  | .counterExhausted port => Sys2Proof.Machine.execCounterExhausted port s
  | .down port reason => Sys2Proof.Machine.execDown port reason s
  | .controlSilence port => Sys2Proof.Machine.execControlSilence port s
  | .lockLoss port => Sys2Proof.Machine.execLockLoss port s
  | .retrain port => Sys2Proof.Machine.execRetrain port s
  | .linkEnableWrite port on => Sys2Proof.Machine.execLinkEnableWrite port on s
  | .txRun port slot => Sys2Proof.Machine.execTxRun port slot s
  | .linkBlockReceive port b => Sys2Proof.Machine.execLinkBlockReceive port b s
  | .controlBlock port units msgs => Sys2Proof.Machine.execControlBlock port units msgs s
  | .checkpoint k => Sys2Proof.Machine.execCheckpoint k s
  | .orphanClose k => Sys2Proof.Machine.execOrphanClose k s
  | .release => Sys2Proof.Machine.execRelease s
  | .lcAdvance sideband => Sys2Proof.Machine.execLcAdvance sideband s
  | .keygen sideband => Sys2Proof.Machine.execKeygen sideband s
  | .digestSet sideband => Sys2Proof.Machine.execDigestSet sideband s
  | .fsSet port => Sys2Proof.Machine.execFsSet port s
  | .boot sideband image failed => Sys2Proof.Machine.execBoot sideband image failed s
  | .undervoltage stamp => Sys2Proof.Machine.execUndervoltage stamp s
  | .overvoltage stamp => Sys2Proof.Machine.execOvervoltage stamp s
  | .overcurrent stamp => Sys2Proof.Machine.execOvercurrent stamp s
  | .warningRelease => Sys2Proof.Machine.execWarningRelease s
  | .powerLossDumpErase => Sys2Proof.Machine.execPowerLossDumpErase s
  | .powerOnReset => Sys2Proof.Machine.execPowerOnReset s
  | .powerOn cmeas => Sys2Proof.Machine.execPowerOn cmeas s
  | .powerUpRetry step => Sys2Proof.Machine.execPowerUpRetry step s
  | .powerLossDumpCopy => Sys2Proof.Machine.execPowerLossDumpCopy s
  | .droop die mv => Sys2Proof.Machine.execDroop die mv s
  | .thermal die temp => Sys2Proof.Machine.execThermal die temp s
  | .thermalPowerOnReset die temp => Sys2Proof.Machine.execThermalPowerOnReset die temp s
  | .throttleUpdate => Sys2Proof.Machine.execThrottleUpdate s
  | .bubblePeriod die => Sys2Proof.Machine.execBubblePeriod die s
  | .telemetrySample t => Sys2Proof.Machine.execTelemetrySample t s
  | .fmcWindow die count chk => Sys2Proof.Machine.execFmcWindow die count chk s
  | .go die => Sys2Proof.Machine.execGo die s
  | .fmcMeasurementDone die count => Sys2Proof.Machine.execFmcMeasurementDone die count s
  | .capWrite v => Sys2Proof.Machine.execCapWrite v s
  | .reset key => Sys2Proof.Machine.execReset key s
  | .sbRst => Sys2Proof.Machine.execSbRst s
  | .stewardWatchdog die steward => Sys2Proof.Machine.execStewardWatchdog die steward s
  | .stewardTakeover die => Sys2Proof.Machine.execStewardTakeover die s
  | .moduleWatchdog => Sys2Proof.Machine.execModuleWatchdog s
  | .teardownTimeout ctx => Sys2Proof.Machine.execTeardownTimeout ctx s
  | .engineWatchdog c e => Sys2Proof.Machine.execEngineWatchdog c e s
  | .collectionTimeout die unit => Sys2Proof.Machine.execCollectionTimeout die unit s
  | .firmwareError => Sys2Proof.Machine.execFirmwareError s
  | .resetRelease => Sys2Proof.Machine.execResetRelease s
  | .hifReady => Sys2Proof.Machine.execHifReady s
  | .clear => Sys2Proof.Machine.execClear s
  | .strapWindow samples => Sys2Proof.Machine.execStrapWindow samples s
  | .smbCfgWr off v pecOk => Sys2Proof.Machine.execSmbCfgWr off v pecOk s
  | .smbCfgAddr off pecOk => Sys2Proof.Machine.execSmbCfgAddr off pecOk s
  | .smbCfgData pecOk => Sys2Proof.Machine.execSmbCfgData pecOk s
  | .coreCtlWrite c v => Sys2Proof.Machine.execCoreCtlWrite c v s
  | .stop die lane => Sys2Proof.Machine.execStop die lane s
  | .dsrcWrite die lane v => Sys2Proof.Machine.execDsrcWrite die lane v s
  | .meshLoadGo die => Sys2Proof.Machine.execMeshLoadGo die s
  | .meshLoadComplete die => Sys2Proof.Machine.execMeshLoadComplete die s
  | .arm die => Sys2Proof.Machine.execArm die s
  | .enable v => Sys2Proof.Machine.execEnable v s
  | .registerWrite a v => Sys2Proof.Machine.execRegisterWrite a v s
  | .aliasedRead a => Sys2Proof.Machine.execAliasedRead a s
  | .rcRead a hw => Sys2Proof.Machine.execRcRead a hw s
  | .waitEvent die lane call addr => Sys2Proof.Machine.execWaitEvent die lane call addr s
  | .draftCall die lane call addr rcd => Sys2Proof.Machine.execDraftCall die lane call addr rcd s
  | .stopCall die lane call => Sys2Proof.Machine.execStopCall die lane call s
  | .stateRead die lane call => Sys2Proof.Machine.execStateRead die lane call s
  | .exit die lane call => Sys2Proof.Machine.execExit die lane call s
  | .ucpQuantum die => Sys2Proof.Machine.execUcpQuantum die s
  | .stopReady stop lanes rows spareLeft => Sys2Proof.Machine.execStopReady stop lanes rows spareLeft s
  | .selfTestComplete failed deadDies badRouters badBypass goodStewards => Sys2Proof.Machine.execSelfTestComplete failed deadDies badRouters badBypass goodStewards s
  | .attachingModuleLeaseEnd sid => Sys2Proof.Machine.execAttachingModuleLeaseEnd sid s

end Sys2Proof.Machine
end

