-- ==== Sys2Proof/Safety.lean ====
section
/-! DEFINITION. What a safe run is, and the words in which the claims are stated. -/

namespace Sys2Proof.Machine

/-- A state from which a step answers a next state. -/
def State.steps (s : State) : Prop := ∃ t, step s = .next t

/-! ### Tile instructions -/

/-- The instruction at the PC of a core. -/
def State.insn (s : State) (k : Nat) : Nat := (s.core k).word (s.core k).pc.toNat

/-- Core `k` can issue, and opcode `op` stands at its PC (03 R78). -/
def State.atOp (s : State) (k op : Nat) : Prop := (s.core k).issuing = true ∧ iOp (s.insn k) = op

/-- The reserved bits of layout C are zero (03 R84). -/
def ctlClean (w : Nat) : Prop := bits w 63 38 = 0 ∧ bits w 127 96 = 0

/-- No instruction of another engine that `ovl` names as executing writes what ranges `rd` and `wr` cover, or
reads what `wr` covers (03 R82). -/
def Core.apart (c : Core) (e : Eng) (ovl : List Eng) (rd wr : List Range) : Prop :=
  ∀ x ∈ ovl, x ≠ e → ∀ r, c.flying x = some r →
    overlaps wr (r.reads ++ r.writes) = none ∧ overlaps r.writes rd = none

/-- Engine `e` of core `k` can start the instruction of opcode `op` at the PC: no refetch holds it, and its ranges
clear those of the other engines. -/
def State.starts (s : State) (k op : Nat) (e : Eng) (ovl : List Eng) (rd wr : List Range) : Prop :=
  s.atOp k op ∧ (s.core k).busy e = false ∧ (s.core k).apart e ovl rd wr

/-- The range lies in scratch, and on a 64-byte boundary where `al` asks it (03 R85). -/
def inScratch (al : Bool) (r : Range) : Prop := r.1 + r.2 ≤ scratchBytes ∧ (al = true → r.1 % 64 = 0)

/-- The reserved bits of layout A from bit `top` up are zero and MOD is at most `m` (03 R84). -/
def opClean (w top m : Nat) : Prop := bits w 39 38 = 0 ∧ bits w 127 top = 0 ∧ iMod w ≤ m

/-- The three format fields (03 R96). -/
def opFormats (w a b d : Nat) : Prop := iFa w = a ∧ iFb w = b ∧ iFd w = d

/-- From `s` to `t`, an instruction of core `k` took its whole effect and the PC stands at `pc`: the byte strings of
`data` stand in scratch in their order, the accumulators of `accs` hold their new values, OVF gained `ovf`; the core's
other program-visible state, every other core, every lane and every memory tier are as before. -/
def State.applied (s t : State) (k : Nat) (pc : BitVec 12) (data : List (Nat × List Byte)) (accs : List (Nat × Acc))
    (ovf : Bool) : Prop :=
  let c := s.core k
  let x := t.core k
  x.pc = pc ∧ x.st = c.st ∧ x.ovf = (c.ovf || ovf) ∧
  x.scratch = data.foldl (fun m p => m.write p.1 p.2) c.scratch ∧
  x.accs = accs.foldl (fun a p => Tab.put {} a p.1 p.2) c.accs ∧
  x.loops = c.loops ∧ x.bases = c.bases ∧ x.ctrs = c.ctrs ∧ x.prog = c.prog ∧ x.chan = c.chan ∧
  x.fault = c.fault ∧ (∀ j, j ≠ k → t.core j = s.core j) ∧ (∀ d l, t.lane d l = s.lane d l) ∧
  t.tierH = s.tierH ∧ t.tierM = s.tierM ∧ t.tierF = s.tierF

/-- Core `k` issued its instruction, which took its whole effect: the PC advanced (03 R87). -/
def State.tookEffect (s t : State) (k : Nat) (data : List (Nat × List Byte)) (accs : List (Nat × Acc)) (ovf : Bool) :
    Prop := s.applied t k ((s.core k).pc + 1) data accs ovf

/-- From `s` to `t`, core `k`, which was not in FAULT, faulted with code, status and INFO `f` at `pc` in `engine` (03 R107 to
R109): it stops, its first fault of the step is recorded, what the instruction would have written is as before; its
lane is in FAULT and the fault is charged to the context of the lane's composition. -/
def State.tookFault (s t : State) (k : Nat) (f : CF) (pc : BitVec 12) (engine : Nat) : Prop :=
  let c := s.core k
  let x := t.core k
  x.st = .fault ∧ x.scratch = c.scratch ∧ x.accs = c.accs ∧ x.ovf = c.ovf ∧ x.ctrs = c.ctrs ∧ x.bases = c.bases ∧
  x.loops = c.loops ∧ x.refetch = none ∧ x.barWait = none ∧
  (c.fault.valid = false → x.fault =
    { status := BitVec.ofNat 8 f.st.code, code := BitVec.ofNat 8 f.code, pc, engine := BitVec.ofNat 2 engine,
      valid := true, more := c.fault.more, info := BitVec.ofNat 32 f.info }) ∧
  (c.fault.valid = true → x.fault = c.fault) ∧ (∀ j, j ≠ k → t.core j = s.core j) ∧
  t.tierH = s.tierH ∧ t.tierM = s.tierM ∧ t.tierF = s.tierF ∧
  (∀ l, c.lane = some l → (t.lane (keyDie k) l).st = .fault ∧
    ∀ n, s.laneComp (keyDie k) l = some n → s.inEntry = false →
      ∃ m, t.faultQ = s.faultQ ++ [m] ∧ m.ctx = (s.comp n).ctx ∧ m.code = f.code ∧ m.status = f.st ∧ m.comp = n ∧
        m.lane = l ∧ m.pc = pc.toNat ∧ m.info = f.info)

/-! ### Faults charged to a lane -/

/-- From `s` to `t`, one fault of unit `u` with a code and status is charged to the context of the composition that holds lane
`l` of die `d` (09 R301, R308): its message is the last in the queue to the X0 agent. -/
def State.charged (s t : State) (d l u code : Nat) (st : Status) : Prop :=
  ∀ n, s.laneComp d l = some n → s.inEntry = false →
    ∃ m, t.faultQ = s.faultQ ++ [m] ∧ m.ctx = (s.comp n).ctx ∧ m.unit = u ∧ m.code = code ∧ m.status = st ∧
      m.comp = n ∧ m.lane = l

/-- What becomes of a request at stop `i` of die `d` (06 R191, R195): queued, or not queued and charged. -/
def State.memAnswer (s t : State) (m : Bool) (d i : Nat) (r : MemReq) : Prop :=
  let q (x : State) : List MemReq := (x.memStop m d i).queue
  (s.addrOk m d i r.addr = false → q t = q s ∧ (r.owner < 8 → s.charged t d r.owner 5 1 .format)) ∧
  (s.addrOk m d i r.addr = true → (s.memStop m d i).grants r.owner r.use = false →
    q t = q s ∧ (r.owner < 8 → s.charged t d r.owner 5 3 .slot)) ∧
  (s.addrOk m d i r.addr = true → (s.memStop m d i).grants r.owner r.use = true → q t = q s ++ [r])

/-! ### Host descriptors -/

/-- The descriptor with bytes `b` and opcode `op` stands at the front of queue `q`, not yet decided, and passes the checks
common to all descriptors (08 R276 to R280, 10 R332): the module runs, its context is not LOST, the header and the
zero bytes of the body are right (`used`: offset and length of the fields in use), only queue 0 carries an admin opcode,
and a composition it names is the context's, exists, and has the generation named. -/
def State.begins (s : State) (q op : Nat) (used : List (Nat × Nat)) (b : List Byte) : Prop :=
  let x := s.queue q
  let m := s.comp (field b 12 2)
  (∃ a, x.front = some a ∧ a.op = op ∧ a.bytes = b) ∧ x.fin = none ∧ s.inRun = true ∧ (s.ctx x.ctx).st ≠ .lost ∧
  headerOk b s.sb.role = true ∧ bodyZero b used = true ∧ (descAdmin op = true → q = 0) ∧
  (field b 12 2 < 256 → m.st ≠ .free ∧ m.ctx = x.ctx ∧ (x.started = true ∨ m.gen.toNat = field b 8 4))

/-- The first `n` bytes of host data are there for the front descriptor of a queue (08 R262, R279). -/
def State.hasData (s : State) (q n : Nat) : Prop := (s.queue q).readFailed = false ∧ n ≤ (s.queue q).buf.length

end Sys2Proof.Machine
end

