-- ==== Sys2Proof/Certificates/Slice0/Obligations.lean ====
section
/-! DEFINITION. The statements for the provers. Each docstring names the rules of the spec its statement rests on; a
statement that rests on a choice of the model names the log entry (notes/assumptions). -/

open Sys2Proof Sys2Proof.Machine

/-- With command `c` at the front of the queue, a step carries out `c` on the state with the rest of the queue. Where
a clause rests on a choice of the model: log entry 1. -/
def Obligations.StepIsExec : Prop :=
  ∀ (c : Instr) (rest : List Instr) (s : State), s.pending = c :: rest →
    step s = exec c { s with pending := rest }

/-- 03 Table 4 (R87), with reserved bits and REG as R84 and the table allow them: NOP only advances; JMP goes to
TARGET; LSET, XSET and CSET write a register; LOOP counts down and jumps until 0; BRC jumps on OVF; CLRC clears OVF
unless hardware sets it in the same cycle (R89); XADD adds to a base register. Nothing else of the state changes. 03
Table 4 (R87, R88): WAITE goes on once the engines REG names are idle, WAITC once the counter has reached VALUE, which
it consumes, and WAITF once the step frame index has; until then the core stays where it is. Where a clause rests on a
choice of the model: log entry 10. -/
def Obligations.ControlInstructions : Prop :=
  (
    ∀ (c : CoreId) (s : State), ctlClean (s.insn c.key) →
      let k := c.key
      let x := s.core k
      let w := s.insn k
      let target := BitVec.ofNat 12 (iTarget w)
      (s.atOp k 0x00 → iReg w = 0 → exec (.nop c) s = .next (s.setCore k { x with pc := x.pc + 1 })) ∧
      (s.atOp k 0x02 → iReg w = 0 → exec (.jmp c) s = .next (s.setCore k { x with pc := target })) ∧
      (s.atOp k 0x03 → iReg w ≤ 7 → exec (.lset c) s = .next (s.setCore k
        { x with pc := x.pc + 1, loops := Tab.put 0 x.loops (iReg w) (BitVec.ofNat 16 (iValue w)) })) ∧
      (s.atOp k 0x04 → iReg w ≤ 7 →
        let v := x.loopReg (iReg w) - 1
        exec (.loop c) s = .next (s.setCore k
          { x with pc := if v = 0 then x.pc + 1 else target, loops := Tab.put 0 x.loops (iReg w) v })) ∧
      (s.atOp k 0x05 → iReg w = 0 →
        exec (.brc c) s = .next (s.setCore k { x with pc := if x.ovf then target else x.pc + 1 })) ∧
      (s.atOp k 0x05 → iReg w = 1 →
        exec (.brc c) s = .next (s.setCore k { x with pc := if x.ovf then x.pc + 1 else target })) ∧
      (∀ hwSet, s.atOp k 0x06 → iReg w = 0 →
        exec (.clrc c hwSet) s = .next (s.setCore k { x with pc := x.pc + 1, ovf := hwSet })) ∧
      (s.atOp k 0x07 → 1 ≤ iReg w → iReg w ≤ 3 → exec (.xset c) s = .next (s.setCore k
        { x with pc := x.pc + 1, bases := Tab.put 0 x.bases (iReg w) (BitVec.ofNat 16 (iValue w)) })) ∧
      (s.atOp k 0x08 → 1 ≤ iReg w → iReg w ≤ 3 → exec (.xadd c) s = .next (s.setCore k
        { x with pc := x.pc + 1,
                 bases := Tab.put 0 x.bases (iReg w) (BitVec.ofNat 16 (x.base (iReg w) + iValue w)) })) ∧
      (s.atOp k 0x0B → iReg w = 0 → exec (.cset c) s = .next (s.setCore k
        { x with pc := x.pc + 1, ctrs := Tab.put 0 x.ctrs (iCtr w) (BitVec.ofNat 32 (iValue w)) }))) ∧
  (
    ∀ (c : CoreId) (s : State), ctlClean (s.insn c.key) →
      let k := c.key
      let x := s.core k
      let w := s.insn k
      (s.atOp k 0x09 → 1 ≤ iReg w → iReg w ≤ 7 →
        ((bit (iReg w) 0 = true → x.busy .mx = false) → (bit (iReg w) 1 = true → x.busy .vx = false) →
          (bit (iReg w) 2 = true → x.busy .tx = false) →
          exec (.waite c) s = .next (s.setCore k
            { x with pc := x.pc + 1, mx := if bit (iReg w) 0 then none else x.mx,
                     vx := if bit (iReg w) 1 then none else x.vx, tx := if bit (iReg w) 2 then none else x.tx })) ∧
        (∀ e, bit (iReg w) e.num = true → x.busy e = true → exec (.waite c) s = .next s)) ∧
      (s.atOp k 0x0A → iReg w = 0 →
        (iValue w ≤ (x.ctr (iCtr w)).toNat → exec (.waitc c) s = .next (s.setCore k
          { x with pc := x.pc + 1,
                   ctrs := Tab.put 0 x.ctrs (iCtr w) (x.ctr (iCtr w) - BitVec.ofNat 32 (iValue w)) })) ∧
        ((x.ctr (iCtr w)).toNat < iValue w → exec (.waitc c) s = .next s)) ∧
      (s.atOp k 0x0C → iReg w = 0 →
        (iValue w ≤ s.frameIndex k → exec (.waitf c) s = .next (s.setCore k { x with pc := x.pc + 1 })) ∧
        (s.frameIndex k < iValue w → exec (.waitf c) s = .next s)))

/-- 03 Table 4 (R87, R99), 04 Table 1, R124 and R125. BAR, with no refetch under way: the core waits at barrier BARID,
its engines have nothing in flight and it may refetch again; its lane has counted its arrival, and with the last core
of the composition on the die the die has arrived. END: the core's program has ended and it is IDLE; when every core
of the composition has ended, the Layers phase of its lane ends on every die. Other cores and the tiers are as before.
Where a clause rests on a choice of the model: log entry 10. -/
def Obligations.BarrierAndEnd : Prop :=
  ∀ (c : CoreId) (s : State), ctlClean (s.insn c.key) → iReg (s.insn c.key) = 0 → (s.core c.key).refetch = none →
    let k := c.key
    let x := s.core k
    let w := s.insn k
    let d := keyDie k
    (s.atOp k 0x0D → iValue w % 256 < 254 → ∃ t, exec (.bar c) s = .next t ∧
      t.core k = { x with mx := none, vx := none, tx := none, refetchUsed := false,
                          barWait := some (BitVec.ofNat 8 (iValue w % 256)) } ∧
      (∀ l, x.lane = some l →
        (t.lane d l).barid = BitVec.ofNat 8 (iValue w % 256) ∧ k ∈ (t.lane d l).arrived ∧
        (∀ n, s.laneComp d l = some n →
          ((t.lane d l).dieArrived = true ↔ ∀ i ∈ (s.comp n).coresOn d, i ∈ (t.lane d l).arrived))) ∧
      (∀ j, j ≠ k → t.core j = s.core j) ∧ t.tierH = s.tierH ∧ t.tierM = s.tierM ∧ t.tierF = s.tierF) ∧
    (s.atOp k 0x01 → ∃ t, exec (.endp c) s = .next t ∧
      t.core k = { x with mx := none, vx := none, tx := none, pc := x.pc + 1, ended := true, st := .idle } ∧
      (∀ l n, x.lane = some l → s.laneComp d l = some n → ∀ i ∈ (s.comp n).dies, (s.lane i l).st = .layers →
        (t.lane i l).st = if ∀ j ∈ (s.comp n).cores, j = k ∨ (s.core j).ended = true then .sample else .layers) ∧
      (∀ j, j ≠ k → t.core j = s.core j) ∧ t.tierH = s.tierH ∧ t.tierM = s.tierM ∧ t.tierF = s.tierF)

/-- A two-operand elementwise instruction (03 Table 7): `D[i] = f A[i] B[i]` in binary32, for i below N; with MOD 1
operand B is one value for all; an instruction with `readsD` takes `D[i]` as its third operand. -/
def Sys2Proof.Claims.elementwise (mk : CoreId → List Eng → Option (Nat × Nat) → Instr) (op : Nat)
    (f : Nat → Nat → Nat → Nat) (readsD : Bool) : Prop :=
  ∀ (c : CoreId) (ovl : List Eng) (s : State),
    let k := c.key
    let x := s.core k
    let w := s.insn k
    let n := iN w
    let a := x.ea (iA w) (iAx w)
    let b := x.ea (iB w) (iBx w)
    let d := x.ea (iD w) (iDx w)
    let rb : Range := (b, if iMod w = 1 then 4 else 4 * n)
    opClean w 104 1 → opFormats w 0xA 0xA 0xA → inScratch false (a, 4 * n) → inScratch false rb →
    inScratch false (d, 4 * n) →
    s.starts k op .vx ovl ((a, 4 * n) :: rb :: if readsD then [(d, 4 * n)] else []) [(d, 4 * n)] →
    ∃ t, exec (mk c ovl none) s = .next t ∧
      s.tookEffect t k [(d, (List.range n).flatMap fun i =>
        leBytes 4 (f (x.num (a + 4 * i) 4) (x.num (if iMod w = 1 then b else b + 4 * i) 4) (x.num (d + 4 * i) 4)))]
        [] false

/-- A one-operand elementwise instruction: `D[i] = f MOD A[i]`, MOD at most `m`. -/
def Sys2Proof.Claims.elementwise1 (mk : CoreId → List Eng → Option (Nat × Nat) → Instr) (op : Nat)
    (f : Nat → Nat → Nat) (m : Nat) : Prop :=
  ∀ (c : CoreId) (ovl : List Eng) (s : State),
    let k := c.key
    let x := s.core k
    let w := s.insn k
    let n := iN w
    let a := x.ea (iA w) (iAx w)
    let d := x.ea (iD w) (iDx w)
    opClean w 104 m → opFormats w 0xA 0 0xA → inScratch false (a, 4 * n) → inScratch false (d, 4 * n) →
    s.starts k op .vx ovl [(a, 4 * n)] [(d, 4 * n)] →
    ∃ t, exec (mk c ovl none) s = .next t ∧
      s.tookEffect t k
        [(d, (List.range n).flatMap fun i => leBytes 4 (f (iMod w) (x.num (a + 4 * i) 4)))] [] false

/-- The conversions (03 R100, Table 7; 02 R72; 03 R102). VCVT writes N elements in the result format, from plain
elements, a panel row or, with MOD 1, a landing record that passes its check and names the format. VQNT writes the
operand panel of the quantised blocks of ROWS rows of binary32 values. VTMK, on a parent list that is a tree, writes
for each node the mask row whose last P bits are clear exactly for the node's ancestors and itself. Where a clause
rests on a choice of the model: log entries 10 and 11. -/
def Obligations.VxConverts : Prop :=
  ∀ (c : CoreId) (ovl : List Eng) (s : State),
    let k := c.key
    let x := s.core k
    let w := s.insn k
    let n := iN w
    let a := x.ea (iA w) (iAx w)
    let d := x.ea (iD w) (iDx w)
    (let sz := resultBytes (iFd w)
     let ra : Range := (a, vcvtBytes w n)
     let rd : Range := (d, n * sz)
     opClean w 104 1 → iFa w ≤ 0xA → iFb w = 0 → sz ≠ 0 → inScratch (iMod w == 1 || isMx (iFa w)) ra →
     inScratch false rd →
     (iMod w = 1 → cdiv n 32 ≤ landingGroups (iFa w) ∧ bits (x.num (a + 4360) 8) 63 60 = iFa w ∧
       s.landingOk k a = true) →
     s.starts k 0x89 .vx ovl [ra] [rd] →
     ∃ t, exec (.vcvt c ovl none) s = .next t ∧
       s.tookEffect t k [(d, (vcvtVals x w a n).flatMap fun v => leBytes sz (((ffmt (iFd w)).getD f32).ofVal v))]
         [] false) ∧
    (let rows := iRows w
     let f := iFd w
     let rd : Range := (d, panelBytes f rows (n / 32))
     opClean w 111 0 → iFa w = 0xA → iFb w = 0 → isMx f = true → n % 32 = 0 →
     inScratch false (rowsRange a rows n) → inScratch true rd →
     s.starts k 0x8A .vx ovl [rowsRange a rows n] [rd] →
     ∃ t, exec (.vqnt c ovl none) s = .next t ∧ s.tookEffect t k [(d, vqntBytes x f a n rows)] [] false) ∧
    (let p := iRows w
     let nb := cdiv n 8
     let rd : Range := (d, (p - 1) * maskStride n + nb)
     let parents := (List.range p).map fun i => x.num (a + i) 1
     opClean w 111 0 → opFormats w 0 0 0 → inScratch false (a, p) → inScratch false rd → parentsOk parents = true →
     p ≤ n → s.starts k 0x90 .vx ovl [(a, p)] [rd] →
     ∃ t, exec (.vtmk c ovl none) s = .next t ∧
       s.tookEffect t k ((List.range p).map fun i => (d + i * maskStride n,
         leBytes nb (treeRow (x.num (d + i * maskStride n) nb) n p (((ancestors parents)[i]?).getD [])))) [] false)

/-- The row sums (03 R100, Table 7; 02 R68, R71). VSUM writes one ACC record per row: the exact sum of A's values or,
with MOD 1, of the products of A and B, under the ALSB the instruction names. VRND writes the binary32 rounding of
each record's sum divided by N, when every record is well formed. Where a clause rests on a choice of the model: log
entries 10 and 11. -/
def Obligations.VxSums : Prop :=
  ∀ (c : CoreId) (ovl : List Eng) (s : State),
    let k := c.key
    let x := s.core k
    let w := s.insn k
    let n := iN w
    let rows := iRows w
    let a := x.ea (iA w) (iAx w)
    let b := x.ea (iB w) (iBx w)
    let d := x.ea (iD w) (iDx w)
    (opClean w 121 1 → opFormats w 0xA (if iMod w = 1 then 0xA else 0) 0 → inScratch false (rowsRange a rows n) →
     (iMod w = 1 → inScratch false (rowsRange b rows n)) → inScratch true (d, 32 * rows) →
     s.starts k 0x8B .vx ovl (rowsRange a rows n :: if iMod w = 1 then [rowsRange b rows n] else []) [(d, 32 * rows)] →
     ∃ t, exec (.vsum c ovl none) s = .next t ∧
       s.tookEffect t k [(d, (List.range rows).flatMap fun r => (vsumRow x w a b n r).record)] [] false) ∧
    (opClean w 111 0 → opFormats w 0 0 0xA → inScratch true (a, 32 * rows) → inScratch false (d, 4 * rows) →
     (∀ r < rows, recOk (x.scratch.read (a + 32 * r) 32) = true) →
     s.starts k 0x8C .vx ovl [(a, 32 * rows)] [(d, 4 * rows)] →
     ∃ t, exec (.vrnd c ovl none) s = .next t ∧
       s.tookEffect t k [(d, (List.range rows).flatMap fun r =>
         leBytes 4 ((accOfRecord (x.scratch.read (a + 32 * r) 32)).roundDiv f32 n))] [] false)

/-- A composite (03 R101): ROWS rows of N values at A, the parameter block at B whose bytes `zero` and 14 to 63 are
zero, the vectors `args` it names; row r of the result is `row` of row r of A. -/
def Sys2Proof.Claims.composite (mk : CoreId → List Eng → Option (Nat × Nat) → Instr) (op : Nat) (zero : List (Nat × Nat))
    (args : Core → Nat → Nat → Nat → List Range) (row : Core → Nat → Nat → List Nat → List Nat) : Prop :=
  ∀ (c : CoreId) (ovl : List Eng) (s : State),
    let k := c.key
    let x := s.core k
    let w := s.insn k
    let n := iN w
    let rows := iRows w
    let a := x.ea (iA w) (iAx w)
    let b := x.ea (iB w) (iBx w)
    let d := x.ea (iD w) (iDx w)
    opClean w 111 0 → opFormats w 0xA 0 0xA → inScratch false (rowsRange a rows n) → inScratch false (b, 64) →
    inScratch false (rowsRange d rows n) → (∀ r ∈ args x b n rows, inScratch false r) →
    (∀ z ∈ (14, 50) :: zero, x.num (b + z.1) z.2 = 0) →
    s.starts k op .vx ovl (rowsRange a rows n :: (b, 64) :: args x b n rows) [rowsRange d rows n] →
    ∃ t, exec (mk c ovl none) s = .next t ∧
      s.tookEffect t k ((List.range rows).map fun r =>
        (d + r * rowStride n, (row x b r (x.f32s (a + r * rowStride n) n)).flatMap fun v => leBytes 4 v)) [] false

/-- The elementwise VX instructions (03 R100, Table 7; 02 R64, R66, R67), with operands in scratch and apart from what
other engines have in flight: N results by the function each names, one rounding each; nothing else of the core, no
other core and no tier changes. The composites (03 R100, R101, Tables 7 and 8; 02 R69, R70): VSMX writes the softmax
of each row under its scale and mask row, VRMS and VLN its normalisation by the block's ALSB, eps and vectors. Where a
clause rests on a choice of the model: log entries 10, 11 and 12. -/
def Obligations.VxElementwiseAndComposites : Prop :=
  (
    Claims.elementwise .vadd 0x80 (fun a b _ => fadd a b) false ∧
    Claims.elementwise .vsub 0x81 (fun a b _ => fsub a b) false ∧
    Claims.elementwise .vmul 0x82 (fun a b _ => fmul a b) false ∧
    Claims.elementwise .vfma 0x83 ffma true ∧
    Claims.elementwise .vdiv 0x84 (fun a b _ => fdiv a b) false ∧
    Claims.elementwise1 .vsqrt 0x85 (fun _ a => fsqrt a) 0 ∧
    Claims.elementwise .vmin 0x86 (fun a b _ => fmin a b) false ∧
    Claims.elementwise .vmax 0x87 (fun a b _ => fmax a b) false ∧
    Claims.elementwise1 .vfn 0x88 (fun m a =>
      if m = 0 then fexp a else if m = 1 then flog a else if m = 2 then frsqrt a else if m = 3 then frecip a
      else if m = 4 then ftanh a else ferf a) 5) ∧
  (
    Claims.composite .vsmx 0x8D [(4, 4), (12, 2)]
      (fun x b n rows => [(x.num b 4, (rows - 1) * maskStride n + cdiv n 8)])
      (fun x b r l => softmax (x.num (b + 8) 4)
        ((List.range l.length).map fun i => x.maskBit (x.num b 4 + r * maskStride l.length) i) l) ∧
    Claims.composite .vrms 0x8E [(4, 4)] (fun x b n _ => [(x.num b 4, 4 * n)])
      (fun x b _ l => rmsNorm (blockL x b) (x.num (b + 8) 4) (x.f32s (x.num b 4) l.length) l) ∧
    Claims.composite .vln 0x8F [] (fun x b n _ => [(x.num b 4, 4 * n), (x.num (b + 4) 4, 4 * n)])
      (fun x b _ l => layerNorm (blockL x b) (x.num (b + 8) 4) (x.f32s (x.num b 4) l.length)
        (x.f32s (x.num (b + 4) 4) l.length) l))

/-- Element i of a rectangle of P rows and NC columns at ABASE, as an accumulator number (03 R93). -/
def Sys2Proof.Claims.place (abase nc i : Nat) : Nat := abase + 32 * (i / nc) + i % nc

/-- An MX instruction with its reserved bits from bit `top` up zero, MOD at most `m`, and its rectangle at ABASE (the
field of D for ACLR, MMA and AADD, of A for ARND and AEXP) inside the accumulator file (03 R84, R93). -/
def Sys2Proof.Claims.mxLegal (w top m abase ax : Nat) : Prop :=
  opClean w top m ∧ abase < 4096 ∧ ax = 0 ∧ abase + 32 * (iP w - 1) + (iNc w - 1) ≤ 4095

/-- The MX instructions (03 R93 to R98, Table 6; 02 R54 to R62). ACLR zeroes a rectangle of accumulators and gives it
an ALSB. MMA adds to each accumulator the exact terms of its row of A against its column of B: a panel or, with MOD 1,
a landing record that passes its check. ARND writes the rounded values and sets OVF when any has OVER set. AEXP writes
the ACC records. AADD combines ACC records of equal ALSB. Nothing else of the core, no other core and no tier changes.
Where a clause rests on a choice of the model: log entries 10, 11 and 13. -/
def Obligations.MxInstructions : Prop :=
  ∀ (c : CoreId) (ovl : List Eng) (s : State),
    let k := c.key
    let x := s.core k
    let w := s.insn k
    let p := iP w
    let nc := iNc w
    let kb := iKb w
    let a := x.ea (iA w) (iAx w)
    let b := x.ea (iB w) (iBx w)
    let d := x.ea (iD w) (iDx w)
    let all := List.range (p * nc)
    let sz := resultBytes (iFd w)
    (Claims.mxLegal w 110 0 (iD w) (iDx w) → opFormats w 0 0 0 → s.starts k 0x40 .mx ovl [] [] →
      ∃ t, exec (.aclr c ovl) s = .next t ∧
        s.tookEffect t k [] (all.map fun i => (Claims.place (iD w) nc i, { alsb := BitVec.ofInt 10 (iAclrLsb w) })) false) ∧
    (let ra : Range := (a, panelBytes (iFa w) p kb)
     let rb : Range := (b, if iMod w = 1 then 4416 else panelBytes (iFb w) nc kb)
     Claims.mxLegal w 108 1 (iD w) (iDx w) → iFa w ≤ 0xB → iFb w ≤ 0xB → iFd w = 0 → pairRate (iFa w) (iFb w) ≠ 0 →
      inScratch true ra → inScratch true rb →
      (iMod w = 1 → nc * kb ≤ landingGroups (iFb w) ∧ bits (x.num (b + 4360) 8) 63 60 = iFb w ∧
        s.landingOk k b = true) →
      s.starts k 0x41 .mx ovl [ra, rb] [] →
      ∃ t, exec (.mma c ovl none) s = .next t ∧
        s.tookEffect t k [] (all.map fun i => (Claims.place (iD w) nc i,
          (x.acc (Claims.place (iD w) nc i)).dot ((x.panelRow (iFa w) a p kb (i / nc)).zip
            (if iMod w = 1 then x.landingCol (iFb w) b kb (i % nc) else x.panelRow (iFb w) b nc kb (i % nc))))) false) ∧
    (Claims.mxLegal w 100 0 (iA w) (iAx w) → iFa w = 0 → iFb w = 0 → sz ≠ 0 → inScratch false (d, p * nc * sz) →
      s.starts k 0x42 .mx ovl [] [(d, p * nc * sz)] →
      ∃ t, exec (.arnd c ovl none) s = .next t ∧
        s.tookEffect t k [(d, all.flatMap fun i =>
          leBytes sz ((x.acc (Claims.place (iA w) nc i)).round ((ffmt (iFd w)).getD f32)))] []
          (all.any fun i => (x.acc (Claims.place (iA w) nc i)).ovr)) ∧
    (Claims.mxLegal w 100 0 (iA w) (iAx w) → opFormats w 0 0 0 → inScratch true (d, 32 * (p * nc)) →
      s.starts k 0x43 .mx ovl [] [(d, 32 * (p * nc))] →
      ∃ t, exec (.aexp c ovl none) s = .next t ∧
        s.tookEffect t k [(d, all.flatMap fun i => (x.acc (Claims.place (iA w) nc i)).record)] [] false) ∧
    (Claims.mxLegal w 100 0 (iD w) (iDx w) → opFormats w 0 0 0 → inScratch true (a, 32 * (p * nc)) →
      (∀ i ∈ all, combinable (x.acc (Claims.place (iD w) nc i)) (x.scratch.read (a + 32 * i) 32) = true) →
      s.starts k 0x44 .mx ovl [(a, 32 * (p * nc))] [] →
      ∃ t, exec (.aadd c ovl none) s = .next t ∧
        s.tookEffect t k [] (all.map fun i => (Claims.place (iD w) nc i,
          (x.acc (Claims.place (iD w) nc i)).combine (accOfRecord (x.scratch.read (a + 32 * i) 32)))) false)

/-- The reserved bits of layout X are zero, the channel entry is usable, the run fits the frame, LEN is not 0 and the
slots and the class allowance grant every cycle of the run (03 R103, R104; 05 R163, R182). -/
def Sys2Proof.Claims.txLegal (s : State) (k w : Nat) : Prop :=
  bits w 39 36 = 0 ∧ bits w 79 76 = 0 ∧ bits w 127 108 = 0 ∧ chDefined ((s.core k).channel w) = true ∧
    iSlot w + iRunN w ≤ 256 ∧ iLen w ≠ 0 ∧ s.ungranted k w = none

/-- The TX instructions (03 R103 to R106, Table 9; 05 R164, R182). TSND puts LEN flits on the LOCAL input of the
core's router, RUN of them in each frame from cycle SLOT on, with the bytes of scratch and rising flit addresses, the
last one marked. TGET sends one request flit that asks for LEN flits to local LADDR. TREQ sends one flit with the
64-byte request. The core, the other cores, the lanes and the tiers are else as before. Where a clause rests on a
choice of the model: log entries 10 and 11. -/
def Obligations.TxInstructions : Prop :=
  ∀ (c : CoreId) (ovl : List Eng) (s : State),
    let k := c.key
    let x := s.core k
    let w := s.insn k
    let e := x.channel w
    let la := x.ea (iLaddr w) (iLx w)
    let ra := x.remote (iRaddr w) (iRx w)
    let n := iLen w
    let r := coreRouter (keyCluster k) (keyCore k)
    let flit (j m cyc faddr : Nat) (payload : Payload) (use : FlitUse) : Flit :=
      { owner := chOwner e, cls := chClass e, last := j + 1 == m, ctr := iXctr w, faddr := faddr % 2 ^ 18, poison := false,
        payload, use, router := r, port := 0, cycle := cyc % 256 }
    Claims.txLegal s k w →
    (inScratch false (la, 64 * n) → ra < chUnits e → s.starts k 0xC0 .tx ovl [(la, 64 * n)] [] →
      ∃ t, exec (.tsnd c ovl none) s = .next t ∧ s.tookEffect t k [] [] false ∧
        (t.die (keyDie k)).flights = (s.die (keyDie k)).flights ++ (List.range n).map fun j =>
          flit j n (iSlot w + j % iRunN w) (ra / 4 + j) (bytesPayload (x.scratch.read (la + 64 * j) 64)) .data) ∧
    (iRun w = 0 → inScratch false (la, 64 * n) → ra < chUnits e → s.starts k 0xC1 .tx ovl [(la, 64 * n)] [] →
      ∃ t, exec (.tget c ovl none) s = .next t ∧ s.tookEffect t k [] [] false ∧
        (t.die (keyDie k)).flights = (s.die (keyDie k)).flights ++
          [flit 0 1 (iSlot w) (ra / 4) 0 (.getReq ra n (la / 16) (iXctr w) k (chRslot e) (chRrun e))]) ∧
    (iRun w = 0 → n = 1 → inScratch false (la, 64) → 16 * ra + 64 ≤ scratchBytes →
      s.starts k 0xC2 .tx ovl [(la, 64), (16 * ra, 64)] [] →
      ∃ t, exec (.treq c ovl none) s = .next t ∧ s.tookEffect t k [] [] false ∧
        (t.die (keyDie k)).flights = (s.die (keyDie k)).flights ++
          [flit 0 1 (iSlot w) 0 (bytesPayload (x.scratch.read la 64)) (.allocReq k ra (iXctr w))])

/-- What a tile instruction that faults leaves (03 R84, R107 to R109, R552, Table 10), for every kind of fault: an
undefined opcode and a reserved bit of a control instruction are ILLEGAL_OP of the issue unit; of the engine
instructions, an MMA whose formats are no legal pair is BAD_FORMAT, an operand outside scratch is RANGE, an AADD of a
record with another ALSB is ALSB_MISMATCH, a transfer in a cycle that is not granted is SLOT_VIOLATION, ranges that
meet those in flight are HAZARD. Where a clause rests on a choice of the model: log entries 10 and 11. -/
def Obligations.CoreFaults : Prop :=
  ∀ (c : CoreId) (ovl : List Eng) (s : State),
    let k := c.key
    let x := s.core k
    let w := s.insn k
    (x.issuing = true → opDefined (iOp w) = false →
      ∃ t, exec (.nop c) s = .next t ∧ s.tookFault t k ⟨1, .format, w % 2 ^ 32⟩ x.pc 3) ∧
    (s.atOp k 0 → ctlClean w → iReg w ≠ 0 →
      ∃ t, exec (.nop c) s = .next t ∧ s.tookFault t k ⟨1, .format, w % 2 ^ 32⟩ x.pc 3) ∧
    (s.atOp k 0x0D → ctlClean w → iReg w = 0 → 254 ≤ iValue w % 256 →
      ∃ t, exec (.bar c) s = .next t ∧ s.tookFault t k ⟨1, .format, w % 2 ^ 32⟩ x.pc 3) ∧
    (s.atOp k 0x41 → x.busy .mx = false → opClean w 108 1 → iD w < 4096 → iDx w = 0 → pairRate (iFa w) (iFb w) = 0 →
      ∃ t, exec (.mma c ovl none) s = .next t ∧ s.tookFault t k ⟨2, .format, bits w 27 16⟩ x.pc 0) ∧
    (s.atOp k 0x85 → x.busy .vx = false → opClean w 104 0 → opFormats w 0xA 0 0xA →
      scratchBytes < x.ea (iA w) (iAx w) + 4 * iN w →
      ∃ t, exec (.vsqrt c ovl none) s = .next t ∧ s.tookFault t k ⟨3, .format, x.ea (iA w) (iAx w)⟩ x.pc 1) ∧
    (s.atOp k 0x44 → x.busy .mx = false → opClean w 100 0 → opFormats w 0 0 0 → iD w < 4096 → iDx w = 0 →
      iP w = 1 → iNc w = 1 → inScratch true (x.ea (iA w) (iAx w), 32) →
      combinable (x.acc (iD w)) (x.scratch.read (x.ea (iA w) (iAx w)) 32) = false →
      ∃ t, exec (.aadd c ovl none) s = .next t ∧ s.tookFault t k ⟨4, .format, iD w⟩ x.pc 0) ∧
    (∀ e rd wr a, s.atOp k 0x85 → x.busy .vx = false → opClean w 104 0 → opFormats w 0xA 0 0xA →
      inScratch false (x.ea (iA w) (iAx w), 4 * iN w) → inScratch false (x.ea (iD w) (iDx w), 4 * iN w) →
      x.mx = some e → e.reads = rd → e.writes = wr → ovl = [.mx] →
      overlaps [(x.ea (iD w) (iDx w), 4 * iN w)] (rd ++ wr) = some a →
      ∃ t, exec (.vsqrt c ovl none) s = .next t ∧ s.tookFault t k ⟨6, .slot, a / 16⟩ x.pc 1)

/-- A refetch (03 R97 to R99; 04 R121, R122; 06 R205 to R207). An MMA whose landing record does not check takes no
effect: the mismatch is counted and the core asks for the tile, once until its next BAR; a second one is CHECK. The
request goes in the core's window to M stop w mod 3; a block of use 0 there serves it with the mirror's record; the
record is written over the landing record and the instruction starts again; a refusal is CHECK. Where a clause rests
on a choice of the model: log entries 10 and 16. -/
def Obligations.Refetches : Prop :=
  (∀ (c : CoreId) (s : State),
    let k := c.key
    let x := s.core k
    let w := s.insn k
    let a := x.ea (iA w) (iAx w)
    let tid := x.num (a + 4360) 8
    s.atOp k 0x89 → x.busy .vx = false → opClean w 104 1 → iMod w = 1 → iFa w ≤ 0xA → iFb w = 0 →
    resultBytes (iFd w) ≠ 0 → inScratch true (a, 4416) → inScratch false (x.ea (iD w) (iDx w), iN w * resultBytes (iFd w)) →
    cdiv (iN w) 32 ≤ landingGroups (iFa w) → bits tid 63 60 = iFa w → s.landingOk k a = false →
    (x.refetchUsed = false → ∃ t, exec (.vcvt c [] none) s = .next t ∧ t.core k =
      { x with pc := x.pc + 1, mismatch := x.mismatch + 1, refetchUsed := true,
               refetch := some { tid := BitVec.ofNat 64 tid, addr := a, eng := .vx, pc := x.pc, sent := false } } ∧
      (∀ j, j ≠ k → t.core j = s.core j) ∧ t.tierH = s.tierH ∧ t.tierM = s.tierM) ∧
    (x.refetchUsed = true →
      ∃ t, exec (.vcvt c [] none) s = .next t ∧ (t.core k).mismatch = x.mismatch + 1 ∧
        s.tookFault t k ⟨7, .check, tid % 2 ^ 32⟩ x.pc 1)) ∧
  (∀ (die lane : Fin 8) (w : Fin 9) (s : State) (k : Nat) (r : Refetch),
    let d := die.val
    let i := w.val % 3
    w.val < (s.lane d lane.val).rfw.toNat → s.windowCore d lane.val w.val = some k →
    (s.core k).refetch = some r → r.sent = false → (s.memStop true d i).grants lane.val 0 = true →
    ∃ t, exec (.refetchRequest die lane w) s = .next t ∧
      (t.core k).refetch = some { r with sent := true } ∧
      (t.lane d lane.val).rfuse = satAdd (s.lane d lane.val).rfuse 1 ∧
      (t.memStop true d i).queue = (s.memStop true d i).queue ++
        [{ owner := lane.val, use := 0, addr := (s.mirrorAddr d i r.tid).getD (mpa d 3 0 0), len := 4360, data := [],
           reply := .refetch k r.tid }] ∧
      t.tierH = s.tierH ∧ t.tierM = s.tierM) ∧
  (∀ (die : Fin 8) (stop : Fin 3) (block : Fin 9) (s : State) (r : MemReq) (rest : List MemReq) (k : Nat) (tid : Word64),
    let d := die.val
    let i := stop.val
    let m := s.memStop true d i
    m.st = .ready → m.enable = true → owValid (m.own block.val) = true → owUse (m.own block.val) = 0 →
    s.laneHeld (owOwner (m.own block.val)) = false →
    takeReq (owOwner (m.own block.val)) 0 block.val m.queue = some (r, rest) → r.reply = .refetch k tid →
    (s.core k).refetch.isSome = true →
    ∃ t, exec (.mirrorRefetchServe die stop block) s = .next t ∧ (t.memStop true d i).queue = rest ∧
      (t.core k).landing = some ((s.mirrorAddr d i tid).map fun a =>
        s.memRead true a 4360 ++ leBytes 8 tid.toNat ++ List.replicate 48 0) ∧
      t.tierH = s.tierH ∧ t.tierM = s.tierM) ∧
  (∀ (c : CoreId) (ue : Option (Nat × Nat)) (s : State) (r : Refetch),
    let k := c.key
    let x := s.core k
    x.refetch = some r → x.st = .run →
    (x.landing = some none →
      ∃ t, exec (.refetchLanding c [] ue) s = .next t ∧
        s.tookFault t k ⟨7, .check, r.tid.toNat % 2 ^ 32⟩ r.pc r.eng.num) ∧
    (∀ rcd, x.landing = some (some rcd) →
      let u := s.setCore k { x.put r.addr rcd with refetch := none, landing := none, refetched := x.refetched + 1 }
      exec (.refetchLanding c [] ue) s =
        .next (u.execute k r.eng r.pc [] ue (u.landingPlan k (x.word r.pc.toNat))) ∧
      ∀ p, ue = none → u.landingPlan k (x.word r.pc.toNat) = .ok p →
        (∀ a, p.land = some a → u.landingOk k a = true) →
        ∃ t, exec (.refetchLanding c [] ue) s = .next t ∧ u.applied t k x.pc p.data p.accs p.ovf))

/-- The tile stream of a lane (04 R115 to R119; 06 R194, R196 to R200). A Spindle issues the read of its entry's next
tile, in the next global tile slot not yet taken, to its H stop, and notes a late start. A window serves the first
request of its owner and use: a tile read becomes a landing record in the Spindle's staging buffer, its check inverted
where the read met an uncorrectable error. The oldest staged record leaves in its tile slot as 69 flits of class
WEIGHT to the core's landing address, the last one marked. Where a clause rests on a choice of the model: log entry
16. -/
def Obligations.TileStreams : Prop :=
  ∀ (die lane sp : Fin 8) (s : State),
    let d := die.val
    let l := lane.val
    let i := sp.val
    let x := s.spindle d l i
    (∀ e, x.entries[x.entry]? = some e → (s.lane d l).st = .layers → x.staging.length + x.issued < 32 →
      s.entryOk d i (entryBytes e) = true →
      let b := entryBytes e
      let tid := field b 0 8
      let n := field b 14 2
      let g0 := 9 * field b 8 4 + field b 12 1 + x.q
      let late := x.q = 0 ∧ g0 < 9 * (s.lane d l).fi.toNat
      let g := max g0 (if late then max x.nextG (9 * (s.lane d l).fi.toNat) else x.nextG)
      let seg := s.seg d i (bits tid 59 48)
      let t := bits tid 47 0 + x.q
      s.tileSlotOwned d l i (g % 9) = true →
      s.addrOk false d i (chunkAddr d i (seg.ech + (t - seg.first))) = true →
      ∃ u, exec (.tileReadIssue die lane sp) s = .next u ∧
        u.spindle d l i = { x with entry := if x.q + 1 = n then x.entry + 1 else x.entry,
                                   q := if x.q + 1 = n then 0 else x.q + 1, nextG := g + 1, issued := x.issued + 1 } ∧
        (u.memStop false d i).queue = (s.memStop false d i).queue ++
          [{ owner := l, use := 0, addr := chunkAddr d i (seg.ech + (t - seg.first)), len := 4096, data := [],
             reply := .tile l (field b 13 1) (field b 16 2 + x.q % field b 18 1 * 276) (field b 19 1) g
               (BitVec.ofNat 64 (tid / 2 ^ 48 * 2 ^ 48 + t % 2 ^ 48)) }] ∧
        ((u.lane d l).late = true ↔ (s.lane d l).late = true ∨ late) ∧ u.tierH = s.tierH ∧ u.tierM = s.tierM) ∧
    (∀ y rest, x.staging = y :: rest → (s.lane d l).st = .layers → y.g / 9 ≤ (s.lane d l).fi.toNat →
      s.tileSlotOwned d l i (y.g % 9) = true →
      ∃ u fl, exec (.landingRecordSend die lane sp) s = .next u ∧ (u.spindle d l i).staging = rest ∧
        (u.die d).flights = (s.die d).flights ++ fl ∧ fl.length = 69 ∧
        (∀ j f, fl[j]? = some f → f.owner = l ∧ f.cls = 0 ∧ f.last = (j == 68) ∧ f.ctr = y.ctr ∧
          f.faddr = (y.laddr / 4 + j) % 2 ^ 18 ∧ f.payload = bytesPayload (slice y.record (64 * j) 64))) ∧
    (∀ (win : Fin 9) (arrivals : List MemReq) (ue : Bool) (r : MemReq) (rest : List MemReq) (m ch laddr ctr g : Nat)
        (tid : Word64),
      let u := arrivals.foldl (fun s r => s.memArrive false d i r) s
      let t := u.memStop false d i
      let e := t.own win.val
      t.st = .ready → t.enable = true → owValid e = true → u.laneHeld (owOwner e) = false →
      takeReq (owOwner e) (owUse e) win.val t.queue = some (r, rest) → r.reply = .tile m ch laddr ctr g tid →
      let seg := u.seg d i (bits tid.toNat 59 48)
      let k := bits tid.toNat 47 0 - seg.first
      let check := u.memRead false
        (chunkAddr d i (seg.tch + k / 64) + k % 64 / 4 * 256 + win.val % 8 * 32 + 8 * (k % 4)) 8
      ∃ v, exec (.hWindowService die sp win arrivals ue) s = .next v ∧ (v.memStop false d i).queue = rest ∧
        v.spindle d m i = { u.spindle d m i with issued := (u.spindle d m i).issued - 1, staging := (u.spindle d m i).staging ++
          [{ g, ch, laddr, ctr, record := u.memRead false (chunkAddr d i (seg.ech + k)) 4096 ++
              u.memRead false (chunkAddr d i (seg.sch + k / 16) + k % 16 * 256) 256 ++
              (if ue then check.map (~~~ ·) else check) ++ leBytes 8 tid.toNat ++ List.replicate 48 0 }] } ∧
        (v.memStop false d i).uncorr = (if ue then t.uncorr + 1 else t.uncorr) ∧ v.tierH = u.tierH ∧ v.tierM = u.tierM)

/-- A block of an M stop serves its owner's first request (06 R202, R203, R210): an object read answers with the bytes
of tier M, a write writes them, both counted for the lane's context. -/
def Obligations.BlockService : Prop :=
  ∀ (die : Fin 8) (stop : Fin 3) (block : Fin 9) (arrivals : List MemReq) (s : State) (r : MemReq) (rest : List MemReq),
    let d := die.val
    let i := stop.val
    let u := arrivals.foldl (fun s r => s.memArrive true d i r) s
    let m := u.memStop true d i
    let e := m.own block.val
    m.st = .ready → m.enable = true → owValid e = true → owUse e ≠ 0 → u.laneHeld (owOwner e) = false →
    takeReq (owOwner e) (owUse e) block.val m.queue = some (r, rest) →
    (∀ tag, r.reply = .obj tag → r.data = [] → ∃ t, exec (.mBlockService die stop block arrivals false) s = .next t ∧
      (t.memStop true d i).queue = rest ∧ t.out = u.out ++ [.objData tag false (u.memRead true r.addr r.len)] ∧
      t.tierH = u.tierH ∧ t.tierM = u.tierM) ∧
    ((∀ l ch la ctr g tid, r.reply ≠ .tile l ch la ctr g tid) → r.data ≠ [] → (∀ a, u.sealedAt true a = false) →
      ∃ t, exec (.mBlockService die stop block arrivals false) s = .next t ∧ (t.memStop true d i).queue = rest ∧
      t.tierM = u.tierM.write r.addr r.data ∧ t.tierH = u.tierH)

/-- 06 R191 and R195: a request that names no memory of the stop, or whose owner holds no window or block of its use
there, is not queued; the context of the owner's lane is charged with MEM_RANGE, status FORMAT, or with
SLOT_VIOLATION, status SLOT. A request that passes both is queued. -/
def Obligations.MemoryRefusals : Prop :=
  ∀ (die : Fin 8) (s : State) (r : MemReq),
    let d := die.val
    (∀ (stop : Fin 8) (win : Fin 9), owValid ((s.memStop false d stop.val).own win.val) = false →
      ∃ t, exec (.hWindowService die stop win [r] false) s = .next t ∧
        s.memAnswer t false d stop.val r) ∧
    (∀ (stop : Fin 3) (block : Fin 9), owValid ((s.memStop true d stop.val).own block.val) = false →
      ∃ t, exec (.mBlockService die stop block [r] false) s = .next t ∧
        s.memAnswer t true d stop.val r)

/-- The upkeep of a stop (06 R193, R201, R221 to R226): refreshes and scrubs of a READY stop are counted; TRAIN starts
training, and of a READY stop with a valid owner-table entry only sets WIGN; training ends in READY with both owner
tables empty and what it repaired in the repair log or, without a spare for a repair, in FAILED, as at the time limit;
a drifting margin is noted; an owner register is written in the shadow bank, and while a commit is armed only WIGN is
set; a region's epoch advances by one once no request touches it, and at its last value the region is withdrawn and
counted. Where a clause rests on a choice of the model: log entry 17. -/
def Obligations.StopUpkeep : Prop :=
  ∀ (stop : StopId) (s : State),
    let m := s.stop stop
    (m.st = .ready → exec (.refresh stop) s = .next (s.updStop stop fun t => { t with refreshed := t.refreshed + 1 })) ∧
    (∀ addr n, m.st = .ready → m.scrub = true → exec (.patrolScrub stop addr n false) s =
      .next (s.updStop stop fun t => { t with corr := t.corr + BitVec.ofNat 32 n })) ∧
    (∀ addr n, m.st = .ready → m.scrub = true → m.uev = false → exec (.patrolScrub stop addr n true) s =
      .next (s.updStop stop fun _ => { m with corr := m.corr + BitVec.ofNat 32 n, uncorr := m.uncorr + 1, uev := true,
                                              ueaddr := BitVec.ofNat 41 addr, ueowner := 0xE })) ∧
    (StopOk stop = true → m.st ≠ .ready →
      exec (.train stop) s = .next (s.updStop stop fun _ => { m with st := .training })) ∧
    (StopOk stop = true → m.st = .ready → m.anyOwner = true →
      exec (.train stop) s = .next (s.updStop stop fun _ => { m with wign := true })) ∧
    (∀ lanes rows, m.st = .training → ∃ t, exec (.stopReady stop lanes rows true) s = .next t ∧
      t.stop stop = { m with st := .ready, enable := true, lanes := BitVec.ofNat 8 lanes, rows := BitVec.ofNat 8 rows,
                             own0 := 0, own1 := 0, own0Shadow := 0, own1Shadow := 0, queue := [] } ∧
      Tab.look (0, 0) t.repairLog (stopLogKey stop) = (lanes, rows)) ∧
    (∀ lanes rows, m.st = .training → ∃ t, exec (.stopReady stop lanes rows false) s = .next t ∧
      (t.stop stop).st = .failed) ∧
    (m.st = .training → ∃ t, exec (.stopTrainingTimeout stop) s = .next t ∧ (t.stop stop).st = .failed) ∧
    (m.st = .ready → exec (.timingUpkeep stop true) s = .next (s.updStop stop fun t => { t with margin := true })) ∧
    (∀ v, stop.cls ≠ .f → StopOk stop = true → (s.die stop.die.val).ctl.arm = false →
      exec (.stopOwnWrite stop false v) s = .next (s.updStop stop fun t => { t with own0Shadow := v }) ∧
      exec (.stopOwnWrite stop true v) s = .next (s.updStop stop fun t => { t with own1Shadow := v.setWidth 8 })) ∧
    (∀ second v, stop.cls ≠ .f → StopOk stop = true → (s.die stop.die.val).ctl.arm = true →
      exec (.stopOwnWrite stop second v) s = .next (s.updStop stop fun t => { t with wign := true })) ∧
    (∀ region,
      let h := stop.cls == .m
      let r := (stop.die.val, stop.idx.val, region)
      stop.cls ≠ .f → (s.region h r).advance = true → (s.region h r).withdrawn = false →
      (∀ q ∈ m.queue, s.touches h r q = false) →
      ∃ t, exec (.epochAdvance stop region) s = .next t ∧
        t.region h r = { s.region h r with epoch := (s.region h r).epoch + 1, advance := false,
                                           withdrawn := (s.region h r).epoch + 1 == 0xFFFFFFFF } ∧
        (t.die stop.die.val).memsec.withdrawn =
          (if (s.region h r).epoch + 1 = 0xFFFFFFFF then satAdd (s.die stop.die.val).memsec.withdrawn 1
           else (s.die stop.die.val).memsec.withdrawn))

/-- Flits on a die (05 R155, R157, R159, R164, R166, R178 to R180, R185; 03 R82, R105). A data flit that leaves LOCAL
of a running core's router is written to the core's scratch at its flit address, and the last one of its transfer
increments the counter; one that no output takes is charged as SLOT_VIOLATION. A flit that crosses a bridge waits in
its owner's queue, or is charged as OVERRUN where the queue is full. The oldest TGET request at a router is answered
with LEN flits. A failed router sends nothing more, and every lane that owns a VALID entry of it is charged with
ROUTER_FAIL, status LINK. Where a clause rests on a choice of the model: log entry 16. -/
def Obligations.MeshFlits : Prop :=
  ∀ (die : Fin 8) (s : State),
    let d := die.val
    let x := s.die d
    (∀ (n : Nat) (cyc : Fin 256) (f : Flit), x.flights[n]? = some f → coreAt f.router = true →
      (∀ r c cl k, walkFlit { x with flights := x.flights.eraseIdx n } [] [] f = [.local r c] → unitAt r = .core cl k →
        f.use = .data → f.poison = false →
        (s.core (coreKey d cl k)).st = .run → 
        ∃ t, exec (.flitDelivery die n cyc [] [] [] false) s = .next t ∧ (t.die d).flights = x.flights.eraseIdx n ∧
          (t.core (coreKey d cl k)).scratch =
            (s.core (coreKey d cl k)).scratch.write (f.faddr % 2 ^ 14 * 64) (payloadBytes f.payload) ∧
          (∀ j, (t.core (coreKey d cl k)).ctr j =
            if f.last = true ∧ j = f.ctr then (s.core (coreKey d cl k)).ctr j + 1 else (s.core (coreKey d cl k)).ctr j) ∧
          (t.core (coreKey d cl k)).pc = (s.core (coreKey d cl k)).pc ∧
          (∀ j, j ≠ coreKey d cl k → t.core j = s.core j) ∧ t.tierH = s.tierH ∧ t.tierM = s.tierM) ∧
      (∀ r p c, walkFlit { x with flights := x.flights.eraseIdx n } [] [] f = [.stray r p c] →
        ∃ t, exec (.flitDelivery die n cyc [] [] [] false) s = .next t ∧ (t.die d).flights = x.flights.eraseIdx n ∧
          (t.die d).ctl.count = x.ctl.count + 1 ∧ (f.owner < 8 → s.charged t d f.owner 2 2 .slot) ∧
          (∀ j, t.core j = s.core j))) ∧
    (∀ (stop : Fin 300) (f : Flit),
      let q (y : State) : List Flit := Tab.look [] (y.die d).elastic (16 * stop.val + f.owner)
      ((q s).length < elasticDepth f.owner →
        ∃ t, exec (.elasticQueueArrival die stop f) s = .next t ∧ q t = q s ++ [f]) ∧
      (elasticDepth f.owner ≤ (q s).length →
        ∃ t, exec (.elasticQueueArrival die stop f) s = .next t ∧ q t = q s ∧
          (f.owner < 8 → s.charged t d f.owner 2 4 .slot))) ∧
    (∀ (router : Fin 300), (s.router d router.val).failed = false →
      ∃ t, exec (.routerFail die router) s = .next t ∧ (t.router d router.val).failed = true ∧
        (∀ l k e, l < 8 → e ∈ (s.router d router.val).active → slValid e.2 = true → slOwner e.2 = l →
          s.laneComp d l = some k → s.inEntry = false →
          ∃ m ∈ t.faultQ, m.ctx = (s.comp k).ctx ∧ m.lane = l ∧ m.unit = 2 ∧ m.code = 3 ∧ m.status = .link)) ∧
    (∀ (router : Fin 300) (f : Flit) (rest : List Flit) (ra len la ctr core rslot rrun : Nat),
      Tab.look [] x.gets router.val = f :: rest → f.use = .getReq ra len la ctr core rslot rrun →
      ∃ t fl, exec (.tgetReply die router) s = .next t ∧ Tab.look [] (t.die d).gets router.val = rest ∧
        (t.die d).flights = x.flights ++ fl ∧ fl.length = len ∧
        (∀ j g, fl[j]? = some g → g.owner = f.owner ∧ g.cls = f.cls ∧ g.last = (j + 1 == len) ∧ g.ctr = ctr ∧
          g.faddr = (la / 4 + j) % 2 ^ 18 ∧ g.cycle = (rslot + j % (rrun + 1)) % 256 ∧
          g.payload = s.getData d router.val ra j))

/-- Loading and arming table images (05 R168 to R171, R188). GO makes a load BUSY, and only sets WIGN while a swap is
armed; ARM arms a swap, and only sets WIGN while a load is BUSY. The end of a load clears BUSY, with the first error's
code and record in MESH_LOAD; no active slot table changes. Where a clause rests on a choice of the model: log entry
15. -/
def Obligations.TableLoads : Prop :=
  ∀ (die : Fin 8) (s : State),
    let d := die.val
    let m := (s.die d).ctl
    (m.arm = false → exec (.meshLoadGo die) s = .next (s.updDie d fun x => { x with ctl := { x.ctl with busy := true } })) ∧
    (m.arm = true → exec (.meshLoadGo die) s = .next (s.updDie d fun x => { x with ctl := { x.ctl with wign := true } })) ∧
    (m.busy = false → exec (.arm die) s = .next (s.updDie d fun x => { x with ctl := { x.ctl with arm := true } })) ∧
    (m.busy = true → exec (.arm die) s = .next (s.updDie d fun x => { x with ctl := { x.ctl with wign := true } })) ∧
    (m.busy = true → ∃ t, exec (.meshLoadComplete die) s = .next t ∧ (t.die d).ctl.busy = false ∧
      (∀ c i, (s.loadImage d).2 = some (c, i) → (t.die d).ctl.err = true ∧ (t.die d).ctl.errcode = BitVec.ofNat 8 c ∧
        (t.die d).ctl.errrec = BitVec.ofNat 16 i) ∧
      ((s.loadImage d).2 = none → (t.die d).ctl.err = m.err ∧ (t.die d).ctl.errcode = m.errcode) ∧
      (∀ e r, (t.router e r).active = (s.router e r).active) ∧ (∀ k, (t.core k).chan = (s.core k).chan))

/-- A frame start on a die (04 R113; 05 R156, R183; 07 R254; 09 R322): the slot counter starts again, the frame is
counted, FI of every enabled lane of the die advances, no origin has sent anything in the new frame. A lane of the die
is otherwise as before but for the arrived-die mask, which barrier words from the other dies join; so are the lanes of
the other dies, all cores and memory. The release of a barrier of the step program (04 R128). It happens on a die
whose own arrival is complete once the scope's condition holds; FI is raised to RFI, and a release that finds FI above
RFI is late; every core of the die that waits there goes on after its BAR, no other core moves. -/
def Obligations.FrameStartsAndReleases : Prop :=
  (
    ∀ (die : Fin 8) (s : State),
      let d := die.val
      ∃ t, exec (.frameStart die) s = .next t ∧ (t.die d).slotCtr = 0 ∧ (t.die d).frames = (s.die d).frames + 1 ∧
        (∀ l, (s.lane d l).enable = true →
          { t.lane d l with mask := 0 } = { s.lane d l with mask := 0, fi := (s.lane d l).fi + 1 }) ∧
        (∀ o, (Tab.look {} (t.die d).origins o : Origin).sent = []) ∧
        (∀ e l, e ≠ d → { t.lane e l with mask := 0 } = { s.lane e l with mask := 0 }) ∧
        (∀ k, t.core k = s.core k) ∧ t.tierH = s.tierH ∧ t.tierM = s.tierM ∧ t.tierF = s.tierF) ∧
  (
    ∀ (die lane : Fin 8) (s : State) (k : Nat),
      let d := die.val
      let l := lane.val
      let m := s.comp k
      let L := s.lane d l
      let rfi := bits L.barrier.toNat 39 8
      s.laneComp d l = some k → m.lane = l → L.dieArrived = true → L.st = .layers → L.barid.toNat < 0xFE →
      (barScope L.barrier = 0 ∨ barScope L.barrier = 1 ∧ (∀ e ∈ m.dies, bit L.mask.toNat e = true) ∨
        barScope L.barrier = 2 ∧ L.relArrived = true) →
      ∃ t, exec (.barrierRelease die lane) s = .next t ∧
        (t.lane d l).fi.toNat = max L.fi.toNat rfi ∧ (t.lane d l).st = .layers ∧ (t.lane d l).dieArrived = false ∧
        (t.lane d l).arrived = [] ∧ (t.lane d l).step = L.step ∧
        ((t.lane d l).late = true ↔ L.late = true ∨ rfi < L.fi.toNat) ∧
        (∀ i ∈ m.coresOn d, (s.core i).barWait = some L.barid →
          t.core i = { s.core i with pc := (s.core i).pc + 1, barWait := none }) ∧
        (∀ i, i ∉ m.coresOn d ∨ (s.core i).barWait ≠ some L.barid → t.core i = s.core i) ∧
        t.tierH = s.tierH ∧ t.tierM = s.tierM ∧ t.tierF = s.tierF)

/-- The release of the Lathe's own barriers (04 R114, R124, R128; 03 R77). At the start barrier FI becomes 0 and the
layers begin: a core of the die that can run starts its step program at ENTRY with loop registers, base registers,
arrival counters and OVF clear. At the commit barrier the lane goes to EVENT and counts the step, and on the root die
what waited for the barrier takes effect. Where a clause rests on a choice of the model: log entry 20. -/
def Obligations.LatheBarriers : Prop :=
  ∀ (die lane : Fin 8) (s : State) (k : Nat),
    let d := die.val
    let l := lane.val
    let m := s.comp k
    let L := s.lane d l
    s.laneComp d l = some k → m.lane = l → L.dieArrived = true → barScope L.barrier = 0 →
    (L.barid = 0xFF → L.st = .start → m.loop.isSome = true → (s.die d).ctl.arm = false → m.stage = 0 → L.swapMark = false →
      (s.lane m.rootDie l).swapMark = false → m.newCaps = none → m.balDue = false →
      ∃ t, exec (.barrierRelease die lane) s = .next t ∧ (t.lane d l).st = .layers ∧ (t.lane d l).fi = 0 ∧
        (t.lane d l).dieArrived = false ∧
        (∀ i ∈ m.coresOn d, (s.core i).st = .run ∨ (s.core i).st = .idle →
          (t.core i).st = .run ∧ (t.core i).pc = (s.core i).entry ∧ (t.core i).ctrs = [] ∧ (t.core i).loops = [] ∧
          (t.core i).bases = [] ∧ (t.core i).ovf = false ∧ (t.core i).scratch = (s.core i).scratch ∧
          (t.core i).accs = (s.core i).accs ∧ (t.core i).prog = (s.core i).prog) ∧
        (∀ i, i ∉ m.coresOn d → t.core i = s.core i)) ∧
    (L.barid = 0xFE → L.st = .commit → ∃ u : State,
      (u.lane d l).st = .event ∧ (u.lane d l).step = L.step + 1 ∧ (u.lane d l).dieArrived = false ∧
      (∀ e j, e ≠ d ∨ j ≠ l → u.lane e j = s.lane e j) ∧ u.commits = s.commits ∧ (∀ i, u.core i = s.core i) ∧
      exec (.barrierRelease die lane) s = .next (if d = m.rootDie then u.commitEffects k else u))

/-- Barriers between modules (04 R127; 10 R346, R347; 11 R381). A die waits at a barrier of composition scope. Once
all of the module's dies and every child's report have arrived, a member reports to its parent and the root releases:
the release is at hand on all its dies and goes to every child module. A release that has arrived is passed on. -/
def Obligations.CompositionBarriers : Prop :=
  ∀ (die lane : Fin 8) (s : State) (k : Nat),
    let m := s.comp k
    let L := s.compLane k
    s.laneComp die.val lane.val = some k → L.dieArrived = true → barScope L.barrier = 2 →
    (L.relArrived = true → exec (.compositionArrival die lane) s = .next (s.releaseDown k)) ∧
    (L.relArrived = false → L.sentUp = false → s.maskFull m m.rootDie = true → (∀ v ∈ m.kids, v ∈ L.children) →
      ∃ u mark, u = s.updLane m.rootDie m.lane (fun x =>
          { x with swapMark := mark, sentUp := true, children := x.children.filter fun v => !m.kids.contains v }) ∧
        mark = (L.swapMark || (L.barid == 0xFF && m.stage == 3)) ∧
        (∀ v, m.parent = some v → exec (.compositionArrival die lane) s =
          .next (u.sendUnits (u.portsTo m v) (2 * m.lane) (u.barrierUnit k 1 mark))) ∧
        (m.parent = none → exec (.compositionArrival die lane) s =
          .next ((u.updLanes m.dies m.lane fun x => { x with relArrived := true }).releaseDown k))) ∧
    (L.sentDown = false → ∀ v, m.kids = [v] → ∀ i, s.portsTo m v = [i] →
      ∀ w, (s.releaseDown k).port i = w → w = (s.port i).putUnit (2 * m.lane) (s.barrierUnit k 2 L.swapMark))

/-- 04 R129: a barrier that does not release by DLINE frames after RFI ends the lane's work: TIMEOUT is set, the lane
goes to FAULT and its context is charged, with status LINK where the missing arrival is another module's or a link was
lost, else SLOT. Where a clause rests on a choice of the model: log entry 20. -/
def Obligations.BarrierTimeouts : Prop :=
  ∀ (die lane : Fin 8) (remote : Bool) (s : State),
    let d := die.val
    let l := lane.val
    let L := s.lane d l
    (L.dieArrived = true ∨ L.arrived ≠ []) → bits L.barrier.toNat 39 8 + bits L.barrier.toNat 55 40 ≤ L.fi.toNat →
    ∃ t, exec (.barrierTimeout die lane remote false) s = .next t ∧
      t.lane d l = { L with timeout := true, st := .fault } ∧
      s.charged t d l 3 1 (if remote = true ∨ L.linkLost = true then .link else .slot) ∧
      (∀ e j, e ≠ d ∨ j ≠ l → t.lane e j = s.lane e j) ∧ (∀ i, t.core i = s.core i)

/-- The phases of a step around the layers (04 R114, R130 to R137, R141, R145 to R147; 08 R287; 10 R351). START
chooses the step's tree and arrives at the start barrier: where a pending root alone is at hand, the tree is that root
prepared for the free slots. SAMPLE walks the tree and the root sampler issues the commit word to every die, and
nothing commits where no candidate was found. A commit word is applied: Lc, the pending root and the slots in use are
those of the committed path, and the lane arrives at the commit barrier. EVENT ends the step, and a loop that goes on
reaches DRAFT with no tree. DRAFT adds the source's record and the next step starts. Where a clause rests on a choice
of the model: log entries 20 and 21. -/
def Obligations.StepPhases : Prop :=
  ∀ (k : Fin 256) (s : State) (lp : Loop),
    let m := s.comp k.val
    let l := m.lane
    let L := s.compLane k.val
    m.st ≠ .free → m.loop = some lp → m.rootDie ∈ m.dies →
    ((s.ctx m.ctx).st ≠ .lost → L.dieArrived = false → L.st = .start → L.tree = none →
      exec (.startPhase k) s = .next (s.startStep k.val lp) ∧
      (∀ tok, m.vmod = 0 → m.nmod = 1 → m.holding = true → m.newest lp.dsrc = none → L.root = some tok → L.lc < L.lmax →
        ∀ p, p = prepareTree (rootTree L.lc tok) L.lmax L.slots L.used → p.slots ≠ [] →
        ∃ t, exec (.startPhase k) s = .next t ∧ (∀ d ∈ m.dies, (t.lane d l).tree = some p ∧ (t.lane d l).commitw = none ∧
            (∀ x ∈ p.slots, x ∈ (t.lane d l).used) ∧
            (t.lane d l).barid = 0xFF ∧ (t.lane d l).dieArrived = true ∧ (t.lane d l).arrived = []) ∧
          (∀ i, i ∉ m.cores → t.core i = s.core i))) ∧
    (∀ logits t b, m.vmod = 0 → L.st = .sample → L.tree = some t → m.params = some b →
      (∀ w, sample (sparams b) t logits lp.produced = some w → ∀ c : CommitW,
        c.last = w.last → c.drop = (t.force && !t.last) → c.endc = (if w.endc = 0 ∧ s.stopAsked k.val then 3 else w.endc) →
        c.token = BitVec.ofNat 32 w.token → c.step = BitVec.ofNat 16 L.step.toNat →
        ∃ u, exec (.samplePhase k logits) s = .next u ∧
          (∀ d ∈ m.dies, u.lane d l = { s.lane d l with st := .commit, commitw := some c })) ∧
      (sample (sparams b) t logits lp.produced = none → ∃ u, exec (.samplePhase k logits) s = .next u ∧
        s.charged u m.rootDie l 4 1 .format ∧ (∀ d ∈ m.dies, u.lane d l = { s.lane d l with st := .fault }))) ∧
    (∀ (die lane : Fin 8) t c,
      let x := s.lane die.val lane.val
      s.laneComp die.val lane.val = some k.val → m.lane = lane.val → x.tree = some t → x.commitw = some c → x.st = .commit → x.dieArrived = false →
      x.barid ≠ 0xFE → ∃ u : State,
      exec (.commitWord die lane) s = .next (if die.val = m.rootDie then (u.growHistory k.val t c).sendBal k.val else u) ∧
      u.lane die.val lane.val = { x with
        lc := t.base + t.depth c.last + 1, root := if c.drop = true then none else some c.token,
        used := x.used.filter (fun a => !t.slots.contains a || ((t.path c.last).map t.slot).contains a),
        barid := 0xFE, arrived := [], dieArrived := true, mask := BitVec.ofNat 8 (2 ^ die.val) } ∧
      (∀ e j, e ≠ die.val ∨ j ≠ lane.val → u.lane e j = s.lane e j) ∧ (∀ i, u.core i = s.core i)) ∧
    (∀ t c, L.tree = some t → L.commitw = some c → (∀ d ∈ m.dies, (s.lane d l).st = .event) →
      exec (.eventPhase k) s = .next (s.eventStep k.val lp t c) ∧
      (m.vmod ≠ 0 → c.endc = 0 → lp.warned = false → ∃ u, exec (.eventPhase k) s = .next u ∧
        (∀ d ∈ m.dies, (u.lane d l).st = .draft ∧ (u.lane d l).tree = none ∧ (u.lane d l).commitw = none) ∧
        ∃ q, (u.comp k.val).loop = some q ∧ q.produced = lp.produced + (emitted t c).length)) ∧
    (∀ rcd, (∀ d ∈ m.dies, (s.lane d l).st = .draft) → m.stage ≠ 2 → lp.dsrc = 2 → m.vmod = 0 →
      ∃ u, exec (.draftPhase k rcd) s = .next u ∧
        (u.comp k.val).drafts = m.drafts ++ (rcd.toList.map fun b => ({ bytes := b, host := false } : DraftRec)) ∧
        (∀ d ∈ m.dies, u.lane d l = { s.lane d l with st := .start }))

/-- The library's commands (07 R229, R231 to R241; 08 R280). PIN and UNPIN count a HOT model's pins; EVICT makes a
HOT, unpinned and unbound model WARM; DROP returns a WARM one to the library; DELETE and STORE queue a write of tier
F, STORE only of an image whose digests and CRCs hold and whose model is new. WARM places the copies in tier M and
reads tier F; LOAD of a HOT model under its own map is done at once, one of a LOADING model joins the load. At the end
of a load the model is HOT and every LOAD that waited ends with its slot, or with CHECK where a tile is bad, and the
model is WARM again. Where a clause rests on a choice of the model: log entry 23. -/
def Obligations.ModelLibrary : Prop :=
  ∀ (q : Fin 4096) (s : State) (b : List Byte) (m : Model),
    let g := descDigest b
    let st (u : State) (x : Residency) : Prop := u.models = s.models.map fun y =>
      if y.digest == m.digest then { y with st := x, loadMap := [], pins := 0, waiters := [] } else y
    s.hearthTurn q.val = true → s.model g = some m →
    (s.begins q.val 0x23 [(16, 32)] b → m.st = .hot → m.pins < 65535 → exec (.modelPin q) s =
      .next ((s.updModel m.digest fun x => { x with pins := x.pins + 1 }).complete q.val .ok)) ∧
    (s.begins q.val 0x23 [(16, 32)] b → m.st ≠ .hot → exec (.modelPin q) s = .next (s.complete q.val .state)) ∧
    (s.begins q.val 0x24 [(16, 32)] b → m.st = .hot → m.pins ≠ 0 → exec (.modelUnpin q) s =
      .next ((s.updModel m.digest fun x => { x with pins := x.pins - 1 }).complete q.val .ok)) ∧
    (s.begins q.val 0x25 [(16, 32)] b → m.st = .hot → m.pins = 0 → s.boundTo m.digest = false →
      ∃ u : State, exec (.modelEvict q) s = .next (u.complete q.val .ok) ∧ st u .warm ∧ u.queues = s.queues) ∧
    (s.begins q.val 0x25 [(16, 32)] b → m.st = .hot → m.pins ≠ 0 → exec (.modelEvict q) s = .next (s.complete q.val .state)) ∧
    (s.begins q.val 0x26 [(16, 32)] b → m.st = .warm →
      ∃ u : State, exec (.modelDrop q) s = .next (u.complete q.val .ok) ∧ u.queues = s.queues ∧ u.models = s.models.map fun y =>
        if y.digest == m.digest then
          { y with st := .library, slot := 0, warmMap := [], loadMap := [], copies := 0, pins := 0, waiters := [] }
        else y) ∧
    (s.begins q.val 0x27 [(16, 32)] b → (s.queue q.val).started = false → m.st = .library →
      exec (.modelDelete q) s = .next ((s.begin q.val).pushF true 4096 q.val)) ∧
    (∀ slot u, s.begins q.val 0x21 [(16, 32), (48, 1), (56, 8)] b → mapBodyOk b = true → (s.queue q.val).started = false →
      s.mapStatus m (descMap b) = none → m.st = .library → s.freeSlot = some slot →
      s.placeM m slot (field b 48 1) (descMap b) = some u →
      exec (.modelWarm q) s = .next (((u.updModel m.digest fun x =>
        { x with slot, warmMap := descMap b, copies := field b 48 1 }).begin q.val).pushF false
          (mapBytes m.manifest (descMap b)) q.val)) ∧
    (s.begins q.val 0x22 [(16, 32), (48, 1), (56, 8)] b → mapBodyOk b = true → (s.queue q.val).started = false →
      s.mapStatus m (descMap b) = none →
      (m.st = .hot → m.loadMap = descMap b → exec (.modelLoad q) s =
        .next ((s.updModel m.digest fun x => { x with stamp := s.commits }).complete q.val .ok (BitVec.ofNat 256 m.slot))) ∧
      (m.st = .hot → m.loadMap ≠ descMap b → exec (.modelLoad q) s = .next (s.complete q.val .state)) ∧
      (m.st = .loading → exec (.modelLoad q) s =
        .next ((s.updModel m.digest fun x => { x with waiters := x.waiters ++ [q.val] }).begin q.val))) ∧
    (∀ slot, s.slotModel slot = some m → m.st = .loading →
      (s.copiesGood m = true → exec (.modelLoadComplete slot false) s = .next (m.waiters.foldl
        (fun (u : State) w => u.complete w .ok (BitVec.ofNat 256 slot)) ((s.loadAll m).updModel m.digest fun x =>
          { x with st := .hot, stamp := s.commits, waiters := [] }))) ∧
      (∃ u : State, exec (.modelLoadComplete slot true) s = .next (m.waiters.foldl (fun (u : State) w => u.complete w .check) u) ∧
        st u .warm))

/-- MODEL_STORE and the commands of tier F (06 R210, R219; 07 R229, R234, R236; 14 R465 to R467). An image of a new
model for which tier F has room and that passes its checks is queued as a write of tier F; without the room STORE ends
with NOMEM. The front command of a die's queue runs: a write whose hold-up check holds is written whole, one whose
check fails waits and is counted; at the end of a STORE's write the model is in the library. The check of a waiting
write is repeated. Where a clause rests on a choice of the model: log entry 24. -/
def Obligations.TierF : Prop :=
  ∀ (s : State),
    (∀ (q : Fin 4096) b img, s.begins q.val 0x20 [(16, 32), (48, 8), (56, 8)] b → al64 b 48 = true →
      (s.queue q.val).started = false → s.hearthTurn q.val = true → s.hasData q.val (field b 56 8) →
      img = (s.queue q.val).buf.take (field b 56 8) → imageForm img = true → s.model (descDigest b) = none →
      s.models.length < 16384 →
      exec (.modelStore q) s = .next (if s.fFree < img.length then s.complete q.val .nomem
        else if imageCheck img (descDigest b) then (s.begin q.val).pushF true img.length q.val img
        else s.complete q.val .check)) ∧
    (∀ (die : Fin 8) ue c rest, (s.die die.val).fqueue = c :: rest → s.inEntry = false → (s.die die.val).fdefer = false →
      (c.write = true → s.pwr.commitOk c.bytes c.channels = false → exec (.fCommand die ue) s =
        .next { s.updDie die.val fun x => { x with fdefer := true } with
                pwr := { s.pwr with defer := satAdd s.pwr.defer 1 } }) ∧
      (c.write = true → s.pwr.commitOk c.bytes c.channels = true → c.wellFormed = true →
        ∃ u : State, u.tierF = s.tierF.write (4096 * c.sector) c.data ∧ (u.die die.val).fqueue = rest ∧ u.models = s.models ∧
          u.queues = s.queues ∧ (c.q = none → exec (.fCommand die ue) s = .next u) ∧
          (∀ q a, c.q = some q → (s.queue q).front = some a → a.op = 0x20 → (s.queue q).started = true →
            (s.queue q).fin = none → s.model (descDigest a.bytes) = none →
            exec (.fCommand die ue) s = .next (({ u with models := u.models ++
              [{ digest := descDigest a.bytes, manifest := ((s.queue q).buf.take (field a.bytes 56 8)).take 4096,
                 body := ((s.queue q).buf.take (field a.bytes 56 8)).drop 4096 }] } : State).complete q .ok
                   u.sec.fRoot))) ∧
      (c.write = false → c.q = none → exec (.fCommand die ue) s = .next (s.updDie die.val fun x => { x with fqueue := rest }))) ∧
    (∀ (die : Fin 8) c rest, (s.die die.val).fqueue = c :: rest → (s.die die.val).fdefer = true →
      (s.pwr.commitOk c.bytes c.channels = true →
        exec (.fCommitRecheck die) s = .next (s.updDie die.val fun x => { x with fdefer := false })) ∧
      (s.pwr.commitOk c.bytes c.channels = false →
        exec (.fCommitRecheck die) s = .next { s with pwr := { s.pwr with defer := satAdd s.pwr.defer 1 } }))

/-- Objects (07 R248, R249, R253 to R256; 08 R280; 12 R424). While no loop of the composition runs, an OBJ_ALLOC takes
the lowest run of free granules of the host's partition, and its RESULT carries the handle, the arena offset and the
size granted; an OBJ_FREE takes the object's reference away. While a loop runs both wait for the next commit barrier.
OBJ_MAP and OBJ_UNMAP count a mapping and a reference. OBJ_COPY reads the object for the host, or writes it with the
host's bytes. A freed object is not freed again. Where a clause rests on a choice of the model: log entry 25. -/
def Obligations.HostObjects : Prop :=
  ∀ (q : Fin 4096) (s : State) (b : List Byte),
    let k := field b 12 2
    let h := field b 16 4
    (s.begins q.val 0x30 [(16, 1), (17, 1), (24, 8)] b → field b 16 1 < field (s.comp k).shape 6 1 → field b 17 1 ≤ 1 →
      1 ≤ field b 24 8 → field b 24 8 ≤ 2 ^ 40 → (s.queue q.val).started = false →
      (s.looping k = true → exec (.objAlloc q) s = .next ((s.updComp k fun m => { m with
        pend := m.pend ++ [.alloc q.val (field b 16 1) (field b 17 1) (field b 24 8)] }).updQueue q.val fun x =>
          { x with started := true })) ∧
      (s.looping k = false → s.recRoom k 128 = true →
        let a := arenaKey k (field b 16 1) (field b 17 1)
        let x := s.part a hostPart
        let n := (field b 24 8 + 0xFFFF) / 2 ^ 16
        let i := lowestFree 0 (s.liveIdx (s.comp k).ctx a hostPart)
        (∀ g, i ≤ 2047 → lowestRun x.usedG x.g n = some g → ∃ u : State,
          exec (.objAlloc q) s = .next (u.complete q.val .ok (BitVec.ofNat 256
            (handleOf (s.comp k).ctx hostPart i + 2 ^ 64 * (x.start * 2 ^ 16 + g * 2 ^ 16) + 2 ^ 128 * (n * 2 ^ 16)))) ∧
          (u.part a hostPart).usedG = (List.range n).foldl (fun l j => insNat (g + j) l) x.usedG ∧
          Tab.look {} (u.part a hostPart).objs i =
            { live := true, base := g, n, refs := 1, tier := field b 17 1, vdie := field b 16 1, comp := k } ∧
          (∀ c, c ≠ a → u.arena c = s.arena c)) ∧
        (i ≤ 2047 → lowestRun x.usedG x.g n = none →
          ∃ u : State, exec (.objAlloc q) s = .next (u.complete q.val .nomem) ∧ u.arenas = s.arenas))) ∧
    (∀ used op a, (op = 0x31 ∧ used = [] ∨ op = 0x32 ∧ used = [] ∨ op = 0x33 ∧ used = [] ∨
        op = 0x34 ∧ used = [(20, 1), (24, 8), (32, 8), (40, 8)]) →
      s.begins q.val op ((16, 4) :: used) b → hCtx h = (s.queue q.val).ctx → s.findObj h = some a →
      (op = 0x31 → (s.queue q.val).started = false → (s.objAt a h).freed = true →
        exec (.objFree q) s = .next (s.complete q.val .state)) ∧
      (op = 0x31 → (s.queue q.val).started = false → (s.objAt a h).freed = false → s.looping (a / 32) = true →
        exec (.objFree q) s = .next (((s.updObj a h fun o => { o with freed := true }).updComp (a / 32) fun m =>
          { m with pend := m.pend ++ [.free h (some q.val)] }).updQueue q.val fun x => { x with started := true })) ∧
      (op = 0x31 → (s.queue q.val).started = false → (s.objAt a h).freed = false → s.looping (a / 32) = false →
        s.recRoom (a / 32) 128 = true → exec (.objFree q) s = .next (s.freeNow false false (some q.val) a h)) ∧
      (op = 0x32 → exec (.objMap q) s =
        .next ((s.updObj a h fun o => { o with refs := o.refs + 1, maps := o.maps + 1 }).complete q.val .ok
          (BitVec.ofNat 256 (Config.windowBase h % 2 ^ 64)))) ∧
      (op = 0x33 → (s.objAt a h).maps = 0 → exec (.objUnmap q) s = .next (s.complete q.val .state)) ∧
      (op = 0x33 → (s.objAt a h).maps ≠ 0 → exec (.objUnmap q) s =
        .next (((s.updObj a h fun o => { o with refs := o.refs - 1, maps := o.maps - 1 }).dropIfDead a h false).complete
          q.val .ok)) ∧
      (op = 0x34 → field b 24 8 % 64 = 0 → field b 32 8 % 64 = 0 → field b 40 8 % 64 = 0 → 64 ≤ field b 40 8 →
        field b 40 8 ≤ 2 ^ 40 → field b 24 8 + field b 40 8 ≤ 2 ^ 16 * (s.objAt a h).n →
        (s.looping (a / 32) = true ∨ s.recRoom (a / 32) 128 = true) →
        (field b 20 1 = 1 → ∃ u : State, exec (.objCopy q) s = .next (u.sendOut q.val (field b 32 8)
            (s.objRead a h (field b 24 8) (field b 40 8)) .ok (BitVec.ofNat 256 (field b 40 8))) ∧
          u.tierH = s.tierH ∧ u.tierM = s.tierM ∧ u.arenas = s.arenas) ∧
        (field b 20 1 = 0 → s.hasData q.val (field b 40 8) → ∃ u : State, exec (.objCopy q) s =
          .next ((u.objWrite a h (field b 24 8) ((s.queue q.val).buf.take (field b 40 8))).complete q.val .ok
            (BitVec.ofNat 256 (field b 40 8))) ∧ u.tierH = s.tierH ∧ u.tierM = s.tierM ∧ u.arenas = s.arenas)))

/-- The allocator of the tile programs and the object window (07 R251 to R254, R259, R260; 08 Table 1; 11 R404). A
request joins its cluster's ring; a fifth unanswered one of a core is discarded and charged as ALLOC_OVERRUN. Steward
1 serves the lane of the frame, and the reply reaches the core that asked. A window read answers the bytes of a mapped
object, or fails; a window write changes them. Where a clause rests on a choice of the model: log entries 25 and 26.
-/
def Obligations.AllocatorAndWindow : Prop :=
  ∀ (s : State),
    (∀ (die : Fin 8) (cluster : Fin 10) r,
      let ring (x : State) := Tab.look [] (x.die die.val).reqRings cluster.val
      ((s.die die.val).unanswered r.core < 4 →
        ∃ t, exec (.allocRequestArrival die cluster r) s = .next t ∧ ring t = ring s ++ [r]) ∧
      (∀ l, 4 ≤ (s.die die.val).unanswered r.core → (s.core r.core).lane = some l →
        ∃ t, exec (.allocRequestArrival die cluster r) s = .next t ∧ ring t = ring s ∧ s.charged t die.val l 6 1 .limit)) ∧
    (∀ (die : Fin 8) k,
      let d := die.val
      let u := s.updDie d Die.sortRings
      let l := (s.die d).frames % 8
      let q := (Tab.look [] (u.die d).laneQ l).mergeSort fun a b => decide (a.vcluster ≤ b.vcluster)
      s.laneComp d l = some k →
      ((s.ctx (s.comp k).ctx).allocRevoked = false → exec (.allocatorService die) s =
        .next ((q.take 4).foldl (fun (x : State) r => x.answerReq k r)
          (u.updDie d fun x => { x with laneQ := Tab.put [] x.laneQ l (q.drop 4) }))) ∧
      ((s.ctx (s.comp k).ctx).allocRevoked = true → exec (.allocatorService die) s =
        .next (u.dropContext (s.comp k).ctx))) ∧
    (∀ k (r : AllocReq), reqOk (payloadBytes r.req) = true → field (payloadBytes r.req) 0 1 = 1 →
      ∀ c, c = s.core r.core → ∀ p, (s.comp k).allocIndex c.vd c.vc c.vk = some p →
      ∀ tier, tier = field (payloadBytes r.req) 1 1 → ∀ a x, a = arenaKey k c.vd tier → x = s.part a p →
      ∀ n, n = (field (payloadBytes r.req) 8 8 + 0xFFFF) / 2 ^ 16 → ∀ i g, i = lowestFree 0 (s.liveIdx (s.comp k).ctx a p) →
      i ≤ 2047 → lowestRun x.usedG x.g n = some g →
      ((s.answerReq k r).core r.core).scratch = c.scratch.write (r.raddr / 4 % 2 ^ 18 % 2 ^ 14 * 64)
        (payloadBytes (allocReply (payloadBytes r.req)
          ⟨.ok, handleOf (s.comp k).ctx p i, x.start * 2 ^ 16 + g * 2 ^ 16, n * 2 ^ 16⟩))) ∧
    (∀ tag off len e, s.windowObj off len = some e → s.windowOk e = true → exec (.objRd tag off len) s =
      .next (s.emit (.objData tag false (s.objRead e.1 e.2.1 e.2.2 len)))) ∧
    (∀ tag off len, s.windowObj off len = none → exec (.objRd tag off len) s = .next (s.emit (.objData tag true []))) ∧
    (∀ off bytes e, s.windowObj off bytes.length = some e → s.windowOk e = true → exec (.objWr off bytes) s =
      .next (s.objWrite e.1 e.2.1 e.2.2 bytes)) ∧
    (∀ off bytes, s.windowObj off bytes.length = none → exec (.objWr off bytes) s = .next s)

/-- Doorbells (08 R269, R274, R275, R286, R290; 09 R310). A tail, head or arm doorbell of the page of the owner of a
live queue or ring, with its reserved bits zero, moves the tail or head within the bounds of R269 and R286, or arms
the ring; a pointer out of bounds, a foreign page and a malformed message are discarded and counted. -/
def Obligations.Doorbells : Prop :=
  ∀ (port : Bool) (ctx : Fin 1024) (word : Word64) (s : State),
    let i := bits word.toNat 13 2
    let p := BitVec.ofNat 32 (bits word.toNat 47 16)
    let x := s.queue i
    let r := s.ring i
    bits word.toNat 15 14 = 0 → bits word.toNat 63 48 = 0 →
    (∀ zero, zero = false ∨ bits word.toNat 1 0 = 3 →
      exec (.tailDoorbell port ctx word zero) s = .next { s with hif := { s.hif with badform := satAdd s.hif.badform 1 } }) ∧
    ((s.ctx ctx.val).st ≠ .closed → (s.ctx ctx.val).closing = false →
      (bits word.toNat 1 0 = 0 → x.st ≠ .free → x.ctx = ctx.val →
        ((p - x.head).toNat ≤ 2 ^ x.log2n → (p - x.tail).toNat ≤ (p - x.head).toNat →
          exec (.tailDoorbell port ctx word true) s = .next (s.updQueue i fun y => { y with tail := p })) ∧
        (2 ^ x.log2n < (p - x.head).toNat ∨ (p - x.head).toNat < (p - x.tail).toNat → exec (.tailDoorbell port ctx word true) s =
          .next { s with hif := { s.hif with badtail := satAdd s.hif.badtail 1 } })) ∧
      (bits word.toNat 1 0 = 1 → i ≤ 511 → r.live = true → r.ctx = ctx.val →
        ((r.tail - p).toNat ≤ (r.tail - r.head).toNat →
          exec (.headDoorbell port ctx word true) s = .next (s.updRing i fun y => { y with head := p })) ∧
        ((r.tail - r.head).toNat < (r.tail - p).toNat → exec (.headDoorbell port ctx word true) s =
          .next { s with hif := { s.hif with badtail := satAdd s.hif.badtail 1 } })) ∧
      (bits word.toNat 1 0 = 2 → i ≤ 511 → r.live = true → r.ctx = ctx.val →
        (r.tail = p → exec (.armDoorbell port ctx word true) s = .next (s.updRing i fun y => { y with armed := some p })) ∧
        (r.tail ≠ p → ∃ t q, exec (.armDoorbell port ctx word true) s = .next t ∧ (t.ring i).armed = none ∧
          t.out = s.out ++ [.irq q r.vector]))) ∧
    (bits word.toNat 1 0 = 0 → x.st ≠ .free → x.ctx ≠ ctx.val → exec (.tailDoorbell port ctx word true) s =
      .next { s with hif := { s.hif with badowner := satAdd s.hif.badowner 1 } })

/-- Tongs' service slots and reads (08 R262 to R265, R270, R273, R282 to R284). A slot of a port that is up serves its
context: a head write-back, a record, whose bytes 8 to 63 go before bytes 0 to 7 and advance TAIL, or, with nothing
waiting, the fetch of up to 16 descriptors within the ring and one page. Returned bytes join the front descriptor's
buffer; a failed read or one out of time is noted; a fetched descriptor is accepted with a reservation. Where a clause
rests on a choice of the model: log entry 27. -/
def Obligations.TongsSlots : Prop :=
  ∀ (port : Bool) (s : State),
    let slot := (s.tongs port).slot
    let c := if slot.toNat < 16 then 0 else Tab.look 0 (s.tongs port).grants slot.toNat
    let w := Tab.look [] (s.tongs port).work c
    let pasid := (s.ctx c).pasid.toNat
    (s.portUp port = true → s.hif.enable = true →
      (∀ n h l, w = .headwb n h :: l → ∃ t, exec (.serviceSlot port) s = .next t ∧ (t.tongs port).slot = slot + 1 ∧
        Tab.look [] (t.tongs port).work c = l ∧
        t.out = s.out ++ [.hostWrite port pasid (s.queue n).headwb.toNat (leBytes 8 h.toNat)]) ∧
      (∀ n rcd, w = [.record n rcd true] → field (payloadBytes rcd) 0 1 ≠ 1 → (s.ring n).armed = none →
        let r := s.ring n
        let a := r.base.toNat + 64 * (r.tail.toNat % 2 ^ r.log2n)
        let b := { r with resv := r.resv - 1 }.fill rcd
        ∃ t, exec (.serviceSlot port) s = .next t ∧ (t.tongs port).slot = slot + 1 ∧
          Tab.look [] (t.tongs port).work c = [] ∧
          t.ring n = { r with resv := r.resv - 1, tail := r.tail + 1, drops := 0 } ∧
          t.out = s.out ++ [.hostWrite port (s.ctx r.ctx).pasid.toNat (a + 8) (b.drop 8),
            .hostWrite port (s.ctx r.ctx).pasid.toNat a (b.take 8)]) ∧
      (∀ q, w = [] → s.portUp (!port) = true → s.fetchable port c = some q →
        let x := s.queue q
        let i := x.head.toNat % 2 ^ x.log2n
        let n := min (min 16 (x.tail - x.head).toNat) (min (2 ^ x.log2n - i) (64 - i % 64))
        ∃ t, exec (.serviceSlot port) s = .next t ∧
          t.reads = s.reads ++ [{ tag := s.nextTag, ctx := c, q, count := n, len := 64 * n, port }] ∧
          t.out = s.out ++ [.hostRead port s.nextTag pasid (x.base.toNat + 64 * i) (64 * n)])) ∧
    (∀ tag (r : TRead), s.reads.find? (fun x => x.tag == tag) = some r → (s.queue r.q).st ≠ .free →
      (s.queue r.q).ctx = r.ctx → (s.ctx r.ctx).closing = false →
      (r.count = 0 → ∀ bytes, ∃ t, exec (.data tag false bytes) s = .next t ∧
        t.queue r.q = { s.queue r.q with buf := (s.queue r.q).buf ++ slice bytes 0 r.len } ∧
        t.reads = s.reads.filter fun x => x.tag != tag) ∧
      (r.count = 0 → ∀ bytes u, u = ({ s with reads := s.reads.filter fun x => x.tag != tag } : State) →
        exec (.data tag true bytes) s = .next (u.updQueue r.q fun x => { x with readFailed := true }) ∧
        exec (.tongsReadTimeout tag) s = .next (u.updQueue r.q fun x => { x with readFailed := true })) ∧
      (r.count = 1 → 0 < (s.ring (s.queue r.q).evring).freeRecs → (s.queue r.q).acc ≠ [] →
        ∀ bytes, s.refOf r.ctx (bytesPayload (slice bytes 0 64)) = none → ∃ t, exec (.data tag false bytes) s = .next t ∧
          t.queue r.q = { s.queue r.q with head := (s.queue r.q).head + 1, acc := (s.queue r.q).acc ++
            [{ pos := (s.queue r.q).head, d := bytesPayload (slice bytes 0 64), port := r.port, seq := s.nextAcc,
               ref := none }] } ∧
          (t.ring (s.queue r.q).evring).resv = (s.ring (s.queue r.q).evring).resv + 1))

/-- Completion (08 R272, R276, R284, R291). A NOP completes with OK. Where it is not QUIET and its context is not
closing, the queue's front carries its status, and its record of the common form waits in the ring's Tongs for the
place reserved for it. A QUIET one leaves the queue at once and gives its reservation back. QUERY writes the
capability table to the host, as much as LEN holds. Where a clause rests on a choice of the model: log entry 28. -/
def Obligations.Completion : Prop :=
  ∀ (q : Fin 4096) (s : State) (b : List Byte) (a : Accepted),
    let x := s.queue q.val
    let r := s.ring x.evring
    x.front = some a → a.bytes = b → (s.ctx x.ctx).closing = false →
    (s.begins q.val 0x10 [] b →
      (bits (field b 1 1) 0 0 = 0 → x.outBuf = [] → ∃ t, exec (.descriptorNop q) s = .next t ∧
        t.queue q.val = { x with fin := some (.ok, 0) } ∧
        Tab.look [] (t.tongs r.port).work x.ctx = Tab.look [] (s.tongs r.port).work x.ctx ++ [.record x.evring
          (s.recordOf 1 0 0 x.ctx q.val (slice b 4 4 ++ leBytes 4 a.pos.toNat ++ leBytes 1 a.op ++ leBytes 7 0 ++ leBytes 32 0))
          true] ∧ t.out = s.out) ∧
      (bits (field b 1 1) 0 0 = 1 → exec (.descriptorNop q) s =
        .next (((s.updRing x.evring fun y => { y with resv := y.resv - 1 }).dropFront q.val).settle q.val))) ∧
    (s.begins q.val 0x11 [(16, 8), (24, 4)] b → field b 16 8 % 64 = 0 → field b 24 4 % 16 = 0 → 16 ≤ field b 24 4 →
      field b 24 4 ≤ 4096 → ∀ l, l = s.capBytes.take (field b 24 4) →
      exec (.query q) s = .next ((s.updQueue q.val fun y =>
        { y with outAddr := field b 16 8, outBuf := l, started := true }).complete q.val .ok (BitVec.ofNat 256 l.length)))

/-- Contexts, queues and event rings (08 R264, R268, R281, R282, R285; 09 R298, R310). CTX_OPEN opens the CLOSED
context named, or the lowest one, with its PASID and the slots granted, which no other context holds, and its RESULT
names it. CLOSE is accepted for a context other than 0 that is not CLOSED or closing, and completes once its
revocation is complete; the context is then CLOSED. A queue or ring is created at the index named or the lowest free
one, for a context that is not CLOSED or LOST; an empty queue and a ring that nothing names can be destroyed. Where a
clause rests on a choice of the model: log entry 28. -/
def Obligations.ContextsAndRings : Prop :=
  ∀ (q : Fin 4096) (s : State) (b : List Byte),
    let c := field b 16 2
    let n := field b 18 2
    (s.begins q.val 0x01 [(16, 4), (20, 2), (22, 1), (24, 8)] b → field b 16 4 < 2 ^ 20 → field b 24 8 % 64 = 0 →
      s.hasData q.val 64 → ∀ g, g = (s.queue q.val).buf.take 64 → field g 0 2 = 0 → field g 32 2 = 0 → s.sec.tenancy ≠ 0 →
      s.grantHeld g (field b 22 1) = false → ∀ i,
      (1 ≤ field b 20 2 ∧ field b 20 2 < 1024 ∧ (s.ctx (field b 20 2)).st = .closed ∧ i = field b 20 2 ∨
        field b 20 2 = 0xFFFF ∧ lowestIn 1 1024 (fun i => (s.ctx i).st == .closed) = some i) →
      ∃ u : State, exec (.ctxOpen q) s = .next (u.complete q.val .ok (BitVec.ofNat 256 i)) ∧
        u.ctx i = { st := .opened, pasid := BitVec.ofNat 20 (field b 16 4), evslot := BitVec.ofNat 8 (field b 22 1) } ∧
        (∀ j, j ≠ i → u.ctx j = s.ctx j) ∧
        (∀ j, Tab.look 0 u.tongs0.grants j = if j ∈ grantSlots g 0 then i else Tab.look 0 s.tongs0.grants j) ∧
        (∀ j, Tab.look 0 u.tongs8.grants j = if j ∈ grantSlots g 32 then i else Tab.look 0 s.tongs8.grants j)) ∧
    (s.begins q.val 0x02 [(16, 2)] b → c < 1024 → (s.queue q.val).started = false →
      (c ≠ 0 → (s.ctx c).st ≠ .closed → (s.ctx c).closing = false →
        exec (.close q) s = .next ((s.closeAccept c).updQueue q.val fun x => { x with started := true })) ∧
      (c = 0 ∨ (s.ctx c).st = .closed → exec (.close q) s = .next (s.complete q.val .state))) ∧
    (∀ (ctx : Fin 1024) a, (s.ctx ctx.val).closing = true → (s.ctx ctx.val).revoked = true → s.hearthRuns ctx.val = false →
      ∃ u : State, (u.ctx ctx.val).st = .closed ∧ (u.ctx ctx.val).closing = false ∧
        u = (s.account ctx.val).closeFree ctx.val ∧
        ((u.queue 0).front = some a → a.op = 0x02 → field a.bytes 16 2 = ctx.val → (u.queue 0).fin = none →
          exec (.closeComplete ctx) s = .next (u.complete 0 .ok)) ∧
        ((u.queue 0).front = none → exec (.closeComplete ctx) s = .next u)) ∧
    (s.begins q.val 0x03 [(16, 2), (18, 2), (20, 1), (21, 1), (22, 2), (24, 8), (32, 8)] b → c < 1024 →
      4 ≤ field b 20 1 → field b 20 1 ≤ 16 → field b 21 1 ≤ 1 → field b 24 8 % 4096 = 0 → field b 32 8 % 8 = 0 →
      (s.ring (field b 22 2)).live = true → (s.ring (field b 22 2)).ctx = c → (s.ctx c).st ≠ .closed → (s.ctx c).st ≠ .lost →
      ∀ i, (1 ≤ n ∧ n < 4096 ∧ (s.queue n).st = .free ∧ i = n ∨
        n = 0xFFFF ∧ lowestIn 1 4096 (fun i => (s.queue i).st == .free) = some i) →
      exec (.queueCreate q) s = .next ((s.updQueue i fun _ =>
        { st := .live, ctx := c, log2n := field b 20 1, port := field b 21 1 == 1, evring := field b 22 2,
          base := BitVec.ofNat 64 (field b 24 8), headwb := BitVec.ofNat 64 (field b 32 8) }).complete q.val .ok
            (BitVec.ofNat 256 i))) ∧
    (s.begins q.val 0x04 [(16, 2)] b → 1 ≤ c → c < 4096 →
      ((s.queue c).st ≠ .free → (s.queue c).tail = (s.queue c).head → (s.queue c).acc = [] → exec (.queueDestroy q) s =
        .next (({ s with queues := s.queues.filter fun e => e.1 != c } : State).complete q.val .ok)) ∧
      ((s.queue c).st = .free ∨ (s.queue c).acc ≠ [] → exec (.queueDestroy q) s = .next (s.complete q.val .state))) ∧
    (s.begins q.val 0x05 [(16, 2), (18, 2), (20, 1), (21, 1), (22, 2), (24, 8)] b → c < 1024 → 6 ≤ field b 20 1 →
      field b 20 1 ≤ 16 → field b 21 1 ≤ 3 → field b 22 2 < 2048 → field b 24 8 % 4096 = 0 → (s.ctx c).st ≠ .closed →
      (s.ctx c).st ≠ .lost → (bit (field b 21 1) 1 = true → s.faultRing c = none) →
      ∀ i, (1 ≤ n ∧ n < 512 ∧ (s.ring n).live = false ∧ i = n ∨
        n = 0xFFFF ∧ lowestIn 1 512 (fun i => !(s.ring i).live) = some i) →
      exec (.evringCreate q) s = .next ((s.updRing i fun _ =>
        { live := true, ctx := c, log2n := field b 20 1, port := bit (field b 21 1) 0, faults := bit (field b 21 1) 1,
          vector := field b 22 2, base := BitVec.ofNat 64 (field b 24 8),
          resv := b2n (bit (field b 21 1) 1) }).complete q.val .ok (BitVec.ofNat 256 i))) ∧
    (s.begins q.val 0x06 [(16, 2)] b → 1 ≤ c → c < 512 →
      ((s.ring c).live = true → s.ringNamed c = false → exec (.evringDestroy q) s =
        .next (({ s with rings := s.rings.filter fun e => e.1 != c } : State).complete q.val .ok)) ∧
      ((s.ring c).live = false ∨ s.ringNamed c = true → exec (.evringDestroy q) s = .next (s.complete q.val .state)))

/-- Fences (09 R312 to R320). A created fence is LIVE with its first value, owner, sharing, notice ring and write-back
address. A context other than the owner attaches to a shared LIVE fence and detaches again; the owner's detach poisons
a fence that others are attached to. A signal that is ahead in serial order raises the value and returns it; one that
is behind is counted and changes nothing. A wait that the value has reached completes, else it parks its queue; on a
POISONED fence both end with FENCE. Where a clause rests on a choice of the model: log entry 29. -/
def Obligations.Fences : Prop :=
  ∀ (q : Fin 4096) (s : State) (b : List Byte),
    let n := field b 16 2
    let f := s.fence n
    let c := (s.queue q.val).ctx
    let v := BitVec.ofNat 64 (field b 24 8)
    (s.begins q.val 0x50 [(16, 2), (18, 1), (20, 2), (24, 8), (32, 8)] b → field b 18 1 ≤ 1 → field b 32 8 % 8 = 0 →
      (field b 20 2 = 0xFFFF ∨ (s.ring (field b 20 2)).live = true ∧ (s.ring (field b 20 2)).ctx = c) → ∀ i,
      (n ≠ 0xFFFF ∧ f.st = .free ∧ i = n ∨ n = 0xFFFF ∧ lowestIn 0 65536 (fun i => (s.fence i).st == .free) = some i) →
      exec (.fenceCreate q) s = .next ((s.updFence i fun _ =>
        { st := .live, owner := c, share := bit (field b 18 1) 0, value := v, nring := field b 20 2, wb := BitVec.ofNat 64 (field b 32 8) }).complete q.val .ok (BitVec.ofNat 256 i))) ∧
    (s.begins q.val 0x51 [(16, 2), (18, 2)] b → f.st = .live → f.share = true →
      (f.owner = field b 18 2 → f.owner ≠ c → c ∉ f.attached → exec (.fenceAttach q) s =
        .next ((s.updFence n fun f => { f with attached := insNat c f.attached }).complete q.val .ok)) ∧
      (f.owner = c ∨ c ∈ f.attached → exec (.fenceAttach q) s = .next (s.complete q.val .state))) ∧
    (s.begins q.val 0x52 [(16, 2)] b → f.st ≠ .free →
      (c ∈ f.attached → f.ownerGone = false → exec (.fenceDetach q) s = .next (((s.updFence n fun f =>
        { f with attached := f.attached.filter (· != c) }).freeFence n).complete q.val .ok)) ∧
      (c ∉ f.attached → f.owner = c → exec (.fenceDetach q) s = .next ((((if f.attached = [] then s else s.poison n).updFence n
        fun f => { f with ownerGone := true }).freeFence n).complete q.val .ok))) ∧
    (s.begins q.val 0x53 [(16, 2), (24, 8)] b → f.owner = c →
      (f.st = .live → f.nring = 0xFFFF → f.wb = 0 → 0 < (v - f.value).toNat → (v - f.value).toNat < 2 ^ 63 →
        exec (.fenceSignal q) s = .next (((s.updFence n fun f => { f with value := v }).complete q.val .ok
          (BitVec.ofNat 256 v.toNat)).afterSignal n)) ∧
      (f.st = .live → 2 ^ 63 ≤ (v - f.value).toNat → exec (.fenceSignal q) s = .next (((s.updCtx c fun x =>
        { x with lowsig := satAdd x.lowsig 1 }).complete q.val .ok (BitVec.ofNat 256 f.value.toNat)).afterSignal n)) ∧
      (f.st = .poisoned → exec (.fenceSignal q) s = .next (s.complete q.val .fence))) ∧
    (s.begins q.val 0x54 [(16, 2), (24, 8)] b → (f.owner = c ∨ c ∈ f.attached) → (s.queue q.val).started = false →
      (f.st = .live → (f.value - v).toNat < 2 ^ 63 → exec (.fenceWait q) s = .next (s.complete q.val .ok)) ∧
      (f.st = .live → 2 ^ 63 ≤ (f.value - v).toNat →
        exec (.fenceWait q) s = .next (s.updQueue q.val fun x => { x with started := true })) ∧
      (f.st = .poisoned → exec (.fenceWait q) s = .next (s.complete q.val .fence)))

/-- Tenancy, marks, attestation and the adaptive throttle's setting (08 R295, R296; 13 R448 to R454; 14 R472, R473). A
tenancy starts only with the tier F root in force, and ends once no context but 0 is open; at its end every byte that
a tenant could have written is cleared or made unreadable. EPOCH_MARK sets the mark of later records. A quote goes to
the host, but not in TEST or RETURNED or without an identity key. THROTTLE_SET sets θ, BALANCE and PIN; it does not
raise θ while a loop is admitted. HIF_CTL.ENABLE makes queue 0, event ring 0 and context 0. Where a clause rests on a
choice of the model: log entries 4 and 40. -/
def Obligations.AdminCommands : Prop :=
  ∀ (q : Fin 4096) (s : State) (b : List Byte),
    (s.begins q.val 0x07 [(16, 32)] b →
      (s.sec.tenancy = 0 → s.sec.clean = true → BitVec.ofNat 256 (field b 16 32) = s.sec.fRoot → exec (.tenantStart q) s =
        .next (({ s with sec := { s.sec with tenancy := 1, clean := false } } : State).complete q.val .ok)) ∧
      (s.sec.tenancy ≠ 1 → BitVec.ofNat 256 (field b 16 32) ≠ s.sec.fRoot →
        exec (.tenantStart q) s = .next (s.complete q.val .denied)) ∧
      (s.sec.tenancy = 1 → exec (.tenantStart q) s = .next (s.complete q.val .state))) ∧
    (s.begins q.val 0x08 [] b → s.sec.tenancy = 0 → exec (.tenantEnd q) s = .next (s.complete q.val .state)) ∧
    (s.begins q.val 0x08 [] b → s.sec.tenancy ≠ 0 →
      ((∀ e ∈ s.ctxs, e.1 = 0 ∨ e.2.st = .closed) → ∃ u : State, exec (.tenantEnd q) s = .next (u.complete q.val .ok) ∧
        u.sec.tenancy = 0 ∧ u.sec.clean = true ∧ u.comps = [] ∧ u.arenas = [] ∧ u.fences = [] ∧ u.mark = 0 ∧
        (∀ k, (u.core k).scratch = [] ∧ (u.core k).accs = [] ∧ (u.core k).prog = []) ∧
        ((s.die 0).memsec.sealedNext = false → u.tierH = [] ∧ u.tierM = [])) ∧
      (∀ e ∈ s.ctxs, e.1 ≠ 0 → e.2.st ≠ .closed → exec (.tenantEnd q) s = .next (s.complete q.val .state))) ∧
    (s.begins q.val 0x0A [(16, 8)] b → ∃ u : State, exec (.epochMark q) s = .next (u.complete q.val .ok) ∧
      u.mark = BitVec.ofNat 64 (field b 16 8) ∧ u.comps = s.comps ∧ u.queues = s.queues) ∧
    (s.begins q.val 0x0B [(16, 32), (48, 8), (56, 4)] b → field b 48 8 % 64 = 0 → field b 56 4 % 64 = 0 → 1024 ≤ field b 56 4 →
      (s.sec.lcForce ≠ 0 → s.sec.lcForce ≠ 3 → s.sec.idHeld = true → ∃ (sig : Nat) (u : State), exec (.attest q) s =
        .next (u.sendOut q.val (field b 48 8) (s.quoteBody (slice b 16 32) ++ leBytes 384 sig) .ok (BitVec.ofNat 256 1024)) ∧
          u = { s with free := u.free }) ∧
      (s.sec.lcForce = 0 ∨ s.sec.lcForce = 3 ∨ s.sec.idHeld = false →
        exec (.attest q) s = .next (s.complete q.val .denied))) ∧
    (s.begins q.val 0x09 [(16, 1), (17, 1), (18, 1)] b → field b 16 1 ≤ 32 → (field b 17 1 ≤ 1 ∨ field b 17 1 = 0xFF) →
      (field b 18 1 ≤ 1 ∨ field b 18 1 = 0xFF) →
      (s.pwr.theta.toNat < field b 16 1 → s.anyLoop = true → exec (.throttleSet q) s = .next (s.complete q.val .state)) ∧
      (field b 16 1 ≤ s.pwr.theta.toNat ∨ s.anyLoop = false → ∃ u : State,
        exec (.throttleSet q) s = .next (u.complete q.val .ok) ∧ u.pwr.theta = BitVec.ofNat 6 (field b 16 1) ∧
        (field b 17 1 ≤ 1 → u.pwr.shift = (field b 17 1 == 1)) ∧ (field b 17 1 = 0xFF → u.pwr.shift = s.pwr.shift) ∧
        (field b 18 1 ≤ 1 → u.pwr.pinned = (field b 18 1 == 1)) ∧ (field b 18 1 = 0xFF → u.pwr.pinned = s.pwr.pinned))) ∧
    (s.inRun = true → s.sec.terminal = false → s.hif.enable = false → s.hif.ready = true →
      4 ≤ s.hif.qlog2n.toNat → s.hif.qlog2n.toNat ≤ 16 → 6 ≤ s.hif.elog2n.toNat → s.hif.elog2n.toNat ≤ 16 →
      ∃ t, exec (.enable true) s = .next t ∧ t.hif = { s.hif with enable := true } ∧ (t.ctx 0).st = .opened ∧
        (t.queue 0).st = .live ∧ (t.queue 0).log2n = s.hif.qlog2n.toNat ∧ (t.queue 0).evring = 0 ∧
        (t.ring 0).live = true ∧ (t.ring 0).log2n = s.hif.elog2n.toNat ∧ (t.ring 0).vector = s.hif.vector.toNat)

/-- What a fault does to its context (09 R301, R304, R307). The faults that have reached the X0 agents go to the fault
log. The first of an OPEN or ACTIVE context other than 0 makes it LOST: `CTX_FLT` names the unit, code and status of
one of the context's faults that arrived within the window after the earliest, such that no other of them has a lower
unit, or the same unit and a lower die, or the same unit and die and a lower PLOC. The count of a context that is
already LOST goes up, and nothing else of it changes. No other context changes. Where a clause rests on a choice of
the model: log entry 28. -/
def Obligations.FaultRecording : Prop :=
  ∀ (ctx : Fin 1024) (w : Nat) (s : State),
    let c := ctx.val
    let mine := s.faultQ.filter fun m => m.ctx == c
    let rest := s.faultQ.filter fun m => m.ctx != c
    (mine = [] → exec (.faultRecording ctx w) s = .next s) ∧
    (mine ≠ [] → (s.ctx c).st = .lost → exec (.faultRecording ctx w) s =
      .next (({ s with faultQ := rest, faultLog := s.faultLog ++ mine } : State).updCtx c fun x =>
        { x with fCount := satAdd x.fCount mine.length })) ∧
    (mine ≠ [] → s.alive c = true → c ≠ 0 → ∃ t, exec (.faultRecording ctx w) s = .next t ∧
      (t.ctx c).st = .lost ∧ (t.ctx c).fValid = true ∧ (t.ctx c).fCount = satAdd (s.ctx c).fCount mine.length ∧
      (∀ i, i ≠ c → t.ctx i = s.ctx i) ∧
      ∃ m ∈ mine, (∀ x ∈ mine, m.stamp ≤ x.stamp + w) ∧
        (t.ctx c).fUnit = BitVec.ofNat 8 m.unit ∧ (t.ctx c).fCode = BitVec.ofNat 8 m.code ∧
        (t.ctx c).fStatus = BitVec.ofNat 8 m.status.code ∧
        ∀ x ∈ mine, (∀ y ∈ mine, x.stamp ≤ y.stamp + w) → m.unit < x.unit ∨ m.unit = x.unit ∧
          (m.die < x.die ∨ m.die = x.die ∧ m.ploc ≤ x.ploc))

/-- Revocation (15 R491 to R493, Table 3; Table 4 cause 4). For a LOST context REVOKE_LANE leaves no slot-table entry
of the lane valid on the die, no queued elastic flit or flight of it, and disables the lane; other dies, and the die's
other lanes, stay as they were. REVOKE_TAG takes the context's tag from every region of the die's stops. For a context
that is not LOST, or does not hold the lane, neither does anything. ACK removes one awaited answer. The revocation
completes, and REVOKED is set, when no answer is awaited and no region epoch has still to advance. A teardown that is
not over at its deadline resets the module with cause 4. Where a clause rests on a choice of the model: log entry 2.
-/
def Obligations.Revocation : Prop :=
  ∀ (s : State) (ctx : Fin 1024) (die lane : Fin 8) (seq : Nat),
    let c := ctx.val
    let d := die.val
    let l := lane.val
    (s.laneCtx d l = some c → (s.ctx c).st = .lost → ∃ t, exec (.revokeLane die lane ctx) s = .next t ∧
      (∀ r, let x := Tab.look {} (t.die d).routers r
        ∀ e ∈ x.active ++ x.shadow ++ x.mirror ++ x.mirrorShadow, slOwner e.2 ≠ l) ∧
      (∀ e ∈ (t.die d).elastic, e.1 % 16 ≠ l) ∧ (∀ f ∈ (t.die d).flights, f.owner ≠ l) ∧
      (t.lane d l).enable = false ∧ (t.lane d l).st = .idle ∧
      (∀ l', l' ≠ l → t.lane d l' = s.lane d l') ∧ (∀ d', d' ≠ d → t.die d' = s.die d')) ∧
    (s.laneCtx d l ≠ some c ∨ (s.ctx c).st ≠ .lost → exec (.revokeLane die lane ctx) s = .next s) ∧
    ((s.ctx c).st = .lost → ∃ t, exec (.revokeTag die ctx) s = .next t ∧
      (∀ i r, let x := Tab.look {} (Tab.look {} (t.die d).hstops i).regions r
        ¬ (x.tagged = true ∧ x.tag = c)) ∧
      (∀ i r, let x := Tab.look {} (Tab.look {} (t.die d).mstops i).regions r
        ¬ (x.tagged = true ∧ x.tag = c))) ∧
    ((s.ctx c).st ≠ .lost → exec (.revokeTag die ctx) s = .next s) ∧
    (exec (.ack die seq) s =
      .next { s with revs := s.revs.map fun r => { r with acks := r.acks.filter fun a => a != (d, seq) } }) ∧
    (∀ r, s.revs.find? (fun r => r.ctx == c) = some r →
      (r.acks = [] → s.advancing c = false → ∃ t, exec (.revocationComplete ctx) s = .next t ∧
        (t.ctx c).revoked = true ∧ t.revs = s.revs.filter fun r => r.ctx != c) ∧
      (r.acks ≠ [] ∨ s.advancing c = true → exec (.revocationComplete ctx) s = .next s)) ∧
    ((∀ r ∈ s.revs, r.ctx ≠ c) → exec (.revocationComplete ctx) s = .next s ∧ exec (.teardownTimeout ctx) s = .next s) ∧
    ((∃ r ∈ s.revs, r.ctx = c) → exec (.teardownTimeout ctx) s = .next (s.resetEntry 4))

/-- Misaligned accesses (00 R9), through every path that carries configuration accesses: a write changes nothing, and
a read changes nothing but gives all ones as its answer. -/
def Obligations.MisalignedAccesses : Prop :=
  ∀ (s : State) (a : CfgAddr), s.inRun = true → (a.aligned = false ∨ a.off % 8 ≠ 0) →
    (∀ (src : CfgSrc) (tag : Nat), (∀ p, src = .mgmt p → (s.port p.val).mgmtin = true) →
      exec (.cfgRd src tag a) s = .next (s.emit (.cfgData tag 0xFFFF_FFFF_FFFF_FFFF)) ∧
      ∀ v, exec (.cfgWr src a v) s = .next s) ∧
    (∀ v, exec (.registerWrite a v) s = .next s) ∧
    (∀ hw, exec (.rcRead a hw) s = .next (s.emit (.regData 0xFFFF_FFFF_FFFF_FFFF))) ∧
    exec (.aliasedRead a) s = .next (s.emit (.regData 0xFFFF_FFFF_FFFF_FFFF))

/-- Configuration accesses (00 R12; 03 R111; 11 R405; 18 R542 to R545, R548). A served register gives its value, and a
write is that register's. An RC counter holds after its read what hardware added in that cycle. An unmapped address
reads 0 and is counted. An aliased read gives the OR of the selected registers and changes nothing but SAME and NSEL;
an aliased write goes to each. A peer's record needs MGMTIN, and in reset entry nothing is carried out or answered. A
write of `CORE_CTL` while the core runs sets WIGN and does nothing else. Where a clause rests on a choice of the
model: log entry 19. -/
def Obligations.ConfigAccesses : Prop :=
  ∀ (s : State) (src : CfgSrc) (tag : Nat) (a : CfgAddr) (v : Word64),
    (s.inRun = false → exec (.cfgRd src tag a) s = .next s ∧ exec (.cfgWr src a v) s = .next s ∧
      exec (.registerWrite a v) s = .next s ∧ exec (.rcRead a v) s = .next s ∧ exec (.aliasedRead a) s = .next s) ∧
    (s.inRun = true → ∀ p, src = .mgmt p → (s.port p.val).mgmtin = false →
      ∀ i ∈ [Instr.cfgRd src tag a, .cfgWr src a v],
        exec i s = .next (s.updPort p.val fun x => { x with mismatch := satAdd x.mismatch 1 })) ∧
    (s.inRun = true → s.hif.ready = true → s.sec.terminal = false → a.aligned = true → a.off % 8 = 0 →
      (∀ p, src = .mgmt p → (s.port p.val).mgmtin = true) →
      (∀ r, s.resolve a.off = .one r →
        exec (.cfgRd src tag a) s = .next ((s.rcRead r 0).emit (.cfgData tag (BitVec.ofNat 64 (s.regVal r)))) ∧
        exec (.rcRead a v) s = .next ((s.rcRead r v.toNat).emit (.regData (BitVec.ofNat 64 (s.regVal r)))) ∧
        exec (.cfgWr src a v) s = .next (s.regWrite src r v.toNat) ∧
        exec (.registerWrite a v) s = .next (s.regWrite (.host false) r v.toNat)) ∧
      (∀ k, s.resolve a.off = .one (.core k 0x20) → exec (.rcRead a v) s =
        .next ((s.setCore k { s.core k with corr := BitVec.ofNat 32 (v.toNat % 2 ^ 32) }).emit
          (.regData (BitVec.ofNat 64 (s.regVal (.core k 0x20)))))) ∧
      (s.resolve a.off = .unmapped →
        let u : State := { s with cfg := { s.cfg with unmapped := satAdd s.cfg.unmapped 1 } }
        exec (.cfgRd src tag a) s = .next (u.emit (.cfgData tag 0)) ∧ exec (.cfgWr src a v) s = .next u) ∧
      (∀ l, s.resolve a.off = .many l → (∃ n : Nat,
          exec (.aliasedRead a) s = .next ((({ s with cfg := { s.cfg with
            same := decide (∀ r ∈ l, ∀ r' ∈ l, s.regVal r = s.regVal r'), nsel := BitVec.ofNat 16 l.length } } : State)).emit
            (.regData (BitVec.ofNat 64 n))) ∧ ∀ i, n.testBit i = l.any fun r => (s.regVal r).testBit i) ∧
        exec (.registerWrite a v) s = .next (l.foldl (fun (s : State) r => s.regWrite (.host false) r v.toNat) s))) ∧
    (s.inRun = true → s.hif.ready = true → s.sec.terminal = false → ∀ c : CoreId, (s.die c.die.val).working = true →
      ((s.core c.key).st = .run →
        exec (.coreCtlWrite c v) s = .next (s.setCore c.key { s.core c.key with wign := true })) ∧
      ((s.core c.key).st ≠ .run → ∃ t, exec (.coreCtlWrite c v) s = .next t ∧
        (t.core c.key).enable = v.toNat.testBit 0 ∧ (t.core c.key).fence = v.toNat.testBit 1 ∧
        (t.core c.key).entry = BitVec.ofNat 12 (v.toNat / 16 % 4096) ∧ (t.core c.key).scratch = (s.core c.key).scratch))

/-- The sideband bus (16 R524, R525). In RUN a write or a read leaves an answer for CFG_DATA: FORMAT for an offset
that is not a multiple of 8 or lies at or above 0x4000_0000; DENIED, counted, for a write outside the security block;
STATE and all ones for a read outside the early blocks before READY; else the access is carried out. CFG_DATA gives
the answer. A wrong PEC is counted and does nothing else, a transaction that meets reset entry is abandoned and
counted, and outside RUN the target does not answer. Where a clause rests on a choice of the model: log entry 45. -/
def Obligations.Sideband : Prop :=
  ∀ (s : State) (off : BitVec 32) (v : Word64),
    let o := off.toNat
    let bad : Prop := o % 8 ≠ 0 ∨ 0x40000000 ≤ o
    let ans (u : State) (st : Status) (w : Nat) : State :=
      { u with sb := { u.sb with ansStatus := BitVec.ofNat 8 st.code, ansValue := BitVec.ofNat 64 w } }
    (s.rst.phase = .run →
      (bad → exec (.smbCfgWr off v true) s = .next (ans s .format 0) ∧ exec (.smbCfgAddr off true) s = .next (ans s .format 0)) ∧
      (¬ bad → ¬ (0x20080000 ≤ o ∧ o < 0x20090000) → exec (.smbCfgWr off v true) s =
        .next (ans { s with sb := { s.sb with refused := satAdd s.sb.refused 1 } } .denied 0)) ∧
      (¬ bad → 0x20080000 ≤ o → o < 0x20090000 → exec (.smbCfgWr off v true) s =
        .next (ans (s.cfgWrite .sideband ⟨o, true⟩ v.toNat) .ok 0)) ∧
      (¬ bad → s.hif.ready = false → o ≠ 0x20000040 → ¬ (0x20080000 ≤ o ∧ o < 0x200C0000) →
        exec (.smbCfgAddr off true) s = .next (ans s .state (2 ^ 64 - 1))) ∧
      (¬ bad → s.hif.ready = true → s.sec.terminal = false → ∀ r, s.resolve o = .one r →
        exec (.smbCfgAddr off true) s = .next (ans (s.rcRead r 0) .ok (s.regVal r))) ∧
      exec (.smbCfgData true) s = .next (s.emit (.smbData s.sb.ansStatus s.sb.ansValue))) ∧
    (∀ i ∈ [Instr.smbCfgWr off v false, .smbCfgAddr off false, .smbCfgData false], s.rst.phase = .run →
      exec i s = .next { s with sb := { s.sb with pecerr := satAdd s.sb.pecerr 1 } }) ∧
    (∀ pec, ∀ i ∈ [Instr.smbCfgWr off v pec, .smbCfgAddr off pec, .smbCfgData pec],
      (s.rst.phase = .entry → exec i s = .next { s with sb := { s.sb with abandoned := satAdd s.sb.abandoned 1 } }) ∧
      (s.rst.phase ≠ .run → s.rst.phase ≠ .entry → exec i s = .next s))

/-- Creating, rebinding and destroying a composition (10 R327 to R333, R336 to R343, Table 5). COMP_CREATE binds the
lowest free index under the dies, lane and cores its checks find, with generation 1, READY at once in one module, and
completes with the index and generation; the first failed check gives the status. COMP_REBIND is accepted only for a
READY composition, takes the binding its checks find and waits for its second swap. COMP_DESTROY frees the index,
unless the composition loops, rebinds or has attached sessions. The old resources become free when their conditions
hold. Where a clause rests on a choice of the model: log entries 30 and 31. -/
def Obligations.Compositions : Prop :=
  ∀ (q : Fin 4096) (k : Fin 256) (img : Image) (s : State) (b : List Byte),
    let c := (s.queue q.val).ctx
    (s.begins q.val 0x40 [(16, 8), (24, 4), (32, 8), (40, 8)] b → field b 16 8 % 64 = 0 → field b 32 8 % 64 = 0 →
      let len := field b 24 4
      s.hasData q.val (len + field b 40 8) →
      let data := (s.queue q.val).buf.take (len + field b 40 8)
      let shape := data.take len
      let img' := { img with digest := sha256 (data.drop len) }
      (img'.variant (shVariant shape) = none → exec (.compCreate q img) s = .next (s.complete q.val .format)) ∧
      (∀ v, img'.variant (shVariant shape) = some v → shapeOk shape len = true → s.shapeFits c shape img' = true →
        (s.sb.role = true → exec (.compCreate q img) s = .next (s.complete q.val .state)) ∧
        (s.sb.role = false → c ≠ 0 → s.freeIndex = none → exec (.compCreate q img) s = .next (s.complete q.val .limit)) ∧
        (s.sb.role = false → c ≠ 0 → ∀ i, s.freeIndex = some i →
          (∀ e, s.bindChecks i none [] [] (compOf c shape img' v.idx) shape v true = .error e →
            exec (.compCreate q img) s = .next (s.complete q.val e)) ∧
          (∀ map l bind, s.bindChecks i none [] [] (compOf c shape img' v.idx) shape v true = .ok (map, l, bind) →
            ∃ u : State, exec (.compCreate q img) s = .next (u.complete q.val .ok (BitVec.ofNat 256 (i + 2 ^ 32))) ∧
              (shNmod shape = 1 → (u.comp i).st = .ready ∧ (u.comp i).gen = 1 ∧ (u.comp i).ctx = c ∧ (u.comp i).lane = l ∧
                (u.comp i).diemap = map ∧ (u.comp i).clusters = bind ∧ (u.comp i).shape = shape))))) ∧
    (s.begins q.val 0x41 [(16, 8), (24, 4)] b → field b 16 8 % 64 = 0 → (s.queue q.val).started = false → s.hasData q.val (field b 24 4) →
      let i := field b 12 2
      let m := s.comp i
      let shape := (s.queue q.val).buf.take (field b 24 4)
      ∀ v, m.img.variant (shVariant shape) = some v → shapeOk shape (field b 24 4) = true → s.shapeFits c shape m.img = true →
        shapeKeeps m.shape shape = true →
        (m.st ≠ .ready → exec (.compRebind q) s = .next (s.complete q.val .state)) ∧
        (m.st = .ready → (m.loop ≠ none ∨ s.recRoom i (bindingSize m.shape shape) = true) →
          (∀ e, s.bindChecks i (some m.lane) m.cores m.boundClusters m shape v false = .error e →
            exec (.compRebind q) s = .next (s.complete q.val e)) ∧
          (∀ l bind, s.bindChecks i (some m.lane) m.cores m.boundClusters m shape v false = .ok (m.diemap, l, bind) →
            let kind := rebindKind m.shape shape m.clusters bind
            let plan := planFrames (carryOf kind v m.clusters bind)
            (m.loop ≠ none → m.movef < plan → exec (.compRebind q) s = .next (s.complete q.val .bound)) ∧
            (m.loop = none ∨ plan ≤ m.movef →
              exec (.compRebind q) s = .next (s.rebind q.val i shape v bind kind plan))))) ∧
    (s.begins q.val 0x42 [] b →
      let i := field b 12 2
      let m := s.comp i
      (m.loop = none → m.st ≠ .rebind → m.attached = [] → ∃ u : State,
        exec (.compDestroy q) s = .next (u.complete q.val .ok) ∧ u.comp i = {} ∧ ∀ j, j ≠ i → u.comp j = s.comp j) ∧
      (m.loop ≠ none ∨ m.st = .rebind ∨ m.attached ≠ [] → exec (.compDestroy q) s = .next (s.complete q.val .state))) ∧
    (let m := s.comp k.val;
      (m.draining = true → s.oldWork k.val = false → s.heldDrained m = true → (m.nmod = 1 ∨ m.genBarrier = true) →
        ∃ t, exec (.drainRelease k) s = .next t ∧ (t.comp k.val).draining = false ∧ (t.comp k.val).heldCores = [] ∧
          (t.comp k.val).heldClusters = []) ∧
      (m.draining = false ∨ s.oldWork k.val = true ∨ s.heldDrained m = false ∨ (m.nmod ≠ 1 ∧ m.genBarrier = false) →
        exec (.drainRelease k) s = .next s))

/-- Joining and the balance of power (10 R344, R345, R349, R351). A JOIN waits for its composition; a member passes it
to its parent; the root counts a new member with the digest of its own shape, sends READY once all have joined, and
fails the join on another digest. READY makes a joining member READY with SHIFT as told; a stale generation is
counted. REFUSE and a deadline fail the join. BAL keeps a member's last 16 waits at a root in SHIFT, CAPS the caps to
apply. Where a clause rests on a choice of the model: log entries 2 and 32. -/
def Obligations.Joining : Prop :=
  ∀ (s : State) (cid : Word64) (vmod waited : Nat) (digest : Digest) (gen step : BitVec 32) (sh : Bool) (caps : List Nat) (k : Fin 256),
    (s.compByCid cid = none →
      exec (.join cid vmod digest) s = .next { s with joins := s.joins ++ [(cid, vmod, digest)] } ∧
      exec (.ready cid gen sh) s = .next s ∧ exec (.refuse cid vmod) s = .next s ∧
      exec (.bal cid vmod step waited) s = .next s ∧ exec (.caps cid step caps) s = .next s) ∧
    (∀ i, s.compByCid cid = some i →
      let m := s.comp i
      (m.st ≠ .joining → exec (.join cid vmod digest) s = .next s ∧ exec (.refuse cid vmod) s = .next s) ∧
      (m.st = .joining →
        (∀ v, m.parent = some v →
          exec (.join cid vmod digest) s = .next (s.sendGeneral (m.devOf v) (.join m.cid vmod digest))) ∧
        (m.parent = none → digest ≠ shapeDigest m.shape → exec (.join cid vmod digest) s = .next (s.joinFail i vmod)) ∧
        (m.parent = none → digest = shapeDigest m.shape → vmod < m.nmod → (∀ e ∈ m.joined, e.1 ≠ vmod) →
          let u := s.updComp i fun m => { m with joined := m.joined ++ [(vmod, digest)] }
          exec (.join cid vmod digest) s = .next (if m.joined.length + 1 = m.nmod
            then (u.sendKids i (.ready m.cid m.gen)).rootReady i else u)) ∧
        exec (.refuse cid vmod) s = .next (s.joinFail i vmod) ∧
        (m.gen = gen → m.vmod ≠ 0 → ∃ t, exec (.ready cid gen sh) s = .next t ∧ (t.comp i).st = .ready ∧
          (t.comp i).balShift = (sh && s.pwr.shift))) ∧
      (m.gen ≠ gen → exec (.ready cid gen sh) s = .next (s.updComp i fun m => { m with stales := satAdd m.stales 1 })) ∧
      (m.balShift = true → m.vmod = 0 → vmod < m.nmod → exec (.bal cid vmod step waited) s =
        .next (s.updComp i fun m => { m with waits := Tab.upd [] m.waits vmod fun l => (waited :: l).take 16,
                                             balDue := m.balDue || step.toNat % 16 == 0 })) ∧
      (m.balShift = true → exec (.caps cid step caps) s = .next (s.updComp i fun m => { m with newCaps := some caps })) ∧
      (m.balShift = false → exec (.bal cid vmod step waited) s = .next s ∧ exec (.caps cid step caps) s = .next s)) ∧
    (let m := s.comp k.val;
      (m.st = .joining → (∃ t, exec (.memberJoinDeadline k) s = .next t ∧ (t.comp k.val).st = .failed ∧
          (t.comp k.val).joinerr = true) ∧
        (m.vmod = 0 → m.joined.length ≠ m.nmod → ∃ t, exec (.joinDeadline k) s = .next t ∧ (t.comp k.val).st = .failed ∧
          (t.comp k.val).joinerr = true)) ∧
      (m.st ≠ .joining → exec (.memberJoinDeadline k) s = .next s ∧ exec (.joinDeadline k) s = .next s))

/-- Admission and steering of token loops (04 R130 to R138, R147 to R153; 08 R266, R279, R281; 10 R352; 12 R418; 14
R461; 17 R534). LOOP_START needs a READY composition without a loop, no pool role, no power warning, a live ring and a
valid LTAB, else STATE; then an event slot and ring room, else LIMIT; and B at most BREQ, else BOUND. It sets the
loop's record and every lane's source, F, B and θ, and completes with B, F and the event slots. LOOP_STOP asks the
loop to stop and waits. SAMPLE_SET sets the next parameters, DRAFT adds a draft record. STOP and DSRC act on a lane as
long as the loop allows. Where a clause rests on a choice of the model: log entry 20. -/
def Obligations.TokenLoops : Prop :=
  ∀ (q : Fin 4096) (die lane : Fin 8) (v : Fin 4) (s : State) (b : List Byte),
    let k := field b 12 2
    let m := s.comp k
    let c := (s.queue q.val).ctx
    let r := field b 22 2
    let bad : Prop := m.st ≠ .ready ∨ s.sb.role = true ∨ m.loop ≠ none ∨ s.pwr.warn = true ∨ (s.ring r).live = false ∨
      s.ltabOk k (field b 32 4) = false
    (s.begins q.val 0x48 [(16, 4), (20, 1), (21, 1), (22, 2), (24, 8), (32, 4)] b → 1 ≤ field b 16 4 → field b 16 4 ≤ 65535 → field b 20 1 ≤ 3 →
      field b 21 1 ≤ 1 → field b 24 8 % 64 = 0 → ((s.ring r).live = true → (s.ring r).ctx = c) →
      (field b 32 4 = 0 ∨ s.foreign c (field b 32 4) = false) → s.hasData q.val 64 →
      let params := (s.queue q.val).buf.take 64
      sparamsOk params = true →
      (bad → exec (.loopStart q) s = .next (s.complete q.val .state)) ∧
      (¬ bad → ((s.tongs (s.ring r).port).freeEvSlot c = none ∨ (s.recRing k).freeBytes < recReserve) → m.img.variant m.variant ≠ none →
        exec (.loopStart q) s = .next (s.complete q.val .limit)) ∧
      (¬ bad → ∀ slot vr, (s.tongs (s.ring r).port).freeEvSlot c = some slot → m.img.variant m.variant = some vr →
        recReserve ≤ (s.recRing k).freeBytes →
        let F := loopFrames vr (field b 20 1) m.movef
        let B := loopBound F s.pwr.theta.toNat
        let fail := (s.tongs (!(s.ring r).port)).freeEvSlot c
        (field b 16 4 < B → exec (.loopStart q) s = .next (s.complete q.val .bound)) ∧
        (B ≤ field b 16 4 → ∃ u : State,
          exec (.loopStart q) s = .next (u.complete q.val .ok (BitVec.ofNat 256 (B + 2 ^ 32 * F + 2 ^ 64 * slot + 2 ^ 72 * fail.getD 0xFF))) ∧
          (u.comp k).params = some params ∧ (∃ lp, (u.comp k).loop = some lp ∧ lp.tring = r ∧ lp.bound = B ∧ lp.evSlot = slot ∧
            lp.failover = fail ∧ lp.produced = 0 ∧ lp.ltab = field b 32 4 ∧ lp.breq = field b 16 4) ∧
          ∀ d ∈ m.dies, (u.lane d m.lane).st = .start ∧ (u.lane d m.lane).dsrc = BitVec.ofNat 2 (field b 20 1) ∧
            (u.lane d m.lane).f = BitVec.ofNat 32 F ∧ (u.lane d m.lane).bound = BitVec.ofNat 16 B ∧
            (u.lane d m.lane).theta = s.pwr.theta))) ∧
    (s.begins q.val 0x49 [] b → (s.queue q.val).started = false →
      (m.loop = none → exec (.loopStop q) s = .next (s.complete q.val .state)) ∧
      (∀ lp, m.loop = some lp → ∃ t, exec (.loopStop q) s = .next t ∧ (t.lane m.rootDie m.lane).stop = true ∧
        (t.comp k).loop = some { lp with stoppers := lp.stoppers ++ [q.val] } ∧ (t.queue q.val).started = true)) ∧
    (s.begins q.val 0x4A [(24, 8)] b → field b 24 8 % 64 = 0 → s.hasData q.val 64 →
      let params := (s.queue q.val).buf.take 64
      sparamsOk params = true →
      (m.st ≠ .ready → exec (.sampleSet q) s = .next (s.complete q.val .state)) ∧
      (m.st = .ready → (m.loop ≠ none → exec (.sampleSet q) s =
          .next ((s.updComp k fun m => { m with newParams := some (params, false) }).complete q.val .ok)) ∧
        (m.loop = none → s.recRoom k 128 = true → exec (.sampleSet q) s =
          .next (((s.append k 3 params).updComp k fun m => { m with newParams := some (params, true) }).complete q.val .ok)) ∧
        (m.loop = none → s.recRoom k 128 = false → exec (.sampleSet q) s = .next (s.complete q.val .limit)))) ∧
    (s.begins q.val 0x4B [(16, 8)] b → field b 16 8 % 64 = 0 →
      (m.st ≠ .ready ∨ m.vmod ≠ 0 → exec (.draft q) s = .next (s.complete q.val .state)) ∧
      (m.st = .ready → m.vmod = 0 → s.hasData q.val 768 → exec (.draft q) s = .next ((s.updComp k fun m =>
        { m with drafts := m.drafts ++ [{ bytes := (s.queue q.val).buf.take 768, host := true }] }).complete q.val .ok))) ∧
    (s.laneLoop die.val lane.val = none → exec (.stop die lane) s = .next s ∧
      exec (.dsrcWrite die lane v) s = .next (s.updLane die.val lane.val fun L => { L with dsrc := BitVec.ofNat 2 v.val })) ∧
    (∀ lp, s.laneLoop die.val lane.val = some lp →
      exec (.stop die lane) s = .next (s.updLane die.val lane.val fun L => { L with stop := true }) ∧
      ((lp.draftAdm[v.val + 1]?).getD 0 ≤ lp.draftAdm.headD 0 →
        exec (.dsrcWrite die lane v) s = .next (s.updLane die.val lane.val fun L => { L with dsrc := BitVec.ofNat 2 v.val })) ∧
      (lp.draftAdm.headD 0 < (lp.draftAdm[v.val + 1]?).getD 0 → exec (.dsrcWrite die lane v) s = .next s))

/-- User control programs (01 R31, R32). In its lane's quantum a running program may call: WAIT_EVENT (1) waits,
DRAFT_CALL (2) adds a record to the draft buffer where the record is in the program's memory, STOP_CALL (3) asks for a
stop, STATE_READ (4) gives Lc and the low half of the step count, EXIT (5) ends the program. Another number is a fault
of the program, which stops it. Outside its quantum, or not running, it calls nothing. The quantum moves on to the
next lane. Where a clause rests on a choice of the model: log entry 22. -/
def Obligations.UserPrograms : Prop :=
  ∀ (die lane : Fin 8) (call addr : Nat) (rcd : List Byte) (s : State),
    let d := die.val
    let l := lane.val
    let runs : Prop := (s.ucp d l).running = true ∧ (s.ucp d l).waiting = false ∧ (s.die d).quantum.toNat = l
    (¬ runs → ∀ i ∈ [Instr.waitEvent die lane call addr, .draftCall die lane call addr rcd, .stopCall die lane call,
      .stateRead die lane call, .exit die lane call], exec i s = .next s) ∧
    (runs → call = 0 ∨ 5 < call → ∀ i ∈ [Instr.waitEvent die lane call addr, .draftCall die lane call addr rcd, .stopCall die lane call,
      .stateRead die lane call, .exit die lane call], exec i s = .next (s.ucpFault d l)) ∧
    (runs → ∀ k, s.laneComp d l = some k →
      exec (.waitEvent die lane 1 addr) s = .next (s.updUcp d l fun u => { u with waiting := true }) ∧
      exec (.stopCall die lane 3) s = .next ((s.updLane d l fun L => { L with stop := true }).ucpReturn d l 0 0) ∧
      exec (.stateRead die lane 4) s = .next (s.ucpReturn d l (s.lane d l).lc ((s.lane d l).step.toNat % 2 ^ 32)) ∧
      exec (.exit die lane 5) s = .next (s.updUcp d l fun u => { u with running := false, ended := true }) ∧
      ((s.lane d l).dsrc ≠ 0 ∨ (s.comp k).vmod ≠ 0 → exec (.draftCall die lane 2 addr rcd) s =
        .next (if Config.ucpSpace d l addr 768 then s.ucpReturn d l Status.state.code 0 else s.ucpFault d l)) ∧
      ((s.lane d l).dsrc = 0 → (s.comp k).vmod = 0 → recForce rcd = false → exec (.draftCall die lane 2 addr rcd) s =
        .next (if Config.ucpSpace d l addr 768
          then (s.updComp k fun m => { m with drafts := m.drafts ++ [{ bytes := rcd, host := true }] }).ucpReturn d l 0 0
          else s.ucpFault d l))) ∧
    (∃ t, exec (.ucpQuantum die) s = .next t ∧ (t.die d).quantum = (s.die d).quantum + 1 ∧ ∀ e, e ≠ d → t.die e = s.die e)

/-- The replay recorder's commands (12 R414, R419 to R422, R428). RECORD_FETCH writes the longest run of whole
records, from the first whose STEP is at least FROM, that fits in LEN, and gives its length and the STEP of the first
record not written, or the ring's next STEP; records below FROM are released. CHECKPOINT appends the oldest checkpoint
due, with a zero signature if no identity key is held. After READY an orphaned ring that does not end with a CLOSE
gets one with REASON 3. RELEASE empties an orphaned ring; another ring keeps its records and sets WIGN. Where a clause
rests on a choice of the model: log entry 33. -/
def Obligations.Recorder : Prop :=
  ∀ (q : Fin 4096) (k : Fin 256) (s : State) (b : List Byte),
    (s.begins q.val 0x4C [(16, 8), (24, 8), (32, 4)] b → field b 24 8 % 64 = 0 → field b 32 4 % 64 = 0 → 4096 ≤ field b 32 4 →
      let i := field b 12 2
      let r := s.recRing i
      let n := field b 16 8
      ((s.comp i).st ≠ .ready ∨ r.nextStep < n → exec (.recordFetch q) s = .next (s.complete q.val .state)) ∧
      ((s.comp i).st = .ready → n ≤ r.nextStep → ∃ l₁ l₂ : List Rec, r.recs.dropWhile (fun x => decide (x.step.toNat < n)) = l₁ ++ l₂ ∧
        let w := l₁.flatMap (·.bytes)
        w.length ≤ field b 32 4 ∧ (∀ x ∈ l₂.head?, field b 32 4 < w.length + x.bytes.length) ∧
        exec (.recordFetch q) s = .next ((s.updRec i fun r => { r with recs := r.recs.filter fun x => decide (n ≤ x.step.toNat) }).sendOut q.val
          (field b 24 8) w .ok (BitVec.ofNat 256 (w.length + 2 ^ 64 * (match l₂.head? with
            | some x => x.step.toNat
            | none => r.nextStep)))))) ∧
    (let r := s.recRing k.val;
      (r.due = [] → exec (.checkpoint k) s = .next s) ∧
      (∀ seq chain rest, r.due = (seq, chain) :: rest → ∃ (sig : List Byte) (t : State) (step pos : Nat), exec (.checkpoint k) s = .next t ∧
        (s.sec.idHeld = false → sig = List.replicate 384 0) ∧
        ((s.comp k.val).st ≠ .free → step = (s.compLane k.val).step.toNat ∧ pos = (s.compLane k.val).lc) ∧
        t.recRing k.val = { r.append k.val 8 step pos (slice (leBytes 8 seq ++ leBytes 32 chain.toNat ++ leBytes 8 r.cid.toNat ++
          leBytes 3 s.route.devid.toNat ++ leBytes 1 1 ++ leBytes 4 s.sec.fwver.toNat) 0 64 ++ sig) with due := rest } ∧
        (∀ j, j ≠ k.val → t.recRing j = s.recRing j)) ∧
      (r.orphan = true → s.hif.ready = true → r.closed = false → r.recs ≠ [] → ∃ t, exec (.orphanClose k) s = .next t ∧
        (∃ x l, (t.recRing k.val).recs = r.recs ++ x :: l ∧ x.kind = 9 ∧ x.seq = r.nextSeq ∧ field x.bytes 64 1 = 3 ∧ (∀ y ∈ l, y.kind = 8)) ∧
        (t.recRing k.val).due = []) ∧
      (r.orphan = false ∨ s.hif.ready = false ∨ r.closed = true ∨ r.recs = [] → exec (.orphanClose k) s = .next s)) ∧
    (let i := s.recIndex.toNat;
      ((s.recRing i).orphan = true → exec .release s = .next (s.updRec i fun r => { wign := r.wign })) ∧
      ((s.recRing i).orphan = false → exec .release s = .next (s.updRec i fun r => { r with wign := true })))

/-- POOL_MAP (10 R333, R352, R354 to R356; 12 R418). With an ill-formed entry, or one outside its object, it completes
with FORMAT and nothing happens. In a compute module the composition must be READY without a loop and every handle
live, else STATE, and its record ring needs room, else LIMIT. The entries that their members accept then take effect
in order; the first that is refused ends it with POOL. A member carries out its own entries in order. Where a clause
rests on a choice of the model: log entry 34. -/
def Obligations.PoolMaps : Prop :=
  ∀ (q : Fin 4096) (ans : List (PoolReason × List Byte)) (s : State) (b : List Byte),
    let k := field b 12 2
    let n := field b 24 4
    let es := (List.range n).map fun i => poolEntry ((s.queue q.val).buf.take (64 * n)) i
    s.begins q.val 0x4D [(16, 8), (24, 4)] b → field b 16 8 % 64 = 0 → 1 ≤ n → n ≤ 256 → (s.queue q.val).started = false →
    s.hasData q.val (64 * n) →
    (s.sb.role = false ∨ k = 0xFFFF ∧ field b 8 4 = 0) →
      ((∃ e ∈ es, entryOk s.sb.role s.devId e = false ∨ s.entryRange k e = false) →
        exec (.poolMap q ans) s = .next (s.complete q.val .format)) ∧
      ((∀ e ∈ es, entryOk s.sb.role s.devId e = true ∧ s.entryRange k e = true) →
        (s.sb.role = true → exec (.poolMap q ans) s = .next (State.memberRun q.val es 0 s)) ∧
        (s.sb.role = false → k < 256 →
          ((s.comp k).st ≠ .ready ∨ (s.comp k).loop ≠ none ∨ (∃ e ∈ es, s.entryLive k e = false) →
            exec (.poolMap q ans) s = .next (s.complete q.val .state)) ∧
          ((s.comp k).st = .ready → (s.comp k).loop = none → (∀ e ∈ es, s.entryLive k e = true) →
            (s.recRoom k (128 * n) = false → exec (.poolMap q ans) s = .next (s.complete q.val .limit)) ∧
            (s.recRoom k (128 * n) = true →
              (ans.length = n → (∀ a ∈ ans, a.1 = 0) → exec (.poolMap q ans) s =
                .next (((es.zip ans).foldl (fun (u : State) e => u.entryDone k e.1 e.2.2) s).complete q.val .ok)) ∧
              (∀ i, ∀ e a, es[i]? = some e → ans[i]? = some a → a.1 ≠ 0 → (∀ a' ∈ ans.take i, a'.1 = 0) → exec (.poolMap q ans) s =
                .next (((es.take i).zip ans).foldl (fun (u : State) e => u.entryDone k e.1 e.2.2) s |>.poolFail q.val (some k) e i a.1))))))

/-- What a pool member does with an entry (10 R352, R353, R356, Table 10; 15 R506; 17 R536). CREATE makes a session
owned at epoch 1. ATTACH, for the owned epoch, gives the first LEN bytes; SYNC takes bytes and renews the lease,
DETACH takes them and ends it, both from the attacher only. DROP and HANDOFF need a session nobody is attached to;
HANDOFF sends the offer and the bytes. RESOLVE asks the other party. A wrong epoch or an older MGEN leaves the session
as it was, one that is gone is answered so, and a module that is no serving member does nothing. Where a clause rests
on a choice of the model: log entry 34. -/
def Obligations.PoolEntries : Prop :=
  ∀ (s : State) (att target peer len lease : Nat) (sid : Word64) (mgen epoch : BitVec 32) (bytes : List Byte),
    let x := s.session sid
    (s.member = false → ∀ i ∈ [Instr.create att sid mgen bytes, .attach att sid mgen epoch len lease, .sync att sid mgen epoch lease bytes,
      .detach att sid mgen epoch bytes, .drop sid mgen epoch, .handoff sid mgen epoch target, .resolve sid mgen peer], exec i s = .next s) ∧
    (s.member = true → s.goneSid sid = true → ∀ i ∈ [Instr.attach att sid mgen epoch len lease, .sync att sid mgen epoch lease bytes,
      .detach att sid mgen epoch bytes], exec i s = .next (s.sendGeneral att (.gone s.devId))) ∧
    (s.member = true → x.mgen.toNat ≤ mgen.toNat → (x.own = .none ∨ ∃ e, x.own = .dropped e) → s.poolSpace bytes.length = true →
      ∃ t, exec (.create att sid mgen bytes) s = .next t ∧ t.session sid = { mgen := mgen, own := .own 1, bytes := bytes } ∧
        sid.toNat ∉ t.pool.discarded) ∧
    (s.member = true → (x.own = .own epoch ∨ ∃ a, x.own = .prep epoch a) → exec (.create att sid mgen bytes) s = .next s) ∧
    (s.member = true → s.goneSid sid = false → (mgen.toNat < x.mgen.toNat ∨ x.own ≠ .own epoch) →
      ∀ i ∈ [Instr.attach att sid mgen epoch len lease, .sync att sid mgen epoch lease bytes, .detach att sid mgen epoch bytes,
        .drop sid mgen epoch, .handoff sid mgen epoch target], exec i s = .next s) ∧
    (s.member = true → s.goneSid sid = false → x.mgen.toNat ≤ mgen.toNat → x.own = .own epoch →
      ((x.attacher = none ∨ x.attacher = some att) → len ≤ x.bytes.length → exec (.attach att sid mgen epoch len lease) s =
        .next ((s.updSession sid fun x => { x with mgen := mgen, attacher := some att, leaseMs := lease }).sendPool att sid epoch (x.bytes.take len))) ∧
      (x.attacher = some att → s.poolSpace (bytes.length - x.bytes.length) = true →
        (∃ t, exec (.sync att sid mgen epoch lease bytes) s = .next t ∧
          t.session sid = { x with mgen := mgen, bytes := bytes ++ x.bytes.drop bytes.length, leaseMs := lease }) ∧
        (∃ t, exec (.detach att sid mgen epoch bytes) s = .next t ∧
          t.session sid = { x with mgen := mgen, bytes := bytes ++ x.bytes.drop bytes.length, attacher := none, leaseMs := 0 })) ∧
      (x.attacher ≠ some att → exec (.sync att sid mgen epoch lease bytes) s = .next s ∧ exec (.detach att sid mgen epoch bytes) s = .next s) ∧
      (x.attacher = none → x.target = none →
        exec (.drop sid mgen epoch) s = .next (s.updSession sid fun x => { x with mgen := mgen, own := .dropped epoch, bytes := [] }) ∧
        exec (.handoff sid mgen epoch target) s = .next (((s.updSession sid fun x =>
          { x with mgen := mgen, target := some target, commits := 0, resolving := false }).sendGeneral target
            (.offer sid (epoch + 1) mgen x.bytes.length)).sendPool target sid (epoch + 1) x.bytes)) ∧
      (x.attacher ≠ none ∨ x.target ≠ none →
        exec (.drop sid mgen epoch) s = .next s ∧ exec (.handoff sid mgen epoch target) s = .next s)) ∧
    (s.member = true → x.mgen.toNat ≤ mgen.toNat → ∀ e a, (x.own = .prep e a ∨ x.own = .given e a ∧ x.target ≠ none) →
      exec (.resolve sid mgen peer) s =
        .next ((s.updSession sid fun x => { x with mgen := mgen, resolving := true }).sendGeneral peer (.resolve sid e)))

/-- The hand-off of a session (10 R358, Tables 10 and 11). OFFER with space starts the reception, without space it is
turned away; the block that brings the last byte writes PREP and acknowledges it. PREP_ACK makes the offerer write
GIVEN and send COMMIT, COMMIT makes the receiver the owner, COMMIT_ACK ends it: the offerer's bytes are gone and the
HANDOFF goes on. ABORT discards a PREP or an offer, and an offerer that hears nothing gives up while it still owns;
COMMIT is sent four times, then RESOLVE. A module that is no serving member does nothing. Where a clause rests on a
choice of the model: log entries 2 and 35. -/
def Obligations.HandoffMessages : Prop :=
  ∀ (s : State) (src len : Nat) (sid : Word64) (epoch mgen : BitVec 32) (p : PoolData),
    let x := s.session sid
    (s.member = false → ∀ i ∈ [Instr.offer src sid epoch mgen len, .poolBlock src p, .prepAck src sid epoch, .commit src sid epoch,
      .commitAck src sid epoch, .abort src sid epoch, .prepAckTimeout sid, .commitResend sid], exec i s = .next s) ∧
    (s.member = true →
      (s.goneSid sid = true → exec (.offer src sid epoch mgen len) s = .next (s.sendGeneral src (.gone s.devId))) ∧
      (s.goneSid sid = false → (x.own = .none ∨ x.own ≠ .own x.epoch ∧ x.epoch.toNat < epoch.toNat) →
        (mgen.toNat < x.mgen.toNat → exec (.offer src sid epoch mgen len) s = .next (s.sendGeneral src (.abort sid epoch))) ∧
        (x.mgen.toNat ≤ mgen.toNat → len ≠ 0 → exec (.offer src sid epoch mgen len) s = .next (if s.poolSpace len
          then s.updSession sid fun x => { x with mgen := mgen, offered := some (src, epoch.toNat, len), bytes := [] }
          else s.sendGeneral src (.abort sid epoch)))) ∧
      (let y := s.session p.sid;
        ∀ n, s.goneSid p.sid = false → y.offered = some (src, p.epoch.toNat, n) →
          let old := slice y.bytes 0 p.off ++ p.data ++ y.bytes.drop (p.off + p.data.length)
          (p.off + p.data.length < n → exec (.poolBlock src p) s = .next (s.updSession p.sid fun x => { x with bytes := old })) ∧
          (p.off + p.data.length = n → ∃ t, exec (.poolBlock src p) s = .next t ∧ t.session p.sid =
            { y with bytes := old, own := .prep p.epoch src, offered := none, resolving := false })) ∧
      (x.target = some src → x.own = .own (epoch - 1) → exec (.prepAck src sid epoch) s =
        .next ((s.updSession sid fun x => { x with own := .given epoch src, commits := 1 }).sendGeneral src (.commit sid epoch))) ∧
      (x.target ≠ some src ∨ x.own ≠ .own (epoch - 1) → exec (.prepAck src sid epoch) s = .next s) ∧
      (x.own = .prep epoch src ∨ x.own = .own epoch → exec (.commit src sid epoch) s =
        .next ((s.updSession sid fun x => { x with own := .own epoch, resolving := false }).sendGeneral src (.commitAck sid epoch))) ∧
      (x.own ≠ .prep epoch src → x.own ≠ .own epoch → exec (.commit src sid epoch) s = .next s) ∧
      (x.target = some src → x.own = .given epoch src → ∃ u : State, exec (.commitAck src sid epoch) s = .next (u.settleJob sid 0) ∧
        u.session sid = { x with bytes := [], target := none, commits := 0, resolving := false } ∧
        u.pool.handoffs = satAdd s.pool.handoffs 1) ∧
      (x.own ≠ .given epoch src → exec (.commitAck src sid epoch) s = .next s) ∧
      (x.own = .prep epoch src → exec (.abort src sid epoch) s =
        .next (s.updSession sid fun x => { x with own := .none, bytes := [], resolving := false })) ∧
      (∀ n, x.own ≠ .prep epoch src → x.offered = some (src, epoch.toNat, n) → exec (.abort src sid epoch) s =
        .next (s.updSession sid fun x => { x with offered := none, bytes := [] })) ∧
      (∀ e d, x.own = .own e → x.target = some d → exec (.prepAckTimeout sid) s =
        .next (((s.updSession sid fun x => { x with target := none }).sendGeneral d (.abort sid (e + 1))).settleJob sid 8)) ∧
      (∀ e d, x.own = .given e d → x.target ≠ none → x.resolving = false → exec (.commitResend sid) s = .next (if x.commits < 4
        then (s.updSession sid fun x => { x with commits := x.commits + 1 }).sendGeneral d (.commit sid e)
        else (s.updSession sid fun x => { x with resolving := true }).sendGeneral d (.resolve sid e))))

/-- Disputes, leases and lost members (10 R357, R359 to R362). RESOLVE is answered with the acknowledged record; only
OWN and GIVEN are acknowledged. On the answer a PREP becomes OWN exactly if the deciding record gives this epoch to
this module, and is discarded otherwise; a GIVEN is settled by the OWN it gave. A PREP asks again at each timer, and
at the deadline the party writes LOST. A lease's end ends the attachment, at the member and at the attaching module. A
member that is gone or unreachable charges POOL_LOST to each composition with an entry attached there. Where a clause
rests on a choice of the model: log entry 35. -/
def Obligations.DisputesAndLeases : Prop :=
  ∀ (s : State) (src dev kind gdev : Nat) (sid : Word64) (epoch : BitVec 32),
    let x := s.session sid
    (s.member = true →
      (s.goneSid sid = true → exec (.resolveMessage src sid epoch) s = .next (s.sendGeneral src (.gone s.devId))) ∧
      (s.goneSid sid = false →
        (∀ e, x.own = .own e → exec (.resolveMessage src sid epoch) s = .next (s.sendGeneral src (.resolveAns sid 1 e 0))) ∧
        (∀ e d, x.own = .given e d → exec (.resolveMessage src sid epoch) s = .next (s.sendGeneral src (.resolveAns sid 2 e d))) ∧
        (∀ e d, x.own = .prep e d → exec (.resolveMessage src sid epoch) s = .next (s.sendGeneral src (.resolveAns sid 0 0 0)))) ∧
      (∀ e, kind ≠ 0 → x.own = .prep e src → ∃ u : State, exec (.resolveAns src sid kind epoch dev) s = .next (u.settleJob sid 0) ∧
        (kind = 2 ∧ epoch = e ∧ dev = s.devId → u.session sid = { x with own := .own e, resolving := false }) ∧
        (¬ (kind = 2 ∧ epoch = e ∧ dev = s.devId) → u.session sid = { x with own := .none, bytes := [], resolving := false }) ∧
        u.pool.resolves = satAdd s.pool.resolves 1) ∧
      (∀ e, x.own = .given e src → x.target = some src → ∃ u : State,
        (kind = 1 → epoch = e → exec (.resolveAns src sid kind epoch dev) s = .next (u.settleJob sid 0) ∧ (u.session sid).own = .given e src ∧
          (u.session sid).bytes = [] ∧ (u.session sid).target = none) ∧
        (kind ≠ 1 ∨ epoch ≠ e → exec (.resolveAns src sid kind epoch dev) s = .next s)) ∧
      (∀ e d, x.own = .prep e d → exec (.resolveTimer sid) s =
        .next ((s.updSession sid fun x => { x with resolving := true }).sendGeneral d (.resolve sid e))) ∧
      (∀ e d, x.own = .given e d → x.resolving = true → x.target ≠ none → exec (.resolveTimer sid) s = .next (s.sendGeneral d (.resolve sid e))) ∧
      (∀ e d, (x.own = .prep e d ∨ x.own = .given e d ∧ x.target ≠ none) → x.resolving = true → ∃ u : State,
        exec (.resolveDeadline sid) s = .next (u.settleJob sid 9) ∧ u.pool.losts = satAdd s.pool.losts 1 ∧
        u.session sid = { x with own := .lost e, bytes := [], target := none, resolving := false }) ∧
      exec (.leaseEnd sid) s = .next (s.updSession sid fun x => { x with attacher := none, leaseMs := 0 })) ∧
    (s.member = false → ∀ i ∈ [Instr.resolveMessage src sid epoch, .resolveAns src sid kind epoch dev, .resolveTimer sid, .resolveDeadline sid,
      .leaseEnd sid], exec i s = .next s) ∧
    (∃ t, exec (.attachingModuleLeaseEnd sid) s = .next t ∧ ∀ k, ∀ a ∈ (t.comp k).attached, a.1 ≠ sid) ∧
    (∀ i ∈ [Instr.gone gdev, .memberUnreachable gdev], exec i s = .next (((s.comps.filter fun e => e.2.st != .free &&
      e.2.attached.any fun a => a.2.1 == gdev).map Prod.fst).foldl (fun (u : State) k => u.poolFault k 1 gdev 0) s))

/-- Training of a link port (11 R366, R368 to R371, R384, R392, R400 to R403). A training port with two of lanes 0 to
3 failed, or one failed and the spare too, goes DOWN with reason 2; with a peer that the rules of HELLO exclude, 3;
without a good key check or a fleet secret, 4; with a flight time above 30 ns, 5; else it comes UP, with the failed
lane excluded and both directions at epoch 1 and frame counter 0. It goes DOWN with reason 1 at the deadline. Enabling
starts training, a disabled port is DOWN with reason 10, and RETRAIN tells the peer first. Where a clause rests on a
choice of the model: log entry 36. -/
def Obligations.LinkTraining : Prop :=
  ∀ (port : Fin 16) (t : LinkTrain) (s : State) (dev peerPort role token hold flight : Nat) (nonce : Digest),
    let i := port.val
    let p := s.port i
    let down (j : Instr) (r : Nat) : Prop := ∃ u, exec j s = .next u ∧ (u.port i).st = .down ∧ (u.port i).downrsn = BitVec.ofNat 4 r ∧
      (u.port i).egress = [] ∧ (u.port i).blocks = [] ∧ (u.port i).general = []
    let failed := (List.range 4).filter fun n => !t.pass.toNat.testBit n
    let bad : Prop := 2 ≤ failed.length ∨ failed ≠ [] ∧ t.pass.toNat.testBit 4 = false
    let ok (d r : Nat) : Prop := d ≠ s.route.devid.toNat ∧ (r = 2 → i = 0 ∨ i = 8) ∧ (r ≠ 2 → d ≠ 0x3FFFF)
    (p.st ≠ .training ∨ s.inRun = false → exec (.linkTraining port t) s = .next s) ∧
    (p.st = .training → s.inRun = true →
      (bad → down (.linkTraining port t) 2) ∧
      (¬ bad →
        (¬ ok t.peerId t.peerRole → down (.linkTraining port t) 3) ∧
        (ok t.peerId t.peerRole →
          (t.keyOk = false ∨ s.sec.fs = none → down (.linkTraining port t) 4) ∧
          (t.keyOk = true → s.sec.fs ≠ none → 30 < t.flight → down (.linkTraining port t) 5) ∧
          (t.keyOk = true → s.sec.fs ≠ none → t.flight ≤ 30 → ∃ u, exec (.linkTraining port t) s = .next u ∧
            (u.port i).st = .up ∧ (u.port i).excl = BitVec.ofNat 3 (failed.headD 7) ∧ (u.port i).spare = decide (failed ≠ []) ∧
            (u.port i).txEpoch = 1 ∧ (u.port i).rxEpoch = 1 ∧ (u.port i).txfc = 0 ∧ (u.port i).rxfc = 0 ∧
            (u.port i).peerId = BitVec.ofNat 18 t.peerId)))) ∧
    (p.st = .training → down (.linkTrainingTimeout port) 1) ∧
    (p.st ≠ .training → exec (.linkTrainingTimeout port) s = .next s ∧ exec (.hello port dev peerPort role nonce) s = .next s ∧
      exec (.echoAns port token hold flight) s = .next s) ∧
    (s.inRun = true → p.enable = true → p.st = .down →
      exec (.retrainDelay port) s = .next (s.updPort i fun p => { p with st := .training })) ∧
    (s.inRun = false ∨ p.enable = false ∨ p.st ≠ .down → exec (.retrainDelay port) s = .next s) ∧
    (p.st = .training →
      (¬ ok dev role → down (.hello port dev peerPort role nonce) 3) ∧
      (ok dev role → exec (.hello port dev peerPort role nonce) s = .next (s.updPort i fun p => { p with
        peerId := BitVec.ofNat 18 dev, peerPort := BitVec.ofNat 4 peerPort, peerRole := BitVec.ofNat 2 role, peerNonce := nonce })) ∧
      (30 < flight → down (.echoAns port token hold flight) 5) ∧
      (flight ≤ 30 → exec (.echoAns port token hold flight) s = .next (s.updPort i fun p => { p with flight := BitVec.ofNat 8 flight })) ∧
      down (.retrain port) 10) ∧
    (p.st = .up → down (.retrain port) 10 ∧ ∃ u, exec (.retrain port) s = .next u ∧ u.out = s.out ++ [.control i []
      [{ seq := p.txSeq, dest := p.peerId.toNat, src := s.route.devid.toNat, msg := .down 10 }]]) ∧
    (p.st ≠ .up → p.st ≠ .training → exec (.retrain port) s = .next s) ∧
    (p.st ≠ .down → down (.linkEnableWrite port false) 10) ∧
    (p.st = .down → exec (.linkEnableWrite port false) s = .next (s.updPort i fun p => { p with enable := false })) ∧
    (p.enable = false → p.st = .down ∨ p.st = .off → s.inRun = true → ∃ u, exec (.linkEnableWrite port true) s = .next u ∧
      (u.port i).st = .training ∧ (u.port i).enable = true) ∧
    (p.enable = true → exec (.linkEnableWrite port true) s = .next (s.updPort i fun p => { p with enable := true }))

/-- Messages and rekeying on a link port (11 R391 to R395, R400, R401, Table 9). An ECHO is answered with its token;
LANES is kept of an UP port. A REKEY is taken if it names the next epoch and a switch 16 to 2^20 codewords ahead. A
rekey starts, once, 64 frames ahead, and so it does once FC has reached 2^47; at 2^48 with no rekey pending the port
goes DOWN with reason 9. DOWN, silence and loss of lock take an UP port DOWN. None of these does anything to a port
that is not UP. Where a clause rests on a choice of the model: log entries 2 and 36. -/
def Obligations.LinkMessages : Prop :=
  ∀ (port rsn : Fin 16) (s : State) (token hold excl degr fcsw : Nat) (epoch : BitVec 32),
    let i := port.val
    let p := s.port i
    let sw := 16 * (p.txfc.toNat / 16 + 64)
    let rekeys : State := (s.updPort i fun p => { p with txRekey := some sw }).sendPeer i (.rekey (p.txEpoch + 1) sw)
    (p.st = .training ∨ p.st = .up → exec (.echo port token hold) s = .next (s.sendPeer i (.echoAns token hold))) ∧
    (p.st ≠ .training → p.st ≠ .up → exec (.echo port token hold) s = .next s) ∧
    (p.st ≠ .up → ∀ j ∈ [Instr.lanes port excl degr, .rekey port epoch fcsw, .rekeyStart port, .fcThreshold port, .counterExhausted port,
      .down port rsn, .controlSilence port, .lockLoss port], exec j s = .next s) ∧
    (p.st = .up →
      exec (.lanes port excl degr) s = .next (s.updPort i fun p => { p with peerExcl := excl % 8, peerDegr := degr % 32 }) ∧
      (epoch = p.rxEpoch + 1 → p.rxfc.toNat + 16 ≤ fcsw → fcsw ≤ p.rxfc.toNat + 2 ^ 20 →
        exec (.rekey port epoch fcsw) s = .next (s.updPort i fun p => { p with rxRekey := some fcsw })) ∧
      (epoch ≠ p.rxEpoch + 1 ∨ fcsw < p.rxfc.toNat + 16 ∨ p.rxfc.toNat + 2 ^ 20 < fcsw → exec (.rekey port epoch fcsw) s = .next s) ∧
      (p.txRekey = none → exec (.rekeyStart port) s = .next rekeys ∧
        (2 ^ 47 ≤ p.txfc.toNat → exec (.fcThreshold port) s = .next rekeys)) ∧
      (p.txRekey ≠ none → exec (.rekeyStart port) s = .next s) ∧
      (p.txfc.toNat < 2 ^ 47 → exec (.fcThreshold port) s = .next s) ∧
      (∀ f, 2 ^ 48 ≤ p.txfc.toNat + 16 → p.txRekey = some f → f < 2 ^ 48 → exec (.counterExhausted port) s = .next s) ∧
      (p.txfc.toNat + 16 < 2 ^ 48 → exec (.counterExhausted port) s = .next s) ∧
      (2 ^ 48 ≤ p.txfc.toNat + 16 → p.txRekey = none → ∃ u, exec (.counterExhausted port) s = .next u ∧
        (u.port i).st = .down ∧ (u.port i).downrsn = 9) ∧
      (∃ u, exec (.down port rsn) s = .next u ∧ (u.port i).st = .down ∧ (u.port i).downrsn = 7) ∧
      (∃ u, exec (.controlSilence port) s = .next u ∧ (u.port i).st = .down ∧ (u.port i).downrsn = 8) ∧
      (∃ u, exec (.lockLoss port) s = .next u ∧ (u.port i).st = .down ∧ (u.port i).losses = satAdd p.losses 1 ∧
        ∀ l, p.runsLane l = true → l < 8 → (u.lane (i / 2) l).linkLost = true))

/-- Traffic of an UP port (11 R372, R377, R379, R382, R383, R385 to R391, R395, R397, R405). At the start of a run one
block leaves, at slot 0 the control block: for a lane's run the oldest queued flits of the lane and class with one CTR
and rising FADDR. Received blocks are counted: with codewords that do not decode, with a bad tag, the eighth of which
in 1 ms takes the port DOWN, or against the slot table; a stale generation is counted and the block discarded. A block
for this lane's composition enters the elastic queues. Of the messages of a control block, one with a SEQ of the last
64 is discarded, one for another module forwarded. Where a clause rests on a choice of the model: log entry 37. -/
def Obligations.LinkTraffic : Prop :=
  ∀ (port slot : Fin 16) (s : State) (x : RxBlock) (units : List LaneUnit) (h : GenHdr),
    let i := port.val
    let p := s.port i
    let e := lkEntry p.tx slot.val
    (p.st ≠ .up → exec (.txRun port slot) s = .next s ∧ exec (.linkBlockReceive port x) s = .next s ∧
      exec (.controlBlock port units [h]) s = .next s) ∧
    (p.st = .up →
      (slot ≠ 0 → lkValid e = true → lkCont e = true → exec (.txRun port slot) s = .next s) ∧
      (p.atSlot slot.val = none → (slot = 0 ∨ lkValid e = false ∨ lkCont e = false) →
        ∃ u, exec (.txRun port slot) s = .next u ∧ (u.port i).st = .down ∧ (u.port i).downrsn = 9) ∧
      (∀ p', p.atSlot slot.val = some p' →
        (slot = 0 → ∃ u us ms, exec (.txRun port slot) s = .next u ∧ u.out = s.out ++ [.control i us ms] ∧ us.length = 16 ∧
          (ms.map fun h => h.msg.units).sum ≤ 20) ∧
        (slot ≠ 0 → lkValid e = false → ∃ u b, exec (.txRun port slot) s = .next u ∧ u.out = s.out ++ [.block i b] ∧ b.flits = [] ∧ b.cls = 7) ∧
        (slot ≠ 0 → lkValid e = true → lkCont e = false → lkTransit e = false → lkOwner e < 8 → ∃ u b fs, exec (.txRun port slot) s = .next u ∧
          u.out = s.out ++ [.block i b] ∧ b.cls = lkClass e ∧ b.flits = fs.map (·.payload) ∧ fs.length ≤ lkCap (lkRun p.tx slot.val) ∧
          (∃ rest, (p.egress.filter fun f => f.owner == lkOwner e && f.cls == lkClass e) = fs ++ rest) ∧
          (∀ f ∈ fs, f.ctr = b.ctr))) ∧
      (0 < x.bad → ∃ u, exec (.linkBlockReceive port x) s = .next u ∧ (u.port i).uncorr = satAdd p.uncorr x.bad ∧
        (u.port i).corr = satAdd p.corr x.corrected ∧ u.dies = s.dies ∧ u.comps = s.comps) ∧
      (x.bad = 0 → x.tagOk = false → ∃ u, exec (.linkBlockReceive port x) s = .next u ∧ (u.port i).auth = satAdd p.auth 1 ∧
        (7 ≤ (p.authTimes.filter fun t => decide (s.stamp.toNat < t + 200000)).length → (u.port i).st = .down ∧ (u.port i).downrsn = 6) ∧
        ((p.authTimes.filter fun t => decide (s.stamp.toNat < t + 200000)).length < 7 → (u.port i).st = .up)) ∧
      (x.bad = 0 → x.tagOk = true → lkStart p.rx x.slot.val = true →
        let r := lkEntry p.rx x.slot.val
        (x.blk.cls ≠ lkClass r ∨ x.k ≠ lkRun p.rx x.slot.val → ∃ u, exec (.linkBlockReceive port x) s = .next u ∧
          (u.port i).mismatch = satAdd p.mismatch 1 ∧ u.dies = s.dies ∧ u.comps = s.comps) ∧
        (x.blk.cls = lkClass r → x.k = lkRun p.rx x.slot.val → x.blk.cls = 1 ∨ x.blk.cls = 2 → x.blk.dest = s.route.devid.toNat →
          x.blk.src = p.peerId.toNat → x.blk.flits ≠ [] → ∀ k, s.laneComp (i / 2) (lkOwner r) = some k →
          (x.blk.gen ≠ (s.comp k).gen → ∃ u, exec (.linkBlockReceive port x) s = .next u ∧
            (u.comp k).stales = satAdd (s.comp k).stales 1 ∧ u.dies = s.dies) ∧
          (x.blk.gen = (s.comp k).gen → ∃ u : State, exec (.linkBlockReceive port x) s = .next (u.deliverFlits i (lkOwner r) x.blk) ∧
            u.dies = s.dies ∧ u.comps = s.comps))) ∧
      (h.seq ∈ p.seen → ∃ u, exec (.controlBlock port [] [h]) s = .next u ∧ u.comps = s.comps ∧ u.pool = s.pool ∧ u.dies = s.dies ∧
        (u.port i).seen = p.seen) ∧
      (h.seq ∉ p.seen → h.dest ≠ s.route.devid.toNat → peerOnly h.msg = false → ∃ u : State,
        exec (.controlBlock port [] [h]) s = .next (u.forward h) ∧ (u.port i).seen = (h.seq :: p.seen).take 64 ∧ u.comps = s.comps ∧ u.pool = s.pool))

/-- A command of the security block has completed: its code and status stand, DONE is set, BUSY is clear and the
argument registers are 0; of the rest of the machine only the security block's state `y` is new. -/
def Sys2Proof.Claims.secDone (s : State) (op : Nat) (st : Status) (y : Sec) : State :=
  { s with sec := { y with op := BitVec.ofNat 4 op, status := BitVec.ofNat 8 st.code, done := true, busy := false,
                           arg0 := 0, arg1 := 0, arg2 := 0, arg3 := 0 } }

/-- Lifecycle transitions (13 Table 5): from, to, the digest that the token must have (none: no token) and the row's
further precondition. -/
def Sys2Proof.Claims.transitions (x : Sec) : List (Nat × Nat × Option (Option Digest) × Bool) :=
  [(0, 1, some x.tProv, x.vk0.isSome),
   (1, 2, some x.tDeploy, x.kekHeld && x.idHeld && x.fs.isSome && x.tTerm.isSome),
   (2, 3, some x.tReturn, true), (2, 4, some x.tTerm, true),
   (0, 4, none, true), (1, 4, none, true), (3, 4, none, true)]

/-- LC_ADVANCE (13 R441 to R444, R455, R456). A pair of states that Table 5 does not list ends with FORMAT. With a
tenant started, the input below 50.0 V or the row's precondition unmet it ends with STATE. A token whose SHA-256 is
not the row's digest ends with DENIED and is counted; after 8 of these every further one is DENIED without a
comparison. Else the copies are programmed, to RETURNED after the user's secrets are erased. Outside RUN and in
TERMINAL nothing is served, and over the sideband bus the answer is DENIED. Where a clause rests on a choice of the
model: log entries 2 and 38. -/
def Obligations.LifecycleAdvance : Prop :=
  ∀ (s : State),
    let x := s.sec
    let go := exec (.lcAdvance false) s
    let denied := Host.Outcome.next (Claims.secDone s 1 .denied { x with fails := satAdd x.fails 1 })
    (s.inRun = false ∨ x.terminal = true → ∀ b, exec (.lcAdvance b) s = .next s) ∧
    (s.inRun = true → x.terminal = false →
      exec (.lcAdvance true) s = .next (Claims.secDone s 1 .denied x) ∧
      (8 ≤ x.fails.toNat → go = denied) ∧
      (x.fails.toNat < 8 →
        ((∀ r ∈ Claims.transitions x, r.1 = x.state → r.2.1 ≠ x.target.toNat) → go = .next (Claims.secDone s 1 .format x)) ∧
        (∀ r ∈ Claims.transitions x, r.1 = x.state → r.2.1 = x.target.toNat →
          (x.tenancy = 1 ∨ s.pwr.vin.toNat < 50000 ∨ r.2.2.2 = false → go = .next (Claims.secDone s 1 .state x)) ∧
          (x.tenancy ≠ 1 → 50000 ≤ s.pwr.vin.toNat → r.2.2.2 = true →
            (∀ d, r.2.2.1 = some d → d ≠ some (sha256 x.args) → go = denied) ∧
            (r.2.2.1 = none ∨ r.2.2.1 = some (some (sha256 x.args)) →
              let w := lcWord r.2.1
              let y := if r.2.1 = 3 then x.erase else x
              (x.copy0 ||| w = w → x.copy1 ||| w = w → x.copy2 ||| w = w →
                go = .next (Claims.secDone s 1 .ok { y with copy0 := w, copy1 := w, copy2 := w })) ∧
              (r.2.1 = 3 → y.volFs = none ∧ y.volTierF = none ∧ y.kekHeld = false ∧ y.idHeld = false ∧ y.fs = none ∧
                y.tDeploy = some (BitVec.allOnes 256) ∧ y.tTerm = some (BitVec.allOnes 256)))))))

/-- Keys, digests, the fabric secret and firmware (13 R433, R435, R445 to R447, R455, R456). KEYGEN runs in PROVISION
with blank KEK fuses and leaves a KEK, an identity key and a key store that seals FS (versions of the key store are 64
bits; the clauses are for one that is not the last). DIGEST_SET programs the named digest in PROVISION while it is
blank. FS_SET installs FS unless another port is UP; over the sideband bus it runs only while no FS is held, and
nothing else does. BOOT needs port 0 or 8 UP; it starts an image that passes every check, and the first check that
fails gives the status. Nothing runs outside RUN or in TERMINAL. Where a clause rests on a choice of the model: log
entries 2, 38 and 39. -/
def Obligations.Provisioning : Prop :=
  ∀ (s : State) (port : Option (Fin 16)) (img : List Byte) (failed : Bool),
    let x := s.sec
    let others := ∃ p < 16, (s.port p).st = .up ∧ ∀ i ∈ port, i.val ≠ p
    let fits := x.current.version.toNat + 1 < 2 ^ 64
    (s.inRun = false ∨ x.terminal = true → ∀ b, ∀ j ∈ [Instr.keygen b, .digestSet b, .fsSet port, .boot b img failed], exec j s = .next s) ∧
    (s.inRun = true → x.terminal = false →
      exec (.keygen true) s = .next (Claims.secDone s 2 .denied x) ∧
      exec (.digestSet true) s = .next (Claims.secDone s 3 .denied x) ∧
      exec (.boot true img failed) s = .next (Claims.secDone s 5 .denied x) ∧
      (x.lcForce = 1 → x.kek = 0 → fits → ∃ t, exec (.keygen false) s = .next t ∧ t.sec.kek = 1 ∧ t.sec.idHeld = true ∧ t.sec.fs = x.volFs ∧
        t.sec.fRoot = x.volRoot ∧ t.sec.genId = x.genId + 1 ∧ t.sec.status = 0 ∧ t.sec.done = true ∧ t.sec.arg0 = 0) ∧
      (x.lcForce ≠ 1 ∨ x.kek ≠ 0 → exec (.keygen false) s = .next (Claims.secDone s 2 .state x)) ∧
      (x.lcForce = 1 → x.sel = false → x.tDeploy = none →
        exec (.digestSet false) s = .next (Claims.secDone s 3 .ok { x with tDeploy := some x.argDigest })) ∧
      (x.lcForce = 1 → x.sel = true → x.tTerm = none →
        exec (.digestSet false) s = .next (Claims.secDone s 3 .ok { x with tTerm := some x.argDigest })) ∧
      (x.lcForce ≠ 1 ∨ (if x.sel then x.tTerm else x.tDeploy) ≠ none →
        exec (.digestSet false) s = .next (Claims.secDone s 3 .state x)) ∧
      (port = none → x.fs ≠ none → exec (.fsSet port) s = .next (Claims.secDone s 4 .denied x)) ∧
      (port ≠ none ∨ x.fs = none →
        (others → exec (.fsSet port) s = .next (Claims.secDone s 4 .state x)) ∧
        (¬others → fits → ∃ t, exec (.fsSet port) s = .next t ∧ t.sec.fs = some x.argDigest ∧ t.sec.status = 0 ∧ t.sec.done = true ∧ t.sec.arg0 = 0)) ∧
      (x.fwRunning = true ∨ s.portUp false = false ∧ s.portUp true = false →
        exec (.boot false img failed) s = .next (Claims.secDone s 5 .state x)) ∧
      (x.fwRunning = false → s.portUp false = true ∨ s.portUp true = true →
        (failed = true → exec (.boot false img failed) s = .next (Claims.secDone s 5 .link x)) ∧
        (failed = false → ∃ t, exec (.boot false img failed) s = .next t ∧ if x.verify img = .ok
          then t.sec.fwRunning = true ∧ t.sec.fwDigest = sha256 img ∧ t.sec.fwver.toNat = field img 8 4 ∧ t.sec.fwSource = false ∧
            t.sec.bootFailed = false ∧ t.sec.status = 0 ∧ t.sec.done = true
          else t.sec = (Claims.secDone s 5 (x.verify img) { x with bootFailed := true }).sec)))

/-- The supply-warning action (14 R459 to R462, R475; 15 R500, R501). Outside RUN nothing warns. In RUN each cause
sets WARN, CAUSE and WARNED and is counted; every lane that is not idle, stopped by a fault or in its commit or event
phase becomes IDLE, one in those phases goes on; no context is charged and none changes its state. A power-loss dump
is written with NODUMP clear and no earlier dump in its blocks. The warning releases when its last cause has gone:
WARN clears, a dump held gets its release mark and the second interrupt message goes out on each UP host port with the
interrupt enabled. A marked dump is erased; before READY after a power-on an unmarked one becomes the newest dump and
a marked one is discarded. Where a clause rests on a choice of the model: log entries 2 and 41. -/
def Obligations.SupplyWarnings : Prop :=
  ∀ (s : State) (stamp temp : Nat) (die : Fin 8),
    (∀ r ∈ [(1, stamp, Instr.undervoltage stamp), (2, stamp, .overvoltage stamp), (3, stamp, .overcurrent stamp),
        (4, s.stamp.toNat, .thermal die (105 + temp))],
      (s.inRun = false → exec r.2.2 s = .next s) ∧
      (s.inRun = true → ∃ t, exec r.2.2 s = .next t ∧
        t.pwr = { s.pwr with warn := true, cause := BitVec.ofNat 3 r.1, warned := true, warns := satAdd s.pwr.warns 1,
                             causes := insNat r.1 s.pwr.causes, warnStamp := if s.pwr.warn then s.pwr.warnStamp else r.2.1 } ∧
        t.faultQ = s.faultQ ∧ (∀ c, (t.ctx c).st = (s.ctx c).st) ∧
        (∀ d l, (s.lane d l).st ≠ .idle → (s.lane d l).st ≠ .fault → (s.lane d l).st ≠ .commit → (s.lane d l).st ≠ .event →
          (t.lane d l).st = .idle) ∧
        (∀ d l, (s.lane d l).st = .commit ∨ (s.lane d l).st = .event → (∀ e ∈ s.comps, e.2.loop = none) →
          t.lane d l = s.lane d l) ∧
        (s.pwr.nodump = true ∨ s.rst.flossDump ≠ none → t.rst = s.rst) ∧
        (s.pwr.nodump = false → s.rst.flossDump = none → ∃ m, t.rst = { s.rst with flossDump := some m, marked := false } ∧
          bit m.kind 1 = true))) ∧
    (temp < 105 → exec (.thermal die temp) s = .next s) ∧
    (s.pwr.warn = true → (∀ c ∈ s.pwr.causes, c ∈ [1, 2, 3, 4]) → ∃ t, exec .warningRelease s = .next t ∧
      t.pwr = { s.pwr with warn := false, causes := [] } ∧
      t.rst = { s.rst with marked := s.rst.marked || s.rst.flossDump.isSome } ∧
      (s.pwr.irqEnable = false → t.out = s.out) ∧
      (s.pwr.irqEnable = true → t.out = s.out ++ ([false, true].filter s.portUp).map fun p => .irq p s.pwr.vector.toNat) ∧
      t.dies = s.dies ∧ t.comps = s.comps) ∧
    (5 ∈ s.pwr.causes → ∃ t, exec .warningRelease s = .next t ∧ t.pwr.warn = s.pwr.warn ∧ (∀ c, c ∈ t.pwr.causes ↔ c ∈ s.pwr.causes ∧ c ∉ [1, 2, 3, 4]) ∧
      t.rst = s.rst ∧ t.out = s.out) ∧
    (s.rst.marked = true → exec .powerLossDumpErase s = .next { s with rst := { s.rst with flossDump := none, marked := false } }) ∧
    (s.rst.marked = false → exec .powerLossDumpErase s = .next s) ∧
    (s.inRun = true → s.hif.ready = false → s.rst.resets = 0 → s.pwr.warn = false →
      (s.rst.flossDump = none → exec .powerLossDumpCopy s = .next s) ∧
      (∀ m, s.rst.flossDump = some m → ∃ t, exec .powerLossDumpCopy s = .next t ∧ t.rst.flossDump = none ∧
        (s.rst.marked = true → t.rst.dump0 = s.rst.dump0 ∧ t.rst.dump1 = s.rst.dump1 ∧ t.rst.newest = s.rst.newest) ∧
        (s.rst.marked = false → (if t.rst.newest then t.rst.dump1 else t.rst.dump0) = some m ∧
          (s.rst.dump0 ≠ none ∨ s.rst.dump1 ≠ none → t.rst.newest ≠ s.rst.newest ∧
            (if s.rst.newest then t.rst.dump1 else t.rst.dump0) = if s.rst.newest then s.rst.dump1 else s.rst.dump0))))

/-- Power-on reset and power-up (13 R432; 14 R463, R464, R467, R475; 16 R518 to R520, R522). A power-on reset sends
DOWN with reason RESET on every UP port and leaves every rail off: tiers H and M, volatile keys, contexts,
compositions and lanes are gone, fuses, key store and tier F stay. A die at 110 C causes the same. POWER_ON begins the
sequence with the measured bank and makes the row repairs of the log hard (06 R224). The strap window latches its
samples once, or the default straps when a MARK pin reads 0 or samples disagree; a step repeated in HALT shows 0x61 to
0x64. Where a clause rests on a choice of the model: log entries 2 and 17. -/
def Obligations.PowerUp : Prop :=
  ∀ (s : State) (temp cmeas : Nat) (die : Fin 8) (step : Fin 4) (v : BitVec 12) (samples : List (BitVec 12)),
    (∀ i ∈ [Instr.powerOnReset, .thermalPowerOnReset die (110 + temp)], ∃ t, exec i s = .next t ∧ t.rst.phase = .off ∧
      t.tierH = [] ∧ t.tierM = [] ∧ t.tierF = s.tierF ∧ t.ctxs = [] ∧ t.comps = [] ∧ t.queues = [] ∧ t.dies = [] ∧ t.cores = [] ∧
      t.sec.volFs = none ∧ t.sec.volTierF = none ∧ t.sec.fwRunning = false ∧ t.sec.fwCopy = none ∧ t.sec.tenancy = 0 ∧
      t.sec.copy0 = s.sec.copy0 ∧ t.sec.copy1 = s.sec.copy1 ∧ t.sec.copy2 = s.sec.copy2 ∧ t.sec.kek = s.sec.kek ∧ t.sec.store = s.sec.store ∧
      t.sec.store1 = s.sec.store1 ∧ t.sec.floor = s.sec.floor ∧ t.sec.revoked = s.sec.revoked ∧ t.rst.flossDump = s.rst.flossDump ∧
      (∀ p < 16, (s.port p).st = .up → ∃ h, Out.control p [] [h] ∈ t.out ∧ h.msg = .down 11)) ∧
    (temp < 110 → exec (.thermalPowerOnReset die temp) s = .next s) ∧
    (s.rst.phase = .off → ∃ t, exec (.powerOn cmeas) s = .next t ∧ t.rst = { s.rst with phase := .powerUp false } ∧
      t.pwr = { s.pwr with bank := cmeas, cmeas := BitVec.ofNat 16 cmeas, banklow := decide (cmeas < 2000), nodump := decide (cmeas < 1600) } ∧
      t.sec.genH ≠ s.sec.genH ∧ t.sec.genM ≠ s.sec.genM ∧ t.repairLog = s.repairLog ∧ t.hardRows = s.hardened) ∧
    (s.rst.phase ≠ .off → exec (.powerOn cmeas) s = .next s) ∧
    (s.rst.phase = .powerUp true → ∃ t, exec (.powerUpRetry step) s = .next t ∧ t.sb.hcode = BitVec.ofNat 8 (0x61 + step.val) ∧ t.rst = s.rst) ∧
    (s.rst.phase = .powerUp false →
      (bit v.toNat 0 = true → bit v.toNat 1 = true → (∀ x ∈ samples, x = v) → samples ≠ [] → ∃ t, exec (.strapWindow samples) s = .next t ∧
        t.rst.phase = .powerUp true ∧ t.sb.slot.toNat = bits v.toNat 5 2 ∧ t.sb.ghint.toNat = bits v.toNat 9 6 ∧ t.sb.role = bit v.toNat 10 ∧
        t.sb.pset = bit v.toNat 11 ∧ t.rst.pset = bit v.toNat 11 ∧ t.sb.bad = false ∧ t.sb.unstable = false ∧ t.sb.raw = v ∧ t.sb.hcode = 0x40 ∧
        t.route.devid.toNat = bits v.toNat 5 2 + 256 * bits v.toNat 9 6) ∧
      ((∃ x ∈ samples, bit x.toNat 0 = false ∨ bit x.toNat 1 = false) ∨ (∃ x ∈ samples, ∃ y ∈ samples, x ≠ y) →
        ∃ t, exec (.strapWindow samples) s = .next t ∧ t.rst.phase = .powerUp true ∧ t.sb.slot = 0 ∧ t.sb.ghint = 0 ∧ t.sb.role = false ∧
          t.sb.pset = false ∧ t.rst.pset = false ∧ t.route.devid = 0 ∧ (t.sb.bad = true ∨ t.sb.unstable = true))) ∧
    (s.rst.phase = .run ∨ s.rst.phase = .entry → ∀ i ∈ [Instr.powerUpRetry step, .strapWindow samples], exec i s = .next s)

/-- The hottest sensor of a die, its HBM stacks included (14 R471). -/
def Sys2Proof.Claims.hottest (x : Die) : Nat := (x.hstops.map fun e => e.2.temp.toNat).foldl max x.thr.temp.toNat

/-- A rise of `u` levels covers every excess of a die (14 R471): `u` is at least 64 times the excess of each quantity.
Powers are in W, the input current in 10 mA. -/
def Sys2Proof.Claims.covers (s : State) (x : Die) (u : Nat) : Prop :=
  (∀ r ∈ [(s.pwr.pin.toNat, s.pwr.inforce.toNat), (s.pwr.iin.toNat, 7200), (x.thr.pdie.toNat, 300)], 64 * r.1 ≤ 64 * r.2 + u * r.1) ∧
    64 * (Claims.hottest x - 100) ≤ 16 * u

/-- Core voltage and the throttle (14 R469 to R471, R473, R474, R476). A dip below VMIN + 20 mV sets DROOP and, not
below VMIN, is counted; below VMIN the module resets. An update gives each die θ while pinned; else the level rises by
the least number of 64ths that covers every excess, or falls by 1 when all lies far enough below its limit, never
above θ, and a die that reaches θ with excess left sets SAT. A bubble period runs at the level that stands, with that
many bubbles among its 64 units. A cap outside 1,000 to 3,600 W, or beside a SHIFT composition, is ignored and sets
WIGN. A sample shows what was measured. Where a clause rests on a choice of the model: log entry 24. -/
def Obligations.Throttling : Prop :=
  ∀ (s : State) (die : Fin 8) (mv v : Nat) (tm : Telemetry),
    let d := die.val
    let x := s.die d
    let th := s.pwr.theta.toNat
    let b := x.thr.level.toNat
    (s.inRun = false ∨ x.thr.vmin.toNat + 20 ≤ mv → exec (.droop die mv) s = .next s) ∧
    (s.inRun = true → mv < x.thr.vmin.toNat + 20 → ∃ t, exec (.droop die mv) s = .next t ∧ t.pwr.droop = true ∧
      (t.rst.phase = .entry ↔ mv < x.thr.vmin.toNat) ∧
      (x.thr.vmin.toNat ≤ mv → (t.die d).thr.droops = satAdd x.thr.droops 1 ∧ (t.die d).thr.vlow.toNat = min x.thr.vlow.toNat mv ∧ t.rst = s.rst) ∧
      (mv < x.thr.vmin.toNat → t.rst.cause = 5)) ∧
    (∃ t, exec .throttleUpdate s = .next t ∧
      (s.pwr.pinned = true → (t.die d).thr.level.toNat = th) ∧
      (s.pwr.pinned = false → Claims.covers s x 0 →
        (100 * s.pwr.pin.toNat ≤ 98 * s.pwr.inforce.toNat ∧ 100 * s.pwr.iin.toNat ≤ 98 * 7200 ∧ x.thr.pdie.toNat ≤ 294 ∧ Claims.hottest x ≤ 98 →
          (t.die d).thr.level.toNat = min th (b - 1)) ∧
        (98 * s.pwr.inforce.toNat < 100 * s.pwr.pin.toNat ∨ 98 * 7200 < 100 * s.pwr.iin.toNat ∨ 294 < x.thr.pdie.toNat ∨ 98 < Claims.hottest x →
          (t.die d).thr.level.toNat = min th b) ∧
        (t.die d).thr.sat = x.thr.sat) ∧
      (s.pwr.pinned = false → ∀ u, 0 < u → Claims.covers s x u → ¬Claims.covers s x (u - 1) →
        (t.die d).thr.level.toNat = min th (b + u) ∧ (th ≤ b + u → (t.die d).thr.sat = true ∧ t.pwr.sat = true)) ∧
      t.cores = s.cores ∧ t.comps = s.comps) ∧
    (∃ t, exec (.bubblePeriod die) s = .next t ∧ (t.die d).thr.inForce = x.thr.level ∧ (t.die d).thr.units = x.thr.units + x.thr.level.setWidth 32 ∧
      t.cores = s.cores ∧ (∀ e, e ≠ d → t.die e = s.die e)) ∧
    (b ≤ 64 → (List.range 64).countP (isBubble b) = b) ∧
    (v < 1000 ∨ 3600 < v ∨ (∃ e ∈ s.comps, e.2.st ≠ .free ∧ e.2.balShift = true) → exec (.capWrite v) s = .next { s with pwr := { s.pwr with wign := true } }) ∧
    (1000 ≤ v → v ≤ 3600 → (∀ e ∈ s.comps, e.2.st = .free ∨ e.2.balShift = false) →
      exec (.capWrite v) s = .next { s with pwr := { s.pwr with cap := BitVec.ofNat 12 v, inforce := BitVec.ofNat 12 v } }) ∧
    (s.rst.phase = .off → exec (.telemetrySample tm) s = .next s) ∧
    (s.rst.phase ≠ .off → ∃ t, exec (.telemetrySample tm) s = .next t ∧ t.pwr.vin = BitVec.ofNat 16 tm.vin ∧ t.pwr.vbank = BitVec.ofNat 16 tm.vbank ∧
      t.pwr.iin = BitVec.ofNat 16 tm.iin ∧ t.pwr.pin = BitVec.ofNat 16 tm.pin ∧ t.pwr.tin = BitVec.ofNat 8 tm.tin ∧ t.pwr.tout = BitVec.ofNat 8 tm.tout ∧
      (∀ w temp lo, tm.dies[d]? = some (w, temp, lo) → (t.die d).thr.pdie = BitVec.ofNat 12 w ∧ (t.die d).thr.temp = BitVec.ofNat 8 temp))

/-- Clocks (14 R477, R478, R481). Before the primary is qualified only die 0's windows count; the eighth good one in a
row qualifies it on every die, a bad one starts the count again. Then each die's windows are watched: one off by more
than 102 counts, or with a count of 0, resets the module and takes the qualification away; the fourth bad one in a row
takes the supply-warning action; after ten good ones in a row on the last die that warned it ends. GO starts a
measurement, but not with a code not used, with GCYC 0 or in a qualification window, which set WIGN; its count is
shown at the end. Where a clause rests on a choice of the model: log entries 2 and 42. -/
def Obligations.Clocks : Prop :=
  ∀ (s : State) (die : Fin 8) (n chk count : Nat),
    let d := die.val
    let f := (s.die d).fmc
    let good := 102387 ≤ n ∧ n ≤ 102413
    let lost := n < 102298 ∨ 102502 < n ∨ chk = 0
    let dev : BitVec 16 := BitVec.ofInt 16 ((n : Int) - 102400)
    (s.rst.phase = .off ∨ s.rst.phase = .powerUp false → exec (.fmcWindow die n chk) s = .next s) ∧
    (s.rst.phase ≠ .off → s.rst.phase ≠ .powerUp false →
      ((s.die 0).fmc.qualified = false →
        (d ≠ 0 → exec (.fmcWindow die n chk) s = .next s) ∧
        (d = 0 → chk ≠ 0 → ¬good → ∃ t, exec (.fmcWindow die n chk) s = .next t ∧ (t.die 0).fmc.run = 0 ∧ (t.die 0).fmc.qualified = false) ∧
        (d = 0 → chk ≠ 0 → good → f.run.toNat < 7 → ∃ t, exec (.fmcWindow die n chk) s = .next t ∧ (t.die 0).fmc.run = f.run + 1 ∧
          (t.die 0).fmc.qualified = false) ∧
        (d = 0 → chk ≠ 0 → good → 7 ≤ f.run.toNat → ∃ t, exec (.fmcWindow die n chk) s = .next t ∧ ∀ e < 8, (t.die e).fmc.qualified = true)) ∧
      ((s.die 0).fmc.qualified = true →
        (lost → s.inRun = true → ∃ t, exec (.fmcWindow die n chk) s = .next t ∧ t.rst.phase = .entry ∧ t.rst.cause = 6 ∧
          ∀ e < 8, (t.die e).fmc.qualified = false) ∧
        (¬lost → good → f.warned = false → ∃ t, exec (.fmcWindow die n chk) s = .next t ∧ t.pwr = s.pwr ∧ t.rst = s.rst ∧
          (t.die d).fmc = { f with run := satAdd f.run 1, bad := 0, lastdev := dev }) ∧
        (¬lost → good → f.warned = true → 9 ≤ f.run.toNat → s.pwr.warn = true → (∀ c ∈ s.pwr.causes, c = 5) →
          (∀ e < 8, e ≠ d → (s.die e).fmc.warned = false) → ∃ t, exec (.fmcWindow die n chk) s = .next t ∧ t.pwr.warn = false ∧ t.pwr.causes = [] ∧
            (t.die d).fmc.warned = false) ∧
        (¬lost → ¬good → f.bad < 3 → f.warned = false → ∃ t, exec (.fmcWindow die n chk) s = .next t ∧ t.pwr = s.pwr ∧ t.rst = s.rst ∧
          (t.die d).fmc = { f with run := 0, bad := f.bad + 1, badwin := satAdd f.badwin 1, lastdev := dev }) ∧
        (¬lost → ¬good → 3 ≤ f.bad → f.warned = false → s.inRun = true → ∃ t, exec (.fmcWindow die n chk) s = .next t ∧ t.pwr.warn = true ∧
          t.pwr.cause = 5 ∧ t.rst.phase = .run))) ∧
    (f.msrc.toNat < 11 → f.gsrc.toNat < 11 → f.gcyc ≠ 0 → (s.die 0).fmc.qualified = true →
      exec (.go die) s = .next (s.updDie d fun x => { x with fmc := { x.fmc with busy := true } })) ∧
    (11 ≤ f.msrc.toNat ∨ 11 ≤ f.gsrc.toNat ∨ f.gcyc = 0 ∨ (s.die 0).fmc.qualified = false →
      exec (.go die) s = .next (s.updDie d fun x => { x with fmc := { x.fmc with wign := true } })) ∧
    (f.busy = true → exec (.fmcMeasurementDone die count) s = .next (s.updDie d fun x =>
      { x with fmc := { x.fmc with busy := false, done := true, count := BitVec.ofNat 40 count } })) ∧
    (f.busy = false → ∃ t, exec (.fmcMeasurementDone die count) s = .next t ∧ t.die d = s.die d)

/-- A module reset has begun with cause `c` (15 R495, R496, R502): no lane goes on, no port is UP, each UP port has
sent DOWN with reason RESET, faults not yet recorded lie in the module fault log and charge no context, revocations
are superseded, and the preserve set in force is noted. -/
def Sys2Proof.Claims.entered (s t : State) (c : Nat) : Prop :=
  t.rst.phase = .entry ∧ t.rst.cause = BitVec.ofNat 4 c ∧ t.rst.psetUsed = s.rst.pset ∧ t.rst.pset = s.rst.pset ∧ t.rst.resets = satAdd s.rst.resets 1 ∧
    t.rst.absent = 0 ∧ t.rst.restored = false ∧ t.revs = [] ∧ t.faultQ = [] ∧ t.faultLog = s.faultLog ++ s.faultQ ∧ t.ctxs = s.ctxs ∧
    (∀ d l, (t.lane d l).st = .idle) ∧ (∀ k, (t.core k).st ≠ .run) ∧ (∀ p < 16, (t.port p).st ≠ .up) ∧
    (∀ p < 16, (s.port p).st = .up → ∃ h, Out.control p [] [h] ∈ t.out ∧ h.msg = .down 11) ∧
    t.sb.hcode = BitVec.ofNat 8 (0xC0 + c) ∧ t.tierM = s.tierM ∧ t.tierF = s.tierF ∧ t.sec = s.sec ∧ (s.rst.pset = true → t.rst.collecting = [])

/-- What starts a module reset (01 R28; 15 R486, R488, R490, R495, R496, R502, R511; 16 R523). RESET with KEY 0xA5,
the reset pin, the module watchdog and a firmware error do in RUN, and do nothing in any other phase; RESET with
another KEY sets WIGN. A failed steward is noted in STEWFAIL: the spare takes a lost role at the takeover, but a
second failure on the die, or a lost role with no spare, resets the module. A stuck core is counted and bound no more,
and charges no context. Where a clause rests on a choice of the model: log entries 2 and 46. -/
def Obligations.ResetCauses : Prop :=
  ∀ (s : State) (key : Byte) (die : Fin 8) (st : Fin 5) (c : CoreId) (e : Eng),
    let x := (s.die die.val).stew
    let noted := s.rst.stewfail ||| BitVec.ofNat 40 (2 ^ (5 * die.val + st.val))
    (∀ r ∈ [(1, Instr.reset 0xA5), (2, .sbRst), (7, .moduleWatchdog), (8, .firmwareError)],
      (s.inRun = false → exec r.2 s = .next s) ∧ (s.inRun = true → ∃ t, exec r.2 s = .next t ∧ Claims.entered s t r.1)) ∧
    (s.inRun = false → exec (.reset key) s = .next s) ∧
    (s.inRun = true → key ≠ 0xA5 → exec (.reset key) s = .next { s with rst := { s.rst with wign := true } }) ∧
    (s.inRun = false ∨ st.val ∈ x.failed ∨ st.val ∉ x.good → exec (.stewardWatchdog die st) s = .next s) ∧
    (s.inRun = true → st.val ∉ x.failed → st.val ∈ x.good →
      (x.failed ≠ [] ∨ st.val ∈ x.roles ∧ x.spare = false → ∃ t, exec (.stewardWatchdog die st) s = .next t ∧ t.rst.stewfail = noted ∧
        t.rst.phase = .entry ∧ t.rst.cause = 3) ∧
      (x.failed = [] → st.val ∉ x.roles ∨ x.spare = true → ∃ t, exec (.stewardWatchdog die st) s = .next t ∧
        t.rst = { s.rst with stewfail := noted } ∧ (t.die die.val).stew.failed = [st.val] ∧
        (t.die die.val).stew.takeover = (if st.val ∈ x.roles then some st.val else x.takeover) ∧ t.ctxs = s.ctxs ∧ t.cores = s.cores)) ∧
    (∀ f, x.takeover = some f → ∃ t, exec (.stewardTakeover die) s = .next t ∧
      (t.die die.val).stew = { x with roles := x.roles.map fun r => if r = f then 4 else r, takeover := none }) ∧
    (x.takeover = none → ∃ t, exec (.stewardTakeover die) s = .next t ∧ t.die die.val = s.die die.val) ∧
    ((s.core c.key).st = .run → ∃ t, exec (.engineWatchdog c e) s = .next t ∧ t.core c.key = { s.core c.key with barred := true } ∧
      t.rst = { s.rst with stuck := satAdd s.rst.stuck 1 } ∧ t.ctxs = s.ctxs ∧ t.faultQ = s.faultQ) ∧
    ((s.core c.key).st ≠ .run → exec (.engineWatchdog c e) s = .next s)

/-- From reset entry to READY (01 R28; 06 R208, R218; 13 R439, R448; 14 R472; 15 R497, R498, R502 to R505, R509,
R510). A die's units that answer go into the dump, one that does not is counted in ABSENT. Once all are read and the
primary is qualified the dump fills the slot that does not hold the newest, and release keeps tiers M and F, keys, θ,
the cap and PSET, holds a started tenancy and decodes the lifecycle vote anew; contexts, queues, rings, fences,
compositions and tier H are gone, stops and ports train. The self-test says which dies work. HIF_READY needs a working
die 0 and running firmware. CLEAR makes both slots invalid. Where a clause rests on a choice of the model: log entries
2, 43 and 44. -/
def Obligations.Recovery : Prop :=
  ∀ (s : State) (die : Fin 8) (unit : Nat) (failed : List CoreId) (dead : BitVec 8) (badR badB : List (Fin 8 × Fin 300)) (good : List Nat),
    let works := fun d => bit dead.toNat d = false ∧ d ∉ s.repairDies ∧ 4 ≤ ((List.range 5).filter fun i => good.contains (5 * d + i)).length
    let emptied : Rst := { s.rst with dump0 := none, dump1 := none, newest := false, shown0 := none, shown1 := none, shownNewest := false }
    let slots := fun (t : State) => (t.rst.dump0, t.rst.dump1, t.rst.newest)
    (s.inEntry = true → (∃ u, (die.val, u) ∈ s.rst.collecting) → ∃ t h m, exec (.collect die) s = .next t ∧
      (∀ a, a ∈ t.rst.collecting ↔ a ∈ s.rst.collecting ∧ a.1 ≠ die.val) ∧ t.rst.absent = s.rst.absent ∧
      t.rst.sections = s.rst.sections ++ [(4, die.val, h), (5, die.val, m)]) ∧
    (s.inEntry = false ∨ (∀ u, (die.val, u) ∉ s.rst.collecting) → exec (.collect die) s = .next s) ∧
    (s.inEntry = true → (die.val, unit) ∈ s.rst.collecting → ∃ t, exec (.collectionTimeout die unit) s = .next t ∧
      (∀ a, a ∈ t.rst.collecting ↔ a ∈ s.rst.collecting ∧ a ≠ (die.val, unit)) ∧ t.rst.absent = satAdd s.rst.absent 1) ∧
    (s.inEntry = false ∨ (die.val, unit) ∉ s.rst.collecting → exec (.collectionTimeout die unit) s = .next s) ∧
    ((s.die 0).fmc.qualified = false ∨ s.inEntry = true ∧ s.rst.collecting ≠ [] ∨ s.inRun = true → exec .resetRelease s = .next s) ∧
    ((s.die 0).fmc.qualified = true → s.rst.phase = .powerUp true ∨ s.inEntry = true ∧ s.rst.collecting = [] → ∃ t, exec .resetRelease s = .next t ∧
      t.rst.phase = .run ∧ t.tierM = s.tierM ∧ t.tierF = s.tierF ∧ t.tierH = [] ∧ t.ctxs = [] ∧ t.queues = [] ∧ t.rings = [] ∧ t.comps = [] ∧ t.fences = [] ∧
      t.cores = [] ∧ t.hif.ready = false ∧ t.pwr.theta = s.pwr.theta ∧ t.pwr.cap = s.pwr.cap ∧ t.rst.pset = s.rst.pset ∧
      t.rst.stewfail = s.rst.stewfail ∧ t.rst.stuck = s.rst.stuck ∧ t.sec.genH = s.sec.genH ∧ t.sec.store = s.sec.store ∧
      t.sec.tenancy = (if s.sec.tenancy = 1 then 2 else s.sec.tenancy) ∧ t.sec.lcForce = s.sec.state ∧ t.sec.fwRunning = false ∧
      (∀ p < 16, (t.port p).st = .training) ∧ (∀ d < 8, ∀ i < 8, (Tab.look {} (t.die d).hstops i).st = .training) ∧
      (s.inEntry = true → ∃ m, m.cause = s.rst.cause.toNat ∧ m.absent = s.rst.absent.toNat ∧ bit m.kind 0 = s.rst.psetUsed ∧
        (if t.rst.newest then t.rst.dump1 else t.rst.dump0) = some m ∧
        (s.rst.dump0 ≠ none ∨ s.rst.dump1 ≠ none → t.rst.newest ≠ s.rst.newest ∧
          (if s.rst.newest then t.rst.dump1 else t.rst.dump0) = if s.rst.newest then s.rst.dump1 else s.rst.dump0) ∧
        (s.rst.psetUsed = true → t.rst.save = some s.linkSave)) ∧
      (s.inEntry = false → slots t = slots s)) ∧
    (s.inRun = false ∨ s.rst.selfTested = true ∨ s.sec.terminal = true → exec (.selfTestComplete failed dead badR badB good) s = .next s) ∧
    (s.inRun = true → s.rst.selfTested = false → s.sec.terminal = false → ∃ t, exec (.selfTestComplete failed dead badR badB good) s = .next t ∧
      t.rst.selfTested = true ∧ (∀ d < 8, (t.die d).working = true ↔ works d) ∧ (∀ k ∈ failed, (t.core k.key).good = false)) ∧
    (s.inRun = false ∨ s.rst.selfTested = false ∨ s.hif.ready = true ∨ s.sec.terminal = true → exec .hifReady s = .next s) ∧
    (s.inRun = true → s.rst.selfTested = true → s.hif.ready = false → s.sec.terminal = false →
      ((s.die 0).working = false → ∃ t, exec .hifReady s = .next t ∧ t.hif = s.hif ∧ t.sb.step = 13) ∧
      ((s.die 0).working = true → s.sec.fwRunning = false → s.sec.fwCopy = none → ∃ t, exec .hifReady s = .next t ∧ t.hif = s.hif ∧ t.sb.step = 14) ∧
      ((s.die 0).working = true → s.sec.fwRunning = true → ∃ t, exec .hifReady s = .next t ∧ t.hif.ready = true ∧ t.sb.step = 7 ∧
        t.rst.shown0 = s.rst.dump0 ∧ t.rst.shown1 = s.rst.dump1 ∧ t.rst.shownNewest = s.rst.newest ∧ slots t = slots s ∧
        (∀ k, (t.core k).enable = true → (s.core k).enable = true ∨ (s.core k).good = true ∧ k ∉ s.repairCores))) ∧
    (s.inEntry = false → exec .clear s = .next { s with rst := emptied }) ∧
    (s.inEntry = true → exec .clear s = .next s)

/-- A programmed digest never loses a bit. -/
def Sys2Proof.Claims.rises (a b : Option Digest) : Prop := ∀ d, a = some d → ∃ e, b = some e ∧ d &&& e = d

/-- 13 R438, Table 3: each lifecycle state has its word and code; with SLOTS, REVOKED, FLOOR, TDEPLOY, TTERM and KEK
blank these fields of `SEC_LC` read 0, and blank copies read TEST; and no step of the machine clears a fuse: neither a
bit of the lifecycle copies, the digests or the revoke fuses, nor the SVN floor or the KEK fuses (0 blank, 1
programmed, 2 all ones). -/
def Obligations.FusesOneWay : Prop :=
  (∀ r ∈ [((0x00 : Byte), 0), (0x01, 1), (0x03, 2), (0x07, 3), (0xFF, 4)], lcCode r.1 = r.2 ∧ lcWord r.2 = r.1) ∧
  (∀ s : State, s.sec.vk0 = none → s.sec.vk1 = none → s.sec.vk2 = none → s.sec.revoked = 0 → s.sec.floor = 0 → s.sec.tDeploy = none →
    s.sec.tTerm = none → s.sec.kek = 0 → bits (s.secReg 0x028) 46 32 = 0 ∧ bit (s.secReg 0x028) 4 = false) ∧
  (∀ x : Sec, x.copy0 = 0 → x.copy1 = 0 → x.copy2 = 0 → x.state = 0) ∧
  ∀ s t : State, step s = .next t →
    s.sec.copy0 &&& t.sec.copy0 = s.sec.copy0 ∧ s.sec.copy1 &&& t.sec.copy1 = s.sec.copy1 ∧ s.sec.copy2 &&& t.sec.copy2 = s.sec.copy2 ∧
      s.sec.revoked &&& t.sec.revoked = s.sec.revoked ∧ s.sec.floor ≤ t.sec.floor ∧ (s.sec.kek ≠ 0 → t.sec.kek ≠ 0) ∧ (s.sec.kek = 2 → t.sec.kek = 2) ∧
      Claims.rises s.sec.vk0 t.sec.vk0 ∧ Claims.rises s.sec.vk1 t.sec.vk1 ∧ Claims.rises s.sec.vk2 t.sec.vk2 ∧
      Claims.rises s.sec.tProv t.sec.tProv ∧ Claims.rises s.sec.tReturn t.sec.tReturn ∧ Claims.rises s.sec.tDeploy t.sec.tDeploy ∧
      Claims.rises s.sec.tTerm t.sec.tTerm

/-- The straps (16 R520): SLOT, GHINT, ROLE, PSET and the sample they came from change in no step but one of
STRAP_WINDOW, which latches them, and of a power-on reset, after which they are latched anew; a module reset, whatever
starts or ends it, leaves them as they are. -/
def Obligations.StrapsLatched : Prop :=
  ∀ s t : State, step s = .next t →
    (t.sb.slot = s.sb.slot ∧ t.sb.ghint = s.sb.ghint ∧ t.sb.role = s.sb.role ∧ t.sb.pset = s.sb.pset ∧ t.sb.raw = s.sb.raw) ∨
      ∃ c ∈ s.pending.head?, c = .powerOnReset ∨ (∃ x, c = .strapWindow x) ∨ ∃ d h, c = .thermalPowerOnReset d h

/-- Whatever a command does, it leaves the commands behind it in the queue and the repair map of the module as they
are (01 R28; the queue is the model's own, log entry 1). -/
def Obligations.QueueUntouched : Prop :=
  ∀ (c : Instr) (s t : State), exec c s = .next t →
    t.pending = s.pending ∧ t.repairCores = s.repairCores ∧ t.repairClusters = s.repairClusters ∧ t.repairDies = s.repairDies

/-- After a power-on reset (08 Tables 9 and 11; 13 R438, R448; 14 R463, R472 to R474): no rail is up, θ is 8, the
throttle unpinned and balance OFF, the cap 3,600 W, the tenancy NONE with CLEAN 0, the lifecycle TEST with no KEK and
no FS held, the host interface off, no context, queue, ring, fence or composition open, and nothing is listed in any
memory. Where a clause rests on a choice of the model: log entry 6. -/
def Obligations.ResetState : Prop :=
  let s := State.reset
  s.rst.phase = .off ∧ s.inRun = false ∧ s.pending = [] ∧ s.pwr.theta = 8 ∧ s.pwr.pinned = false ∧ s.pwr.shift = false ∧ s.pwr.cap.toNat = 3600 ∧
    s.pwr.inforce.toNat = 3600 ∧ s.sec.tenancy = 0 ∧ s.sec.clean = false ∧ s.sec.state = 0 ∧ s.sec.kek = 0 ∧ s.sec.fs = none ∧ s.sec.fwRunning = false ∧
    s.hif.enable = false ∧ s.hif.ready = false ∧ s.tierH = [] ∧ s.tierM = [] ∧ s.tierF = [] ∧
    (∀ k, (s.ctx k).st = .closed ∧ (s.queue k).st ≠ .live ∧ (s.ring k).live = false ∧ (s.fence k).st = .free ∧ (s.comp k).st = .free) ∧
    (∀ d l, (s.lane d l).st = .idle) ∧ (∀ k, (s.core k).enable = false) ∧ (∀ p, (s.port p).st ≠ .up)
end

