-- ==== Sys2Proof/Laws/Kept.lean ====
section
/-! SUPPORT. What the shared operations leave alone: the queue of commands, the OTP fuses, the straps and the
repair map. One lemma per operation: it keeps `State.kept`. Operations that program fuses or take the rails down are
not here; Laws/Fuses.lean says what those do. -/

namespace Sys2Proof.Machine

/-- The parts of a state that almost no operation touches. -/
structure Kept where
  pending : List Instr
  copy0 : Byte
  copy1 : Byte
  copy2 : Byte
  vk0 : Option Digest
  vk1 : Option Digest
  vk2 : Option Digest
  revoked : BitVec 3
  floor : Nat
  tProv : Option Digest
  tReturn : Option Digest
  tDeploy : Option Digest
  tTerm : Option Digest
  kek : Nat
  slot : BitVec 4
  ghint : BitVec 4
  role : Bool
  pset : Bool
  raw : BitVec 12
  cores : List Nat
  clusters : List (Nat × Nat)
  dies : List Nat
/-- Those parts of a state. -/
def State.kept (s : State) : Kept :=
  { pending := s.pending, copy0 := s.sec.copy0, copy1 := s.sec.copy1, copy2 := s.sec.copy2, vk0 := s.sec.vk0, vk1 :=
    s.sec.vk1,
    vk2 := s.sec.vk2, revoked := s.sec.revoked, floor := s.sec.floor, tProv := s.sec.tProv, tReturn := s.sec.tReturn,
    tDeploy := s.sec.tDeploy, tTerm := s.sec.tTerm, kek := s.sec.kek, slot := s.sb.slot, ghint := s.sb.ghint,
    role := s.sb.role, pset := s.sb.pset, raw := s.sb.raw, cores := s.repairCores, clusters := s.repairClusters,
    dies := s.repairDies }

/-- They are read off a record as written. -/
@[simp] theorem State.kept_mk pending stamp mark cores dies ports tierH tierM tierF sealH sealM hif queues rings
  tongs0 tongs8 reads nextTag nextAcc ctxs fences faultQ faultLog revs nextSeq models commits arenas comps joins
  recs recIndex recPage pool route sec pwr rst sb cfg repairCores repairClusters repairDies repairLog hardRows caps free out :
  State.kept (State.mk pending stamp mark cores dies ports tierH tierM tierF sealH sealM hif queues rings tongs0
    tongs8 reads nextTag nextAcc ctxs fences faultQ faultLog revs nextSeq models commits arenas comps joins recs
    recIndex recPage pool route sec pwr rst sb cfg repairCores repairClusters repairDies repairLog hardRows caps free out) =
    { pending := pending, copy0 := sec.copy0, copy1 := sec.copy1, copy2 := sec.copy2, vk0 := sec.vk0, vk1 :=
      sec.vk1, vk2 := sec.vk2, revoked := sec.revoked, floor := sec.floor, tProv := sec.tProv, tReturn :=
      sec.tReturn, tDeploy := sec.tDeploy, tTerm := sec.tTerm, kek := sec.kek, slot := sb.slot, ghint := sb.ghint,
      role := sb.role, pset := sb.pset, raw := sb.raw, cores := repairCores, clusters := repairClusters, dies :=
      repairDies } := rfl

/-- A field of a state is one of its kept parts: for `simp`, in one lemma. -/
theorem kept_fields (s : State) :
    s.pending = s.kept.pending ∧ s.sec.copy0 = s.kept.copy0 ∧ s.sec.copy1 = s.kept.copy1 ∧ s.sec.copy2 =
      s.kept.copy2 ∧ s.sec.vk0 = s.kept.vk0 ∧ s.sec.vk1 = s.kept.vk1 ∧ s.sec.vk2 = s.kept.vk2 ∧ s.sec.revoked =
      s.kept.revoked ∧ s.sec.floor = s.kept.floor ∧ s.sec.tProv = s.kept.tProv ∧ s.sec.tReturn = s.kept.tReturn ∧
      s.sec.tDeploy = s.kept.tDeploy ∧ s.sec.tTerm = s.kept.tTerm ∧ s.sec.kek = s.kept.kek ∧ s.sb.slot = s.kept.slot
      ∧ s.sb.ghint = s.kept.ghint ∧ s.sb.role = s.kept.role ∧ s.sb.pset = s.kept.pset ∧ s.sb.raw = s.kept.raw ∧
      s.repairCores = s.kept.cores ∧ s.repairClusters = s.kept.clusters ∧ s.repairDies = s.kept.dies := by
  refine ⟨rfl, rfl, rfl, rfl, rfl, rfl, rfl, rfl, rfl, rfl, rfl, rfl, rfl, rfl, rfl, rfl, rfl, rfl, rfl, rfl, rfl,
    rfl⟩

/-- A fold of steps that keep them keeps them. -/
theorem foldl_kept {α : Type} {f : State → α → State} (h : ∀ u a, (f u a).kept = u.kept) (l : List α) (s : State) :
    (l.foldl f s).kept = s.kept := by
  induction l generalizing s with
  | nil => rfl
  | cons a l ih => simp [ih, h]

@[simp] theorem idleTick_kept (s : State) :
    (idleTick s).kept = s.kept := by
  simp [kept_fields, idleTick]

@[simp] theorem State.setCore_kept (s : State) (k : ℕ) (c : Core) :
    (State.setCore s k c).kept = s.kept := by
  simp [kept_fields, State.setCore]

@[simp] theorem State.setDie_kept (s : State) (d : ℕ) (x : Die) :
    (State.setDie s d x).kept = s.kept := by
  simp [kept_fields, State.setDie]

@[simp] theorem State.updDie_kept (s : State) (d : ℕ) (f : Die → Die) :
    (State.updDie s d f).kept = s.kept := by
  simp [State.updDie]

@[simp] theorem State.updLane_kept (s : State) (d : ℕ) (l : ℕ) (f : Lane → Lane) :
    (State.updLane s d l f).kept = s.kept := by
  simp [State.updLane]

@[simp] theorem State.updLanes_kept (s : State) (ds : List ℕ) (l : ℕ) (f : Lane → Lane) :
    (State.updLanes s ds l f).kept = s.kept := by
  simp [State.updLanes, foldl_kept]

@[simp] theorem State.updRouter_kept (s : State) (d : ℕ) (r : ℕ) (f : Router → Router) :
    (State.updRouter s d r f).kept = s.kept := by
  simp [State.updRouter]

@[simp] theorem State.updPort_kept (s : State) (i : ℕ) (f : Port → Port) :
    (State.updPort s i f).kept = s.kept := by
  simp [kept_fields, State.updPort]

@[simp] theorem State.updCtx_kept (s : State) (c : ℕ) (f : Ctx → Ctx) :
    (State.updCtx s c f).kept = s.kept := by
  simp [kept_fields, State.updCtx]

@[simp] theorem State.updQueue_kept (s : State) (q : ℕ) (f : Queue → Queue) :
    (State.updQueue s q f).kept = s.kept := by
  simp [kept_fields, State.updQueue]

@[simp] theorem State.updRing_kept (s : State) (r : ℕ) (f : EvRing → EvRing) :
    (State.updRing s r f).kept = s.kept := by
  simp [kept_fields, State.updRing]

@[simp] theorem State.updFence_kept (s : State) (n : ℕ) (f : Fence → Fence) :
    (State.updFence s n f).kept = s.kept := by
  simp [kept_fields, State.updFence]

@[simp] theorem State.updComp_kept (s : State) (k : ℕ) (f : Comp → Comp) :
    (State.updComp s k f).kept = s.kept := by
  simp [kept_fields, State.updComp]

@[simp] theorem State.updRec_kept (s : State) (k : ℕ) (f : RecRing → RecRing) :
    (State.updRec s k f).kept = s.kept := by
  simp [kept_fields, State.updRec]

@[simp] theorem State.updTongs_kept (s : State) (p : Bool) (f : Tongs → Tongs) :
    (State.updTongs s p f).kept = s.kept := by
  unfold State.updTongs; split <;> simp [kept_fields]

@[simp] theorem State.updStop_kept (s : State) (t : StopId) (f : MemStop → MemStop) :
    (State.updStop s t f).kept = s.kept := by
  simp [State.updStop]

@[simp] theorem State.emit_kept (s : State) (o : Out) :
    (State.emit s o).kept = s.kept := by
  simp [kept_fields, State.emit]

@[simp] theorem State.fresh_kept (s : State) :
    (State.fresh s).2.kept = s.kept := by
  simp [kept_fields, State.fresh]

@[simp] theorem State.raise_kept (s : State) (m : FaultMsg) :
    (State.raise s m).kept = s.kept := by
  unfold State.raise; split <;> simp [kept_fields]

@[simp] theorem State.laneFault_kept (s : State) (d : ℕ) (l : ℕ) (unit : ℕ) (code : ℕ) (st : Status) (ploc : ℕ)
  (info : ℕ) (addr : ℕ) :
    (State.laneFault s d l unit code st ploc info addr).kept = s.kept := by
  unfold State.laneFault; split <;> simp

@[simp] theorem State.ctxFault_kept (s : State) (ctx : ℕ) (d : ℕ) (unit : ℕ) (code : ℕ) (st : Status) (comp : Option
  ℕ) (info : ℕ) (addr : ℕ) :
    (State.ctxFault s ctx d unit code st comp info addr).kept = s.kept := by
  unfold State.ctxFault; split <;> simp

@[simp] theorem State.coreReport_kept (s : State) (k : ℕ) (c : Core) (f : CF) (pc : BitVec 12) (engine : ℕ) (unit :
  ℕ) (info : ℕ) (addr : ℕ) :
    (State.coreReport s k c f pc engine unit info addr).kept = s.kept := by
  unfold State.coreReport; dsimp only; (repeat' split) <;> simp

@[simp] theorem State.coreFault_kept (s : State) (k : ℕ) (f : CF) (pc : BitVec 12) (engine : ℕ) :
    (State.coreFault s k f pc engine).kept = s.kept := by
  unfold State.coreFault; dsimp only; (repeat' split) <;> simp

@[simp] theorem State.sramError_kept (s : State) (k : ℕ) (pc : BitVec 12) (engine : ℕ) (info : ℕ) (addr : ℕ) :
    (State.sramError s k pc engine info addr).kept = s.kept := by
  simp [State.sramError]

theorem State.issue_kept (s : State) (k op : Nat) (f : Core → Nat → State) (hf : ∀ c w, (f c w).kept = s.kept) :
    (s.issue k op f).kept = s.kept := by
  unfold State.issue; dsimp only; (repeat' split) <;> simp [hf]

theorem State.control_kept (s : State) (k op : Nat) (regOk : Nat → Bool) (f : Core → Nat → State)
    (hf : ∀ c w, (f c w).kept = s.kept) : (s.control k op regOk f).kept = s.kept := by
  unfold State.control
  refine State.issue_kept _ _ _ _ fun c w => ?_
  split <;> simp [hf]

@[simp] theorem State.countBusy_kept (s : State) (d : ℕ) (lane : Option ℕ) (e : Eng) (rate : ℕ) (n : ℕ) :
    (State.countBusy s d lane e rate n).kept = s.kept := by
  unfold State.countBusy; split <;> simp

@[simp] theorem State.commit_kept (s : State) (k : ℕ) (e : Eng) (pc : BitVec 12) (p : Plan) :
    (State.commit s k e pc p).kept = s.kept := by
  unfold State.commit; split <;> simp

@[simp] theorem State.mismatch_kept (s : State) (k : ℕ) (e : Eng) (pc : BitVec 12) (a : ℕ) :
    (State.mismatch s k e pc a).kept = s.kept := by
  unfold State.mismatch; dsimp only; (repeat' split) <;> simp

@[simp] theorem State.execute_kept (s : State) (k : ℕ) (e : Eng) (pc : BitVec 12) (ovl : List Eng) (ue : Option (ℕ ×
  ℕ)) (r : Except CF Plan) :
    (State.execute s k e pc ovl ue r).kept = s.kept := by
  unfold State.execute; (repeat' split) <;> simp_all

@[simp] theorem State.engine_kept (s : State) (k op : Nat) (e : Eng) (ovl : List Eng) (ue : Option (Nat × Nat))
    (plan : State → Nat → Nat → Except CF Plan) : (s.engine k op e ovl ue plan).kept = s.kept := by
  unfold State.engine
  refine State.issue_kept _ _ _ _ fun c w => ?_
  split
  · rfl
  · rw [State.execute_kept, State.setCore_kept]

@[simp] theorem State.advance_kept (s : State) (k : ℕ) (c : Core) :
    (State.advance s k c).kept = s.kept := by
  simp [State.advance]

@[simp] theorem State.layersEnd_kept (s : State) (k : ℕ) (lane : Option ℕ) :
    (State.layersEnd s k lane).kept = s.kept := by
  unfold State.layersEnd; dsimp only; (repeat' split) <;> simp [foldl_kept]

@[simp] theorem State.arrive_kept (s : State) (k : ℕ) (l : ℕ) (b : BitVec 8) :
    (State.arrive s k l b).kept = s.kept := by
  simp [State.arrive]

@[simp] theorem State.portDown_kept (s : State) (i : ℕ) (rsn : ℕ) :
    (State.portDown s i rsn).kept = s.kept := by
  simp [kept_fields, State.portDown]

@[simp] theorem State.sendDown_kept (s : State) (i : ℕ) (rsn : ℕ) :
    (State.sendDown s i rsn).kept = s.kept := by
  simp [State.sendDown]

@[simp] theorem State.allPortsDown_kept (s : State) : s.allPortsDown.kept = s.kept := by
  unfold State.allPortsDown; exact foldl_kept (by intro u a; (repeat' split) <;> simp) _ _

@[simp] theorem State.stopLanes_kept (s : State) :
    (State.stopLanes s).kept = s.kept := by
  simp [kept_fields, State.stopLanes]

@[simp] theorem Sb.halt_slot (x : Sb) (c : Nat) : (x.halt c).slot = x.slot := rfl

@[simp] theorem Sb.halt_ghint (x : Sb) (c : Nat) : (x.halt c).ghint = x.ghint := rfl

@[simp] theorem Sb.halt_role (x : Sb) (c : Nat) : (x.halt c).role = x.role := rfl

@[simp] theorem Sb.halt_pset (x : Sb) (c : Nat) : (x.halt c).pset = x.pset := rfl

@[simp] theorem Sb.halt_raw (x : Sb) (c : Nat) : (x.halt c).raw = x.raw := rfl

@[simp] theorem State.resetEntry_kept (s : State) (cause : Nat) : (s.resetEntry cause).kept = s.kept := by
  unfold State.resetEntry; dsimp only; split <;> simp [kept_fields]

@[simp] theorem State.meshRecord_kept (s : State) (d : ℕ) (r : ℕ) (port : ℕ) (cycle : ℕ) (owner : ℕ) (cls : ℕ) (code
  : ℕ) :
    (State.meshRecord s d r port cycle owner cls code).kept = s.kept := by
  simp [State.meshRecord]

@[simp] theorem State.meshFault_kept (s : State) (d : ℕ) (r : ℕ) (port : ℕ) (cycle : ℕ) (owner : ℕ) (cls : ℕ) (code
  : ℕ) (st : Status) (unit : optParam ℕ 2) :
    (State.meshFault s d r port cycle owner cls code st unit).kept = s.kept := by
  unfold State.meshFault; split <;> simp

@[simp] theorem State.routerFail_kept (s : State) (d : ℕ) (r : ℕ) :
    (State.routerFail s d r).kept = s.kept := by
  unfold State.routerFail; dsimp only; (repeat' split) <;> simp [foldl_kept]

@[simp] theorem State.elasticArrive_kept (s : State) (d : ℕ) (r : ℕ) (f : Flit) :
    (State.elasticArrive s d r f).kept = s.kept := by
  unfold State.elasticArrive; dsimp only; (repeat' split) <;> simp

@[simp] theorem State.elasticAll_kept (s : State) (d : ℕ) (r : ℕ) (l : List Flit) :
    (State.elasticAll s d r l).kept = s.kept := by
  simp [State.elasticAll, foldl_kept]

@[simp] theorem State.inject_kept (s : State) (d : ℕ) (n : ℕ) (owner : ℕ) (cls : ℕ) (frame : ℕ) (total : ℕ) :
    (State.inject s d n owner cls frame total).kept = s.kept := by
  simp [State.inject]

@[simp] theorem State.inboundHazard_kept (s : State) (k : ℕ) (ovl : List Eng) (w : Range) :
    (State.inboundHazard s k ovl w).kept = s.kept := by
  unfold State.inboundHazard; dsimp only; (repeat' split) <;> simp

@[simp] theorem State.scratchWrite_kept (s : State) (k : ℕ) (ovl : List Eng) (f : Flit) :
    (State.scratchWrite s k ovl f).kept = s.kept := by
  simp [State.scratchWrite]

@[simp] theorem State.clusterWrite_kept (s : State) (d : ℕ) (cl : ℕ) (a : ℕ) (l : List Byte) :
    (State.clusterWrite s d cl a l).kept = s.kept := by
  simp [State.clusterWrite]

@[simp] theorem State.linkEgress_kept (s : State) (d : ℕ) (i : ℕ) (f : Flit) :
    (State.linkEgress s d i f).kept = s.kept := by
  unfold State.linkEgress; dsimp only; (repeat' split) <;> simp

@[simp] theorem State.ringArrive_kept (s : State) (d : ℕ) (cl : ℕ) (r : AllocReq) :
    (State.ringArrive s d cl r).kept = s.kept := by
  unfold State.ringArrive; (repeat' split) <;> simp

@[simp] theorem State.localDeliver_kept (s : State) (d : ℕ) (ovl : List Eng) (f : Flit) (r : ℕ) (cycle : ℕ) :
    (State.localDeliver s d ovl f r cycle).kept = s.kept := by
  unfold State.localDeliver; dsimp only; (repeat' split) <;> simp

@[simp] theorem State.meshEvent_kept (s : State) (d : ℕ) (ovl : List Eng) (f : Flit) (a : MeshEv) :
    (State.meshEvent s d ovl f a).kept = s.kept := by
  unfold State.meshEvent; (repeat' split) <;> simp

@[simp] theorem State.carry_kept (s : State) (d : ℕ) (ovl : List Eng) (bad : List ℕ) (badMirror : List ℕ) (ecc :
  Bool) (f : Flit) :
    (State.carry s d ovl bad badMirror ecc f).kept = s.kept := by
  unfold State.carry; (repeat' split) <;> simp [foldl_kept]

@[simp] theorem State.txInject_kept (s : State) (k : ℕ) (w : ℕ) (n : ℕ) :
    (State.txInject s k w n).kept = s.kept := by
  simp [State.txInject]

@[simp] theorem State.txRecord_kept (s : State) (k : ℕ) (w : ℕ) (f : CF) :
    (State.txRecord s k w f).kept = s.kept := by
  unfold State.txRecord; split <;> simp

@[simp] theorem State.transfer_kept (s : State) (k op : Nat) (ovl : List Eng) (ue : Option (Nat × Nat))
    (plan : State → Nat → Nat → Except CF Plan) : (s.transfer k op ovl ue plan).kept = s.kept := by
  unfold State.transfer
  refine State.issue_kept _ _ _ _ fun c w => ?_
  have h : ((s.setCore k c.next).execute k .tx c.pc ovl ue (plan s k w)).kept = s.kept := by
    rw [State.execute_kept, State.setCore_kept]
  dsimp only; (repeat' split) <;> simp [h]

@[simp] theorem State.updRegion_kept (s : State) (m : Bool) (r : ℕ × ℕ × ℕ) (f : Region → Region) :
    (State.updRegion s m r f).kept = s.kept := by
  simp [State.updRegion]

@[simp] theorem State.memSet_kept (s : State) (m : Bool) (a : ℕ) (b : Byte) :
    (State.memSet s m a b).kept = s.kept := by
  unfold State.memSet; (repeat' split) <;> simp [kept_fields]

@[simp] theorem State.memWrite_kept (s : State) (m : Bool) (a : Nat) (l : List Byte) :
    (s.memWrite m a l).kept = s.kept := by
  induction l generalizing s a with
  | nil => rfl
  | cons b l ih => simp [State.memWrite, ih]

@[simp] theorem State.askAdvance_kept (s : State) (m : Bool) (r : ℕ × ℕ × ℕ) :
    (State.askAdvance s m r).kept = s.kept := by
  simp [State.askAdvance]

@[simp] theorem State.advanceRegion_kept (s : State) (m : Bool) (r : ℕ × ℕ × ℕ) :
    (State.advanceRegion s m r).kept = s.kept := by
  unfold State.advanceRegion; dsimp only; (repeat' split) <;> simp

@[simp] theorem State.deliver_kept (s : State) (d : ℕ) (n : ℕ) (cyc : ℕ) (ovl : List Eng) (bad : List ℕ) (badMirror
  : List ℕ) (ecc : Bool) :
    (State.deliver s d n cyc ovl bad badMirror ecc).kept = s.kept := by
  unfold State.deliver; dsimp only; (repeat' split) <;> simp

theorem State.loadRecord_kept (s : State) (d lane a : Nat) :
    ∀ t, s.loadRecord d lane a = .ok t → t.1.kept = s.kept := by
  intro t h
  unfold State.loadRecord at h; dsimp only at h
  (repeat' split at h) <;> first | (cases h; simp; done) | (cases h; rfl) | cases h

@[simp] theorem State.loadRecords_kept (s : State) (d lane n i a : Nat) :
    (s.loadRecords d lane n i a).1.kept = s.kept := by
  induction n generalizing s i a with
  | zero => rfl
  | succ n ih =>
    unfold State.loadRecords
    split
    · rfl
    · rename_i t b h
      rw [ih]; exact State.loadRecord_kept s d lane a _ h

@[simp] theorem State.loadImage_kept (s : State) (d : Nat) : (s.loadImage d).1.kept = s.kept := by
  have h := State.loadRecords_kept s d
  unfold State.loadImage; dsimp only
  split
  · rfl
  · split <;> (rename_i e; have k := congrArg (fun x => x.1.kept) e; dsimp only at k; rw [← k, h])

@[simp] theorem State.swapTables_kept (s : State) (d : ℕ) :
    (State.swapTables s d).kept = s.kept := by
  simp [kept_fields, State.swapTables]

@[simp] theorem State.meshSwap_kept (s : State) (d : ℕ) (lane : ℕ) :
    (State.meshSwap s d lane).kept = s.kept := by
  unfold State.meshSwap; dsimp only; (repeat' split) <;> simp

@[simp] theorem State.stopFault_kept (s : State) (m : Bool) (d : ℕ) (i : ℕ) (code : ℕ) (st : Status) (owner : ℕ)
  (addr : ℕ) :
    (State.stopFault s m d i code st owner addr).kept = s.kept := by
  unfold State.stopFault; split <;> simp

@[simp] theorem State.memArrive_kept (s : State) (m : Bool) (d : ℕ) (i : ℕ) (r : MemReq) :
    (State.memArrive s m d i r).kept = s.kept := by
  unfold State.memArrive; dsimp only; (repeat' split) <;> simp

@[simp] theorem State.memBytes_kept (s : State) (m : Bool) (d : ℕ) (owner : ℕ) (bursts : ℕ) :
    (State.memBytes s m d owner bursts).kept = s.kept := by
  unfold State.memBytes; (repeat' split) <;> simp

@[simp] theorem State.updSpindle_kept (s : State) (d : ℕ) (l : ℕ) (sp : ℕ) (f : Spindle → Spindle) :
    (State.updSpindle s d l sp f).kept = s.kept := by
  simp [State.updSpindle]

@[simp] theorem State.streamFault_kept (s : State) (d : ℕ) (l : ℕ) (code : ℕ) (st : Status) :
    (State.streamFault s d l code st).kept = s.kept := by
  simp [State.streamFault]

@[simp] theorem State.tileRead_kept (s : State) (d l sp : Nat) : (s.tileRead d l sp).kept = s.kept := by
  unfold State.tileRead; dsimp only; (repeat' split) <;> simp

@[simp] theorem State.updMemStop_kept (s : State) (m : Bool) (d : ℕ) (i : ℕ) (f : MemStop → MemStop) :
    (State.updMemStop s m d i f).kept = s.kept := by
  simp [State.updMemStop]

@[simp] theorem State.serve_kept (s : State) (m : Bool) (d i w : Nat) (r : MemReq) (ue : Bool) :
    (s.serve m d i w r ue).kept = s.kept := by
  unfold State.serve; dsimp only; (repeat' split) <;> simp

@[simp] theorem State.window_kept (s : State) (m : Bool) (d : ℕ) (i : ℕ) (w : ℕ) (arrivals : List MemReq) (ue :
  Bool) :
    (State.window s m d i w arrivals ue).kept = s.kept := by
  unfold State.window; dsimp only; (repeat' split) <;> simp [foldl_kept]

@[simp] theorem State.updArena_kept (s : State) (k : ℕ) (f : Arena → Arena) :
    (State.updArena s k f).kept = s.kept := by
  simp [kept_fields, State.updArena]

@[simp] theorem State.updPart_kept (s : State) (k : ℕ) (p : ℕ) (f : Part → Part) :
    (State.updPart s k p f).kept = s.kept := by
  simp [State.updPart]

@[simp] theorem State.updObj_kept (s : State) (k : ℕ) (h : ℕ) (f : Obj → Obj) :
    (State.updObj s k h f).kept = s.kept := by
  simp [State.updObj]

@[simp] theorem State.alloc_kept (s : State) (ctx : ℕ) (comp : ℕ) (vdie : ℕ) (tier : ℕ) (p : ℕ) (size : ℕ) :
    (State.alloc s ctx comp vdie tier p size).1.kept = s.kept := by
  unfold State.alloc; dsimp only; (repeat' split) <;> simp

@[simp] theorem State.returnG_kept (s : State) (k p : Nat) (gs : List Nat) : (s.returnG k p gs).kept = s.kept := by
  unfold State.returnG; dsimp only
  rw [foldl_kept]
  · simp
  · intro u a; (repeat' split) <;> simp

@[simp] theorem State.dropIfDead_kept (s : State) (k : ℕ) (h : ℕ) (barrier : Bool) :
    (State.dropIfDead s k h barrier).kept = s.kept := by
  unfold State.dropIfDead; dsimp only; (repeat' split) <;> simp

@[simp] theorem State.unref_kept (s : State) (h : ℕ) :
    (State.unref s h).kept = s.kept := by
  unfold State.unref; split <;> simp

@[simp] theorem State.freeObj_kept (s : State) (k : ℕ) (h : ℕ) (barrier : Bool) :
    (State.freeObj s k h barrier).kept = s.kept := by
  simp [State.freeObj]

@[simp] theorem State.returnPending_kept (s : State) (c : Nat) : (s.returnPending c).kept = s.kept := by
  unfold State.returnPending
  refine foldl_kept (fun u a => foldl_kept (fun v b => ?_) _ _) _ _
  dsimp only; split <;> simp

@[simp] theorem State.objWrite_kept (s : State) (k h o : Nat) (l : List Byte) : (s.objWrite k h o l).kept = s.kept
  := by
  unfold State.objWrite; exact foldl_kept (by intro u a; (repeat' split) <;> simp) _ _

@[simp] theorem State.dropContext_kept (s : State) (c : ℕ) :
    (State.dropContext s c).kept = s.kept := by
  unfold State.dropContext; split <;> simp [kept_fields]

@[simp] theorem State.hostBytes_kept (s : State) (c : ℕ) (n : ℕ) :
    (State.hostBytes s c n).kept = s.kept := by
  simp [State.hostBytes]

@[simp] theorem State.irqCheck_kept (s : State) (r : ℕ) (p : Bool) :
    (State.irqCheck s r p).kept = s.kept := by
  unfold State.irqCheck; dsimp only; (repeat' split) <;> simp

@[simp] theorem State.writeRecord_kept (s : State) (r : ℕ) (rcd : Payload) (p : Bool) :
    (State.writeRecord s r rcd p).kept = s.kept := by
  simp [State.writeRecord]

@[simp] theorem State.pushWork_kept (s : State) (p : Bool) (c : ℕ) (w : Work) :
    (State.pushWork s p c w).kept = s.kept := by
  simp [State.pushWork]

@[simp] theorem State.noticeOn_kept (s : State) (p : Bool) (r : ℕ) (l : List Payload) :
    (State.noticeOn s p r l).1.kept = s.kept := by
  unfold State.noticeOn; dsimp only; (repeat' split) <;> simp [foldl_kept]

@[simp] theorem State.notice_kept (s : State) (r : ℕ) (l : List Payload) :
    (State.notice s r l).1.kept = s.kept := by
  simp [State.notice]

@[simp] theorem State.pushCompletion_kept (s : State) (q : ℕ) (a : Accepted) (st : Status) (result : BitVec 256) :
    (State.pushCompletion s q a st result).kept = s.kept := by
  simp [State.pushCompletion]

@[simp] theorem State.dropFront_kept (s : State) (q : ℕ) :
    (State.dropFront s q).kept = s.kept := by
  unfold State.dropFront; dsimp only; (repeat' split) <;> simp

@[simp] theorem State.finish_kept (s : State) (q : ℕ) (st : Status) (result : BitVec 256) :
    (State.finish s q st result).kept = s.kept := by
  unfold State.finish; dsimp only; (repeat' split) <;> simp

@[simp] theorem State.settleN_kept (q n : Nat) (s : State) : (State.settleN q n s).kept = s.kept := by
  induction n generalizing s with
  | zero => rfl
  | succ n ih =>
    unfold State.settleN; dsimp only
    split
    · rfl
    · (repeat' split) <;> simp [ih]

@[simp] theorem State.settle_kept (s : State) (q : Nat) : (s.settle q).kept = s.kept := by
  simp [State.settle]

@[simp] theorem State.complete_kept (s : State) (q : ℕ) (st : Status) (result : optParam (BitVec 256) 0) :
    (State.complete s q st result).kept = s.kept := by
  unfold State.complete; dsimp only; (repeat' split) <;> simp

@[simp] theorem State.descr_kept (s : State) (q : ℕ) (op : ℕ) (used : List (ℕ × ℕ)) (fmt : List Byte → Bool) (denied
  : State → ℕ → List Byte → Bool) (f : State → Start → State) (fmtS : optParam (State → List Byte → Bool) fun x x_1
  => Bool.true) (hf : ∀ u a1, (f u a1).kept = u.kept) :
    (State.descr s q op used fmt denied f fmtS).kept = s.kept := by
  unfold State.descr; dsimp only; (repeat' split) <;> simp [hf]

theorem State.withData_kept (s : State) (q n : Nat) (f : List Byte → State) (failed : Status)
    (hf : ∀ l, (f l).kept = s.kept) : (s.withData q n f failed).kept = s.kept := by
  unfold State.withData; dsimp only; (repeat' split) <;> simp [hf]

@[simp] theorem State.sendOut_kept (s : State) (q : ℕ) (addr : ℕ) (l : List Byte) (st : Status) (result : BitVec
  256) :
    (State.sendOut s q addr l st result).kept = s.kept := by
  simp [State.sendOut]

@[simp] theorem State.releaseWaits_kept (s : State) (n : Nat) : (s.releaseWaits n).kept = s.kept := by
  unfold State.releaseWaits; exact foldl_kept (by intro u a; (repeat' split) <;> simp) _ _

@[simp] theorem State.append_kept (s : State) (k : ℕ) (kind : ℕ) (body : List Byte) :
    (State.append s k kind body).kept = s.kept := by
  simp [State.append]

@[simp] theorem State.appendClose_kept (s : State) (k : ℕ) (reason : ℕ) :
    (State.appendClose s k reason).kept = s.kept := by
  unfold State.appendClose; split <;> simp

@[simp] theorem State.account_kept (s : State) (c : ℕ) :
    (State.account s c).kept = s.kept := by
  simp [State.account]

@[simp] theorem State.freeFence_kept (s : State) (n : ℕ) :
    (State.freeFence s n).kept = s.kept := by
  simp [State.freeFence]

@[simp] theorem State.poison_kept (s : State) (n : ℕ) :
    (State.poison s n).kept = s.kept := by
  unfold State.poison; dsimp only; (repeat' split) <;> simp [foldl_kept]

@[simp] theorem State.raiseFence_kept (s : State) (n : ℕ) (v : Word64) (p : Bool) (c : ℕ) :
    (State.raiseFence s n v p c).kept = s.kept := by
  unfold State.raiseFence; dsimp only; (repeat' split) <;> simp

@[simp] theorem State.afterSignal_kept (s : State) (n : ℕ) :
    (State.afterSignal s n).kept = s.kept := by
  unfold State.afterSignal; split <;> simp

@[simp] theorem State.faultEvent_kept (s : State) (c : ℕ) (m : FaultMsg) (more : Bool) :
    (State.faultEvent s c m more).kept = s.kept := by
  unfold State.faultEvent; dsimp only; (repeat' split) <;> simp

@[simp] theorem State.stopComp_kept (s : State) (k : ℕ) :
    (State.stopComp s k).kept = s.kept := by
  simp [kept_fields, State.stopComp, foldl_kept]

@[simp] theorem State.quench_kept (s : State) (c : ℕ) (d : ℕ) :
    (State.quench s c d).kept = s.kept := by
  simp [kept_fields, State.quench, foldl_kept]

@[simp] theorem State.drainQueues_kept (s : State) (c : ℕ) :
    (State.drainQueues s c).kept = s.kept := by
  simp [State.drainQueues, foldl_kept]

@[simp] theorem State.loseBody_kept (s : State) (c : ℕ) (d : ℕ) :
    (State.loseBody s c d).kept = s.kept := by
  simp [State.loseBody, foldl_kept]

@[simp] theorem State.recordFault_kept (s : State) (c : ℕ) (m : FaultMsg) (more : Bool) :
    (State.recordFault s c m more).kept = s.kept := by
  simp [State.recordFault, foldl_kept]

@[simp] theorem State.recap_kept (s : State) :
    (State.recap s).kept = s.kept := by
  simp [kept_fields, State.recap]

@[simp] theorem State.revokeLane_kept (s : State) (d : ℕ) (l : ℕ) :
    (State.revokeLane s d l).kept = s.kept := by
  unfold State.revokeLane; split <;> simp [kept_fields]

@[simp] theorem State.revokeTag_kept (s : State) (d : ℕ) (c : ℕ) :
    (State.revokeTag s d c).kept = s.kept := by
  simp [State.revokeTag, foldl_kept]

@[simp] theorem State.ack_kept (s : State) (d : ℕ) (seq : ℕ) :
    (State.ack s d seq).kept = s.kept := by
  simp [kept_fields, State.ack]

@[simp] theorem State.updModel_kept (s : State) (g : Digest) (f : Model → Model) :
    (State.updModel s g f).kept = s.kept := by
  simp [kept_fields, State.updModel]

theorem State.takeRun_kept (s : State) (m : Bool) (d i n slot : Nat) :
    ∀ t, s.takeRun m d i n slot = some t → t.2.kept = s.kept := by
  intro t h
  simp only [State.takeRun, Option.map_eq_some_iff] at h
  obtain ⟨b, -, rfl⟩ := h
  exact foldl_kept (by simp) _ _

theorem foldlM_kept {α : Type} {f : State → α → Option State} (h : ∀ u a t, f u a = some t → t.kept = u.kept) (l :
  List α)
    (s t : State) (e : l.foldlM f s = some t) : t.kept = s.kept := by
  induction l generalizing s with
  | nil => simp at e; rw [e]
  | cons a l ih =>
    simp only [List.foldlM_cons, Option.bind_eq_bind, Option.bind_eq_some_iff] at e
    obtain ⟨u, hu, e⟩ := e
    rw [ih u e, h s a u hu]

theorem State.takeH_kept (s : State) (man : List Byte) (slot d v : Nat) :
    ∀ t, s.takeH man slot d v = some t → t.kept = s.kept := by
  intro t h
  refine foldlM_kept (fun u a t e => ?_) _ s t h
  dsimp only at e
  split at e
  · cases e; rfl
  · rw [Option.map_eq_some_iff] at e
    obtain ⟨b, hb, rfl⟩ := e
    simpa [kept_fields] using State.takeRun_kept _ _ _ _ _ _ b hb

theorem State.takeM_kept (s : State) (man : List Byte) (slot d v c : Nat) :
    ∀ t, s.takeM man slot d v c = some t → t.kept = s.kept := by
  intro t h
  refine foldlM_kept (fun u a t e => ?_) _ s t h
  dsimp only at e
  rw [Option.map_eq_some_iff] at e
  obtain ⟨b, hb, rfl⟩ := e
  simpa [kept_fields] using State.takeRun_kept _ _ _ _ _ _ b hb

@[simp] theorem State.dropH_kept (s : State) (slot : ℕ) (d : ℕ) :
    (State.dropH s slot d).kept = s.kept := by
  simp [State.dropH, foldl_kept]

@[simp] theorem State.dropM_kept (s : State) (slot : ℕ) (d : ℕ) :
    (State.dropM s slot d).kept = s.kept := by
  simp [State.dropM, foldl_kept]

@[simp] theorem State.toWarm_kept (s : State) (m : Model) :
    (State.toWarm s m).kept = s.kept := by
  simp [State.toWarm, foldl_kept]

@[simp] theorem State.toLibrary_kept (s : State) (m : Model) :
    (State.toLibrary s m).kept = s.kept := by
  simp [State.toLibrary, foldl_kept]

theorem State.takeEvicting_kept (take : State → Option State) (evict : State → Model → State)
    (ht : ∀ u t, take u = some t → t.kept = u.kept) (he : ∀ u m, (evict u m).kept = u.kept) (s : State) (l : List
      Model) :
    ∀ t, State.takeEvicting take evict s l = some t → t.kept = s.kept := by
  induction l generalizing s with
  | nil => exact ht s
  | cons m l ih =>
    intro t h
    unfold State.takeEvicting at h
    split at h
    · rename_i u hu; cases h; exact ht s _ hu
    · rw [ih _ t h, he]

theorem State.placeH_kept (s : State) (m : Model) (slot : Nat) (map : List (Nat × Nat)) :
    ∀ t, s.placeH m slot map = some t → t.kept = s.kept := by
  intro t h
  refine foldlM_kept (fun u a t e => ?_) _ s t h
  exact State.takeEvicting_kept _ _ (fun u t h => State.takeH_kept u _ _ _ _ t h) (fun u m => by simp)
    u _ t e

theorem State.placeM_kept (s : State) (m : Model) (slot c : Nat) (map : List (Nat × Nat)) :
    ∀ t, s.placeM m slot c map = some t → t.kept = s.kept := by
  intro t h
  refine foldlM_kept (fun u a t e => ?_) _ s t h
  exact State.takeEvicting_kept _ _ (fun u t h => State.takeM_kept u _ _ _ _ _ t h) (fun u m => by simp
   ) u _ t e

@[simp] theorem State.copyM_kept (s : State) (m : Model) (d v c : Nat) : (s.copyM m d v c).kept = s.kept := by
  unfold State.copyM; exact foldl_kept (by intro u a; (repeat' split) <;> simp) _ _

@[simp] theorem State.loadTile_kept (s : State) (d j : Nat) (g : Seg) (k slot copies : Nat) (rcd : List Byte) :
    (s.loadTile d j g k slot copies rcd).kept = s.kept := by
  unfold State.loadTile; dsimp only
  rw [foldl_kept (by simp), foldl_kept (by simp)]; simp

@[simp] theorem State.loadAll_kept (s : State) (m : Model) : (s.loadAll m).kept = s.kept := by
  unfold State.loadAll; dsimp only
  rw [foldl_kept, foldl_kept]
  · exact fun u a => foldl_kept (fun v b => foldl_kept (by simp) _ _) _ _
  · intro u a
    refine foldl_kept (fun v b => ?_) _ _
    split <;> simp

theorem Sec.setRoot_kept (x : Sec) (v : Digest) (s : State) (h : s.sec = x) : ({ s with sec := x.setRoot v } :
  State).kept = s.kept := by
  subst h
  unfold Sec.setRoot Sec.writeStore State.kept; dsimp only; (repeat' split) <;> rfl

@[simp] theorem State.newRoot_kept (s : State) : s.newRoot.kept = s.kept := by
  unfold State.newRoot
  split
  · exact (Sec.setRoot_kept s.fresh.2.sec _ s.fresh.2 rfl).trans (State.fresh_kept s)
  · rfl

@[simp] theorem State.pushF_kept (s : State) (write : Bool) (bytes : ℕ) (q : ℕ) (data : optParam (List Byte) []) :
    (State.pushF s write bytes q data).kept = s.kept := by
  simp [State.pushF]

@[simp] theorem State.popQueue_kept (s : State) (q : ℕ) :
    (State.popQueue s q).kept = s.kept := by
  simp [State.popQueue]

@[simp] theorem State.recordOut_kept (s : State) (r : ℕ) (rcd : Payload) (resv : Bool) (p : Bool) :
    (State.recordOut s r rcd resv p).kept = s.kept := by
  unfold State.recordOut; (repeat' split) <;> simp

theorem State.workOut_kept (s : State) (t p : Bool) (c : Nat) :
    ∀ u, s.workOut t p c = some u → u.kept = s.kept := by
  intro u h
  unfold State.workOut at h
  split at h
  · cases h
  · simp only [Option.some.injEq] at h
    subst h
    split
    · rw [foldl_kept (by simp)]; simp
    · simp
    · simp

@[simp] theorem State.readOut_kept (s : State) (p : Bool) (c : ℕ) (q : ℕ) (count : ℕ) (addr : ℕ) (len : ℕ) :
    (State.readOut s p c q count addr len).kept = s.kept := by
  simp [kept_fields, State.readOut]

@[simp] theorem State.fetch_kept (s : State) (p : Bool) (c : ℕ) (q : ℕ) :
    (State.fetch s p c q).kept = s.kept := by
  simp [State.fetch]

@[simp] theorem State.moveData_kept (s : State) (p : Bool) (c : ℕ) (q : ℕ) :
    (State.moveData s p c q).kept = s.kept := by
  unfold State.moveData; dsimp only; (repeat' split) <;> simp

@[simp] theorem State.serviceSlot_kept (s : State) (p : Bool) : (s.serviceSlot p).kept = s.kept := by
  unfold State.serviceSlot; dsimp only
  split
  · simp
  · split
    · rename_i h; rw [State.workOut_kept _ _ _ _ _ h]; simp
    · split
      · rename_i h
        split at h
        · cases h
        · rw [State.workOut_kept _ _ _ _ _ h]; simp
      · (repeat' split) <;> simp

@[simp] theorem State.accept_kept (s : State) (q : Nat) (p : Bool) (l : List Desc) : (s.accept q p l).kept = s.kept
  := by
  induction l generalizing s with
  | nil => rfl
  | cons d l ih =>
    unfold State.accept; dsimp only
    split
    · rfl
    · rw [ih]; simp [kept_fields]; (repeat' split) <;> simp

@[simp] theorem State.dataIn_kept (s : State) (tag : ℕ) (failed : Bool) (bytes : List Byte) :
    (State.dataIn s tag failed bytes).kept = s.kept := by
  unfold State.dataIn; dsimp only; (repeat' split) <;> simp [kept_fields]

@[simp] theorem State.badForm_kept (s : State) :
    (State.badForm s).kept = s.kept := by
  simp [kept_fields, State.badForm]

@[simp] theorem State.badOwner_kept (s : State) :
    (State.badOwner s).kept = s.kept := by
  simp [kept_fields, State.badOwner]

@[simp] theorem State.badTail_kept (s : State) :
    (State.badTail s).kept = s.kept := by
  simp [kept_fields, State.badTail]

@[simp] theorem State.tailBell_kept (s : State) (q : ℕ) (t : BitVec 32) :
    (State.tailBell s q t).kept = s.kept := by
  unfold State.tailBell; dsimp only; (repeat' split) <;> simp

@[simp] theorem State.headBell_kept (s : State) (r : ℕ) (h : BitVec 32) :
    (State.headBell s r h).kept = s.kept := by
  unfold State.headBell; dsimp only; (repeat' split) <;> simp

@[simp] theorem State.armBell_kept (s : State) (r : ℕ) (h : BitVec 32) :
    (State.armBell s r h).kept = s.kept := by
  simp [State.armBell]

@[simp] theorem State.doorbell_kept (s : State) (c : ℕ) (word : Word64) (zero : Bool) :
    (State.doorbell s c word zero).kept = s.kept := by
  unfold State.doorbell; dsimp only; (repeat' split) <;> simp

@[simp] theorem State.freeArenas_kept (s : State) (k : Nat) : (s.freeArenas k).kept = s.kept := by
  unfold State.freeArenas; dsimp only
  have h : ∀ (l : List (Nat × Arena)) (u : State), (l.foldl (fun s e =>
    (List.range e.2.regions.length).foldl (fun s i =>
      match s.arenaRegion e.1 i with
      | some (m, r) =>
        let s := s.updRegion m r fun x => { x with arena := none, tagged := false }
        if e.2.used.any fun g => g / 32 = i then s.askAdvance m r else s
      | none => s) s) u).kept = u.kept := by
    intro l u
    refine foldl_kept (fun u a => foldl_kept (fun v b => ?_) _ _) _ _
    dsimp only; (repeat' split) <;> simp
  exact h _ _

@[simp] theorem State.unbindCores_kept (s : State) (l : Nat) (cores : List Nat) (clusters : List (Nat × Nat)) :
    (s.unbindCores l cores clusters).kept = s.kept := by
  unfold State.unbindCores; dsimp only
  rw [foldl_kept (by simp), foldl_kept]
  intro u a; (repeat' split) <;> simp

@[simp] theorem State.freeResources_kept (s : State) (k : ℕ) :
    (State.freeResources s k).kept = s.kept := by
  simp [State.freeResources]

@[simp] theorem State.freeComp_kept (s : State) (k : ℕ) :
    (State.freeComp s k).kept = s.kept := by
  simp [State.freeComp, foldl_kept]

@[simp] theorem State.grant_kept (s : State) (p : Bool) (c : ℕ) (l : List ℕ) :
    (State.grant s p c l).kept = s.kept := by
  simp [State.grant]

@[simp] theorem State.grantEv_kept (s : State) (c ev : Nat) : (s.grantEv c ev).kept = s.kept := by
  unfold State.grantEv; exact foldl_kept (by intro u a; (repeat' split) <;> simp) _ _

@[simp] theorem State.ctxOpen_kept (s : State) (q : ℕ) (b : List Byte) (g : List Byte) :
    (State.ctxOpen s q b g).kept = s.kept := by
  unfold State.ctxOpen; dsimp only; (repeat' split) <;> simp

@[simp] theorem State.closeAccept_kept (s : State) (c : ℕ) :
    (State.closeAccept s c).kept = s.kept := by
  unfold State.closeAccept; (repeat' split) <;> simp [kept_fields, foldl_kept]

@[simp] theorem State.closeFree_kept (s : State) (c : ℕ) :
    (State.closeFree s c).kept = s.kept := by
  simp [kept_fields, State.closeFree, foldl_kept]

@[simp] theorem State.noRoute_kept (s : State) :
    (State.noRoute s).kept = s.kept := by
  simp [kept_fields, State.noRoute]

@[simp] theorem State.countFwd_kept (s : State) :
    (State.countFwd s).kept = s.kept := by
  simp [kept_fields, State.countFwd]

@[simp] theorem State.countDrop_kept (s : State) :
    (State.countDrop s).kept = s.kept := by
  simp [kept_fields, State.countDrop]

@[simp] theorem State.sendPeer_kept (s : State) (i : ℕ) (m : GenMsg) :
    (State.sendPeer s i m).kept = s.kept := by
  simp [State.sendPeer]

@[simp] theorem State.sendGeneral_kept (s : State) (dest : ℕ) (m : GenMsg) :
    (State.sendGeneral s dest m).kept = s.kept := by
  unfold State.sendGeneral; split <;> simp

@[simp] theorem State.sendUnits_kept (s : State) (ports : List ℕ) (pos : ℕ) (u : LaneUnit) :
    (State.sendUnits s ports pos u).kept = s.kept := by
  simp [State.sendUnits, foldl_kept]

@[simp] theorem State.sendPool_kept (s : State) (dest : ℕ) (sid : Word64) (epoch : BitVec 32) (l : List Byte) :
    (State.sendPool s dest sid epoch l).kept = s.kept := by
  unfold State.sendPool; split <;> simp

@[simp] theorem State.takeCores_kept (s : State) (l : ℕ) (ks : List ℕ) :
    (State.takeCores s l ks).kept = s.kept := by
  simp [State.takeCores, foldl_kept]

@[simp] theorem State.takeClusters_kept (s : State) (l : ℕ) (cs : List (ℕ × ℕ)) :
    (State.takeClusters s l cs).kept = s.kept := by
  simp [State.takeClusters, foldl_kept]

@[simp] theorem State.loadCore_kept (s : State) (v : Variant) (l : ℕ) (vd : ℕ) (vc : ℕ) (vk : ℕ) (vindex : ℕ) (i :
  ℕ) :
    (State.loadCore s v l vd vc vk vindex i).kept = s.kept := by
  simp [State.loadCore]

@[simp] theorem State.loadCores_kept (s : State) (v : Variant) (l : Nat) (b : Binding) :
    (s.loadCores v l b).kept = s.kept := by
  unfold State.loadCores; dsimp only
  generalize (b.flatMap _) = all
  suffices h : ∀ (a : State × Tab Nat), (all.foldl (fun (a : State × Tab Nat) e =>
    (a.1.loadCore v l e.1 e.2.1 e.2.2.1 (Tab.look 0 a.2 (keyDie e.2.2.2)) e.2.2.2,
      Tab.put 0 a.2 (keyDie e.2.2.2) (Tab.look 0 a.2 (keyDie e.2.2.2) + 1))) a).1.kept = a.1.kept from h _
  intro a
  induction all generalizing a with
  | nil => rfl
  | cons e l ih => rw [List.foldl_cons, ih]; simp

@[simp] theorem State.laneImages_kept (s : State) (map : List (Nat × Nat)) (l : Nat) (v : Variant) (rfw : Nat) :
    (s.laneImages map l v rfw).kept = s.kept := by
  unfold State.laneImages; exact foldl_kept (by intro u a; (repeat' split) <;> simp) _ _

@[simp] theorem State.kvReset_kept (s : State) (k : ℕ) :
    (State.kvReset s k).kept = s.kept := by
  simp [State.kvReset, foldl_kept]

@[simp] theorem State.takeArena_kept (s : State) (k : ℕ) (ctx : ℕ) (shape : List Byte) (v : Variant) (vd : ℕ) (d :
  ℕ) (tier : ℕ) :
    (State.takeArena s k ctx shape v vd d tier).kept = s.kept := by
  unfold State.takeArena; (repeat' split) <;> simp [foldl_kept]

@[simp] theorem State.unitWrite_kept (s : State) (u : ℕ × ℕ × Option ℕ) (a : ℕ) (l : List Byte) :
    (State.unitWrite s u a l).kept = s.kept := by
  unfold State.unitWrite; split <;> simp

@[simp] theorem State.moveRanges_kept (s : State) (k : ℕ) :
    (State.moveRanges s k).kept = s.kept := by
  unfold State.moveRanges; dsimp only; (repeat' split) <;> simp [foldl_kept]

@[simp] theorem State.capsBack_kept (s : State) (k : ℕ) :
    (State.capsBack s k).kept = s.kept := by
  unfold State.capsBack; split <;> simp

@[simp] theorem State.advanceGen_kept (s : State) (k : ℕ) :
    (State.advanceGen s k).kept = s.kept := by
  simp [State.advanceGen]

@[simp] theorem State.bindingRecord_kept (s : State) (k : ℕ) :
    (State.bindingRecord s k).kept = s.kept := by
  unfold State.bindingRecord; dsimp only; (repeat' split) <;> simp

@[simp] theorem State.secondSwap_kept (s : State) (k : Nat) : (s.secondSwap k).kept = s.kept := by
  unfold State.secondSwap; dsimp only
  split
  · rfl
  · split
    all_goals
      simp only [State.complete_kept, State.capsBack_kept]
      rw [foldl_kept (by intro u a; (repeat' split) <;> simp), State.loadCores_kept, foldl_kept (by
        simp)]
      simp

@[simp] theorem State.balance_kept (s : State) (k : ℕ) :
    (State.balance s k).kept = s.kept := by
  unfold State.balance; dsimp only; (repeat' split) <;> simp [foldl_kept]

@[simp] theorem State.startSwap_kept (s : State) (k : ℕ) :
    (State.startSwap s k).kept = s.kept := by
  unfold State.startSwap; dsimp only; (repeat' split) <;> simp

@[simp] theorem State.hostop_kept (s : State) (k : ℕ) (hold : Bool) (body : List Byte) :
    (State.hostop s k hold body).kept = s.kept := by
  unfold State.hostop; split <;> simp

@[simp] theorem State.hostAlloc_kept (s : State) (hold : Bool) (q k vdie tier size : Nat) :
    (s.hostAlloc hold q k vdie tier size).kept = s.kept := by
  unfold State.hostAlloc
  have h := State.alloc_kept s (s.comp k).ctx k vdie tier hostPart size
  split
  rename_i e
  rw [e] at h
  simpa [kept_fields] using h

@[simp] theorem State.endRef_kept (s : State) (q : ℕ) (a : ℕ) (h : ℕ) :
    (State.endRef s q a h).kept = s.kept := by
  unfold State.endRef; (repeat' split) <;> simp

@[simp] theorem State.freeNow_kept (s : State) (hold : Bool) (barrier : Bool) (q : Option ℕ) (a : ℕ) (h : ℕ) :
    (State.freeNow s hold barrier q a h).kept = s.kept := by
  unfold State.freeNow; split <;> simp

@[simp] theorem State.applyPending_kept (s : State) (k : Nat) (hold : Bool) : (s.applyPending k hold).kept = s.kept
  := by
  unfold State.applyPending; dsimp only
  rw [foldl_kept, State.returnPending_kept, foldl_kept]
  · simp
  · intro u a; split <;> simp
  · intro u a; split <;> simp

@[simp] theorem State.serveReq_kept (s : State) (k : ℕ) (r : AllocReq) :
    (State.serveReq s k r).1.kept = s.kept := by
  unfold State.serveReq; dsimp only; (repeat' split) <;> simp

@[simp] theorem State.answerReq_kept (s : State) (k : Nat) (r : AllocReq) : (s.answerReq k r).kept = s.kept := by
  unfold State.answerReq
  have h := State.serveReq_kept s k r
  split
  rename_i e
  rw [e] at h
  simpa [kept_fields] using h

theorem State.objDescr_kept (s : State) (q op : Nat) (used : List (Nat × Nat)) (fmt : List Byte → Bool)
    (f : State → Start → Nat → Nat → State) (fmtS : State → List Byte → Bool) (hf : ∀ u a b c, (f u a b c).kept =
      u.kept) :
    (s.objDescr q op used fmt f fmtS).kept = s.kept := by
  unfold State.objDescr
  apply State.descr_kept
  intro u a
  dsimp only; (repeat' split) <;> simp [hf]

@[simp] theorem State.copyEnd_kept (s : State) (q : ℕ) (a : ℕ) (h : ℕ) (off : ℕ) (len : ℕ) (dir : Bool) (l : List
  Byte) (out : ℕ) :
    (State.copyEnd s q a h off len dir l out).kept = s.kept := by
  unfold State.copyEnd; split <;> simp

@[simp] theorem State.winRead_kept (s : State) (tag : ℕ) (off : ℕ) (len : ℕ) :
    (State.winRead s tag off len).kept = s.kept := by
  unfold State.winRead; (repeat' split) <;> simp

@[simp] theorem State.winWrite_kept (s : State) (off : ℕ) (bytes : List Byte) :
    (State.winWrite s off bytes).kept = s.kept := by
  unfold State.winWrite; (repeat' split) <;> simp

@[simp] theorem State.tokenEvent_kept (s : State) (k : ℕ) (lp : Loop) (l : List Payload) :
    (State.tokenEvent s k lp l).1.kept = s.kept := by
  unfold State.tokenEvent; dsimp only; (repeat' split) <;> simp [foldl_kept]

@[simp] theorem State.endLoop_kept (s : State) (k : ℕ) (endc : ℕ) :
    (State.endLoop s k endc).kept = s.kept := by
  unfold State.endLoop; dsimp only; (repeat' split) <;> simp [kept_fields, foldl_kept]

@[simp] theorem State.finalEvent_kept (s : State) (k : ℕ) (st : Status) (endc : ℕ) :
    (State.finalEvent s k st endc).kept = s.kept := by
  unfold State.finalEvent; dsimp only; (repeat' split) <;> simp

@[simp] theorem State.arriveAll_kept (s : State) (k : ℕ) (b : ℕ) :
    (State.arriveAll s k b).kept = s.kept := by
  simp [State.arriveAll, foldl_kept]

@[simp] theorem State.runTree_kept (s : State) (k : ℕ) (t : Tree) :
    (State.runTree s k t).kept = s.kept := by
  unfold State.runTree; dsimp only; (repeat' split) <;> simp [foldl_kept]

@[simp] theorem State.rejectDraft_kept (s : State) (k : ℕ) :
    (State.rejectDraft s k).kept = s.kept := by
  simp [State.rejectDraft]

@[simp] theorem State.chooseTree_kept (s : State) (k : ℕ) (r : Option (List Byte)) :
    (State.chooseTree s k r).kept = s.kept := by
  unfold State.chooseTree; dsimp only; (repeat' split) <;> simp

@[simp] theorem State.sendRecord_kept (s : State) (k : Nat) (b : List Byte) : (s.sendRecord k b).kept = s.kept := by
  unfold State.sendRecord; exact foldl_kept (by intro u a; (repeat' split) <;> simp) _ _

@[simp] theorem State.barrierWordTo_kept (s : State) (d : ℕ) (l : ℕ) (e : ℕ) :
    (State.barrierWordTo s d l e).kept = s.kept := by
  unfold State.barrierWordTo; dsimp only; (repeat' split) <;> simp

@[simp] theorem State.frameStart_kept (s : State) (d : Nat) : (s.frameStart d).kept = s.kept := by
  unfold State.frameStart; dsimp only
  rw [foldl_kept (fun u a => foldl_kept (by simp) _ _), foldl_kept]
  · simp
  · intro u a; (repeat' split) <;> simp

@[simp] theorem State.releaseDown_kept (s : State) (k : ℕ) :
    (State.releaseDown s k).kept = s.kept := by
  unfold State.releaseDown; dsimp only; (repeat' split) <;> simp [foldl_kept]

@[simp] theorem State.compArrival_kept (s : State) (k : ℕ) :
    (State.compArrival s k).kept = s.kept := by
  unfold State.compArrival; dsimp only; (repeat' split) <;> simp

@[simp] theorem State.resume_kept (s : State) (m : Comp) (d : Nat) (b : BitVec 8) : (s.resume m d b).kept = s.kept
  := by
  unfold State.resume; exact foldl_kept (by intro u a; dsimp only; split <;> simp) _ _

@[simp] theorem State.startLayers_kept (s : State) (k : ℕ) (d : ℕ) :
    (State.startLayers s k d).kept = s.kept := by
  simp [State.startLayers, foldl_kept]

@[simp] theorem State.startRelease_kept (s : State) (k : ℕ) (d : ℕ) :
    (State.startRelease s k d).kept = s.kept := by
  unfold State.startRelease; dsimp only; (repeat' split) <;> simp

@[simp] theorem State.commitEffects_kept (s : State) (k : ℕ) :
    (State.commitEffects s k).kept = s.kept := by
  unfold State.commitEffects; dsimp only; (repeat' split) <;> simp [kept_fields]

@[simp] theorem State.commitRelease_kept (s : State) (k : ℕ) (d : ℕ) :
    (State.commitRelease s k d).kept = s.kept := by
  unfold State.commitRelease; dsimp only; (repeat' split) <;> simp

@[simp] theorem State.releaseDie_kept (s : State) (k : ℕ) (d : ℕ) :
    (State.releaseDie s k d).kept = s.kept := by
  unfold State.releaseDie; dsimp only; (repeat' split) <;> simp

@[simp] theorem State.takeParams_kept (s : State) (k : ℕ) :
    (State.takeParams s k).kept = s.kept := by
  unfold State.takeParams; (repeat' split) <;> simp

@[simp] theorem State.guardRing_kept (s : State) (k : ℕ) :
    (State.guardRing s k).kept = s.kept := by
  unfold State.guardRing; split <;> simp

@[simp] theorem State.takeSource_kept (s : State) (k : ℕ) :
    (State.takeSource s k).kept = s.kept := by
  simp [State.takeSource]

@[simp] theorem State.startStep_kept (s : State) (k : ℕ) (lp : Loop) :
    (State.startStep s k lp).kept = s.kept := by
  unfold State.startStep; dsimp only; (repeat' split) <;> simp

@[simp] theorem State.noCandidate_kept (s : State) (k : ℕ) :
    (State.noCandidate s k).kept = s.kept := by
  simp [State.noCandidate]

@[simp] theorem State.issueCommit_kept (s : State) (k : ℕ) (c : CommitW) :
    (State.issueCommit s k c).kept = s.kept := by
  simp [State.issueCommit, foldl_kept]

@[simp] theorem State.applyCommit_kept (s : State) (m : Comp) (d : ℕ) (t : Tree) (c : CommitW) :
    (State.applyCommit s m d t c).kept = s.kept := by
  simp [State.applyCommit]

@[simp] theorem State.growHistory_kept (s : State) (k : ℕ) (t : Tree) (c : CommitW) :
    (State.growHistory s k t c).kept = s.kept := by
  simp [State.growHistory]

@[simp] theorem State.sendBal_kept (s : State) (k : ℕ) :
    (State.sendBal s k).kept = s.kept := by
  unfold State.sendBal; dsimp only; (repeat' split) <;> simp

@[simp] theorem State.wakePrograms_kept (s : State) (k : Nat) (l : List Payload) : (s.wakePrograms k l).kept =
  s.kept := by
  unfold State.wakePrograms; exact foldl_kept (by intro u a; dsimp only; (repeat' split) <;> simp) _ _

@[simp] theorem State.stepRecords_kept (s : State) (k : ℕ) (t : Tree) (c : CommitW) (ntok : ℕ) (kept : Bool) :
    (State.stepRecords s k t c ntok kept).kept = s.kept := by
  simp [State.stepRecords, foldl_kept]

@[simp] theorem State.nextRecords_kept (s : State) (k : ℕ) :
    (State.nextRecords s k).kept = s.kept := by
  unfold State.nextRecords; dsimp only; (repeat' split) <;> simp

@[simp] theorem State.eventStep_kept (s : State) (k : ℕ) (lp : Loop) (t : Tree) (c : CommitW) :
    (State.eventStep s k lp t c).kept = s.kept := by
  unfold State.eventStep; dsimp only; (repeat' split) <;> simp

@[simp] theorem State.sourceRecord_kept (s : State) (k : ℕ) (lp : Loop) (r : Option (List Byte)) :
    (State.sourceRecord s k lp r).kept = s.kept := by
  unfold State.sourceRecord; (repeat' split) <;> simp

@[simp] theorem State.pwrIrq_kept (s : State) : s.pwrIrq.kept = s.kept := by
  unfold State.pwrIrq
  split
  · exact foldl_kept (by intro u a; split <;> simp) _ _
  · rfl

@[simp] theorem State.cutLanes_kept (s : State) :
    (State.cutLanes s).kept = s.kept := by
  simp [kept_fields, State.cutLanes]

@[simp] theorem State.endLoops_kept (s : State) : s.endLoops.kept = s.kept := by
  unfold State.endLoops; exact foldl_kept (by intro u a; dsimp only; (repeat' split) <;> simp) _ _

@[simp] theorem State.writeLossDump_kept (s : State) :
    (State.writeLossDump s).kept = s.kept := by
  unfold State.writeLossDump; split <;> simp [kept_fields]

@[simp] theorem State.warning_kept (s : State) (cause : ℕ) (stamp : ℕ) :
    (State.warning s cause stamp).kept = s.kept := by
  unfold State.warning; split <;> simp [kept_fields]

@[simp] theorem State.endCauses_kept (s : State) (cs : List ℕ) :
    (State.endCauses s cs).kept = s.kept := by
  unfold State.endCauses; dsimp only; (repeat' split) <;> simp [kept_fields]

@[simp] theorem State.capWrite_kept (s : State) (v : ℕ) :
    (State.capWrite s v).kept = s.kept := by
  unfold State.capWrite; split <;> simp [kept_fields]

@[simp] theorem State.showTAvail_kept (s : State) :
    (State.showTAvail s).kept = s.kept := by
  unfold State.showTAvail; dsimp only; (repeat' split) <;> simp [kept_fields]

@[simp] theorem State.eachFmc_kept (s : State) (f : Fmc → Fmc) :
    (State.eachFmc s f).kept = s.kept := by
  simp [State.eachFmc, foldl_kept]

@[simp] theorem State.qualify_kept (s : State) (n : Nat) : (s.qualify n).kept = s.kept := by
  unfold State.qualify; dsimp only; (repeat' split) <;> simp [kept_fields]

@[simp] theorem State.monitor_kept (s : State) (d : ℕ) (n : ℕ) (chk : ℕ) :
    (State.monitor s d n chk).kept = s.kept := by
  unfold State.monitor; dsimp only; (repeat' split) <;> simp

@[simp] theorem State.fmcGo_kept (s : State) (d : ℕ) :
    (State.fmcGo s d).kept = s.kept := by
  simp [State.fmcGo]

@[simp] theorem State.secEnd_kept (s : State) (st : Status) :
    (State.secEnd s st).kept = s.kept := by
  simp [kept_fields, State.secEnd]

@[simp] theorem State.secCmd_kept (s : State) (op : ℕ) (sideband : Bool) (allowed : Bool) (f : State → State) (hf :
  ∀ u, (f u).kept = u.kept) :
    (State.secCmd s op sideband allowed f).kept = s.kept := by
  unfold State.secCmd; (repeat' split) <;> (simp_all [kept_fields]; done)

@[simp] theorem State.lcDenied_kept (s : State) :
    (State.lcDenied s).kept = s.kept := by
  simp [kept_fields, State.lcDenied]

@[simp] theorem State.fsSet_kept (s : State) (port : Option Nat) : (s.fsSet port).kept = s.kept := by
  unfold State.fsSet Sec.writeStore; dsimp only; (repeat' split) <;> simp [kept_fields]

@[simp] theorem State.tenantSwitch_kept (s : State) : s.tenantSwitch.kept = s.kept := by
  unfold State.tenantSwitch Sec.switchKeys Sec.writeStore; dsimp only; (repeat' split) <;> simp [kept_fields]

@[simp] theorem State.resetWrite_kept (s : State) (key : Byte) :
    (State.resetWrite s key).kept = s.kept := by
  unfold State.resetWrite; (repeat' split) <;> simp [kept_fields]

@[simp] theorem State.release_kept (s : State) : s.release.kept = s.kept := by
  unfold State.release Sec.afterReset; dsimp only
  rw [State.recap_kept, foldl_kept (by simp), foldl_kept (by simp)]; rfl

@[simp] theorem State.restoreLinks_kept (s : State) :
    (State.restoreLinks s).kept = s.kept := by
  unfold State.restoreLinks; (repeat' split) <;> simp [kept_fields, foldl_kept]

@[simp] theorem State.enableDie_kept (s : State) (d : ℕ) :
    (State.enableDie s d).kept = s.kept := by
  unfold State.enableDie; dsimp only; (repeat' split) <;> simp [foldl_kept]

@[simp] theorem State.clearDumps_kept (s : State) :
    (State.clearDumps s).kept = s.kept := by
  simp [kept_fields, State.clearDumps]

theorem State.hearth_kept (s : State) (q op : Nat) (used : List (Nat × Nat)) (fmt : List Byte → Bool)
    (f : State → Model → List Byte → State) (hf : ∀ u a b, (f u a b).kept = u.kept) :
    (s.hearth q op used fmt f).kept = s.kept := by
  unfold State.hearth
  apply State.descr_kept
  intro u a
  (repeat' split) <;> simp [hf]

@[simp] theorem State.begin_kept (s : State) (q : ℕ) :
    (State.begin s q).kept = s.kept := by
  simp [State.begin]

@[simp] theorem State.copyMissing_kept (s : State) (m : Model) : (s.copyMissing m).kept = s.kept := by
  unfold State.copyMissing; exact foldl_kept (by intro u a; dsimp only; (repeat' split) <;> simp) _ _

@[simp] theorem State.hearthEnd_kept (s : State) (q : ℕ) (st : Status) :
    (State.hearthEnd s q st).kept = s.kept := by
  unfold State.hearthEnd; dsimp only; (repeat' split) <;> simp [kept_fields]

@[simp] theorem State.fRun_kept (s : State) (d : ℕ) (uncorrectable : Bool) :
    (State.fRun s d uncorrectable).kept = s.kept := by
  unfold State.fRun; dsimp only; (repeat' split) <;> simp [kept_fields]

theorem State.placeLoad_kept (s : State) (m : Model) (slot c : Nat) (map : List (Nat × Nat)) :
    ∀ t, s.placeLoad m slot c map = some t → t.kept = s.kept := by
  intro t h
  unfold State.placeLoad at h; dsimp only at h
  split at h
  · cases h
  · rename_i u hu
    rw [State.placeH_kept _ _ _ _ t h, State.placeM_kept _ _ _ _ _ u hu]
    exact foldl_kept (by simp) _ _

@[simp] theorem State.takeHello_kept (s : State) (i : ℕ) (dev : ℕ) (peerPort : ℕ) (role : ℕ) (nonce : Digest) :
    (State.takeHello s i dev peerPort role nonce).kept = s.kept := by
  unfold State.takeHello; (repeat' split) <;> simp

@[simp] theorem State.takeEcho_kept (s : State) (i : ℕ) (token : ℕ) (hold : ℕ) :
    (State.takeEcho s i token hold).kept = s.kept := by
  unfold State.takeEcho; split <;> simp

@[simp] theorem State.takeLanes_kept (s : State) (i : ℕ) (excl : ℕ) (degraded : ℕ) :
    (State.takeLanes s i excl degraded).kept = s.kept := by
  unfold State.takeLanes; split <;> simp

@[simp] theorem State.takeRekey_kept (s : State) (i : ℕ) (epoch : BitVec 32) (fcsw : ℕ) :
    (State.takeRekey s i epoch fcsw).kept = s.kept := by
  unfold State.takeRekey; dsimp only; (repeat' split) <;> simp

@[simp] theorem State.startRekey_kept (s : State) (i : ℕ) :
    (State.startRekey s i).kept = s.kept := by
  unfold State.startRekey; dsimp only; (repeat' split) <;> simp

@[simp] theorem State.takeDown_kept (s : State) (i : ℕ) :
    (State.takeDown s i).kept = s.kept := by
  unfold State.takeDown; split <;> simp

@[simp] theorem State.retrain_kept (s : State) (i : ℕ) :
    (State.retrain s i).kept = s.kept := by
  unfold State.retrain; split <;> simp

@[simp] theorem State.linkEnable_kept (s : State) (i : ℕ) (on : Bool) :
    (State.linkEnable s i on).kept = s.kept := by
  unfold State.linkEnable; dsimp only; (repeat' split) <;> simp

@[simp] theorem State.startLoop_kept (s : State) (q : ℕ) (k : ℕ) (b : List Byte) (params : List Byte) (v : Variant)
  (slot : ℕ) (fail : Option ℕ) (f : ℕ) (bound : ℕ) :
    (State.startLoop s q k b params v slot fail f bound).kept = s.kept := by
  unfold State.startLoop; (repeat' split) <;> simp [foldl_kept]

@[simp] theorem State.askStop_kept (s : State) (k : ℕ) :
    (State.askStop s k).kept = s.kept := by
  simp [State.askStop]

@[simp] theorem State.laneStop_kept (s : State) (d : ℕ) (l : ℕ) :
    (State.laneStop s d l).kept = s.kept := by
  unfold State.laneStop; split <;> simp

@[simp] theorem State.laneDsrc_kept (s : State) (d : ℕ) (l : ℕ) (v : ℕ) :
    (State.laneDsrc s d l v).kept = s.kept := by
  unfold State.laneDsrc; dsimp only; (repeat' split) <;> simp

@[simp] theorem State.updUcp_kept (s : State) (d : ℕ) (l : ℕ) (f : Ucp → Ucp) :
    (State.updUcp s d l f).kept = s.kept := by
  simp [State.updUcp]

@[simp] theorem State.ucpReturn_kept (s : State) (d : ℕ) (l : ℕ) (a0 : ℕ) (a1 : ℕ) :
    (State.ucpReturn s d l a0 a1).kept = s.kept := by
  simp [State.ucpReturn]

@[simp] theorem State.ucpFault_kept (s : State) (d : ℕ) (l : ℕ) :
    (State.ucpFault s d l).kept = s.kept := by
  simp [State.ucpFault]

theorem State.ucpCall_kept (s : State) (d l n call : Nat) (f : Nat → State) (hf : ∀ k, (f k).kept = s.kept) :
    (s.ucpCall d l n call f).kept = s.kept := by
  unfold State.ucpCall; dsimp only; (repeat' split) <;> simp [hf]

@[simp] theorem State.markRing_kept (s : State) (v : Word64) (k : ℕ) :
    (State.markRing s v k).kept = s.kept := by
  unfold State.markRing; split <;> simp

@[simp] theorem State.signature_kept (s : State) : s.signature.2.kept = s.kept := by
  unfold State.signature; split <;> simp

@[simp] theorem State.checkpoint_kept (s : State) (k : ℕ) :
    (State.checkpoint s k).kept = s.kept := by
  unfold State.checkpoint; dsimp only; (repeat' split) <;> simp

@[simp] theorem State.recRelease_kept (s : State) :
    (State.recRelease s).kept = s.kept := by
  simp [State.recRelease]

@[simp] theorem State.hifEnable_kept (s : State) (v : Bool) :
    (State.hifEnable s v).kept = s.kept := by
  unfold State.hifEnable; dsimp only; (repeat' split) <;> simp [kept_fields]

@[simp] theorem State.writeLane_kept (s : State) (d : ℕ) (l : ℕ) (o : ℕ) (v : ℕ) :
    (State.writeLane s d l o v).kept = s.kept := by
  unfold State.writeLane; (repeat' split) <;> simp

@[simp] theorem State.writeLink_kept (s : State) (i : ℕ) (o : ℕ) (v : ℕ) :
    (State.writeLink s i o v).kept = s.kept := by
  unfold State.writeLink; (repeat' split) <;> simp

@[simp] theorem State.writeHif_kept (s : State) (o : ℕ) (v : ℕ) :
    (State.writeHif s o v).kept = s.kept := by
  unfold State.writeHif; (repeat' split) <;> simp [kept_fields]

@[simp] theorem State.writeRoute_kept (s : State) (o : ℕ) (v : ℕ) :
    (State.writeRoute s o v).kept = s.kept := by
  unfold State.writeRoute; (repeat' split) <;> simp [kept_fields]

@[simp] theorem State.writeRec_kept (s : State) (o : ℕ) (v : ℕ) :
    (State.writeRec s o v).kept = s.kept := by
  unfold State.writeRec; (repeat' split) <;> simp [kept_fields]

@[simp] theorem State.writePwr_kept (s : State) (o : ℕ) (v : ℕ) :
    (State.writePwr s o v).kept = s.kept := by
  unfold State.writePwr; split <;> simp [kept_fields]

@[simp] theorem State.writeRst_kept (s : State) (o : ℕ) (v : ℕ) :
    (State.writeRst s o v).kept = s.kept := by
  unfold State.writeRst; (repeat' split) <;> simp [kept_fields]

@[simp] theorem State.rcRead_kept (s : State) (r : RegId) (h : ℕ) :
    (State.rcRead s r h).kept = s.kept := by
  unfold State.rcRead; (repeat' split) <;> simp [kept_fields]

@[simp] theorem State.countUnmapped_kept (s : State) :
    (State.countUnmapped s).kept = s.kept := by
  unfold State.countUnmapped; split <;> simp [kept_fields]

@[simp] theorem State.aliasRead_kept (s : State) (l : List RegId) :
    (State.aliasRead s l).2.kept = s.kept := by
  simp [kept_fields, State.aliasRead]

@[simp] theorem State.cfgRead_kept (s : State) (a : CfgAddr) (h : ℕ) :
    (State.cfgRead s a h).2.kept = s.kept := by
  unfold State.cfgRead; (repeat' split) <;> simp

@[simp] theorem State.mgmtDrop_kept (s : State) (a : CfgSrc) :
    (State.mgmtDrop s a).kept = s.kept := by
  unfold State.mgmtDrop; split <;> simp

@[simp] theorem State.takeCfgRd_kept (s : State) (src : CfgSrc) (tag : ℕ) (a : CfgAddr) :
    (State.takeCfgRd s src tag a).kept = s.kept := by
  unfold State.takeCfgRd; (repeat' split) <;> simp

@[simp] theorem State.plainRead_kept (s : State) (a : CfgAddr) (h : ℕ) :
    (State.plainRead s a h).kept = s.kept := by
  unfold State.plainRead; split <;> simp

@[simp] theorem State.smbAnswer_kept (s : State) (st : Status) (v : ℕ) :
    (State.smbAnswer s st v).kept = s.kept := by
  simp [kept_fields, State.smbAnswer]

@[simp] theorem State.ctxActive_kept (s : State) (c : ℕ) :
    (State.ctxActive s c).kept = s.kept := by
  simp [State.ctxActive]

@[simp] theorem State.sendKids_kept (s : State) (k : ℕ) (g : GenMsg) :
    (State.sendKids s k g).kept = s.kept := by
  simp [State.sendKids, foldl_kept]

@[simp] theorem State.joinFail_kept (s : State) (k : ℕ) (v : ℕ) :
    (State.joinFail s k v).kept = s.kept := by
  simp [State.joinFail]

@[simp] theorem State.rootReady_kept (s : State) (k : Nat) : (s.rootReady k).kept = s.kept := by
  unfold State.rootReady
  have h := State.fresh_kept s
  split
  rename_i e
  rw [e] at h
  simpa [kept_fields] using h

@[simp] theorem State.joinAt_kept (s : State) (k : ℕ) (vmod : ℕ) (digest : Digest) :
    (State.joinAt s k vmod digest).kept = s.kept := by
  unfold State.joinAt; dsimp only; (repeat' split) <;> simp

@[simp] theorem State.joinUp_kept (s : State) (k : ℕ) :
    (State.joinUp s k).kept = s.kept := by
  unfold State.joinUp; dsimp only; (repeat' split) <;> simp [kept_fields, foldl_kept]

@[simp] theorem State.create_kept (s : State) (k : ℕ) (ctx : ℕ) (shape : List Byte) (img : Image) (v : Variant) (map
  : List (ℕ × ℕ)) (l : ℕ) (b : Binding) :
    (State.create s k ctx shape img v map l b).kept = s.kept := by
  unfold State.create; (repeat' split) <;> simp [foldl_kept]

@[simp] theorem State.rebind_kept (s : State) (q : ℕ) (k : ℕ) (shape : List Byte) (v : Variant) (b : Binding) (kind
  : ℕ) (plan : ℕ) :
    (State.rebind s q k shape v b kind plan).kept = s.kept := by
  simp [State.rebind, foldl_kept]

@[simp] theorem State.freeHeld_kept (s : State) (k : ℕ) :
    (State.freeHeld s k).kept = s.kept := by
  simp [State.freeHeld, foldl_kept]

@[simp] theorem State.takeJoin_kept (s : State) (cid : Word64) (vmod : ℕ) (digest : Digest) :
    (State.takeJoin s cid vmod digest).kept = s.kept := by
  unfold State.takeJoin; split <;> simp [kept_fields]

@[simp] theorem State.takeReady_kept (s : State) (cid : Word64) (gen : BitVec 32) (allShift : Bool) :
    (State.takeReady s cid gen allShift).kept = s.kept := by
  unfold State.takeReady; dsimp only; (repeat' split) <;> simp

@[simp] theorem State.takeRefuse_kept (s : State) (cid : Word64) (vmod : ℕ) :
    (State.takeRefuse s cid vmod).kept = s.kept := by
  unfold State.takeRefuse; (repeat' split) <;> simp

@[simp] theorem State.takeBal_kept (s : State) (cid : Word64) (vmod : ℕ) (step : BitVec 32) (waited : ℕ) :
    (State.takeBal s cid vmod step waited).kept = s.kept := by
  unfold State.takeBal; dsimp only; (repeat' split) <;> simp

@[simp] theorem State.takeCaps_kept (s : State) (cid : Word64) (caps : List ℕ) :
    (State.takeCaps s cid caps).kept = s.kept := by
  unfold State.takeCaps; (repeat' split) <;> simp

@[simp] theorem State.updSession_kept (s : State) (sid : Word64) (f : Session → Session) :
    (State.updSession s sid f).kept = s.kept := by
  simp [kept_fields, State.updSession]

@[simp] theorem State.sayGone_kept (s : State) (dest : ℕ) :
    (State.sayGone s dest).kept = s.kept := by
  simp [State.sayGone]

@[simp] theorem State.memCreate_kept (s : State) (sid : Word64) (mgen : BitVec 32) (bytes : List Byte) :
    (State.memCreate s sid mgen bytes).1.kept = s.kept := by
  unfold State.memCreate; dsimp only; (repeat' split) <;> simp

@[simp] theorem State.memAttach_kept (s : State) (att : ℕ) (sid : Word64) (mgen : BitVec 32) (epoch : BitVec 32)
  (len : ℕ) (lease : ℕ) :
    (State.memAttach s att sid mgen epoch len lease).1.kept = s.kept := by
  unfold State.memAttach; dsimp only; (repeat' split) <;> simp

@[simp] theorem State.memSync_kept (s : State) (att : ℕ) (sid : Word64) (mgen : BitVec 32) (epoch : BitVec 32)
  (bytes : List Byte) (lease : Option ℕ) :
    (State.memSync s att sid mgen epoch bytes lease).1.kept = s.kept := by
  unfold State.memSync; dsimp only; (repeat' split) <;> simp

@[simp] theorem State.memDrop_kept (s : State) (sid : Word64) (mgen : BitVec 32) (epoch : BitVec 32) :
    (State.memDrop s sid mgen epoch).1.kept = s.kept := by
  unfold State.memDrop; dsimp only; (repeat' split) <;> simp

@[simp] theorem State.memHandoff_kept (s : State) (sid : Word64) (mgen : BitVec 32) (epoch : BitVec 32) (target : ℕ) :
    (State.memHandoff s sid mgen epoch target).1.kept = s.kept := by
  unfold State.memHandoff; dsimp only; (repeat' split) <;> simp

@[simp] theorem State.memResolve_kept (s : State) (sid : Word64) (mgen : BitVec 32) (peer : ℕ) :
    (State.memResolve s sid mgen peer).1.kept = s.kept := by
  unfold State.memResolve; dsimp only; (repeat' split) <;> simp

@[simp] theorem State.poolRefused_kept (s : State) (i : ℕ) (reason : ℕ) (member : ℕ) :
    (State.poolRefused s i reason member).kept = s.kept := by
  unfold State.poolRefused; split <;> simp [kept_fields]

@[simp] theorem State.poolFault_kept (s : State) (k : ℕ) (code : ℕ) (member : ℕ) (addr : ℕ) :
    (State.poolFault s k code member addr).kept = s.kept := by
  simp [State.poolFault]

@[simp] theorem State.loseMember_kept (s : State) (dev : ℕ) (also : Option ℕ) :
    (State.loseMember s dev also).kept = s.kept := by
  simp [State.loseMember, foldl_kept]

@[simp] theorem State.entryDone_kept (s : State) (k : ℕ) (e : List Byte) (bytes : List Byte) :
    (State.entryDone s k e bytes).kept = s.kept := by
  unfold State.entryDone; (repeat' split) <;> simp

@[simp] theorem State.poolFail_kept (s : State) (q : ℕ) (k : Option ℕ) (e : List Byte) (i : ℕ) (reason : ℕ) :
    (State.poolFail s q k e i reason).kept = s.kept := by
  unfold State.poolFail; dsimp only; (repeat' split) <;> simp [foldl_kept]

@[simp] theorem State.poolRun_kept (q k : Nat) (l : List (List Byte)) (ans : List (PoolReason × List Byte)) (i : Nat)
    (s : State) : (State.poolRun q k l ans i s).kept = s.kept := by
  induction l generalizing ans i s with
  | nil => simp [State.poolRun]
  | cons e l ih => unfold State.poolRun; dsimp only; split <;> simp [ih]

@[simp] theorem State.memberRun_kept (q : Nat) (l : List (List Byte)) (i : Nat)
    (s : State) : (State.memberRun q l i s).kept = s.kept := by
  induction l generalizing i s with
  | nil => simp [State.memberRun]
  | cons e l ih => unfold State.memberRun; dsimp only; (repeat' split) <;> simp [ih]

@[simp] theorem State.resumeMap_kept (s : State) (q i reason : Nat) : (s.resumeMap q i reason).kept = s.kept := by
  unfold State.resumeMap; dsimp only; (repeat' split) <;> simp

@[simp] theorem State.settleJob_kept (s : State) (sid : Word64) (reason : ℕ) :
    (State.settleJob s sid reason).kept = s.kept := by
  simp [State.settleJob, foldl_kept]

@[simp] theorem State.asMember_kept (s : State) (att : ℕ) (sid : Word64) (f : State → State) (hf : ∀ u, (f u).kept
  = u.kept) :
    (State.asMember s att sid f).kept = s.kept := by
  unfold State.asMember; (repeat' split) <;> (simp_all; done)

@[simp] theorem State.prepared_kept (s : State) (sid : Word64) (src : ℕ) (epoch : BitVec 32) :
    (State.prepared s sid src epoch).kept = s.kept := by
  simp [State.prepared]

@[simp] theorem State.takeOffer_kept (s : State) (src : ℕ) (sid : Word64) (epoch : BitVec 32) (mgen : BitVec 32)
  (len : ℕ) :
    (State.takeOffer s src sid epoch mgen len).kept = s.kept := by
  unfold State.takeOffer; dsimp only; (repeat' split) <;> simp

@[simp] theorem State.takePool_kept (s : State) (src : ℕ) (p : PoolData) :
    (State.takePool s src p).kept = s.kept := by
  unfold State.takePool; (repeat' split) <;> simp

@[simp] theorem State.takePrepAck_kept (s : State) (src : ℕ) (sid : Word64) (epoch : BitVec 32) :
    (State.takePrepAck s src sid epoch).kept = s.kept := by
  unfold State.takePrepAck; dsimp only; (repeat' split) <;> simp

@[simp] theorem State.takeCommit_kept (s : State) (src : ℕ) (sid : Word64) (epoch : BitVec 32) :
    (State.takeCommit s src sid epoch).kept = s.kept := by
  unfold State.takeCommit; dsimp only; (repeat' split) <;> simp

@[simp] theorem State.handedOff_kept (s : State) (sid : Word64) :
    (State.handedOff s sid).kept = s.kept := by
  simp [kept_fields, State.handedOff]

@[simp] theorem State.takeCommitAck_kept (s : State) (src : ℕ) (sid : Word64) (epoch : BitVec 32) :
    (State.takeCommitAck s src sid epoch).kept = s.kept := by
  unfold State.takeCommitAck; dsimp only; (repeat' split) <;> simp

@[simp] theorem State.giveUp_kept (s : State) (sid : Word64) (reason : ℕ) :
    (State.giveUp s sid reason).kept = s.kept := by
  unfold State.giveUp; dsimp only; (repeat' split) <;> simp

@[simp] theorem State.takeAbort_kept (s : State) (src : ℕ) (sid : Word64) (epoch : BitVec 32) :
    (State.takeAbort s src sid epoch).kept = s.kept := by
  unfold State.takeAbort; dsimp only; (repeat' split) <;> simp

@[simp] theorem State.askAgain_kept (s : State) (sid : Word64) :
    (State.askAgain s sid).kept = s.kept := by
  unfold State.askAgain; dsimp only; (repeat' split) <;> simp

@[simp] theorem State.takeResolve_kept (s : State) (src : ℕ) (sid : Word64) :
    (State.takeResolve s src sid).kept = s.kept := by
  unfold State.takeResolve; (repeat' split) <;> simp

@[simp] theorem State.countResolve_kept (s : State) :
    (State.countResolve s).kept = s.kept := by
  simp [kept_fields, State.countResolve]

@[simp] theorem State.takeAnswer_kept (s : State) (src : ℕ) (sid : Word64) (kind : ℕ) (epoch : BitVec 32) (dev : ℕ) :
    (State.takeAnswer s src sid kind epoch dev).kept = s.kept := by
  unfold State.takeAnswer; dsimp only; (repeat' split) <;> simp

@[simp] theorem State.sendBlock_kept (s : State) (i : ℕ) (k : ℕ) (b : Block) :
    (State.sendBlock s i k b).kept = s.kept := by
  simp [State.sendBlock]

@[simp] theorem State.sendRun_kept (s : State) (i : ℕ) (e : BitVec 16) (k : ℕ) :
    (State.sendRun s i e k).kept = s.kept := by
  unfold State.sendRun; dsimp only; (repeat' split) <;> simp

@[simp] theorem State.sendControl_kept (s : State) (i : ℕ) :
    (State.sendControl s i).kept = s.kept := by
  simp [State.sendControl]

@[simp] theorem State.authFail_kept (s : State) (i : ℕ) :
    (State.authFail s i).kept = s.kept := by
  unfold State.authFail; dsimp only; (repeat' split) <;> simp

@[simp] theorem State.mismatched_kept (s : State) (i : ℕ) :
    (State.mismatched s i).kept = s.kept := by
  simp [State.mismatched]

@[simp] theorem State.deliverFlits_kept (s : State) (i : ℕ) (owner : ℕ) (b : Block) :
    (State.deliverFlits s i owner b).kept = s.kept := by
  simp [State.deliverFlits]

theorem State.records_kept (f : State → List Byte → List Byte → State) (hf : ∀ u a b, (f u a b).kept = u.kept) (n :
  Nat)
    (l : List Payload) (s : State) : (State.records f n l s).kept = s.kept := by
  induction n generalizing l s with
  | zero => simp [State.records]
  | succ n ih =>
    cases l with
    | nil => simp [State.records]
    | cons r l => unfold State.records; dsimp only; rw [ih, hf]

@[simp] theorem State.poolRecord_kept (s : State) (src : ℕ) (r : List Byte) (data : List Byte) :
    (State.poolRecord s src r data).kept = s.kept := by
  unfold State.poolRecord; split <;> simp

@[simp] theorem State.transit_kept (s : State) (i : ℕ) (b : Block) :
    (State.transit s i b).kept = s.kept := by
  unfold State.transit; dsimp only; (repeat' split) <;> simp

@[simp] theorem State.actUnit_kept (s : State) (k : ℕ) (peer : ℕ) (n : ℕ) (u : LaneUnit) :
    (State.actUnit s k peer n u).kept = s.kept := by
  unfold State.actUnit; dsimp only; (repeat' split) <;> simp

@[simp] theorem State.takeUnit_kept (s : State) (i : ℕ) (n : ℕ) (u : LaneUnit) :
    (State.takeUnit s i n u).kept = s.kept := by
  unfold State.takeUnit; dsimp only; (repeat' split) <;> simp

@[simp] theorem State.useMsg_kept (s : State) (i : ℕ) (src : ℕ) (a : GenMsg) :
    (State.useMsg s i src a).kept = s.kept := by
  unfold State.useMsg; dsimp only; (repeat' split) <;> simp

@[simp] theorem State.forward_kept (s : State) (h : GenHdr) :
    (State.forward s h).kept = s.kept := by
  unfold State.forward; split <;> simp

@[simp] theorem State.takeMsg_kept (s : State) (i : ℕ) (h : GenHdr) :
    (State.takeMsg s i h).kept = s.kept := by
  unfold State.takeMsg; dsimp only; (repeat' split) <;> simp
end Sys2Proof.Machine
end

