-- ==== Sys2Proof/Laws/Fuses.lean ====
section
/-! SUPPORT. What the operations that program fuses do to `State.kept`: the queue, the straps and the repair map stay,
and fuse bits only change from 0 to 1 (13 R438). -/

namespace Sys2Proof.Machine

/-- A programmed digest keeps its bits set. -/
def digestGrows (a b : Option Digest) : Prop := ∀ d, a = some d → ∃ e, b = some e ∧ d &&& e = d

/-- KEK fuses never become blank again, and erased fuses (2) stay erased. -/
def kekGrows (a b : Nat) : Prop := (a ≠ 0 → b ≠ 0) ∧ (a = 2 → b = 2)

/-- The fuses of `b` hold every bit of those of `a`. -/
def Kept.fusesGrow (a b : Kept) : Prop :=
  a.copy0 &&& b.copy0 = a.copy0 ∧ a.copy1 &&& b.copy1 = a.copy1 ∧ a.copy2 &&& b.copy2 = a.copy2
    ∧ a.revoked &&& b.revoked = a.revoked ∧ a.floor ≤ b.floor ∧ kekGrows a.kek b.kek
    ∧ digestGrows a.vk0 b.vk0 ∧ digestGrows a.vk1 b.vk1 ∧ digestGrows a.vk2 b.vk2
    ∧ digestGrows a.tProv b.tProv ∧ digestGrows a.tReturn b.tReturn
    ∧ digestGrows a.tDeploy b.tDeploy ∧ digestGrows a.tTerm b.tTerm

/-- The straps of `a` and `b` agree. -/
def Kept.sameStraps (a b : Kept) : Prop :=
  b.slot = a.slot ∧ b.ghint = a.ghint ∧ b.role = a.role ∧ b.pset = a.pset ∧ b.raw = a.raw

/-- The queue and the repair map of `a` and `b` agree. -/
def Kept.sameQueue (a b : Kept) : Prop :=
  b.pending = a.pending ∧ b.cores = a.cores ∧ b.clusters = a.clusters ∧ b.dies = a.dies

/-- The queue, the repair map and the straps stay, and the fuses grow. -/
def Kept.grows (a b : Kept) : Prop := a.sameQueue b ∧ a.sameStraps b ∧ a.fusesGrow b

theorem digestGrows.refl (a : Option Digest) : digestGrows a a := fun d h => ⟨d, h, by simp⟩

theorem kekGrows.refl (a : Nat) : kekGrows a a := ⟨id, id⟩

theorem kekGrows.erased (a : Nat) : kekGrows a 2 := ⟨by simp, by simp⟩

theorem kekGrows.trans {a b c : Nat} (h : kekGrows a b) (k : kekGrows b c) : kekGrows a c :=
  ⟨k.1 ∘ h.1, k.2 ∘ h.2⟩

theorem digestGrows.none (b : Option Digest) : digestGrows none b := fun d h => by cases h

theorem digestGrows.ones (a : Option Digest) : digestGrows a (some (BitVec.allOnes 256)) :=
  fun d _ => ⟨_, rfl, BitVec.and_allOnes⟩

theorem digestGrows.trans {a b c : Option Digest} (h : digestGrows a b) (k : digestGrows b c) : digestGrows a c := by
  intro d e
  obtain ⟨x, hx, hd⟩ := h d e
  obtain ⟨y, hy, hxy⟩ := k x hx
  exact ⟨y, hy, by rw [← hd, BitVec.and_assoc, hxy]⟩

theorem and_grows_trans {w : Nat} {a b c : BitVec w} (h : a &&& b = a) (k : b &&& c = b) : a &&& c = a := by
  rw [← h, BitVec.and_assoc, k]

theorem and_or_grows {w : Nat} (a b : BitVec w) : a &&& (a ||| b) = a := by
  ext i; simp; exact Or.inl

theorem Kept.fusesGrow.refl (a : Kept) : a.fusesGrow a := by
  simp [Kept.fusesGrow, digestGrows.refl, kekGrows.refl]

theorem Kept.fusesGrow.trans {a b c : Kept} (h : a.fusesGrow b) (k : b.fusesGrow c) : a.fusesGrow c := by
  obtain ⟨h1, h2, h3, h4, h5, h6, h7, h8, h9, h10, h11, h12, h13⟩ := h
  obtain ⟨k1, k2, k3, k4, k5, k6, k7, k8, k9, k10, k11, k12, k13⟩ := k
  exact ⟨and_grows_trans h1 k1, and_grows_trans h2 k2, and_grows_trans h3 k3, and_grows_trans h4 k4, h5.trans k5,
    h6.trans k6, h7.trans k7, h8.trans k8, h9.trans k9, h10.trans k10, h11.trans k11, h12.trans k12, h13.trans k13⟩

theorem Kept.grows.refl (a : Kept) : a.grows a :=
  ⟨⟨rfl, rfl, rfl, rfl⟩, ⟨rfl, rfl, rfl, rfl, rfl⟩, Kept.fusesGrow.refl a⟩

theorem Kept.grows.trans {a b c : Kept} (h : a.grows b) (k : b.grows c) : a.grows c := by
  obtain ⟨⟨h1, h2, h3, h4⟩, ⟨h5, h6, h7, h8, h9⟩, hf⟩ := h
  obtain ⟨⟨k1, k2, k3, k4⟩, ⟨k5, k6, k7, k8, k9⟩, kf⟩ := k
  exact ⟨⟨k1.trans h1, k2.trans h2, k3.trans h3, k4.trans h4⟩,
    ⟨k5.trans h5, k6.trans h6, k7.trans h7, k8.trans h8, k9.trans h9⟩, hf.trans kf⟩

theorem Kept.grows.of_eq {a b : Kept} (h : b = a) : a.grows b := h ▸ Kept.grows.refl a

theorem Kept.grows.ite {a : Kept} {c : Prop} [Decidable c] {x y : State} (h : a.grows x.kept) (k : a.grows y.kept) :
    a.grows (if c then x else y).kept := by
  split
  · exact h
  · exact k

/-- A fold of steps that let them grow lets them grow. -/
theorem foldl_grows {α : Type} {f : State → α → State} (h : ∀ (u : State) a, u.kept.grows (f u a).kept) (l : List α) (s : State) :
    s.kept.grows (l.foldl f s).kept := by
  induction l generalizing s with
  | nil => exact .refl _
  | cons a l ih => exact (h s a).trans (ih _)

/-- A change of the security block alone whose fuses only grow. -/
theorem State.sec_grows (s : State) (x : Sec)
    (h : s.kept.fusesGrow ({ s with sec := x } : State).kept) : s.kept.grows ({ s with sec := x } : State).kept :=
  ⟨⟨rfl, rfl, rfl, rfl⟩, ⟨rfl, rfl, rfl, rfl, rfl⟩, h⟩

/-- After an image passes, revoke fuses and the SVN floor only grow (13 R436). -/
theorem State.startFw_grows (s : State) (img : List Byte) (source : Bool) : s.kept.grows (s.startFw img source).kept := by
  refine ⟨⟨rfl, rfl, rfl, rfl⟩, ⟨rfl, rfl, rfl, rfl, rfl⟩, ?_⟩
  unfold State.startFw Sec.startFw Sec.fuses
  dsimp only
  split
  · exact Kept.fusesGrow.refl _
  · split
    · refine ⟨by simp [State.kept], by simp [State.kept], by simp [State.kept], ?_, ?_, kekGrows.refl _, digestGrows.refl _,
        digestGrows.refl _, digestGrows.refl _, digestGrows.refl _, digestGrows.refl _, digestGrows.refl _,
        digestGrows.refl _⟩
      · exact and_or_grows _ _
      · show s.sec.floor ≤ _
        dsimp only [State.kept]
        split
        · exact le_max_left _ _
        · exact le_refl _
    · exact Kept.fusesGrow.refl _

theorem State.startCopy_grows (s : State) : s.kept.grows s.startCopy.kept := by
  unfold State.startCopy
  split
  · split
    · exact .refl _
    · split
      · exact s.startFw_grows _ _
      · exact .of_eq (by simp [kept_fields])
  · exact .refl _

theorem State.afterStop_grows (s : State) (c : StopClass) (d i : Nat) (good : Bool) :
    s.kept.grows (s.afterStop c d i good).kept := by
  have h : ∀ u : State, u.kept = s.kept → s.kept.grows u.startCopy.kept := fun u e => e ▸ u.startCopy_grows
  have e5 : ∀ n, ({ s with sb := s.sb.stage n } : State).kept = s.kept := by
    intro n; unfold Sb.stage; split <;> rfl
  unfold State.afterStop
  dsimp only
  have k : (if s.tierReady .h then { s with sb := s.sb.stage 5 }
    else if s.tierReady .m then { s with sb := s.sb.stage 2 } else s : State).kept = s.kept := by
    split
    · exact e5 5
    · split
      · exact e5 2
      · rfl
  revert k
  generalize (if s.tierReady .h then { s with sb := s.sb.stage 5 }
    else if s.tierReady .m then { s with sb := s.sb.stage 2 } else s : State) = u
  intro k
  (repeat' split) <;> first | exact h u k | exact .of_eq (by rw [← k]; simp [kept_fields]) | exact .of_eq k

theorem State.boot_grows (s : State) (img : List Byte) (failed : Bool) : s.kept.grows (s.boot img failed).kept := by
  unfold State.boot
  split
  · exact .of_eq (by simp)
  · split
    · exact .of_eq (by simp)
    · split
      · rw [State.secEnd_kept]; exact s.startFw_grows _ _
      · exact .of_eq (by simp [kept_fields])

/-- LC_ADVANCE programs bits and erases nothing (13 R442, R443). -/
theorem State.lcAdvance_grows (s : State) : s.kept.grows s.lcAdvance.kept := by
  have a : s.kept.grows s.lcDenied.kept := .of_eq (by simp [State.lcDenied, kept_fields])
  have b : ∀ st, s.kept.grows (s.secEnd st).kept := fun st => .of_eq (by simp)
  have p : ∀ (x : Sec) w, (x = s.sec ∨ x = s.sec.erase) →
      s.kept.grows (({ s with sec := x.program w } : State).secEnd .ok).kept := by
    intro x w h
    rw [State.secEnd_kept]
    refine s.sec_grows _ ?_
    obtain rfl | rfl := h
    · exact ⟨and_or_grows _ _, and_or_grows _ _, and_or_grows _ _, by simp [State.kept, Sec.program],
        le_refl _, kekGrows.refl _, digestGrows.refl _, digestGrows.refl _, digestGrows.refl _,
        digestGrows.refl _, digestGrows.refl _, digestGrows.refl _, digestGrows.refl _⟩
    · exact ⟨and_or_grows _ _, and_or_grows _ _, and_or_grows _ _, by simp [State.kept, Sec.program, Sec.erase],
        le_refl _, kekGrows.erased _, digestGrows.refl _, digestGrows.refl _, digestGrows.refl _,
        digestGrows.refl _, digestGrows.refl _, digestGrows.ones _, digestGrows.ones _⟩
  unfold State.lcAdvance
  refine .ite a ?_
  cases s.sec.transition s.sec.target.toNat with
  | none => exact b _
  | some tok => exact .ite (b _) (.ite a (.ite (p _ _ (by split <;> simp)) (b _)))

/-- KEYGEN programs blank KEK fuses (13 R445). -/
theorem State.keygen_grows (s : State) : s.kept.grows s.keygen.kept := by
  unfold State.keygen
  dsimp only
  split
  · rename_i h
    rw [State.secEnd_kept]
    refine s.sec_grows _ ?_
    have hk : s.sec.kek = 0 := h.2
    unfold Sec.writeStore
    split <;> (refine ⟨by simp [State.kept], by simp [State.kept], by simp [State.kept], by simp [State.kept], le_refl _, ?_,
      digestGrows.refl _, digestGrows.refl _, digestGrows.refl _, digestGrows.refl _, digestGrows.refl _, digestGrows.refl _,
      digestGrows.refl _⟩ <;> (show kekGrows s.sec.kek 1; rw [hk]; exact ⟨by simp, by simp⟩))
  · exact .of_eq (by simp)

/-- DIGEST_SET programs a blank digest (13 R446). -/
theorem State.digestSet_grows (s : State) : s.kept.grows s.digestSet.kept := by
  have e : ∀ (o : Option Digest) (x : Digest), o.isSome = false → digestGrows o (some x) := by
    intro o x h; cases o <;> simp_all [digestGrows]
  have b : ∀ st, s.kept.grows (s.secEnd st).kept := fun st => .of_eq (by simp)
  have p : ∀ (x : Sec), (x = { s.sec with tTerm := some s.sec.argDigest } ∧ s.sec.tTerm.isSome = false ∨
      x = { s.sec with tDeploy := some s.sec.argDigest } ∧ s.sec.tDeploy.isSome = false) →
      s.kept.grows (({ s with sec := x } : State).secEnd .ok).kept := by
    intro x h
    rw [State.secEnd_kept]
    refine s.sec_grows _ ?_
    obtain ⟨rfl, h⟩ | ⟨rfl, h⟩ := h <;>
      refine ⟨by simp [State.kept], by simp [State.kept], by simp [State.kept], by simp [State.kept], le_refl _,
        kekGrows.refl _, digestGrows.refl _, digestGrows.refl _, digestGrows.refl _, digestGrows.refl _,
        digestGrows.refl _, ?_, ?_⟩
    · exact digestGrows.refl _
    · exact e _ _ h
    · exact e _ _ h
    · exact digestGrows.refl _
  unfold State.digestSet
  dsimp only
  split
  · exact b _
  · split
    · split
      · exact b _
      · exact p _ (.inl ⟨rfl, by simpa using ‹¬s.sec.tTerm.isSome = true›⟩)
    · split
      · exact b _
      · exact p _ (.inr ⟨rfl, by simpa using ‹¬s.sec.tDeploy.isSome = true›⟩)

/-- A command of the security block lets grow what its own operation lets grow. -/
theorem State.secCmd_grows (s : State) (op : Nat) (side allowed : Bool) (f : State → State)
    (hf : ∀ u : State, u.kept.grows (f u).kept) : s.kept.grows (s.secCmd op side allowed f).kept := by
  unfold State.secCmd
  split
  · exact .refl _
  · dsimp only
    split
    · exact .of_eq (by simp [kept_fields])
    · have h : ({ s with sec := { s.sec with op := BitVec.ofNat 4 op } } : State).kept = s.kept := rfl
      exact h ▸ hf _

theorem State.secGo_grows (s : State) (src : CfgSrc) : s.kept.grows (s.secGo src).kept := by
  unfold State.secGo
  dsimp only
  split
  · exact s.secCmd_grows _ _ _ _ State.lcAdvance_grows
  · exact s.secCmd_grows _ _ _ _ State.keygen_grows
  · exact s.secCmd_grows _ _ _ _ State.digestSet_grows
  · exact s.secCmd_grows _ _ _ _ fun u => .of_eq (by simp)
  · (repeat' split) <;> exact .of_eq (by simp [kept_fields])
  · split <;> exact .of_eq (by simp)

theorem State.writeSec_grows (s : State) (src : CfgSrc) (o v : Nat) : s.kept.grows (s.writeSec src o v).kept := by
  unfold State.writeSec
  dsimp only
  split
  · exact .refl _
  · split
    · exact .of_eq (by simp [kept_fields])
    · split
      · split
        · refine Kept.grows.trans (.of_eq ?_) (State.secGo_grows _ _)
          rfl
        · exact .of_eq (by simp [kept_fields])
      all_goals exact .of_eq (by simp [kept_fields])

/-- A register write: only the security block programs fuses. -/
theorem State.regWrite_grows (s : State) (src : CfgSrc) (r : RegId) (v : Nat) : s.kept.grows (s.regWrite src r v).kept := by
  unfold State.regWrite
  (repeat' split) <;> first
    | exact s.writeSec_grows _ _ _
    | (refine .of_eq ?_; simp [kept_fields]; done)

theorem State.cfgWrite_grows (s : State) (src : CfgSrc) (a : CfgAddr) (v : Nat) : s.kept.grows (s.cfgWrite src a v).kept := by
  unfold State.cfgWrite
  split
  · exact .refl _
  · split
    · exact .of_eq (by simp)
    · exact .refl _
    · split
      · exact s.regWrite_grows _ _ _
      · exact .refl _
    · split
      · exact foldl_grows (fun u a => u.regWrite_grows _ _ _) _ _
      · exact .refl _

theorem State.takeCfgWr_grows (s : State) (src : CfgSrc) (a : CfgAddr) (v : Nat) :
    s.kept.grows (s.takeCfgWr src a v).kept := by
  unfold State.takeCfgWr
  split
  · exact .refl _
  · split
    · exact .of_eq (by simp)
    · exact s.cfgWrite_grows _ _ _

theorem State.smb_grows (s : State) (pecOk : Bool) (f : State → State) (hf : ∀ u : State, u.kept.grows (f u).kept) :
    s.kept.grows (s.smb pecOk f).kept := by
  unfold State.smb
  split
  · split
    · exact hf s
    · exact .of_eq (by simp [kept_fields])
  · exact .of_eq (by simp [kept_fields])
  · exact .refl _

theorem State.hostRecord_grows (s : State) (i : Nat) (r data : List Byte) : s.kept.grows (s.hostRecord i r data).kept := by
  unfold State.hostRecord
  dsimp only
  split
  case h_4 => exact s.takeCfgWr_grows _ _ _
  all_goals exact .of_eq (by simp)

theorem State.mgmtRecord_grows (s : State) (port : Fin 16) (r : List Byte) : s.kept.grows (s.mgmtRecord port r).kept := by
  unfold State.mgmtRecord
  dsimp only
  split
  case h_2 => exact s.takeCfgWr_grows _ _ _
  all_goals exact .of_eq (by simp)

theorem State.records_grows (f : State → List Byte → List Byte → State) (hf : ∀ (u : State) a b, u.kept.grows (f u a b).kept) (n : Nat)
    (l : List Payload) (s : State) : s.kept.grows (State.records f n l s).kept := by
  induction n generalizing l s with
  | zero => exact .of_eq (by simp [State.records])
  | succ n ih =>
    cases l with
    | nil => exact .of_eq (by simp [State.records])
    | cons r l => exact (hf s _ _).trans (ih _ _)

theorem State.deliverOwn_grows (s : State) (port : Fin 16) (b : Block) : s.kept.grows (s.deliverOwn port b).kept := by
  unfold State.deliverOwn
  dsimp only
  split
  · split
    · exact State.records_grows _ (fun u a b => u.hostRecord_grows _ _ _) _ _ _
    · exact .refl _
  · exact .of_eq (State.records_kept _ (by simp) _ _ _)
  · exact State.records_grows _ (fun u a b => u.mgmtRecord_grows _ _) _ _ _
  · exact .refl _

theorem State.takeBlock_grows (s : State) (port : Fin 16) (x : RxBlock) : s.kept.grows (s.takeBlock port x).kept := by
  unfold State.takeBlock
  dsimp only
  (repeat' split) <;> first | exact s.deliverOwn_grows _ _ | exact .of_eq (by simp)

/-- A power-on reset: straps are read anew at the next power-up; queue, repair map and fuses stay (14 R463). -/
theorem State.powerOff_grows (s : State) : s.kept.sameQueue s.powerOff.kept ∧ s.kept.fusesGrow s.powerOff.kept := by
  have h := State.allPortsDown_kept s
  have e : s.powerOff.kept = { s.allPortsDown.kept with slot := 0, ghint := 0, role := false, pset := false, raw := 0 } := rfl
  rw [h] at e
  rw [e]
  exact ⟨⟨rfl, rfl, rfl, rfl⟩, Kept.fusesGrow.refl _⟩

end Sys2Proof.Machine
end

