-- ==== Sys2Proof/Laws/ExecKept.lean ====
section
/-! SUPPORT. What each command leaves alone: one lemma per command. A command keeps `State.kept` (`_kept`), or, where
it reaches the security block or starts firmware, lets the fuses grow (`_grows`). STRAP_WINDOW and the commands
that take the rails down or bring them up are not here. -/

namespace Sys2Proof.Machine

/-- A command that answers a state which keeps them. -/
theorem of_next {a t : State} (h : (Host.Outcome.next a : Host.Outcome State Fault Refusal) = .next t) (s : State)
    (e : a.kept = s.kept) : t.kept = s.kept := by
  cases h; exact e

/-- A command that answers a state which lets the fuses grow. -/
theorem of_next_grows {a t : State} (h : (Host.Outcome.next a : Host.Outcome State Fault Refusal) = .next t) (s :
    State) (e : s.kept.grows a.kept) : s.kept.grows t.kept := by
  cases h; exact e

theorem execNop_kept (c : CoreId) (s : State) {t : State} (h : execNop c s = .next t) :
    t.kept = s.kept := by
  refine of_next h s ?_
  repeat' first
    | (simp; done)
    | split
    | (apply State.control_kept; intros)

theorem execEndp_kept (c : CoreId) (s : State) {t : State} (h : execEndp c s = .next t) :
    t.kept = s.kept := by
  refine of_next h s ?_
  repeat' first
    | (simp; done)
    | split
    | (apply State.control_kept; intros)

theorem execJmp_kept (c : CoreId) (s : State) {t : State} (h : execJmp c s = .next t) :
    t.kept = s.kept := by
  refine of_next h s ?_
  repeat' first
    | (simp; done)
    | split
    | (apply State.control_kept; intros)

theorem execLset_kept (c : CoreId) (s : State) {t : State} (h : execLset c s = .next t) :
    t.kept = s.kept := by
  refine of_next h s ?_
  repeat' first
    | (simp; done)
    | split
    | (apply State.control_kept; intros)

theorem execLoop_kept (c : CoreId) (s : State) {t : State} (h : execLoop c s = .next t) :
    t.kept = s.kept := by
  refine of_next h s ?_
  repeat' first
    | (simp; done)
    | split
    | (apply State.control_kept; intros)
    | dsimp only

theorem execBrc_kept (c : CoreId) (s : State) {t : State} (h : execBrc c s = .next t) :
    t.kept = s.kept := by
  refine of_next h s ?_
  repeat' first
    | (simp; done)
    | split
    | (apply State.control_kept; intros)
    | dsimp only

theorem execClrc_kept (c : CoreId) (hwSet : Bool) (s : State) {t : State} (h : execClrc c hwSet s = .next t) :
    t.kept = s.kept := by
  refine of_next h s ?_
  repeat' first
    | (simp; done)
    | split
    | (apply State.control_kept; intros)
    | dsimp only

theorem execXset_kept (c : CoreId) (s : State) {t : State} (h : execXset c s = .next t) :
    t.kept = s.kept := by
  refine of_next h s ?_
  repeat' first
    | (simp; done)
    | split
    | (apply State.control_kept; intros)
    | dsimp only

theorem execXadd_kept (c : CoreId) (s : State) {t : State} (h : execXadd c s = .next t) :
    t.kept = s.kept := by
  refine of_next h s ?_
  repeat' first
    | (simp; done)
    | split
    | (apply State.control_kept; intros)
    | dsimp only

theorem execWaite_kept (c : CoreId) (s : State) {t : State} (h : execWaite c s = .next t) :
    t.kept = s.kept := by
  refine of_next h s ?_
  repeat' first
    | (simp; done)
    | split
    | (apply State.control_kept; intros)
    | (refine foldl_kept ?_ _ _; intros)
    | dsimp only

theorem execWaitc_kept (c : CoreId) (s : State) {t : State} (h : execWaitc c s = .next t) :
    t.kept = s.kept := by
  refine of_next h s ?_
  repeat' first
    | (simp; done)
    | split
    | (apply State.control_kept; intros)
    | dsimp only

theorem execCset_kept (c : CoreId) (s : State) {t : State} (h : execCset c s = .next t) :
    t.kept = s.kept := by
  refine of_next h s ?_
  repeat' first
    | (simp; done)
    | split
    | (apply State.control_kept; intros)
    | dsimp only

theorem execWaitf_kept (c : CoreId) (s : State) {t : State} (h : execWaitf c s = .next t) :
    t.kept = s.kept := by
  refine of_next h s ?_
  repeat' first
    | (simp; done)
    | split
    | (apply State.control_kept; intros)
    | dsimp only

theorem execBar_kept (c : CoreId) (s : State) {t : State} (h : execBar c s = .next t) :
    t.kept = s.kept := by
  refine of_next h s ?_
  repeat' first
    | (simp; done)
    | split
    | (apply State.control_kept; intros)
    | dsimp only

theorem execAclr_kept (c : CoreId) (ovl : List Eng) (s : State) {t : State} (h : execAclr c ovl s = .next t) :
    t.kept = s.kept := by
  refine of_next h s ?_
  simp

theorem execMma_kept (c : CoreId) (ovl : List Eng) (ue : Option (Nat × Nat)) (s : State) {t : State} (h : execMma c
    ovl ue s = .next t) :
    t.kept = s.kept := by
  refine of_next h s ?_
  simp

theorem execArnd_kept (c : CoreId) (ovl : List Eng) (ue : Option (Nat × Nat)) (s : State) {t : State} (h : execArnd
    c ovl ue s = .next t) :
    t.kept = s.kept := by
  refine of_next h s ?_
  simp

theorem execAexp_kept (c : CoreId) (ovl : List Eng) (ue : Option (Nat × Nat)) (s : State) {t : State} (h : execAexp
    c ovl ue s = .next t) :
    t.kept = s.kept := by
  refine of_next h s ?_
  simp

theorem execAadd_kept (c : CoreId) (ovl : List Eng) (ue : Option (Nat × Nat)) (s : State) {t : State} (h : execAadd
    c ovl ue s = .next t) :
    t.kept = s.kept := by
  refine of_next h s ?_
  simp

theorem execVadd_kept (c : CoreId) (ovl : List Eng) (ue : Option (Nat × Nat)) (s : State) {t : State} (h : execVadd
    c ovl ue s = .next t) :
    t.kept = s.kept := by
  refine of_next h s ?_
  simp

theorem execVsub_kept (c : CoreId) (ovl : List Eng) (ue : Option (Nat × Nat)) (s : State) {t : State} (h : execVsub
    c ovl ue s = .next t) :
    t.kept = s.kept := by
  refine of_next h s ?_
  simp

theorem execVmul_kept (c : CoreId) (ovl : List Eng) (ue : Option (Nat × Nat)) (s : State) {t : State} (h : execVmul
    c ovl ue s = .next t) :
    t.kept = s.kept := by
  refine of_next h s ?_
  simp

theorem execVfma_kept (c : CoreId) (ovl : List Eng) (ue : Option (Nat × Nat)) (s : State) {t : State} (h : execVfma
    c ovl ue s = .next t) :
    t.kept = s.kept := by
  refine of_next h s ?_
  simp

theorem execVdiv_kept (c : CoreId) (ovl : List Eng) (ue : Option (Nat × Nat)) (s : State) {t : State} (h : execVdiv
    c ovl ue s = .next t) :
    t.kept = s.kept := by
  refine of_next h s ?_
  simp

theorem execVsqrt_kept (c : CoreId) (ovl : List Eng) (ue : Option (Nat × Nat)) (s : State) {t : State} (h :
    execVsqrt c ovl ue s = .next t) :
    t.kept = s.kept := by
  refine of_next h s ?_
  simp

theorem execVmin_kept (c : CoreId) (ovl : List Eng) (ue : Option (Nat × Nat)) (s : State) {t : State} (h : execVmin
    c ovl ue s = .next t) :
    t.kept = s.kept := by
  refine of_next h s ?_
  simp

theorem execVmax_kept (c : CoreId) (ovl : List Eng) (ue : Option (Nat × Nat)) (s : State) {t : State} (h : execVmax
    c ovl ue s = .next t) :
    t.kept = s.kept := by
  refine of_next h s ?_
  simp

theorem execVfn_kept (c : CoreId) (ovl : List Eng) (ue : Option (Nat × Nat)) (s : State) {t : State} (h : execVfn c
    ovl ue s = .next t) :
    t.kept = s.kept := by
  refine of_next h s ?_
  simp

theorem execVcvt_kept (c : CoreId) (ovl : List Eng) (ue : Option (Nat × Nat)) (s : State) {t : State} (h : execVcvt
    c ovl ue s = .next t) :
    t.kept = s.kept := by
  refine of_next h s ?_
  simp

theorem execVqnt_kept (c : CoreId) (ovl : List Eng) (ue : Option (Nat × Nat)) (s : State) {t : State} (h : execVqnt
    c ovl ue s = .next t) :
    t.kept = s.kept := by
  refine of_next h s ?_
  simp

theorem execVsum_kept (c : CoreId) (ovl : List Eng) (ue : Option (Nat × Nat)) (s : State) {t : State} (h : execVsum
    c ovl ue s = .next t) :
    t.kept = s.kept := by
  refine of_next h s ?_
  simp

theorem execVrnd_kept (c : CoreId) (ovl : List Eng) (ue : Option (Nat × Nat)) (s : State) {t : State} (h : execVrnd
    c ovl ue s = .next t) :
    t.kept = s.kept := by
  refine of_next h s ?_
  simp

theorem execVsmx_kept (c : CoreId) (ovl : List Eng) (ue : Option (Nat × Nat)) (s : State) {t : State} (h : execVsmx
    c ovl ue s = .next t) :
    t.kept = s.kept := by
  refine of_next h s ?_
  simp

theorem execVrms_kept (c : CoreId) (ovl : List Eng) (ue : Option (Nat × Nat)) (s : State) {t : State} (h : execVrms
    c ovl ue s = .next t) :
    t.kept = s.kept := by
  refine of_next h s ?_
  simp

theorem execVln_kept (c : CoreId) (ovl : List Eng) (ue : Option (Nat × Nat)) (s : State) {t : State} (h : execVln c
    ovl ue s = .next t) :
    t.kept = s.kept := by
  refine of_next h s ?_
  simp

theorem execVtmk_kept (c : CoreId) (ovl : List Eng) (ue : Option (Nat × Nat)) (s : State) {t : State} (h : execVtmk
    c ovl ue s = .next t) :
    t.kept = s.kept := by
  refine of_next h s ?_
  simp

theorem execTsnd_kept (c : CoreId) (ovl : List Eng) (ue : Option (Nat × Nat)) (s : State) {t : State} (h : execTsnd
    c ovl ue s = .next t) :
    t.kept = s.kept := by
  refine of_next h s ?_
  simp

theorem execTget_kept (c : CoreId) (ovl : List Eng) (ue : Option (Nat × Nat)) (s : State) {t : State} (h : execTget
    c ovl ue s = .next t) :
    t.kept = s.kept := by
  refine of_next h s ?_
  simp

theorem execTreq_kept (c : CoreId) (ovl : List Eng) (ue : Option (Nat × Nat)) (s : State) {t : State} (h : execTreq
    c ovl ue s = .next t) :
    t.kept = s.kept := by
  refine of_next h s ?_
  simp

theorem execFlitDelivery_kept (die : Fin 8) (n : Nat) (cyc : Fin 256) (ovl : List Eng) (bad : List Nat) (badMirror :
    List Nat) (ecc : Bool) (s : State) {t : State} (h : execFlitDelivery die n cyc ovl bad badMirror ecc s = .next
    t) :
    t.kept = s.kept := by
  refine of_next h s ?_
  simp

theorem execElasticQueueArrival_kept (die : Fin 8) (stop : Fin 300) (f : Flit) (s : State) {t : State} (h :
    execElasticQueueArrival die stop f s = .next t) :
    t.kept = s.kept := by
  refine of_next h s ?_
  simp

theorem execRouterFail_kept (die : Fin 8) (router : Fin 300) (s : State) {t : State} (h : execRouterFail die router
    s = .next t) :
    t.kept = s.kept := by
  refine of_next h s ?_
  repeat' first
    | (simp; done)
    | split
    | dsimp only

theorem execTgetReply_kept (die : Fin 8) (router : Fin 300) (s : State) {t : State} (h : execTgetReply die router s
    = .next t) :
    t.kept = s.kept := by
  refine of_next h s ?_
  repeat' first
    | (simp; done)
    | split
    | dsimp only

theorem execMeshLoadGo_kept (die : Fin 8) (s : State) {t : State} (h : execMeshLoadGo die s = .next t) :
    t.kept = s.kept := by
  refine of_next h s ?_
  simp

theorem execMeshLoadComplete_kept (die : Fin 8) (s : State) {t : State} (h : execMeshLoadComplete die s = .next t) :
    t.kept = s.kept := by
  have k := State.loadImage_kept s die.val
  unfold execMeshLoadComplete at h
  split at h
  · refine of_next h s ?_
    rw [State.updDie_kept]
    exact k
  · exact of_next h s rfl

theorem execArm_kept (die : Fin 8) (s : State) {t : State} (h : execArm die s = .next t) :
    t.kept = s.kept := by
  refine of_next h s ?_
  simp

theorem execTileReadIssue_kept (die : Fin 8) (lane : Fin 8) (sp : Fin 8) (s : State) {t : State} (h :
    execTileReadIssue die lane sp s = .next t) :
    t.kept = s.kept := by
  refine of_next h s ?_
  simp

theorem execLandingRecordSend_kept (die : Fin 8) (lane : Fin 8) (sp : Fin 8) (s : State) {t : State} (h :
    execLandingRecordSend die lane sp s = .next t) :
    t.kept = s.kept := by
  refine of_next h s ?_
  repeat' first
    | (simp; done)
    | split
    | dsimp only

theorem execHWindowService_kept (die : Fin 8) (stop : Fin 8) (win : Fin 9) (arrivals : List MemReq) (ue : Bool) (s :
    State) {t : State} (h : execHWindowService die stop win arrivals ue s = .next t) :
    t.kept = s.kept := by
  refine of_next h s ?_
  simp

theorem execMBlockService_kept (die : Fin 8) (stop : Fin 3) (block : Fin 9) (arrivals : List MemReq) (ue : Bool) (s
    : State) {t : State} (h : execMBlockService die stop block arrivals ue s = .next t) :
    t.kept = s.kept := by
  refine of_next h s ?_
  simp

theorem execRefetchRequest_kept (die : Fin 8) (lane : Fin 8) (w : Fin 9) (s : State) {t : State} (h :
    execRefetchRequest die lane w s = .next t) :
    t.kept = s.kept := by
  refine of_next h s ?_
  repeat' first
    | (simp; done)
    | split
    | dsimp only

theorem execMirrorRefetchServe_kept (die : Fin 8) (stop : Fin 3) (block : Fin 9) (s : State) {t : State} (h :
    execMirrorRefetchServe die stop block s = .next t) :
    t.kept = s.kept := by
  refine of_next h s ?_
  repeat' first
    | (simp; done)
    | split
    | dsimp only

theorem execRefetchLanding_kept (c : CoreId) (ovl : List Eng) (ue : Option (Nat × Nat)) (s : State) {t : State} (h :
    execRefetchLanding c ovl ue s = .next t) :
    t.kept = s.kept := by
  refine of_next h s ?_
  repeat' first
    | (simp; done)
    | split
    | dsimp only

theorem execRefresh_kept (stop : StopId) (s : State) {t : State} (h : execRefresh stop s = .next t) :
    t.kept = s.kept := by
  refine of_next h s ?_
  repeat' first
    | (simp; done)
    | split
    | dsimp only

theorem execPatrolScrub_kept (stop : StopId) (addr : Nat) (corrected : Nat) (ue : Bool) (s : State) {t : State} (h :
    execPatrolScrub stop addr corrected ue s = .next t) :
    t.kept = s.kept := by
  refine of_next h s ?_
  repeat' first
    | (simp; done)
    | split
    | dsimp only

theorem execTrain_kept (stop : StopId) (s : State) {t : State} (h : execTrain stop s = .next t) :
    t.kept = s.kept := by
  refine of_next h s ?_
  repeat' first
    | (simp; done)
    | split
    | dsimp only

theorem execTimingUpkeep_kept (stop : StopId) (margin : Bool) (s : State) {t : State} (h : execTimingUpkeep stop
    margin s = .next t) :
    t.kept = s.kept := by
  refine of_next h s ?_
  repeat' first
    | (simp; done)
    | split
    | dsimp only

theorem execStopOwnWrite_kept (stop : StopId) (second : Bool) (v : Word64) (s : State) {t : State} (h :
    execStopOwnWrite stop second v s = .next t) :
    t.kept = s.kept := by
  refine of_next h s ?_
  repeat' first
    | (simp; done)
    | split
    | dsimp only

theorem execEpochAdvance_kept (stop : StopId) (region : Nat) (s : State) {t : State} (h : execEpochAdvance stop
    region s = .next t) :
    t.kept = s.kept := by
  refine of_next h s ?_
  repeat' first
    | (simp; done)
    | split
    | dsimp only

theorem execServiceSlot_kept (port : Bool) (s : State) {t : State} (h : execServiceSlot port s = .next t) :
    t.kept = s.kept := by
  refine of_next h s ?_
  simp

theorem execData_kept (tag : Nat) (failed : Bool) (bytes : List Byte) (s : State) {t : State} (h : execData tag
    failed bytes s = .next t) :
    t.kept = s.kept := by
  refine of_next h s ?_
  simp

theorem execTongsReadTimeout_kept (tag : Nat) (s : State) {t : State} (h : execTongsReadTimeout tag s = .next t) :
    t.kept = s.kept := by
  refine of_next h s ?_
  simp

theorem execTailDoorbell_kept (x : Bool) (ctx : Fin 1024) (word : Word64) (zero : Bool) (s : State) {t : State} (h :
    execTailDoorbell x ctx word zero s = .next t) :
    t.kept = s.kept := by
  refine of_next h s ?_
  simp

theorem execHeadDoorbell_kept (x : Bool) (ctx : Fin 1024) (word : Word64) (zero : Bool) (s : State) {t : State} (h :
    execHeadDoorbell x ctx word zero s = .next t) :
    t.kept = s.kept := by
  refine of_next h s ?_
  simp

theorem execArmDoorbell_kept (x : Bool) (ctx : Fin 1024) (word : Word64) (zero : Bool) (s : State) {t : State} (h :
    execArmDoorbell x ctx word zero s = .next t) :
    t.kept = s.kept := by
  refine of_next h s ?_
  simp

theorem execCtxOpen_kept (q : Fin 4096) (s : State) {t : State} (h : execCtxOpen q s = .next t) :
    t.kept = s.kept := by
  refine of_next h s ?_
  repeat' first
    | (simp; done)
    | split
    | (apply State.descr_kept; intros)
    | (apply State.withData_kept; intros)
    | dsimp only

theorem execClose_kept (q : Fin 4096) (s : State) {t : State} (h : execClose q s = .next t) :
    t.kept = s.kept := by
  refine of_next h s ?_
  repeat' first
    | (simp; done)
    | split
    | (apply State.descr_kept; intros)
    | dsimp only

theorem execCloseComplete_kept (ctx : Fin 1024) (s : State) {t : State} (h : execCloseComplete ctx s = .next t) :
    t.kept = s.kept := by
  refine of_next h s ?_
  repeat' first
    | (simp; done)
    | split
    | dsimp only

theorem execQueueCreate_kept (q : Fin 4096) (s : State) {t : State} (h : execQueueCreate q s = .next t) :
    t.kept = s.kept := by
  refine of_next h s ?_
  repeat' first
    | (simp; done)
    | split
    | (apply State.descr_kept; intros)
    | dsimp only

theorem execQueueDestroy_kept (q : Fin 4096) (s : State) {t : State} (h : execQueueDestroy q s = .next t) :
    t.kept = s.kept := by
  refine of_next h s ?_
  repeat' first
    | (simp [kept_fields]; done)
    | split
    | (apply State.descr_kept; intros)
    | dsimp only

theorem execEvringCreate_kept (q : Fin 4096) (s : State) {t : State} (h : execEvringCreate q s = .next t) :
    t.kept = s.kept := by
  refine of_next h s ?_
  repeat' first
    | (simp; done)
    | split
    | (apply State.descr_kept; intros)
    | dsimp only

theorem execEvringDestroy_kept (q : Fin 4096) (s : State) {t : State} (h : execEvringDestroy q s = .next t) :
    t.kept = s.kept := by
  refine of_next h s ?_
  repeat' first
    | (simp [kept_fields]; done)
    | split
    | (apply State.descr_kept; intros)
    | dsimp only

theorem execDescriptorNop_kept (q : Fin 4096) (s : State) {t : State} (h : execDescriptorNop q s = .next t) :
    t.kept = s.kept := by
  refine of_next h s ?_
  simp

theorem execFenceCreate_kept (q : Fin 4096) (s : State) {t : State} (h : execFenceCreate q s = .next t) :
    t.kept = s.kept := by
  refine of_next h s ?_
  repeat' first
    | (simp; done)
    | split
    | (apply State.descr_kept; intros)
    | dsimp only

theorem execFenceAttach_kept (q : Fin 4096) (s : State) {t : State} (h : execFenceAttach q s = .next t) :
    t.kept = s.kept := by
  refine of_next h s ?_
  repeat' first
    | (simp; done)
    | split
    | (apply State.descr_kept; intros)
    | dsimp only

theorem execFenceDetach_kept (q : Fin 4096) (s : State) {t : State} (h : execFenceDetach q s = .next t) :
    t.kept = s.kept := by
  refine of_next h s ?_
  repeat' first
    | (simp; done)
    | split
    | (apply State.descr_kept; intros)
    | dsimp only

theorem execFenceSignal_kept (q : Fin 4096) (s : State) {t : State} (h : execFenceSignal q s = .next t) :
    t.kept = s.kept := by
  refine of_next h s ?_
  repeat' first
    | (simp; done)
    | split
    | (apply State.descr_kept; intros)
    | dsimp only

theorem execFenceWait_kept (q : Fin 4096) (s : State) {t : State} (h : execFenceWait q s = .next t) :
    t.kept = s.kept := by
  refine of_next h s ?_
  repeat' first
    | (simp; done)
    | split
    | (apply State.descr_kept; intros)
    | dsimp only

theorem execFaultRecording_kept (ctx : Fin 1024) (window : Nat) (s : State) {t : State} (h : execFaultRecording ctx
    window s = .next t) :
    t.kept = s.kept := by
  refine of_next h s ?_
  repeat' first
    | (simp [kept_fields]; done)
    | split
    | (refine foldl_kept ?_ _ _; intros)
    | dsimp only

theorem execRevokeLane_kept (die : Fin 8) (lane : Fin 8) (ctx : Fin 1024) (s : State) {t : State} (h :
    execRevokeLane die lane ctx s = .next t) :
    t.kept = s.kept := by
  refine of_next h s ?_
  repeat' first
    | (simp; done)
    | split
    | dsimp only

theorem execRevokeTag_kept (die : Fin 8) (ctx : Fin 1024) (s : State) {t : State} (h : execRevokeTag die ctx s =
    .next t) :
    t.kept = s.kept := by
  refine of_next h s ?_
  repeat' first
    | (simp; done)
    | split
    | dsimp only

theorem execAck_kept (die : Fin 8) (seq : Nat) (s : State) {t : State} (h : execAck die seq s = .next t) :
    t.kept = s.kept := by
  refine of_next h s ?_
  simp

theorem execRevocationComplete_kept (ctx : Fin 1024) (s : State) {t : State} (h : execRevocationComplete ctx s =
    .next t) :
    t.kept = s.kept := by
  refine of_next h s ?_
  repeat' first
    | (simp [kept_fields, foldl_kept]; done)
    | split
    | (refine foldl_kept ?_ _ _; intros)
    | dsimp only

theorem execAllocRequestArrival_kept (die : Fin 8) (cluster : Fin 10) (r : AllocReq) (s : State) {t : State} (h :
    execAllocRequestArrival die cluster r s = .next t) :
    t.kept = s.kept := by
  refine of_next h s ?_
  simp

theorem execAllocatorService_kept (die : Fin 8) (s : State) {t : State} (h : execAllocatorService die s = .next t) :
    t.kept = s.kept := by
  refine of_next h s ?_
  repeat' first
    | (simp [foldl_kept]; done)
    | split
    | (refine foldl_kept ?_ _ _; intros)
    | dsimp only

theorem execObjAlloc_kept (q : Fin 4096) (s : State) {t : State} (h : execObjAlloc q s = .next t) :
    t.kept = s.kept := by
  refine of_next h s ?_
  repeat' first
    | (simp; done)
    | split
    | (apply State.descr_kept; intros)
    | dsimp only

theorem execObjFree_kept (q : Fin 4096) (s : State) {t : State} (h : execObjFree q s = .next t) :
    t.kept = s.kept := by
  refine of_next h s ?_
  repeat' first
    | (simp; done)
    | split
    | (apply State.objDescr_kept; intros)
    | dsimp only

theorem execObjMap_kept (q : Fin 4096) (s : State) {t : State} (h : execObjMap q s = .next t) :
    t.kept = s.kept := by
  refine of_next h s ?_
  repeat' first
    | (simp; done)
    | split
    | (apply State.objDescr_kept; intros)
    | dsimp only

theorem execObjUnmap_kept (q : Fin 4096) (s : State) {t : State} (h : execObjUnmap q s = .next t) :
    t.kept = s.kept := by
  refine of_next h s ?_
  repeat' first
    | (simp; done)
    | split
    | (apply State.objDescr_kept; intros)
    | dsimp only

theorem execObjCopy_kept (q : Fin 4096) (s : State) {t : State} (h : execObjCopy q s = .next t) :
    t.kept = s.kept := by
  refine of_next h s ?_
  repeat' first
    | (simp; done)
    | split
    | (apply State.objDescr_kept; intros)
    | (apply State.withData_kept; intros)
    | dsimp only

theorem execObjRd_kept (tag : Nat) (off : Nat) (len : Nat) (s : State) {t : State} (h : execObjRd tag off len s =
    .next t) :
    t.kept = s.kept := by
  refine of_next h s ?_
  simp

theorem execObjWr_kept (off : Nat) (bytes : List Byte) (s : State) {t : State} (h : execObjWr off bytes s = .next t) :
    t.kept = s.kept := by
  refine of_next h s ?_
  simp

theorem execFrameStart_kept (die : Fin 8) (s : State) {t : State} (h : execFrameStart die s = .next t) :
    t.kept = s.kept := by
  exact of_next h s (State.frameStart_kept _ _)

theorem execCompositionArrival_kept (die : Fin 8) (lane : Fin 8) (s : State) {t : State} (h : execCompositionArrival
    die lane s = .next t) :
    t.kept = s.kept := by
  refine of_next h s ?_
  repeat' first
    | (simp; done)
    | split
    | dsimp only

theorem execBarrierRelease_kept (die : Fin 8) (lane : Fin 8) (s : State) {t : State} (h : execBarrierRelease die
    lane s = .next t) :
    t.kept = s.kept := by
  refine of_next h s ?_
  repeat' first
    | (simp; done)
    | split
    | dsimp only

theorem execBarrierTimeout_kept (die : Fin 8) (lane : Fin 8) (remote : Bool) (unitFail : Bool) (s : State) {t :
    State} (h : execBarrierTimeout die lane remote unitFail s = .next t) :
    t.kept = s.kept := by
  refine of_next h s ?_
  repeat' first
    | (simp; done)
    | split
    | dsimp only

theorem execStartPhase_kept (k : Fin 256) (s : State) {t : State} (h : execStartPhase k s = .next t) :
    t.kept = s.kept := by
  refine of_next h s ?_
  repeat' first
    | (simp; done)
    | split
    | dsimp only

theorem execSamplePhase_kept (k : Fin 256) (logits : List (List (BitVec 32))) (s : State) {t : State} (h :
    execSamplePhase k logits s = .next t) :
    t.kept = s.kept := by
  refine of_next h s ?_
  repeat' first
    | (simp; done)
    | split
    | dsimp only

theorem execCommitWord_kept (die : Fin 8) (lane : Fin 8) (s : State) {t : State} (h : execCommitWord die lane s =
    .next t) :
    t.kept = s.kept := by
  refine of_next h s ?_
  repeat' first
    | (simp; done)
    | split
    | dsimp only

theorem execEventPhase_kept (k : Fin 256) (s : State) {t : State} (h : execEventPhase k s = .next t) :
    t.kept = s.kept := by
  refine of_next h s ?_
  repeat' first
    | (simp; done)
    | split
    | dsimp only

theorem execDraftPhase_kept (k : Fin 256) (rcd : Option (List Byte)) (s : State) {t : State} (h : execDraftPhase k
    rcd s = .next t) :
    t.kept = s.kept := by
  refine of_next h s ?_
  repeat' first
    | (simp; done)
    | split
    | dsimp only

theorem execUndervoltage_kept (stamp : Nat) (s : State) {t : State} (h : execUndervoltage stamp s = .next t) :
    t.kept = s.kept := by
  refine of_next h s ?_
  simp

theorem execOvervoltage_kept (stamp : Nat) (s : State) {t : State} (h : execOvervoltage stamp s = .next t) :
    t.kept = s.kept := by
  refine of_next h s ?_
  simp

theorem execOvercurrent_kept (stamp : Nat) (s : State) {t : State} (h : execOvercurrent stamp s = .next t) :
    t.kept = s.kept := by
  refine of_next h s ?_
  simp

theorem execThermal_kept (die : Fin 8) (temp : Nat) (s : State) {t : State} (h : execThermal die temp s = .next t) :
    t.kept = s.kept := by
  refine of_next h s ?_
  repeat' first
    | (simp; done)
    | split
    | dsimp only

theorem execWarningRelease_kept (s : State) {t : State} (h : execWarningRelease s = .next t) :
    t.kept = s.kept := by
  refine of_next h s ?_
  simp

theorem execPowerLossDumpErase_kept (s : State) {t : State} (h : execPowerLossDumpErase s = .next t) :
    t.kept = s.kept := by
  refine of_next h s ?_
  repeat' first
    | (simp [kept_fields]; done)
    | split
    | dsimp only

theorem execPowerLossDumpCopy_kept (s : State) {t : State} (h : execPowerLossDumpCopy s = .next t) :
    t.kept = s.kept := by
  refine of_next h s ?_
  repeat' first
    | (simp [kept_fields]; done)
    | split
    | dsimp only

theorem execPowerUpRetry_kept (step : Fin 4) (s : State) {t : State} (h : execPowerUpRetry step s = .next t) :
    t.kept = s.kept := by
  refine of_next h s ?_
  repeat' first
    | (simp [kept_fields]; done)
    | split
    | dsimp only

theorem execDroop_kept (die : Fin 8) (mv : Nat) (s : State) {t : State} (h : execDroop die mv s = .next t) :
    t.kept = s.kept := by
  refine of_next h s ?_
  repeat' first
    | (simp [kept_fields]; done)
    | split
    | dsimp only

theorem execThrottleUpdate_kept (s : State) {t : State} (h : execThrottleUpdate s = .next t) : t.kept = s.kept := by
  unfold execThrottleUpdate at h
  dsimp only at h
  generalize List.range 8 = l at h
  refine of_next h s ?_
  simp [kept_fields, foldl_kept]

theorem execBubblePeriod_kept (die : Fin 8) (s : State) {t : State} (h : execBubblePeriod die s = .next t) :
    t.kept = s.kept := by
  refine of_next h s ?_
  simp

theorem execCapWrite_kept (v : Nat) (s : State) {t : State} (h : execCapWrite v s = .next t) :
    t.kept = s.kept := by
  refine of_next h s ?_
  simp

theorem execTelemetrySample_kept (t : Telemetry) (s : State) {t1 : State} (h : execTelemetrySample t s = .next t1) :
    t1.kept = s.kept := by
  refine of_next h s ?_
  split
  · rfl
  · dsimp only
    rw [State.showTAvail_kept, foldl_kept (by simp)]
    simp [kept_fields]

theorem execFmcWindow_kept (die : Fin 8) (count : Nat) (chk : Nat) (s : State) {t : State} (h : execFmcWindow die
    count chk s = .next t) :
    t.kept = s.kept := by
  refine of_next h s ?_
  repeat' first
    | (simp; done)
    | split
    | dsimp only

theorem execGo_kept (die : Fin 8) (s : State) {t : State} (h : execGo die s = .next t) :
    t.kept = s.kept := by
  refine of_next h s ?_
  simp

theorem execFmcMeasurementDone_kept (die : Fin 8) (count : Nat) (s : State) {t : State} (h : execFmcMeasurementDone
    die count s = .next t) :
    t.kept = s.kept := by
  refine of_next h s ?_
  simp

theorem execLcAdvance_grows (sideband : Bool) (s : State) {t : State} (h : execLcAdvance sideband s = .next t) :
    s.kept.grows t.kept := by
  refine of_next_grows h s ?_
  (repeat' (first | split | exact State.lcAdvance_grows _ | exact State.keygen_grows _ | exact State.digestSet_grows _ |
      exact State.boot_grows _ _ _ | exact State.takeCfgWr_grows _ _ _ _ | exact State.cfgWrite_grows _ _ _ _ |
      exact State.afterStop_grows _ _ _ _ _ | (apply State.secCmd_grows; intros) | (apply State.smb_grows; intros) |
      (refine .of_eq ?_; simp [kept_fields]; done) | dsimp only))

theorem execKeygen_grows (sideband : Bool) (s : State) {t : State} (h : execKeygen sideband s = .next t) :
    s.kept.grows t.kept := by
  exact of_next_grows h s (s.secCmd_grows _ _ _ _ State.keygen_grows)

theorem execDigestSet_grows (sideband : Bool) (s : State) {t : State} (h : execDigestSet sideband s = .next t) :
    s.kept.grows t.kept := by
  exact of_next_grows h s (s.secCmd_grows _ _ _ _ State.digestSet_grows)

theorem execFsSet_kept (port : Option (Fin 16)) (s : State) {t : State} (h : execFsSet port s = .next t) :
    t.kept = s.kept := by
  refine of_next h s ?_
  simp

theorem execBoot_grows (sideband : Bool) (image : List Byte) (failed : Bool) (s : State) {t : State} (h : execBoot
    sideband image failed s = .next t) :
    s.kept.grows t.kept := by
  exact of_next_grows h s (s.secCmd_grows _ _ _ _ fun u => u.boot_grows _ _)

theorem execTenantStart_kept (q : Fin 4096) (s : State) {t : State} (h : execTenantStart q s = .next t) :
    t.kept = s.kept := by
  refine of_next h s ?_
  repeat' first
    | (simp [kept_fields]; done)
    | split
    | (apply State.descr_kept; intros)
    | dsimp only

theorem execTenantEnd_kept (q : Fin 4096) (s : State) {t : State} (h : execTenantEnd q s = .next t) :
    t.kept = s.kept := by
  refine of_next h s ?_
  repeat' first
    | (simp [kept_fields]; done)
    | split
    | (apply State.descr_kept; intros)
    | dsimp only

theorem execAttest_kept (q : Fin 4096) (s : State) {t : State} (h : execAttest q s = .next t) :
    t.kept = s.kept := by
  refine of_next h s ?_
  repeat' first
    | (simp; done)
    | split
    | (apply State.descr_kept; intros)
    | dsimp only

theorem execReset_kept (key : Byte) (s : State) {t : State} (h : execReset key s = .next t) :
    t.kept = s.kept := by
  refine of_next h s ?_
  simp

theorem execSbRst_kept (s : State) {t : State} (h : execSbRst s = .next t) :
    t.kept = s.kept := by
  refine of_next h s ?_
  simp

theorem execStewardWatchdog_kept (die : Fin 8) (steward : Fin 5) (s : State) {t : State} (h : execStewardWatchdog
    die steward s = .next t) :
    t.kept = s.kept := by
  refine of_next h s ?_
  repeat' first
    | (simp [kept_fields]; done)
    | split
    | dsimp only

theorem execStewardTakeover_kept (die : Fin 8) (s : State) {t : State} (h : execStewardTakeover die s = .next t) :
    t.kept = s.kept := by
  refine of_next h s ?_
  simp

theorem execModuleWatchdog_kept (s : State) {t : State} (h : execModuleWatchdog s = .next t) :
    t.kept = s.kept := by
  refine of_next h s ?_
  simp

theorem execTeardownTimeout_kept (ctx : Fin 1024) (s : State) {t : State} (h : execTeardownTimeout ctx s = .next t) :
    t.kept = s.kept := by
  refine of_next h s ?_
  repeat' first
    | (simp; done)
    | split
    | dsimp only

theorem execEngineWatchdog_kept (c : CoreId) (e : Eng) (s : State) {t : State} (h : execEngineWatchdog c e s = .next
    t) :
    t.kept = s.kept := by
  refine of_next h s ?_
  repeat' first
    | (simp [kept_fields]; done)
    | split
    | dsimp only

theorem execFirmwareError_kept (s : State) {t : State} (h : execFirmwareError s = .next t) :
    t.kept = s.kept := by
  refine of_next h s ?_
  simp

theorem execCollect_kept (die : Fin 8) (s : State) {t : State} (h : execCollect die s = .next t) :
    t.kept = s.kept := by
  refine of_next h s ?_
  repeat' first
    | (simp [kept_fields]; done)
    | split
    | dsimp only

theorem execCollectionTimeout_kept (die : Fin 8) (unit : Nat) (s : State) {t : State} (h : execCollectionTimeout die
    unit s = .next t) :
    t.kept = s.kept := by
  refine of_next h s ?_
  repeat' first
    | (simp [kept_fields]; done)
    | split
    | dsimp only

theorem execResetRelease_kept (s : State) {t : State} (h : execResetRelease s = .next t) :
    t.kept = s.kept := by
  refine of_next h s ?_
  repeat' first
    | (simp [kept_fields]; done)
    | split
    | dsimp only

@[simp] theorem State.logRepairs_kept (s : State) (i : StopId) (lanes rows : Nat) :
    (s.logRepairs i lanes rows).kept = s.kept := rfl

theorem execStopReady_grows (stop : StopId) (lanes : Nat) (rows : Nat) (spareLeft : Bool) (s : State) {t : State} (h
    : execStopReady stop lanes rows spareLeft s = .next t) :
    s.kept.grows t.kept := by
  refine of_next_grows h s ?_
  split
  · exact Kept.grows.trans (.of_eq (by cases spareLeft <;> simp)) (State.afterStop_grows _ _ _ _ _)
  · exact .refl _

theorem execStopTrainingTimeout_grows (stop : StopId) (s : State) {t : State} (h : execStopTrainingTimeout stop s =
    .next t) :
    s.kept.grows t.kept := by
  refine of_next_grows h s ?_
  split
  · exact Kept.grows.trans (.of_eq (by simp)) (State.afterStop_grows _ _ _ _ _)
  · exact .refl _

theorem execSelfTestComplete_kept (failed : List CoreId) (deadDies : BitVec 8) (badRouters : List (Fin 8 × Fin 300))
    (badBypass : List (Fin 8 × Fin 300)) (goodStewards : List Nat) (s : State) {t : State} (h : execSelfTestComplete
    failed deadDies badRouters badBypass goodStewards s = .next t) :
    t.kept = s.kept := by
  refine of_next h s ?_
  split
  · rfl
  · dsimp only
    have f : ∀ u : State, (failed.foldl (fun (s : State) c => s.setCore c.key { s.core c.key with good := false })
        ((List.range 8).foldl (fun (s : State) d => s.updDie d fun x =>
        x.tested d (bit deadDies.toNat d || s.repairDies.contains d) badRouters badBypass goodStewards) u)).kept =
            u.kept := by
      intro u; rw [foldl_kept (by simp), foldl_kept (by simp)]
    split <;> exact f s

theorem execHifReady_grows (s : State) {t : State} (h : execHifReady s = .next t) : s.kept.grows t.kept := by
  have f : ∀ (l : List Nat) (u : State), (l.foldl (fun (s : State) d => s.enableDie d) u).kept = u.kept :=
    fun l u => foldl_kept (by simp) _ _
  unfold execHifReady at h
  generalize List.range 8 = l at h
  refine of_next_grows h s ?_
  split
  · exact .refl _
  · split
    · exact .of_eq rfl
    · refine (s.startCopy_grows).trans (.of_eq ?_)
      dsimp only
      split
      · rfl
      · simp [kept_fields, f]

theorem execClear_kept (s : State) {t : State} (h : execClear s = .next t) :
    t.kept = s.kept := by
  refine of_next h s ?_
  repeat' first
    | (simp; done)
    | split
    | dsimp only

theorem execFCommand_kept (die : Fin 8) (uncorrectable : Bool) (s : State) {t : State} (h : execFCommand die
    uncorrectable s = .next t) :
    t.kept = s.kept := by
  refine of_next h s ?_
  repeat' first
    | (simp; done)
    | split
    | dsimp only

theorem execFCommitRecheck_kept (die : Fin 8) (s : State) {t : State} (h : execFCommitRecheck die s = .next t) :
    t.kept = s.kept := by
  refine of_next h s ?_
  repeat' first
    | (simp [kept_fields]; done)
    | split
    | dsimp only

theorem execModelStore_kept (q : Fin 4096) (s : State) {t : State} (h : execModelStore q s = .next t) :
    t.kept = s.kept := by
  refine of_next h s ?_
  repeat' first
    | (simp; done)
    | split
    | (apply State.descr_kept; intros)
    | (apply State.withData_kept; intros)
    | dsimp only

theorem execModelWarm_kept (q : Fin 4096) (s : State) {t : State} (h : execModelWarm q s = .next t) :
    t.kept = s.kept := by
  refine of_next h s (State.hearth_kept _ _ _ _ _ _ ?_)
  intro u m b
  dsimp only
  split
  · rfl
  · split
    · simp
    · split
      · simp
      · split
        · simp
        · split
          · simp
          · rename_i e
            simpa using State.placeM_kept _ _ _ _ _ _ e

theorem execModelLoad_kept (q : Fin 4096) (s : State) {t : State} (h : execModelLoad q s = .next t) :
    t.kept = s.kept := by
  refine of_next h s (State.hearth_kept _ _ _ _ _ _ ?_)
  intro u m b
  dsimp only
  split
  · rfl
  · split
    · simp
    · split
      · split <;> simp
      · simp
      · split
        · simp
        · split
          · simp
          · rename_i e
            have k := State.placeLoad_kept _ _ _ _ _ _ e
            split <;> simpa using k

theorem execModelLoadComplete_kept (slot : Nat) (bad : Bool) (s : State) {t : State} (h : execModelLoadComplete slot
    bad s = .next t) :
    t.kept = s.kept := by
  refine of_next h s ?_
  split
  · rfl
  · split
    · rfl
    · split
      · rw [foldl_kept (by simp)]; simp
      · dsimp only
        rw [foldl_kept (by simp)]; simp

theorem execModelPin_kept (q : Fin 4096) (s : State) {t : State} (h : execModelPin q s = .next t) :
    t.kept = s.kept := by
  refine of_next h s ?_
  repeat' first
    | (simp; done)
    | split
    | (apply State.hearth_kept; intros)
    | dsimp only

theorem execModelUnpin_kept (q : Fin 4096) (s : State) {t : State} (h : execModelUnpin q s = .next t) :
    t.kept = s.kept := by
  refine of_next h s ?_
  repeat' first
    | (simp; done)
    | split
    | (apply State.hearth_kept; intros)
    | dsimp only

theorem execModelEvict_kept (q : Fin 4096) (s : State) {t : State} (h : execModelEvict q s = .next t) :
    t.kept = s.kept := by
  refine of_next h s ?_
  repeat' first
    | (simp; done)
    | split
    | (apply State.hearth_kept; intros)
    | dsimp only

theorem execModelDrop_kept (q : Fin 4096) (s : State) {t : State} (h : execModelDrop q s = .next t) :
    t.kept = s.kept := by
  refine of_next h s ?_
  repeat' first
    | (simp; done)
    | split
    | (apply State.hearth_kept; intros)
    | dsimp only

theorem execModelDelete_kept (q : Fin 4096) (s : State) {t : State} (h : execModelDelete q s = .next t) :
    t.kept = s.kept := by
  refine of_next h s ?_
  repeat' first
    | (simp; done)
    | split
    | (apply State.hearth_kept; intros)
    | dsimp only

theorem execLinkTraining_kept (port : Fin 16) (t : LinkTrain) (s : State) {t1 : State} (h : execLinkTraining port t
    s = .next t1) :
    t1.kept = s.kept := by
  refine of_next h s ?_
  have k := fun i => State.fresh_kept (s.updPort i fun p => p.tested t.pass)
  dsimp only
  split
  · rfl
  · split
    · simp
    · have k' := k port.val
      (repeat' split) <;> simp_all [kept_fields]

theorem execLinkTrainingTimeout_kept (port : Fin 16) (s : State) {t : State} (h : execLinkTrainingTimeout port s =
    .next t) :
    t.kept = s.kept := by
  refine of_next h s ?_
  repeat' first
    | (simp; done)
    | split
    | dsimp only

theorem execRetrainDelay_kept (port : Fin 16) (s : State) {t : State} (h : execRetrainDelay port s = .next t) :
    t.kept = s.kept := by
  refine of_next h s ?_
  repeat' first
    | (simp; done)
    | split
    | dsimp only

theorem execHello_kept (port : Fin 16) (dev : Nat) (peerPort : Nat) (role : Nat) (nonce : Digest) (s : State) {t :
    State} (h : execHello port dev peerPort role nonce s = .next t) :
    t.kept = s.kept := by
  refine of_next h s ?_
  simp

theorem execEcho_kept (port : Fin 16) (token : Nat) (hold : Nat) (s : State) {t : State} (h : execEcho port token
    hold s = .next t) :
    t.kept = s.kept := by
  refine of_next h s ?_
  simp

theorem execEchoAns_kept (port : Fin 16) (token : Nat) (hold : Nat) (flight : Nat) (s : State) {t : State} (h :
    execEchoAns port token hold flight s = .next t) :
    t.kept = s.kept := by
  refine of_next h s ?_
  repeat' first
    | (simp; done)
    | split
    | dsimp only

theorem execLanes_kept (port : Fin 16) (excl : Nat) (degraded : Nat) (s : State) {t : State} (h : execLanes port
    excl degraded s = .next t) :
    t.kept = s.kept := by
  refine of_next h s ?_
  simp

theorem execRekey_kept (port : Fin 16) (epoch : BitVec 32) (fcsw : Nat) (s : State) {t : State} (h : execRekey port
    epoch fcsw s = .next t) :
    t.kept = s.kept := by
  refine of_next h s ?_
  simp

theorem execRekeyStart_kept (port : Fin 16) (s : State) {t : State} (h : execRekeyStart port s = .next t) :
    t.kept = s.kept := by
  refine of_next h s ?_
  simp

theorem execFcThreshold_kept (port : Fin 16) (s : State) {t : State} (h : execFcThreshold port s = .next t) :
    t.kept = s.kept := by
  refine of_next h s ?_
  repeat' first
    | (simp; done)
    | split
    | dsimp only

theorem execCounterExhausted_kept (port : Fin 16) (s : State) {t : State} (h : execCounterExhausted port s = .next
    t) :
    t.kept = s.kept := by
  refine of_next h s ?_
  repeat' first
    | (simp; done)
    | split
    | dsimp only

theorem execDown_kept (port : Fin 16) (reason : Fin 16) (s : State) {t : State} (h : execDown port reason s = .next
    t) :
    t.kept = s.kept := by
  refine of_next h s ?_
  simp

theorem execControlSilence_kept (port : Fin 16) (s : State) {t : State} (h : execControlSilence port s = .next t) :
    t.kept = s.kept := by
  refine of_next h s ?_
  repeat' first
    | (simp; done)
    | split
    | dsimp only

theorem execLockLoss_kept (port : Fin 16) (s : State) {t : State} (h : execLockLoss port s = .next t) :
    t.kept = s.kept := by
  refine of_next h s ?_
  repeat' first
    | (simp; done)
    | split
    | dsimp only

theorem execRetrain_kept (port : Fin 16) (s : State) {t : State} (h : execRetrain port s = .next t) :
    t.kept = s.kept := by
  refine of_next h s ?_
  simp

theorem execLinkEnableWrite_kept (port : Fin 16) (on : Bool) (s : State) {t : State} (h : execLinkEnableWrite port
    on s = .next t) :
    t.kept = s.kept := by
  refine of_next h s ?_
  simp

theorem execLoopStart_kept (q : Fin 4096) (s : State) {t : State} (h : execLoopStart q s = .next t) :
    t.kept = s.kept := by
  refine of_next h s ?_
  repeat' first
    | (simp [kept_fields]; done)
    | split
    | (apply State.descr_kept; intros)
    | (apply State.withData_kept; intros)
    | dsimp only

theorem execLoopStop_kept (q : Fin 4096) (s : State) {t : State} (h : execLoopStop q s = .next t) :
    t.kept = s.kept := by
  refine of_next h s ?_
  repeat' first
    | (simp; done)
    | split
    | (apply State.descr_kept; intros)
    | dsimp only

theorem execSampleSet_kept (q : Fin 4096) (s : State) {t : State} (h : execSampleSet q s = .next t) :
    t.kept = s.kept := by
  refine of_next h s ?_
  repeat' first
    | (simp; done)
    | split
    | (apply State.descr_kept; intros)
    | (apply State.withData_kept; intros)
    | dsimp only

theorem execDraft_kept (q : Fin 4096) (s : State) {t : State} (h : execDraft q s = .next t) :
    t.kept = s.kept := by
  refine of_next h s ?_
  repeat' first
    | (simp; done)
    | split
    | (apply State.descr_kept; intros)
    | (apply State.withData_kept; intros)
    | dsimp only

theorem execStop_kept (die : Fin 8) (lane : Fin 8) (s : State) {t : State} (h : execStop die lane s = .next t) :
    t.kept = s.kept := by
  refine of_next h s ?_
  simp

theorem execDsrcWrite_kept (die : Fin 8) (lane : Fin 8) (v : Fin 4) (s : State) {t : State} (h : execDsrcWrite die
    lane v s = .next t) :
    t.kept = s.kept := by
  refine of_next h s ?_
  simp

theorem execWaitEvent_kept (die : Fin 8) (lane : Fin 8) (call : Nat) (x40 : Nat) (s : State) {t : State} (h :
    execWaitEvent die lane call x40 s = .next t) :
    t.kept = s.kept := by
  refine of_next h s ?_
  repeat' first
    | (simp; done)
    | split
    | (apply State.ucpCall_kept; intros)
    | dsimp only

theorem execDraftCall_kept (die : Fin 8) (lane : Fin 8) (call : Nat) (addr : Nat) (rcd : List Byte) (s : State) {t :
    State} (h : execDraftCall die lane call addr rcd s = .next t) :
    t.kept = s.kept := by
  refine of_next h s ?_
  repeat' first
    | (simp; done)
    | split
    | (apply State.ucpCall_kept; intros)
    | dsimp only

theorem execStopCall_kept (die : Fin 8) (lane : Fin 8) (call : Nat) (s : State) {t : State} (h : execStopCall die
    lane call s = .next t) :
    t.kept = s.kept := by
  refine of_next h s ?_
  repeat' first
    | (simp; done)
    | split
    | (apply State.ucpCall_kept; intros)
    | dsimp only

theorem execStateRead_kept (die : Fin 8) (lane : Fin 8) (call : Nat) (s : State) {t : State} (h : execStateRead die
    lane call s = .next t) :
    t.kept = s.kept := by
  refine of_next h s ?_
  repeat' first
    | (simp; done)
    | split
    | (apply State.ucpCall_kept; intros)
    | dsimp only

theorem execExit_kept (die : Fin 8) (lane : Fin 8) (call : Nat) (s : State) {t : State} (h : execExit die lane call
    s = .next t) :
    t.kept = s.kept := by
  refine of_next h s ?_
  repeat' first
    | (simp; done)
    | split
    | (apply State.ucpCall_kept; intros)
    | dsimp only

theorem execUcpQuantum_kept (die : Fin 8) (s : State) {t : State} (h : execUcpQuantum die s = .next t) :
    t.kept = s.kept := by
  refine of_next h s ?_
  simp

theorem execRecordFetch_kept (q : Fin 4096) (s : State) {t : State} (h : execRecordFetch q s = .next t) :
    t.kept = s.kept := by
  refine of_next h s ?_
  repeat' first
    | (simp; done)
    | split
    | (apply State.descr_kept; intros)
    | dsimp only

theorem execEpochMark_kept (q : Fin 4096) (s : State) {t : State} (h : execEpochMark q s = .next t) :
    t.kept = s.kept := by
  refine of_next h s (State.descr_kept _ _ _ _ _ _ _ _ ?_)
  intro u a
  dsimp only
  rw [State.complete_kept, foldl_kept (by simp)]
  rfl

theorem execCheckpoint_kept (k : Fin 256) (s : State) {t : State} (h : execCheckpoint k s = .next t) :
    t.kept = s.kept := by
  refine of_next h s ?_
  simp

theorem execOrphanClose_kept (k : Fin 256) (s : State) {t : State} (h : execOrphanClose k s = .next t) :
    t.kept = s.kept := by
  refine of_next h s ?_
  repeat' first
    | (simp [foldl_kept]; done)
    | split
    | (refine foldl_kept ?_ _ _; intros)
    | dsimp only

theorem execRelease_kept (s : State) {t : State} (h : execRelease s = .next t) :
    t.kept = s.kept := by
  refine of_next h s ?_
  simp

theorem execQuery_kept (q : Fin 4096) (s : State) {t : State} (h : execQuery q s = .next t) :
    t.kept = s.kept := by
  refine of_next h s ?_
  simp

theorem execEnable_kept (v : Bool) (s : State) {t : State} (h : execEnable v s = .next t) :
    t.kept = s.kept := by
  refine of_next h s ?_
  repeat' first
    | (simp; done)
    | split
    | dsimp only

theorem execThrottleSet_kept (q : Fin 4096) (s : State) {t : State} (h : execThrottleSet q s = .next t) :
    t.kept = s.kept := by
  refine of_next h s (State.descr_kept _ _ _ _ _ _ _ _ ?_)
  intro u a
  dsimp only
  split
  · simp
  · rw [State.complete_kept, foldl_kept (by simp)]
    rfl

theorem execCfgRd_kept (src : CfgSrc) (tag : Nat) (a : CfgAddr) (s : State) {t : State} (h : execCfgRd src tag a s =
    .next t) :
    t.kept = s.kept := by
  refine of_next h s ?_
  simp

theorem execCfgWr_grows (src : CfgSrc) (a : CfgAddr) (v : Word64) (s : State) {t : State} (h : execCfgWr src a v s =
    .next t) :
    s.kept.grows t.kept := by
  refine of_next_grows h s ?_
  (repeat' (first | split | exact State.lcAdvance_grows _ | exact State.keygen_grows _ | exact State.digestSet_grows _ |
      exact State.boot_grows _ _ _ | exact State.takeCfgWr_grows _ _ _ _ | exact State.cfgWrite_grows _ _ _ _ |
      exact State.afterStop_grows _ _ _ _ _ | (apply State.secCmd_grows; intros) | (apply State.smb_grows; intros) |
      (refine .of_eq ?_; simp [kept_fields]; done) | dsimp only))

theorem execRegisterWrite_grows (a : CfgAddr) (v : Word64) (s : State) {t : State} (h : execRegisterWrite a v s =
    .next t) :
    s.kept.grows t.kept := by
  refine of_next_grows h s ?_
  split
  · exact s.cfgWrite_grows _ _ _
  · exact .refl _

theorem execAliasedRead_kept (a : CfgAddr) (s : State) {t : State} (h : execAliasedRead a s = .next t) :
    t.kept = s.kept := by
  refine of_next h s ?_
  simp

theorem execRcRead_kept (a : CfgAddr) (hw : Word64) (s : State) {t : State} (h : execRcRead a hw s = .next t) :
    t.kept = s.kept := by
  refine of_next h s ?_
  simp

theorem execCoreCtlWrite_grows (c : CoreId) (v : Word64) (s : State) {t : State} (h : execCoreCtlWrite c v s = .next
    t) :
    s.kept.grows t.kept := by
  refine of_next_grows h s ?_
  split
  · exact s.cfgWrite_grows _ _ _
  · exact .refl _

theorem execSmbCfgWr_grows (off : BitVec 32) (v : Word64) (pecOk : Bool) (s : State) {t : State} (h : execSmbCfgWr
    off v pecOk s = .next t) :
    s.kept.grows t.kept := by
  refine of_next_grows h s (s.smb_grows _ _ fun u => ?_)
  split
  · exact .of_eq (by simp)
  · split
    · exact .of_eq (by simp [kept_fields])
    · rw [State.smbAnswer_kept]; exact u.cfgWrite_grows _ _ _

theorem execSmbCfgAddr_grows (off : BitVec 32) (pecOk : Bool) (s : State) {t : State} (h : execSmbCfgAddr off pecOk
    s = .next t) :
    s.kept.grows t.kept := by
  refine of_next_grows h s (State.smb_grows _ _ _ fun u => .of_eq ?_)
  (repeat' split) <;> simp

theorem execSmbCfgData_grows (pecOk : Bool) (s : State) {t : State} (h : execSmbCfgData pecOk s = .next t) :
    s.kept.grows t.kept := by
  exact of_next_grows h s (State.smb_grows _ _ _ fun u => .of_eq (by simp))

theorem execCompCreate_kept (q : Fin 4096) (img : Image) (s : State) {t : State} (h : execCompCreate q img s = .next
    t) :
    t.kept = s.kept := by
  refine of_next h s ?_
  repeat' first
    | (simp [kept_fields]; done)
    | split
    | (apply State.descr_kept; intros)
    | (apply State.withData_kept; intros)
    | dsimp only

theorem execCompRebind_kept (q : Fin 4096) (s : State) {t : State} (h : execCompRebind q s = .next t) :
    t.kept = s.kept := by
  refine of_next h s ?_
  repeat' first
    | (simp; done)
    | split
    | (apply State.descr_kept; intros)
    | (apply State.withData_kept; intros)
    | dsimp only

theorem execCompDestroy_kept (q : Fin 4096) (s : State) {t : State} (h : execCompDestroy q s = .next t) :
    t.kept = s.kept := by
  refine of_next h s (State.descr_kept _ _ _ _ _ _ _ _ ?_)
  intro u a
  dsimp only
  split
  · simp
  · rw [State.complete_kept, State.ctxActive_kept, State.freeComp_kept, foldl_kept (by simp)]
    simp

theorem execDrainRelease_kept (k : Fin 256) (s : State) {t : State} (h : execDrainRelease k s = .next t) :
    t.kept = s.kept := by
  refine of_next h s ?_
  repeat' first
    | (simp; done)
    | split
    | dsimp only

theorem execJoin_kept (cid : Word64) (vmod : Nat) (digest : Digest) (s : State) {t : State} (h : execJoin cid vmod
    digest s = .next t) :
    t.kept = s.kept := by
  refine of_next h s ?_
  simp

theorem execReady_kept (cid : Word64) (gen : BitVec 32) (allShift : Bool) (s : State) {t : State} (h : execReady cid
    gen allShift s = .next t) :
    t.kept = s.kept := by
  refine of_next h s ?_
  simp

theorem execRefuse_kept (cid : Word64) (vmod : Nat) (s : State) {t : State} (h : execRefuse cid vmod s = .next t) :
    t.kept = s.kept := by
  refine of_next h s ?_
  simp

theorem execJoinDeadline_kept (k : Fin 256) (s : State) {t : State} (h : execJoinDeadline k s = .next t) :
    t.kept = s.kept := by
  refine of_next h s ?_
  repeat' first
    | (simp; done)
    | split
    | dsimp only

theorem execMemberJoinDeadline_kept (k : Fin 256) (s : State) {t : State} (h : execMemberJoinDeadline k s = .next t) :
    t.kept = s.kept := by
  refine of_next h s ?_
  repeat' first
    | (simp; done)
    | split
    | dsimp only

theorem execBal_kept (cid : Word64) (vmod : Nat) (step : BitVec 32) (waited : Nat) (s : State) {t : State} (h :
    execBal cid vmod step waited s = .next t) :
    t.kept = s.kept := by
  refine of_next h s ?_
  simp

theorem execCaps_kept (cid : Word64) (x25 : BitVec 32) (caps : List Nat) (s : State) {t : State} (h : execCaps cid
    x25 caps s = .next t) :
    t.kept = s.kept := by
  refine of_next h s ?_
  simp

theorem execPoolMap_kept (q : Fin 4096) (answers : List (PoolReason × List Byte)) (s : State) {t : State} (h :
    execPoolMap q answers s = .next t) :
    t.kept = s.kept := by
  refine of_next h s (State.descr_kept _ _ _ _ _ _ _ _ ?_)
  intro u a
  dsimp only
  split
  · rfl
  · refine State.withData_kept _ _ _ _ _ fun l => ?_
    (repeat' split) <;> simp

theorem execCreate_kept (attacher : Nat) (sid : Word64) (mgen : BitVec 32) (bytes : List Byte) (s : State) {t :
    State} (h : execCreate attacher sid mgen bytes s = .next t) :
    t.kept = s.kept := by
  refine of_next h s ?_
  repeat' first
    | (simp [kept_fields]; done)
    | split
    | dsimp only

theorem execAttach_kept (attacher : Nat) (sid : Word64) (mgen epoch : BitVec 32) (len leaseMs : Nat) (s : State) {t
    : State}
    (h : execAttach attacher sid mgen epoch len leaseMs s = .next t) : t.kept = s.kept := by
  refine of_next h s ?_
  unfold State.asMember
  dsimp only
  (repeat' split) <;> simp

theorem execSync_kept (attacher : Nat) (sid : Word64) (mgen : BitVec 32) (epoch : BitVec 32) (leaseMs : Nat) (bytes
    : List Byte) (s : State) {t : State} (h : execSync attacher sid mgen epoch leaseMs bytes s = .next t) :
    t.kept = s.kept := by
  refine of_next h s ?_
  simp

theorem execDetach_kept (attacher : Nat) (sid : Word64) (mgen : BitVec 32) (epoch : BitVec 32) (bytes : List Byte)
    (s : State) {t : State} (h : execDetach attacher sid mgen epoch bytes s = .next t) :
    t.kept = s.kept := by
  refine of_next h s ?_
  simp

theorem execDrop_kept (sid : Word64) (mgen : BitVec 32) (epoch : BitVec 32) (s : State) {t : State} (h : execDrop
    sid mgen epoch s = .next t) :
    t.kept = s.kept := by
  refine of_next h s ?_
  repeat' first
    | (simp; done)
    | split
    | dsimp only

theorem execHandoff_kept (sid : Word64) (mgen : BitVec 32) (epoch : BitVec 32) (target : Nat) (s : State) {t :
    State} (h : execHandoff sid mgen epoch target s = .next t) :
    t.kept = s.kept := by
  refine of_next h s ?_
  repeat' first
    | (simp; done)
    | split
    | dsimp only

theorem execResolve_kept (sid : Word64) (mgen : BitVec 32) (peer : Nat) (s : State) {t : State} (h : execResolve sid
    mgen peer s = .next t) :
    t.kept = s.kept := by
  refine of_next h s ?_
  repeat' first
    | (simp; done)
    | split
    | dsimp only

theorem execOffer_kept (src : Nat) (sid : Word64) (epoch : BitVec 32) (mgen : BitVec 32) (len : Nat) (s : State) {t
    : State} (h : execOffer src sid epoch mgen len s = .next t) :
    t.kept = s.kept := by
  refine of_next h s ?_
  simp

theorem execPoolBlock_kept (src : Nat) (p : PoolData) (s : State) {t : State} (h : execPoolBlock src p s = .next t) :
    t.kept = s.kept := by
  refine of_next h s ?_
  simp

theorem execPrepAck_kept (src : Nat) (sid : Word64) (epoch : BitVec 32) (s : State) {t : State} (h : execPrepAck src
    sid epoch s = .next t) :
    t.kept = s.kept := by
  refine of_next h s ?_
  simp

theorem execCommit_kept (src : Nat) (sid : Word64) (epoch : BitVec 32) (s : State) {t : State} (h : execCommit src
    sid epoch s = .next t) :
    t.kept = s.kept := by
  refine of_next h s ?_
  simp

theorem execCommitAck_kept (src : Nat) (sid : Word64) (epoch : BitVec 32) (s : State) {t : State} (h : execCommitAck
    src sid epoch s = .next t) :
    t.kept = s.kept := by
  refine of_next h s ?_
  simp

theorem execAbort_kept (src : Nat) (sid : Word64) (epoch : BitVec 32) (s : State) {t : State} (h : execAbort src sid
    epoch s = .next t) :
    t.kept = s.kept := by
  refine of_next h s ?_
  simp

theorem execPrepAckTimeout_kept (sid : Word64) (s : State) {t : State} (h : execPrepAckTimeout sid s = .next t) :
    t.kept = s.kept := by
  refine of_next h s ?_
  repeat' first
    | (simp; done)
    | split
    | dsimp only

theorem execCommitResend_kept (sid : Word64) (s : State) {t : State} (h : execCommitResend sid s = .next t) :
    t.kept = s.kept := by
  refine of_next h s ?_
  repeat' first
    | (simp; done)
    | split
    | dsimp only

theorem execResolveTimer_kept (sid : Word64) (s : State) {t : State} (h : execResolveTimer sid s = .next t) :
    t.kept = s.kept := by
  refine of_next h s ?_
  repeat' first
    | (simp; done)
    | split
    | dsimp only

theorem execResolveMessage_kept (src : Nat) (sid : Word64) (epoch : BitVec 32) (s : State) {t : State} (h :
    execResolveMessage src sid epoch s = .next t) :
    t.kept = s.kept := by
  refine of_next h s ?_
  simp

theorem execResolveAns_kept (src : Nat) (sid : Word64) (kind : Nat) (epoch : BitVec 32) (dev : Nat) (s : State) {t :
    State} (h : execResolveAns src sid kind epoch dev s = .next t) :
    t.kept = s.kept := by
  refine of_next h s ?_
  simp

theorem execResolveDeadline_kept (sid : Word64) (s : State) {t : State} (h : execResolveDeadline sid s = .next t) :
    t.kept = s.kept := by
  refine of_next h s ?_
  repeat' first
    | (simp [kept_fields]; done)
    | split
    | dsimp only

theorem execLeaseEnd_kept (sid : Word64) (s : State) {t : State} (h : execLeaseEnd sid s = .next t) :
    t.kept = s.kept := by
  refine of_next h s ?_
  repeat' first
    | (simp; done)
    | split
    | dsimp only

theorem execAttachingModuleLeaseEnd_kept (sid : Word64) (s : State) {t : State} (h : execAttachingModuleLeaseEnd sid
    s = .next t) :
    t.kept = s.kept := by
  refine of_next h s ?_
  simp [kept_fields]

theorem execGone_kept (dev : Nat) (s : State) {t : State} (h : execGone dev s = .next t) :
    t.kept = s.kept := by
  refine of_next h s ?_
  simp

theorem execMemberUnreachable_kept (dev : Nat) (s : State) {t : State} (h : execMemberUnreachable dev s = .next t) :
    t.kept = s.kept := by
  refine of_next h s ?_
  simp

theorem execTxRun_kept (port : Fin 16) (slot : Fin 16) (s : State) {t : State} (h : execTxRun port slot s = .next t) :
    t.kept = s.kept := by
  refine of_next h s ?_
  repeat' first
    | (simp; done)
    | split
    | dsimp only

theorem execLinkBlockReceive_grows (port : Fin 16) (x : RxBlock) (s : State) {t : State} (h : execLinkBlockReceive
    port x s = .next t) :
    s.kept.grows t.kept := by
  refine of_next_grows h s ?_
  dsimp only
  split
  · exact .refl _
  · split
    · exact .of_eq (by simp)
    · split
      · exact .of_eq (by simp)
      · refine Kept.grows.trans (.of_eq ?_) (State.takeBlock_grows _ _ _)
        simp

theorem execControlBlock_kept (port : Fin 16) (units : List LaneUnit) (msgs : List GenHdr) (s : State) {t : State}
    (h : execControlBlock port units msgs s = .next t) :
    t.kept = s.kept := by
  refine of_next h s ?_
  dsimp only
  split
  · rfl
  · rw [foldl_kept (by simp), foldl_kept (by simp)]; simp

/-! ### Commands that sample the straps anew -/

theorem execPowerOnReset_off (s : State) {t : State} (h : execPowerOnReset s = .next t) :
    s.kept.sameQueue t.kept ∧ s.kept.fusesGrow t.kept := by
  rw [← Host.Outcome.next.inj h]; exact s.powerOff_grows

theorem execThermalPowerOnReset_off (die : Fin 8) (temp : Nat) (s : State) {t : State}
    (h : execThermalPowerOnReset die temp s = .next t) : s.kept.sameQueue t.kept ∧ s.kept.fusesGrow t.kept := by
  rw [← Host.Outcome.next.inj h]
  split
  · exact s.powerOff_grows
  · exact ⟨(Kept.grows.refl _).1, (Kept.grows.refl _).2.2⟩

theorem execStrapWindow_off (samples : List (BitVec 12)) (s : State) {t : State} (h : execStrapWindow samples s = .next t) :
    s.kept.sameQueue t.kept ∧ s.kept.fusesGrow t.kept := by
  unfold execStrapWindow at h
  split at h <;> cases h <;> exact ⟨⟨rfl, rfl, rfl, rfl⟩, Kept.fusesGrow.refl _⟩

theorem execPowerOn_kept (cmeas : Nat) (s : State) {t : State} (h : execPowerOn cmeas s = .next t) : t.kept = s.kept := by
  refine of_next h s ?_
  (repeat' split) <;> simp [kept_fields]

end Sys2Proof.Machine
end

