-- ==== Sys2Proof/Laws/Tab.lean ====
section
/-! SUPPORT. The laws of sparse tables and memories: what a read gives after a write, and that every operation keeps
the canonical form. -/

namespace Sys2Proof

variable {α : Type} [DecidableEq α] {d : α}

omit [DecidableEq α] in
theorem Tab.look_ins (t : Tab α) (k j : Nat) (v : α) :
    Tab.look d (Tab.ins t k v) j = if k = j then v else Tab.look d t j := by
  induction t with
  | nil => simp [Tab.ins, Tab.look]
  | cons p t ih =>
    obtain ⟨i, w⟩ := p
    simp only [Tab.ins]
    split
    · simp [Tab.look]
    · split
      · rename_i h; subst h
        simp only [Tab.look]; split <;> rfl
      · rename_i h
        simp only [Tab.look, ih]
        split
        · rename_i e; subst e; rw [if_neg (fun e => h e.symm)]
        · rfl

omit [DecidableEq α] in
theorem Tab.look_filter (t : Tab α) (p : Nat → Bool) (j : Nat) :
    Tab.look d (t.filter fun e => p e.1) j = if p j then Tab.look d t j else d := by
  induction t with
  | nil => simp [Tab.look]
  | cons e t ih =>
    obtain ⟨i, w⟩ := e
    by_cases hp : p i
    · rw [List.filter_cons, if_pos hp]
      simp only [Tab.look, ih]
      by_cases h : i = j
      · subst h; simp [hp]
      · simp [h]
    · rw [List.filter_cons, if_neg hp, ih]
      by_cases h : i = j
      · subst h; simp [hp]
      · simp [Tab.look, h]

/-- A read after a write gives the value written at its key and leaves every other key. -/
theorem Tab.look_put (t : Tab α) (k j : Nat) (v : α) :
    Tab.look d (Tab.put d t k v) j = if k = j then v else Tab.look d t j := by
  unfold Tab.put
  split
  · rename_i h
    rw [Tab.look_filter (p := fun i => i != k)]
    by_cases e : k = j
    · subst e; simp [h]
    · have e' : j ≠ k := fun h => e h.symm
      simp [e, e']
  · exact Tab.look_ins t k j v

@[simp] theorem Tab.look_put_same (t : Tab α) (k : Nat) (v : α) : Tab.look d (Tab.put d t k v) k = v := by
  simp [Tab.look_put]

theorem Tab.look_put_ne {t : Tab α} {k j : Nat} (v : α) (h : j ≠ k) :
    Tab.look d (Tab.put d t k v) j = Tab.look d t j := by
  rw [Tab.look_put, if_neg (fun e => h e.symm)]

@[simp] theorem Tab.look_upd_same (t : Tab α) (k : Nat) (f : α → α) :
    Tab.look d (Tab.upd d t k f) k = f (Tab.look d t k) := by
  simp [Tab.upd]

theorem Tab.look_upd_ne {t : Tab α} {k j : Nat} (f : α → α) (h : j ≠ k) :
    Tab.look d (Tab.upd d t k f) j = Tab.look d t j := Tab.look_put_ne _ h

/-! ### The canonical form -/

/-- Every key of a table lies above `k`. -/
def Tab.above (k : Nat) (t : Tab α) : Prop := ∀ e ∈ t, k < e.1

omit [DecidableEq α] in
theorem Tab.above_ins {t : Tab α} {i k : Nat} {v : α} (h : Tab.above i t) (hk : i < k) : Tab.above i (Tab.ins t k v) := by
  induction t with
  | nil => intro e he; simp [Tab.ins] at he; simp [he, hk]
  | cons p t ih =>
    obtain ⟨j, w⟩ := p
    have hj := h (j, w) (by simp)
    have ht : Tab.above i t := fun e he => h e (by simp [he])
    intro e he
    simp only [Tab.ins] at he
    split at he
    · simp at he; obtain rfl | rfl | he := he
      · exact hk
      · exact hj
      · exact ht e he
    · split at he
      · simp at he; obtain rfl | he := he
        · exact hk
        · exact ht e he
      · simp at he; obtain rfl | he := he
        · exact hj
        · exact ih ht e he

theorem Tab.wf_cons (i : Nat) (v : α) (t : Tab α) :
    Tab.wf d ((i, v) :: t) = true ↔ v ≠ d ∧ Tab.above i t ∧ Tab.wf d t = true := by
  induction t generalizing i v with
  | nil => simp [Tab.wf, Tab.above]
  | cons p t ih =>
    obtain ⟨j, w⟩ := p
    have key := ih j w
    simp only [Tab.wf, Bool.and_eq_true, decide_eq_true_eq, bne_iff_ne] at key ⊢
    constructor
    · rintro ⟨⟨hv, hij⟩, hw⟩
      refine ⟨hv, ?_, hw⟩
      intro e he
      simp at he
      obtain rfl | he := he
      · exact hij
      · exact hij.trans ((key.mp hw).2.1 e he)
    · rintro ⟨hv, ha, hw⟩
      exact ⟨⟨hv, ha (j, w) (by simp)⟩, hw⟩

theorem Tab.wf_filter {t : Tab α} (p : Nat × α → Bool) (h : Tab.wf d t = true) : Tab.wf d (t.filter p) = true := by
  induction t with
  | nil => rfl
  | cons e t ih =>
    obtain ⟨i, v⟩ := e
    rw [Tab.wf_cons] at h
    by_cases hp : p (i, v)
    · rw [List.filter_cons, if_pos hp, Tab.wf_cons]
      exact ⟨h.1, fun e he => h.2.1 e (List.mem_filter.mp he).1, ih h.2.2⟩
    · rw [List.filter_cons, if_neg hp]
      exact ih h.2.2

theorem Tab.wf_ins {t : Tab α} {k : Nat} {v : α} (h : Tab.wf d t = true) (hv : v ≠ d) : Tab.wf d (Tab.ins t k v) = true := by
  induction t with
  | nil => simp [Tab.ins, Tab.wf, hv]
  | cons p t ih =>
    obtain ⟨i, w⟩ := p
    have hc := (Tab.wf_cons i w t).mp h
    simp only [Tab.ins]
    split
    · rename_i hk
      rw [Tab.wf_cons]
      refine ⟨hv, ?_, h⟩
      intro e he
      simp at he
      obtain rfl | he := he
      · exact hk
      · exact hk.trans (hc.2.1 e he)
    · split
      · rename_i e; subst e
        rw [Tab.wf_cons]
        exact ⟨hv, hc.2.1, hc.2.2⟩
      · rename_i h1 h2
        rw [Tab.wf_cons]
        exact ⟨hc.1, Tab.above_ins hc.2.1 (by omega), ih hc.2.2⟩

/-- A write keeps the canonical form. -/
theorem Tab.wf_put {t : Tab α} (k : Nat) (v : α) (h : Tab.wf d t = true) : Tab.wf d (Tab.put d t k v) = true := by
  unfold Tab.put
  split
  · exact Tab.wf_filter _ h
  · rename_i hv; exact Tab.wf_ins h hv

theorem Tab.wf_upd {t : Tab α} (k : Nat) (f : α → α) (h : Tab.wf d t = true) : Tab.wf d (Tab.upd d t k f) = true :=
  Tab.wf_put _ _ h

/-! ### Memory -/

@[simp] theorem Memory.byte_nil (a : Nat) : Memory.byte [] a = 0 := rfl

/-- A byte reads as written, every other byte as before. -/
theorem Memory.byte_setByte (m : Memory) (a j : Nat) (b : Byte) :
    (m.setByte a b).byte j = if a = j then b else m.byte j := Tab.look_put m a j b

/-- After a write of several bytes, the byte at `j`. -/
theorem Memory.byte_write (m : Memory) (a j : Nat) (l : List Byte) :
    (m.write a l).byte j = if a ≤ j ∧ j < a + l.length then (l[j - a]?).getD 0 else m.byte j := by
  induction l generalizing m a with
  | nil => simp [Memory.write]; try omega
  | cons b l ih =>
    rw [Memory.write, ih, Memory.byte_setByte]
    by_cases h1 : a = j
    · subst h1; simp
    · by_cases h2 : a + 1 ≤ j ∧ j < a + 1 + l.length
      · have h3 : a ≤ j ∧ j < a + (b :: l).length := by simp; omega
        rw [if_pos h2, if_pos h3]
        obtain ⟨n, rfl⟩ : ∃ n, j = a + 1 + n := ⟨j - (a + 1), by omega⟩
        have e1 : a + 1 + n - (a + 1) = n := by omega
        have e2 : a + 1 + n - a = n + 1 := by omega
        rw [e1, e2]; rfl
      · have h3 : ¬(a ≤ j ∧ j < a + (b :: l).length) := by simp; omega
        rw [if_neg h2, if_neg h3, if_neg h1]

/-- Outside the bytes written memory reads as before. -/
theorem Memory.byte_write_outside {m : Memory} {a j : Nat} {l : List Byte} (h : j < a ∨ a + l.length ≤ j) :
    (m.write a l).byte j = m.byte j := by
  rw [Memory.byte_write, if_neg (by omega)]

theorem Memory.wf_setByte {m : Memory} (a : Nat) (b : Byte) (h : m.wf = true) : (m.setByte a b).wf = true :=
  Tab.wf_put a b h

theorem Memory.wf_write {m : Memory} (a : Nat) (l : List Byte) (h : m.wf = true) : (m.write a l).wf = true := by
  induction l generalizing m a with
  | nil => exact h
  | cons b l ih => exact ih _ (Memory.wf_setByte a b h)

theorem Memory.wf_clear {m : Memory} (a n : Nat) (h : m.wf = true) : (m.clear a n).wf = true := Tab.wf_filter _ h

/-- What is read back after a write of the same place is what was written. -/
theorem Memory.read_write (m : Memory) (a : Nat) (l : List Byte) : (m.write a l).read a l.length = l := by
  apply List.ext_getElem
  · simp [Memory.read]
  · intro i h1 h2
    simp [Memory.read, Memory.byte_write, h2]

/-- What a change of every entry gives at a key, where it leaves the default alone. -/
theorem Tab.look_mapVals_eq {f : Nat → α → α} {t : Tab α} {k : Nat} (h : f k d = d) :
    Tab.look d (Tab.mapVals d f t) k = f k (Tab.look d t k) := by
  induction t with
  | nil => exact h.symm
  | cons p t ih =>
    obtain ⟨i, v⟩ := p
    unfold Tab.mapVals
    split
    · rename_i hv
      rw [Tab.look_filter (p := fun j => j != i)]
      by_cases hi : i = k
      · subst hi; simp [Tab.look, hv]
      · have hk : k ≠ i := fun e => hi e.symm
        simp [Tab.look, hi, hk, ih]
    · by_cases hi : i = k
      · subst hi; simp [Tab.look]
      · simp [Tab.look, hi, ih]

/-- What a change of every entry gives at a key, where neither the old entry nor the new one is the default. -/
theorem Tab.look_mapVals {α : Type} [DecidableEq α] {d : α} {f : Nat → α → α} {t : Tab α} {k : Nat} (h : f k (Tab.look d t k) ≠ d)
    (hd : Tab.look d t k ≠ d) : Tab.look d (Tab.mapVals d f t) k = f k (Tab.look d t k) := by
  induction t with
  | nil => exact absurd rfl hd
  | cons p t ih =>
    obtain ⟨i, v⟩ := p
    unfold Tab.mapVals
    by_cases hi : i = k
    · subst hi
      have e : Tab.look d ((i, v) :: t) i = v := by simp [Tab.look]
      rw [e] at h ⊢
      rw [if_neg h]
      simp [Tab.look]
    · have e : Tab.look d ((i, v) :: t) k = Tab.look d t k := by simp [Tab.look, hi]
      rw [e] at h hd ⊢
      have hk : k ≠ i := fun e => hi e.symm
      split
      · rw [Tab.look_filter (p := fun j => j != i)]
        simp [hk, ih h hd]
      · simp [Tab.look, hi, ih h hd]

/-- A property of the default that a change gives to every entry holds of every entry after it. -/
theorem Tab.mapVals_all {α : Type} [DecidableEq α] {d : α} {f : Nat → α → α} {t : Tab α} {p : α → Prop} (hd : p d)
    (hf : ∀ k v, p (f k v)) (k : Nat) : p (Tab.look d (Tab.mapVals d f t) k) := by
  induction t with
  | nil => exact hd
  | cons q t ih =>
    obtain ⟨i, v⟩ := q
    unfold Tab.mapVals
    split
    · rw [Tab.look_filter (p := fun j => j != i)]
      split
      · exact ih
      · exact hd
    · simp only [Tab.look]; split
      · exact hf _ _
      · exact ih

end Sys2Proof
end

