-- ==== Sys2Proof/Laws/State.lean ====
section
/-! SUPPORT. What each update of one part of the state leaves: a lemma per field and update, and a lemma per
part read and update. -/

namespace Sys2Proof.Machine

variable (s : State)

/-! ### setCore -/

@[simp] theorem State.setCore_pending (k : Nat) (c : Core) : (s.setCore k c).pending = s.pending := rfl
@[simp] theorem State.setCore_stamp (k : Nat) (c : Core) : (s.setCore k c).stamp = s.stamp := rfl
@[simp] theorem State.setCore_mark (k : Nat) (c : Core) : (s.setCore k c).mark = s.mark := rfl
@[simp] theorem State.setCore_dies (k : Nat) (c : Core) : (s.setCore k c).dies = s.dies := rfl
@[simp] theorem State.setCore_ports (k : Nat) (c : Core) : (s.setCore k c).ports = s.ports := rfl
@[simp] theorem State.setCore_tierH (k : Nat) (c : Core) : (s.setCore k c).tierH = s.tierH := rfl
@[simp] theorem State.setCore_tierM (k : Nat) (c : Core) : (s.setCore k c).tierM = s.tierM := rfl
@[simp] theorem State.setCore_tierF (k : Nat) (c : Core) : (s.setCore k c).tierF = s.tierF := rfl
@[simp] theorem State.setCore_sealH (k : Nat) (c : Core) : (s.setCore k c).sealH = s.sealH := rfl
@[simp] theorem State.setCore_sealM (k : Nat) (c : Core) : (s.setCore k c).sealM = s.sealM := rfl
@[simp] theorem State.setCore_hif (k : Nat) (c : Core) : (s.setCore k c).hif = s.hif := rfl
@[simp] theorem State.setCore_queues (k : Nat) (c : Core) : (s.setCore k c).queues = s.queues := rfl
@[simp] theorem State.setCore_rings (k : Nat) (c : Core) : (s.setCore k c).rings = s.rings := rfl
@[simp] theorem State.setCore_tongs0 (k : Nat) (c : Core) : (s.setCore k c).tongs0 = s.tongs0 := rfl
@[simp] theorem State.setCore_tongs8 (k : Nat) (c : Core) : (s.setCore k c).tongs8 = s.tongs8 := rfl
@[simp] theorem State.setCore_reads (k : Nat) (c : Core) : (s.setCore k c).reads = s.reads := rfl
@[simp] theorem State.setCore_nextTag (k : Nat) (c : Core) : (s.setCore k c).nextTag = s.nextTag := rfl
@[simp] theorem State.setCore_nextAcc (k : Nat) (c : Core) : (s.setCore k c).nextAcc = s.nextAcc := rfl
@[simp] theorem State.setCore_ctxs (k : Nat) (c : Core) : (s.setCore k c).ctxs = s.ctxs := rfl
@[simp] theorem State.setCore_fences (k : Nat) (c : Core) : (s.setCore k c).fences = s.fences := rfl
@[simp] theorem State.setCore_faultQ (k : Nat) (c : Core) : (s.setCore k c).faultQ = s.faultQ := rfl
@[simp] theorem State.setCore_faultLog (k : Nat) (c : Core) : (s.setCore k c).faultLog = s.faultLog := rfl
@[simp] theorem State.setCore_revs (k : Nat) (c : Core) : (s.setCore k c).revs = s.revs := rfl
@[simp] theorem State.setCore_nextSeq (k : Nat) (c : Core) : (s.setCore k c).nextSeq = s.nextSeq := rfl
@[simp] theorem State.setCore_models (k : Nat) (c : Core) : (s.setCore k c).models = s.models := rfl
@[simp] theorem State.setCore_commits (k : Nat) (c : Core) : (s.setCore k c).commits = s.commits := rfl
@[simp] theorem State.setCore_arenas (k : Nat) (c : Core) : (s.setCore k c).arenas = s.arenas := rfl
@[simp] theorem State.setCore_comps (k : Nat) (c : Core) : (s.setCore k c).comps = s.comps := rfl
@[simp] theorem State.setCore_joins (k : Nat) (c : Core) : (s.setCore k c).joins = s.joins := rfl
@[simp] theorem State.setCore_recs (k : Nat) (c : Core) : (s.setCore k c).recs = s.recs := rfl
@[simp] theorem State.setCore_recIndex (k : Nat) (c : Core) : (s.setCore k c).recIndex = s.recIndex := rfl
@[simp] theorem State.setCore_recPage (k : Nat) (c : Core) : (s.setCore k c).recPage = s.recPage := rfl
@[simp] theorem State.setCore_pool (k : Nat) (c : Core) : (s.setCore k c).pool = s.pool := rfl
@[simp] theorem State.setCore_route (k : Nat) (c : Core) : (s.setCore k c).route = s.route := rfl
@[simp] theorem State.setCore_sec (k : Nat) (c : Core) : (s.setCore k c).sec = s.sec := rfl
@[simp] theorem State.setCore_pwr (k : Nat) (c : Core) : (s.setCore k c).pwr = s.pwr := rfl
@[simp] theorem State.setCore_rst (k : Nat) (c : Core) : (s.setCore k c).rst = s.rst := rfl
@[simp] theorem State.setCore_sb (k : Nat) (c : Core) : (s.setCore k c).sb = s.sb := rfl
@[simp] theorem State.setCore_cfg (k : Nat) (c : Core) : (s.setCore k c).cfg = s.cfg := rfl
@[simp] theorem State.setCore_repairCores (k : Nat) (c : Core) : (s.setCore k c).repairCores = s.repairCores := rfl
@[simp] theorem State.setCore_repairClusters (k : Nat) (c : Core) : (s.setCore k c).repairClusters = s.repairClusters := rfl
@[simp] theorem State.setCore_repairDies (k : Nat) (c : Core) : (s.setCore k c).repairDies = s.repairDies := rfl
@[simp] theorem State.setCore_repairLog (k : Nat) (c : Core) : (s.setCore k c).repairLog = s.repairLog := rfl
@[simp] theorem State.setCore_hardRows (k : Nat) (c : Core) : (s.setCore k c).hardRows = s.hardRows := rfl
@[simp] theorem State.setCore_caps (k : Nat) (c : Core) : (s.setCore k c).caps = s.caps := rfl
@[simp] theorem State.setCore_free (k : Nat) (c : Core) : (s.setCore k c).free = s.free := rfl
@[simp] theorem State.setCore_out (k : Nat) (c : Core) : (s.setCore k c).out = s.out := rfl

/-! ### setDie -/

@[simp] theorem State.setDie_pending (d : Nat) (x : Die) : (s.setDie d x).pending = s.pending := rfl
@[simp] theorem State.setDie_stamp (d : Nat) (x : Die) : (s.setDie d x).stamp = s.stamp := rfl
@[simp] theorem State.setDie_mark (d : Nat) (x : Die) : (s.setDie d x).mark = s.mark := rfl
@[simp] theorem State.setDie_cores (d : Nat) (x : Die) : (s.setDie d x).cores = s.cores := rfl
@[simp] theorem State.setDie_ports (d : Nat) (x : Die) : (s.setDie d x).ports = s.ports := rfl
@[simp] theorem State.setDie_tierH (d : Nat) (x : Die) : (s.setDie d x).tierH = s.tierH := rfl
@[simp] theorem State.setDie_tierM (d : Nat) (x : Die) : (s.setDie d x).tierM = s.tierM := rfl
@[simp] theorem State.setDie_tierF (d : Nat) (x : Die) : (s.setDie d x).tierF = s.tierF := rfl
@[simp] theorem State.setDie_sealH (d : Nat) (x : Die) : (s.setDie d x).sealH = s.sealH := rfl
@[simp] theorem State.setDie_sealM (d : Nat) (x : Die) : (s.setDie d x).sealM = s.sealM := rfl
@[simp] theorem State.setDie_hif (d : Nat) (x : Die) : (s.setDie d x).hif = s.hif := rfl
@[simp] theorem State.setDie_queues (d : Nat) (x : Die) : (s.setDie d x).queues = s.queues := rfl
@[simp] theorem State.setDie_rings (d : Nat) (x : Die) : (s.setDie d x).rings = s.rings := rfl
@[simp] theorem State.setDie_tongs0 (d : Nat) (x : Die) : (s.setDie d x).tongs0 = s.tongs0 := rfl
@[simp] theorem State.setDie_tongs8 (d : Nat) (x : Die) : (s.setDie d x).tongs8 = s.tongs8 := rfl
@[simp] theorem State.setDie_reads (d : Nat) (x : Die) : (s.setDie d x).reads = s.reads := rfl
@[simp] theorem State.setDie_nextTag (d : Nat) (x : Die) : (s.setDie d x).nextTag = s.nextTag := rfl
@[simp] theorem State.setDie_nextAcc (d : Nat) (x : Die) : (s.setDie d x).nextAcc = s.nextAcc := rfl
@[simp] theorem State.setDie_ctxs (d : Nat) (x : Die) : (s.setDie d x).ctxs = s.ctxs := rfl
@[simp] theorem State.setDie_fences (d : Nat) (x : Die) : (s.setDie d x).fences = s.fences := rfl
@[simp] theorem State.setDie_faultQ (d : Nat) (x : Die) : (s.setDie d x).faultQ = s.faultQ := rfl
@[simp] theorem State.setDie_faultLog (d : Nat) (x : Die) : (s.setDie d x).faultLog = s.faultLog := rfl
@[simp] theorem State.setDie_revs (d : Nat) (x : Die) : (s.setDie d x).revs = s.revs := rfl
@[simp] theorem State.setDie_nextSeq (d : Nat) (x : Die) : (s.setDie d x).nextSeq = s.nextSeq := rfl
@[simp] theorem State.setDie_models (d : Nat) (x : Die) : (s.setDie d x).models = s.models := rfl
@[simp] theorem State.setDie_commits (d : Nat) (x : Die) : (s.setDie d x).commits = s.commits := rfl
@[simp] theorem State.setDie_arenas (d : Nat) (x : Die) : (s.setDie d x).arenas = s.arenas := rfl
@[simp] theorem State.setDie_comps (d : Nat) (x : Die) : (s.setDie d x).comps = s.comps := rfl
@[simp] theorem State.setDie_joins (d : Nat) (x : Die) : (s.setDie d x).joins = s.joins := rfl
@[simp] theorem State.setDie_recs (d : Nat) (x : Die) : (s.setDie d x).recs = s.recs := rfl
@[simp] theorem State.setDie_recIndex (d : Nat) (x : Die) : (s.setDie d x).recIndex = s.recIndex := rfl
@[simp] theorem State.setDie_recPage (d : Nat) (x : Die) : (s.setDie d x).recPage = s.recPage := rfl
@[simp] theorem State.setDie_pool (d : Nat) (x : Die) : (s.setDie d x).pool = s.pool := rfl
@[simp] theorem State.setDie_route (d : Nat) (x : Die) : (s.setDie d x).route = s.route := rfl
@[simp] theorem State.setDie_sec (d : Nat) (x : Die) : (s.setDie d x).sec = s.sec := rfl
@[simp] theorem State.setDie_pwr (d : Nat) (x : Die) : (s.setDie d x).pwr = s.pwr := rfl
@[simp] theorem State.setDie_rst (d : Nat) (x : Die) : (s.setDie d x).rst = s.rst := rfl
@[simp] theorem State.setDie_sb (d : Nat) (x : Die) : (s.setDie d x).sb = s.sb := rfl
@[simp] theorem State.setDie_cfg (d : Nat) (x : Die) : (s.setDie d x).cfg = s.cfg := rfl
@[simp] theorem State.setDie_repairCores (d : Nat) (x : Die) : (s.setDie d x).repairCores = s.repairCores := rfl
@[simp] theorem State.setDie_repairClusters (d : Nat) (x : Die) : (s.setDie d x).repairClusters = s.repairClusters := rfl
@[simp] theorem State.setDie_repairDies (d : Nat) (x : Die) : (s.setDie d x).repairDies = s.repairDies := rfl
@[simp] theorem State.setDie_repairLog (d : Nat) (x : Die) : (s.setDie d x).repairLog = s.repairLog := rfl
@[simp] theorem State.setDie_hardRows (d : Nat) (x : Die) : (s.setDie d x).hardRows = s.hardRows := rfl
@[simp] theorem State.setDie_caps (d : Nat) (x : Die) : (s.setDie d x).caps = s.caps := rfl
@[simp] theorem State.setDie_free (d : Nat) (x : Die) : (s.setDie d x).free = s.free := rfl
@[simp] theorem State.setDie_out (d : Nat) (x : Die) : (s.setDie d x).out = s.out := rfl

/-! ### updDie -/

@[simp] theorem State.updDie_pending (d : Nat) (f : Die → Die) : (s.updDie d f).pending = s.pending := rfl
@[simp] theorem State.updDie_stamp (d : Nat) (f : Die → Die) : (s.updDie d f).stamp = s.stamp := rfl
@[simp] theorem State.updDie_mark (d : Nat) (f : Die → Die) : (s.updDie d f).mark = s.mark := rfl
@[simp] theorem State.updDie_cores (d : Nat) (f : Die → Die) : (s.updDie d f).cores = s.cores := rfl
@[simp] theorem State.updDie_ports (d : Nat) (f : Die → Die) : (s.updDie d f).ports = s.ports := rfl
@[simp] theorem State.updDie_tierH (d : Nat) (f : Die → Die) : (s.updDie d f).tierH = s.tierH := rfl
@[simp] theorem State.updDie_tierM (d : Nat) (f : Die → Die) : (s.updDie d f).tierM = s.tierM := rfl
@[simp] theorem State.updDie_tierF (d : Nat) (f : Die → Die) : (s.updDie d f).tierF = s.tierF := rfl
@[simp] theorem State.updDie_sealH (d : Nat) (f : Die → Die) : (s.updDie d f).sealH = s.sealH := rfl
@[simp] theorem State.updDie_sealM (d : Nat) (f : Die → Die) : (s.updDie d f).sealM = s.sealM := rfl
@[simp] theorem State.updDie_hif (d : Nat) (f : Die → Die) : (s.updDie d f).hif = s.hif := rfl
@[simp] theorem State.updDie_queues (d : Nat) (f : Die → Die) : (s.updDie d f).queues = s.queues := rfl
@[simp] theorem State.updDie_rings (d : Nat) (f : Die → Die) : (s.updDie d f).rings = s.rings := rfl
@[simp] theorem State.updDie_tongs0 (d : Nat) (f : Die → Die) : (s.updDie d f).tongs0 = s.tongs0 := rfl
@[simp] theorem State.updDie_tongs8 (d : Nat) (f : Die → Die) : (s.updDie d f).tongs8 = s.tongs8 := rfl
@[simp] theorem State.updDie_reads (d : Nat) (f : Die → Die) : (s.updDie d f).reads = s.reads := rfl
@[simp] theorem State.updDie_nextTag (d : Nat) (f : Die → Die) : (s.updDie d f).nextTag = s.nextTag := rfl
@[simp] theorem State.updDie_nextAcc (d : Nat) (f : Die → Die) : (s.updDie d f).nextAcc = s.nextAcc := rfl
@[simp] theorem State.updDie_ctxs (d : Nat) (f : Die → Die) : (s.updDie d f).ctxs = s.ctxs := rfl
@[simp] theorem State.updDie_fences (d : Nat) (f : Die → Die) : (s.updDie d f).fences = s.fences := rfl
@[simp] theorem State.updDie_faultQ (d : Nat) (f : Die → Die) : (s.updDie d f).faultQ = s.faultQ := rfl
@[simp] theorem State.updDie_faultLog (d : Nat) (f : Die → Die) : (s.updDie d f).faultLog = s.faultLog := rfl
@[simp] theorem State.updDie_revs (d : Nat) (f : Die → Die) : (s.updDie d f).revs = s.revs := rfl
@[simp] theorem State.updDie_nextSeq (d : Nat) (f : Die → Die) : (s.updDie d f).nextSeq = s.nextSeq := rfl
@[simp] theorem State.updDie_models (d : Nat) (f : Die → Die) : (s.updDie d f).models = s.models := rfl
@[simp] theorem State.updDie_commits (d : Nat) (f : Die → Die) : (s.updDie d f).commits = s.commits := rfl
@[simp] theorem State.updDie_arenas (d : Nat) (f : Die → Die) : (s.updDie d f).arenas = s.arenas := rfl
@[simp] theorem State.updDie_comps (d : Nat) (f : Die → Die) : (s.updDie d f).comps = s.comps := rfl
@[simp] theorem State.updDie_joins (d : Nat) (f : Die → Die) : (s.updDie d f).joins = s.joins := rfl
@[simp] theorem State.updDie_recs (d : Nat) (f : Die → Die) : (s.updDie d f).recs = s.recs := rfl
@[simp] theorem State.updDie_recIndex (d : Nat) (f : Die → Die) : (s.updDie d f).recIndex = s.recIndex := rfl
@[simp] theorem State.updDie_recPage (d : Nat) (f : Die → Die) : (s.updDie d f).recPage = s.recPage := rfl
@[simp] theorem State.updDie_pool (d : Nat) (f : Die → Die) : (s.updDie d f).pool = s.pool := rfl
@[simp] theorem State.updDie_route (d : Nat) (f : Die → Die) : (s.updDie d f).route = s.route := rfl
@[simp] theorem State.updDie_sec (d : Nat) (f : Die → Die) : (s.updDie d f).sec = s.sec := rfl
@[simp] theorem State.updDie_pwr (d : Nat) (f : Die → Die) : (s.updDie d f).pwr = s.pwr := rfl
@[simp] theorem State.updDie_rst (d : Nat) (f : Die → Die) : (s.updDie d f).rst = s.rst := rfl
@[simp] theorem State.updDie_sb (d : Nat) (f : Die → Die) : (s.updDie d f).sb = s.sb := rfl
@[simp] theorem State.updDie_cfg (d : Nat) (f : Die → Die) : (s.updDie d f).cfg = s.cfg := rfl
@[simp] theorem State.updDie_repairCores (d : Nat) (f : Die → Die) : (s.updDie d f).repairCores = s.repairCores := rfl
@[simp] theorem State.updDie_repairClusters (d : Nat) (f : Die → Die) : (s.updDie d f).repairClusters = s.repairClusters := rfl
@[simp] theorem State.updDie_repairDies (d : Nat) (f : Die → Die) : (s.updDie d f).repairDies = s.repairDies := rfl
@[simp] theorem State.updDie_repairLog (d : Nat) (f : Die → Die) : (s.updDie d f).repairLog = s.repairLog := rfl
@[simp] theorem State.updDie_hardRows (d : Nat) (f : Die → Die) : (s.updDie d f).hardRows = s.hardRows := rfl
@[simp] theorem State.updDie_caps (d : Nat) (f : Die → Die) : (s.updDie d f).caps = s.caps := rfl
@[simp] theorem State.updDie_free (d : Nat) (f : Die → Die) : (s.updDie d f).free = s.free := rfl
@[simp] theorem State.updDie_out (d : Nat) (f : Die → Die) : (s.updDie d f).out = s.out := rfl

/-! ### updLane -/

@[simp] theorem State.updLane_pending (d l : Nat) (f : Lane → Lane) : (s.updLane d l f).pending = s.pending := rfl
@[simp] theorem State.updLane_stamp (d l : Nat) (f : Lane → Lane) : (s.updLane d l f).stamp = s.stamp := rfl
@[simp] theorem State.updLane_mark (d l : Nat) (f : Lane → Lane) : (s.updLane d l f).mark = s.mark := rfl
@[simp] theorem State.updLane_cores (d l : Nat) (f : Lane → Lane) : (s.updLane d l f).cores = s.cores := rfl
@[simp] theorem State.updLane_ports (d l : Nat) (f : Lane → Lane) : (s.updLane d l f).ports = s.ports := rfl
@[simp] theorem State.updLane_tierH (d l : Nat) (f : Lane → Lane) : (s.updLane d l f).tierH = s.tierH := rfl
@[simp] theorem State.updLane_tierM (d l : Nat) (f : Lane → Lane) : (s.updLane d l f).tierM = s.tierM := rfl
@[simp] theorem State.updLane_tierF (d l : Nat) (f : Lane → Lane) : (s.updLane d l f).tierF = s.tierF := rfl
@[simp] theorem State.updLane_sealH (d l : Nat) (f : Lane → Lane) : (s.updLane d l f).sealH = s.sealH := rfl
@[simp] theorem State.updLane_sealM (d l : Nat) (f : Lane → Lane) : (s.updLane d l f).sealM = s.sealM := rfl
@[simp] theorem State.updLane_hif (d l : Nat) (f : Lane → Lane) : (s.updLane d l f).hif = s.hif := rfl
@[simp] theorem State.updLane_queues (d l : Nat) (f : Lane → Lane) : (s.updLane d l f).queues = s.queues := rfl
@[simp] theorem State.updLane_rings (d l : Nat) (f : Lane → Lane) : (s.updLane d l f).rings = s.rings := rfl
@[simp] theorem State.updLane_tongs0 (d l : Nat) (f : Lane → Lane) : (s.updLane d l f).tongs0 = s.tongs0 := rfl
@[simp] theorem State.updLane_tongs8 (d l : Nat) (f : Lane → Lane) : (s.updLane d l f).tongs8 = s.tongs8 := rfl
@[simp] theorem State.updLane_reads (d l : Nat) (f : Lane → Lane) : (s.updLane d l f).reads = s.reads := rfl
@[simp] theorem State.updLane_nextTag (d l : Nat) (f : Lane → Lane) : (s.updLane d l f).nextTag = s.nextTag := rfl
@[simp] theorem State.updLane_nextAcc (d l : Nat) (f : Lane → Lane) : (s.updLane d l f).nextAcc = s.nextAcc := rfl
@[simp] theorem State.updLane_ctxs (d l : Nat) (f : Lane → Lane) : (s.updLane d l f).ctxs = s.ctxs := rfl
@[simp] theorem State.updLane_fences (d l : Nat) (f : Lane → Lane) : (s.updLane d l f).fences = s.fences := rfl
@[simp] theorem State.updLane_faultQ (d l : Nat) (f : Lane → Lane) : (s.updLane d l f).faultQ = s.faultQ := rfl
@[simp] theorem State.updLane_faultLog (d l : Nat) (f : Lane → Lane) : (s.updLane d l f).faultLog = s.faultLog := rfl
@[simp] theorem State.updLane_revs (d l : Nat) (f : Lane → Lane) : (s.updLane d l f).revs = s.revs := rfl
@[simp] theorem State.updLane_nextSeq (d l : Nat) (f : Lane → Lane) : (s.updLane d l f).nextSeq = s.nextSeq := rfl
@[simp] theorem State.updLane_models (d l : Nat) (f : Lane → Lane) : (s.updLane d l f).models = s.models := rfl
@[simp] theorem State.updLane_commits (d l : Nat) (f : Lane → Lane) : (s.updLane d l f).commits = s.commits := rfl
@[simp] theorem State.updLane_arenas (d l : Nat) (f : Lane → Lane) : (s.updLane d l f).arenas = s.arenas := rfl
@[simp] theorem State.updLane_comps (d l : Nat) (f : Lane → Lane) : (s.updLane d l f).comps = s.comps := rfl
@[simp] theorem State.updLane_joins (d l : Nat) (f : Lane → Lane) : (s.updLane d l f).joins = s.joins := rfl
@[simp] theorem State.updLane_recs (d l : Nat) (f : Lane → Lane) : (s.updLane d l f).recs = s.recs := rfl
@[simp] theorem State.updLane_recIndex (d l : Nat) (f : Lane → Lane) : (s.updLane d l f).recIndex = s.recIndex := rfl
@[simp] theorem State.updLane_recPage (d l : Nat) (f : Lane → Lane) : (s.updLane d l f).recPage = s.recPage := rfl
@[simp] theorem State.updLane_pool (d l : Nat) (f : Lane → Lane) : (s.updLane d l f).pool = s.pool := rfl
@[simp] theorem State.updLane_route (d l : Nat) (f : Lane → Lane) : (s.updLane d l f).route = s.route := rfl
@[simp] theorem State.updLane_sec (d l : Nat) (f : Lane → Lane) : (s.updLane d l f).sec = s.sec := rfl
@[simp] theorem State.updLane_pwr (d l : Nat) (f : Lane → Lane) : (s.updLane d l f).pwr = s.pwr := rfl
@[simp] theorem State.updLane_rst (d l : Nat) (f : Lane → Lane) : (s.updLane d l f).rst = s.rst := rfl
@[simp] theorem State.updLane_sb (d l : Nat) (f : Lane → Lane) : (s.updLane d l f).sb = s.sb := rfl
@[simp] theorem State.updLane_cfg (d l : Nat) (f : Lane → Lane) : (s.updLane d l f).cfg = s.cfg := rfl
@[simp] theorem State.updLane_repairCores (d l : Nat) (f : Lane → Lane) : (s.updLane d l f).repairCores = s.repairCores := rfl
@[simp] theorem State.updLane_repairClusters (d l : Nat) (f : Lane → Lane) : (s.updLane d l f).repairClusters = s.repairClusters := rfl
@[simp] theorem State.updLane_repairDies (d l : Nat) (f : Lane → Lane) : (s.updLane d l f).repairDies = s.repairDies := rfl
@[simp] theorem State.updLane_repairLog (d l : Nat) (f : Lane → Lane) : (s.updLane d l f).repairLog = s.repairLog := rfl
@[simp] theorem State.updLane_hardRows (d l : Nat) (f : Lane → Lane) : (s.updLane d l f).hardRows = s.hardRows := rfl
@[simp] theorem State.updLane_caps (d l : Nat) (f : Lane → Lane) : (s.updLane d l f).caps = s.caps := rfl
@[simp] theorem State.updLane_free (d l : Nat) (f : Lane → Lane) : (s.updLane d l f).free = s.free := rfl
@[simp] theorem State.updLane_out (d l : Nat) (f : Lane → Lane) : (s.updLane d l f).out = s.out := rfl

/-! ### updRouter -/

@[simp] theorem State.updRouter_pending (d r : Nat) (f : Router → Router) : (s.updRouter d r f).pending = s.pending := rfl
@[simp] theorem State.updRouter_stamp (d r : Nat) (f : Router → Router) : (s.updRouter d r f).stamp = s.stamp := rfl
@[simp] theorem State.updRouter_mark (d r : Nat) (f : Router → Router) : (s.updRouter d r f).mark = s.mark := rfl
@[simp] theorem State.updRouter_cores (d r : Nat) (f : Router → Router) : (s.updRouter d r f).cores = s.cores := rfl
@[simp] theorem State.updRouter_ports (d r : Nat) (f : Router → Router) : (s.updRouter d r f).ports = s.ports := rfl
@[simp] theorem State.updRouter_tierH (d r : Nat) (f : Router → Router) : (s.updRouter d r f).tierH = s.tierH := rfl
@[simp] theorem State.updRouter_tierM (d r : Nat) (f : Router → Router) : (s.updRouter d r f).tierM = s.tierM := rfl
@[simp] theorem State.updRouter_tierF (d r : Nat) (f : Router → Router) : (s.updRouter d r f).tierF = s.tierF := rfl
@[simp] theorem State.updRouter_sealH (d r : Nat) (f : Router → Router) : (s.updRouter d r f).sealH = s.sealH := rfl
@[simp] theorem State.updRouter_sealM (d r : Nat) (f : Router → Router) : (s.updRouter d r f).sealM = s.sealM := rfl
@[simp] theorem State.updRouter_hif (d r : Nat) (f : Router → Router) : (s.updRouter d r f).hif = s.hif := rfl
@[simp] theorem State.updRouter_queues (d r : Nat) (f : Router → Router) : (s.updRouter d r f).queues = s.queues := rfl
@[simp] theorem State.updRouter_rings (d r : Nat) (f : Router → Router) : (s.updRouter d r f).rings = s.rings := rfl
@[simp] theorem State.updRouter_tongs0 (d r : Nat) (f : Router → Router) : (s.updRouter d r f).tongs0 = s.tongs0 := rfl
@[simp] theorem State.updRouter_tongs8 (d r : Nat) (f : Router → Router) : (s.updRouter d r f).tongs8 = s.tongs8 := rfl
@[simp] theorem State.updRouter_reads (d r : Nat) (f : Router → Router) : (s.updRouter d r f).reads = s.reads := rfl
@[simp] theorem State.updRouter_nextTag (d r : Nat) (f : Router → Router) : (s.updRouter d r f).nextTag = s.nextTag := rfl
@[simp] theorem State.updRouter_nextAcc (d r : Nat) (f : Router → Router) : (s.updRouter d r f).nextAcc = s.nextAcc := rfl
@[simp] theorem State.updRouter_ctxs (d r : Nat) (f : Router → Router) : (s.updRouter d r f).ctxs = s.ctxs := rfl
@[simp] theorem State.updRouter_fences (d r : Nat) (f : Router → Router) : (s.updRouter d r f).fences = s.fences := rfl
@[simp] theorem State.updRouter_faultQ (d r : Nat) (f : Router → Router) : (s.updRouter d r f).faultQ = s.faultQ := rfl
@[simp] theorem State.updRouter_faultLog (d r : Nat) (f : Router → Router) : (s.updRouter d r f).faultLog = s.faultLog := rfl
@[simp] theorem State.updRouter_revs (d r : Nat) (f : Router → Router) : (s.updRouter d r f).revs = s.revs := rfl
@[simp] theorem State.updRouter_nextSeq (d r : Nat) (f : Router → Router) : (s.updRouter d r f).nextSeq = s.nextSeq := rfl
@[simp] theorem State.updRouter_models (d r : Nat) (f : Router → Router) : (s.updRouter d r f).models = s.models := rfl
@[simp] theorem State.updRouter_commits (d r : Nat) (f : Router → Router) : (s.updRouter d r f).commits = s.commits := rfl
@[simp] theorem State.updRouter_arenas (d r : Nat) (f : Router → Router) : (s.updRouter d r f).arenas = s.arenas := rfl
@[simp] theorem State.updRouter_comps (d r : Nat) (f : Router → Router) : (s.updRouter d r f).comps = s.comps := rfl
@[simp] theorem State.updRouter_joins (d r : Nat) (f : Router → Router) : (s.updRouter d r f).joins = s.joins := rfl
@[simp] theorem State.updRouter_recs (d r : Nat) (f : Router → Router) : (s.updRouter d r f).recs = s.recs := rfl
@[simp] theorem State.updRouter_recIndex (d r : Nat) (f : Router → Router) : (s.updRouter d r f).recIndex = s.recIndex := rfl
@[simp] theorem State.updRouter_recPage (d r : Nat) (f : Router → Router) : (s.updRouter d r f).recPage = s.recPage := rfl
@[simp] theorem State.updRouter_pool (d r : Nat) (f : Router → Router) : (s.updRouter d r f).pool = s.pool := rfl
@[simp] theorem State.updRouter_route (d r : Nat) (f : Router → Router) : (s.updRouter d r f).route = s.route := rfl
@[simp] theorem State.updRouter_sec (d r : Nat) (f : Router → Router) : (s.updRouter d r f).sec = s.sec := rfl
@[simp] theorem State.updRouter_pwr (d r : Nat) (f : Router → Router) : (s.updRouter d r f).pwr = s.pwr := rfl
@[simp] theorem State.updRouter_rst (d r : Nat) (f : Router → Router) : (s.updRouter d r f).rst = s.rst := rfl
@[simp] theorem State.updRouter_sb (d r : Nat) (f : Router → Router) : (s.updRouter d r f).sb = s.sb := rfl
@[simp] theorem State.updRouter_cfg (d r : Nat) (f : Router → Router) : (s.updRouter d r f).cfg = s.cfg := rfl
@[simp] theorem State.updRouter_repairCores (d r : Nat) (f : Router → Router) : (s.updRouter d r f).repairCores = s.repairCores := rfl
@[simp] theorem State.updRouter_repairClusters (d r : Nat) (f : Router → Router) : (s.updRouter d r f).repairClusters = s.repairClusters := rfl
@[simp] theorem State.updRouter_repairDies (d r : Nat) (f : Router → Router) : (s.updRouter d r f).repairDies = s.repairDies := rfl
@[simp] theorem State.updRouter_repairLog (d r : Nat) (f : Router → Router) : (s.updRouter d r f).repairLog = s.repairLog := rfl
@[simp] theorem State.updRouter_hardRows (d r : Nat) (f : Router → Router) : (s.updRouter d r f).hardRows = s.hardRows := rfl
@[simp] theorem State.updRouter_caps (d r : Nat) (f : Router → Router) : (s.updRouter d r f).caps = s.caps := rfl
@[simp] theorem State.updRouter_free (d r : Nat) (f : Router → Router) : (s.updRouter d r f).free = s.free := rfl
@[simp] theorem State.updRouter_out (d r : Nat) (f : Router → Router) : (s.updRouter d r f).out = s.out := rfl

/-! ### updStop -/

@[simp] theorem State.updStop_pending (i : StopId) (f : MemStop → MemStop) : (s.updStop i f).pending = s.pending := rfl
@[simp] theorem State.updStop_stamp (i : StopId) (f : MemStop → MemStop) : (s.updStop i f).stamp = s.stamp := rfl
@[simp] theorem State.updStop_mark (i : StopId) (f : MemStop → MemStop) : (s.updStop i f).mark = s.mark := rfl
@[simp] theorem State.updStop_cores (i : StopId) (f : MemStop → MemStop) : (s.updStop i f).cores = s.cores := rfl
@[simp] theorem State.updStop_ports (i : StopId) (f : MemStop → MemStop) : (s.updStop i f).ports = s.ports := rfl
@[simp] theorem State.updStop_tierH (i : StopId) (f : MemStop → MemStop) : (s.updStop i f).tierH = s.tierH := rfl
@[simp] theorem State.updStop_tierM (i : StopId) (f : MemStop → MemStop) : (s.updStop i f).tierM = s.tierM := rfl
@[simp] theorem State.updStop_tierF (i : StopId) (f : MemStop → MemStop) : (s.updStop i f).tierF = s.tierF := rfl
@[simp] theorem State.updStop_sealH (i : StopId) (f : MemStop → MemStop) : (s.updStop i f).sealH = s.sealH := rfl
@[simp] theorem State.updStop_sealM (i : StopId) (f : MemStop → MemStop) : (s.updStop i f).sealM = s.sealM := rfl
@[simp] theorem State.updStop_hif (i : StopId) (f : MemStop → MemStop) : (s.updStop i f).hif = s.hif := rfl
@[simp] theorem State.updStop_queues (i : StopId) (f : MemStop → MemStop) : (s.updStop i f).queues = s.queues := rfl
@[simp] theorem State.updStop_rings (i : StopId) (f : MemStop → MemStop) : (s.updStop i f).rings = s.rings := rfl
@[simp] theorem State.updStop_tongs0 (i : StopId) (f : MemStop → MemStop) : (s.updStop i f).tongs0 = s.tongs0 := rfl
@[simp] theorem State.updStop_tongs8 (i : StopId) (f : MemStop → MemStop) : (s.updStop i f).tongs8 = s.tongs8 := rfl
@[simp] theorem State.updStop_reads (i : StopId) (f : MemStop → MemStop) : (s.updStop i f).reads = s.reads := rfl
@[simp] theorem State.updStop_nextTag (i : StopId) (f : MemStop → MemStop) : (s.updStop i f).nextTag = s.nextTag := rfl
@[simp] theorem State.updStop_nextAcc (i : StopId) (f : MemStop → MemStop) : (s.updStop i f).nextAcc = s.nextAcc := rfl
@[simp] theorem State.updStop_ctxs (i : StopId) (f : MemStop → MemStop) : (s.updStop i f).ctxs = s.ctxs := rfl
@[simp] theorem State.updStop_fences (i : StopId) (f : MemStop → MemStop) : (s.updStop i f).fences = s.fences := rfl
@[simp] theorem State.updStop_faultQ (i : StopId) (f : MemStop → MemStop) : (s.updStop i f).faultQ = s.faultQ := rfl
@[simp] theorem State.updStop_faultLog (i : StopId) (f : MemStop → MemStop) : (s.updStop i f).faultLog = s.faultLog := rfl
@[simp] theorem State.updStop_revs (i : StopId) (f : MemStop → MemStop) : (s.updStop i f).revs = s.revs := rfl
@[simp] theorem State.updStop_nextSeq (i : StopId) (f : MemStop → MemStop) : (s.updStop i f).nextSeq = s.nextSeq := rfl
@[simp] theorem State.updStop_models (i : StopId) (f : MemStop → MemStop) : (s.updStop i f).models = s.models := rfl
@[simp] theorem State.updStop_commits (i : StopId) (f : MemStop → MemStop) : (s.updStop i f).commits = s.commits := rfl
@[simp] theorem State.updStop_arenas (i : StopId) (f : MemStop → MemStop) : (s.updStop i f).arenas = s.arenas := rfl
@[simp] theorem State.updStop_comps (i : StopId) (f : MemStop → MemStop) : (s.updStop i f).comps = s.comps := rfl
@[simp] theorem State.updStop_joins (i : StopId) (f : MemStop → MemStop) : (s.updStop i f).joins = s.joins := rfl
@[simp] theorem State.updStop_recs (i : StopId) (f : MemStop → MemStop) : (s.updStop i f).recs = s.recs := rfl
@[simp] theorem State.updStop_recIndex (i : StopId) (f : MemStop → MemStop) : (s.updStop i f).recIndex = s.recIndex := rfl
@[simp] theorem State.updStop_recPage (i : StopId) (f : MemStop → MemStop) : (s.updStop i f).recPage = s.recPage := rfl
@[simp] theorem State.updStop_pool (i : StopId) (f : MemStop → MemStop) : (s.updStop i f).pool = s.pool := rfl
@[simp] theorem State.updStop_route (i : StopId) (f : MemStop → MemStop) : (s.updStop i f).route = s.route := rfl
@[simp] theorem State.updStop_sec (i : StopId) (f : MemStop → MemStop) : (s.updStop i f).sec = s.sec := rfl
@[simp] theorem State.updStop_pwr (i : StopId) (f : MemStop → MemStop) : (s.updStop i f).pwr = s.pwr := rfl
@[simp] theorem State.updStop_rst (i : StopId) (f : MemStop → MemStop) : (s.updStop i f).rst = s.rst := rfl
@[simp] theorem State.updStop_sb (i : StopId) (f : MemStop → MemStop) : (s.updStop i f).sb = s.sb := rfl
@[simp] theorem State.updStop_cfg (i : StopId) (f : MemStop → MemStop) : (s.updStop i f).cfg = s.cfg := rfl
@[simp] theorem State.updStop_repairCores (i : StopId) (f : MemStop → MemStop) : (s.updStop i f).repairCores = s.repairCores := rfl
@[simp] theorem State.updStop_repairClusters (i : StopId) (f : MemStop → MemStop) : (s.updStop i f).repairClusters = s.repairClusters := rfl
@[simp] theorem State.updStop_repairDies (i : StopId) (f : MemStop → MemStop) : (s.updStop i f).repairDies = s.repairDies := rfl
@[simp] theorem State.updStop_repairLog (i : StopId) (f : MemStop → MemStop) : (s.updStop i f).repairLog = s.repairLog := rfl
@[simp] theorem State.updStop_hardRows (i : StopId) (f : MemStop → MemStop) : (s.updStop i f).hardRows = s.hardRows := rfl
@[simp] theorem State.updStop_caps (i : StopId) (f : MemStop → MemStop) : (s.updStop i f).caps = s.caps := rfl
@[simp] theorem State.updStop_free (i : StopId) (f : MemStop → MemStop) : (s.updStop i f).free = s.free := rfl
@[simp] theorem State.updStop_out (i : StopId) (f : MemStop → MemStop) : (s.updStop i f).out = s.out := rfl

/-! ### updPort -/

@[simp] theorem State.updPort_pending (i : Nat) (f : Port → Port) : (s.updPort i f).pending = s.pending := rfl
@[simp] theorem State.updPort_stamp (i : Nat) (f : Port → Port) : (s.updPort i f).stamp = s.stamp := rfl
@[simp] theorem State.updPort_mark (i : Nat) (f : Port → Port) : (s.updPort i f).mark = s.mark := rfl
@[simp] theorem State.updPort_cores (i : Nat) (f : Port → Port) : (s.updPort i f).cores = s.cores := rfl
@[simp] theorem State.updPort_dies (i : Nat) (f : Port → Port) : (s.updPort i f).dies = s.dies := rfl
@[simp] theorem State.updPort_tierH (i : Nat) (f : Port → Port) : (s.updPort i f).tierH = s.tierH := rfl
@[simp] theorem State.updPort_tierM (i : Nat) (f : Port → Port) : (s.updPort i f).tierM = s.tierM := rfl
@[simp] theorem State.updPort_tierF (i : Nat) (f : Port → Port) : (s.updPort i f).tierF = s.tierF := rfl
@[simp] theorem State.updPort_sealH (i : Nat) (f : Port → Port) : (s.updPort i f).sealH = s.sealH := rfl
@[simp] theorem State.updPort_sealM (i : Nat) (f : Port → Port) : (s.updPort i f).sealM = s.sealM := rfl
@[simp] theorem State.updPort_hif (i : Nat) (f : Port → Port) : (s.updPort i f).hif = s.hif := rfl
@[simp] theorem State.updPort_queues (i : Nat) (f : Port → Port) : (s.updPort i f).queues = s.queues := rfl
@[simp] theorem State.updPort_rings (i : Nat) (f : Port → Port) : (s.updPort i f).rings = s.rings := rfl
@[simp] theorem State.updPort_tongs0 (i : Nat) (f : Port → Port) : (s.updPort i f).tongs0 = s.tongs0 := rfl
@[simp] theorem State.updPort_tongs8 (i : Nat) (f : Port → Port) : (s.updPort i f).tongs8 = s.tongs8 := rfl
@[simp] theorem State.updPort_reads (i : Nat) (f : Port → Port) : (s.updPort i f).reads = s.reads := rfl
@[simp] theorem State.updPort_nextTag (i : Nat) (f : Port → Port) : (s.updPort i f).nextTag = s.nextTag := rfl
@[simp] theorem State.updPort_nextAcc (i : Nat) (f : Port → Port) : (s.updPort i f).nextAcc = s.nextAcc := rfl
@[simp] theorem State.updPort_ctxs (i : Nat) (f : Port → Port) : (s.updPort i f).ctxs = s.ctxs := rfl
@[simp] theorem State.updPort_fences (i : Nat) (f : Port → Port) : (s.updPort i f).fences = s.fences := rfl
@[simp] theorem State.updPort_faultQ (i : Nat) (f : Port → Port) : (s.updPort i f).faultQ = s.faultQ := rfl
@[simp] theorem State.updPort_faultLog (i : Nat) (f : Port → Port) : (s.updPort i f).faultLog = s.faultLog := rfl
@[simp] theorem State.updPort_revs (i : Nat) (f : Port → Port) : (s.updPort i f).revs = s.revs := rfl
@[simp] theorem State.updPort_nextSeq (i : Nat) (f : Port → Port) : (s.updPort i f).nextSeq = s.nextSeq := rfl
@[simp] theorem State.updPort_models (i : Nat) (f : Port → Port) : (s.updPort i f).models = s.models := rfl
@[simp] theorem State.updPort_commits (i : Nat) (f : Port → Port) : (s.updPort i f).commits = s.commits := rfl
@[simp] theorem State.updPort_arenas (i : Nat) (f : Port → Port) : (s.updPort i f).arenas = s.arenas := rfl
@[simp] theorem State.updPort_comps (i : Nat) (f : Port → Port) : (s.updPort i f).comps = s.comps := rfl
@[simp] theorem State.updPort_joins (i : Nat) (f : Port → Port) : (s.updPort i f).joins = s.joins := rfl
@[simp] theorem State.updPort_recs (i : Nat) (f : Port → Port) : (s.updPort i f).recs = s.recs := rfl
@[simp] theorem State.updPort_recIndex (i : Nat) (f : Port → Port) : (s.updPort i f).recIndex = s.recIndex := rfl
@[simp] theorem State.updPort_recPage (i : Nat) (f : Port → Port) : (s.updPort i f).recPage = s.recPage := rfl
@[simp] theorem State.updPort_pool (i : Nat) (f : Port → Port) : (s.updPort i f).pool = s.pool := rfl
@[simp] theorem State.updPort_route (i : Nat) (f : Port → Port) : (s.updPort i f).route = s.route := rfl
@[simp] theorem State.updPort_sec (i : Nat) (f : Port → Port) : (s.updPort i f).sec = s.sec := rfl
@[simp] theorem State.updPort_pwr (i : Nat) (f : Port → Port) : (s.updPort i f).pwr = s.pwr := rfl
@[simp] theorem State.updPort_rst (i : Nat) (f : Port → Port) : (s.updPort i f).rst = s.rst := rfl
@[simp] theorem State.updPort_sb (i : Nat) (f : Port → Port) : (s.updPort i f).sb = s.sb := rfl
@[simp] theorem State.updPort_cfg (i : Nat) (f : Port → Port) : (s.updPort i f).cfg = s.cfg := rfl
@[simp] theorem State.updPort_repairCores (i : Nat) (f : Port → Port) : (s.updPort i f).repairCores = s.repairCores := rfl
@[simp] theorem State.updPort_repairClusters (i : Nat) (f : Port → Port) : (s.updPort i f).repairClusters = s.repairClusters := rfl
@[simp] theorem State.updPort_repairDies (i : Nat) (f : Port → Port) : (s.updPort i f).repairDies = s.repairDies := rfl
@[simp] theorem State.updPort_repairLog (i : Nat) (f : Port → Port) : (s.updPort i f).repairLog = s.repairLog := rfl
@[simp] theorem State.updPort_hardRows (i : Nat) (f : Port → Port) : (s.updPort i f).hardRows = s.hardRows := rfl
@[simp] theorem State.updPort_caps (i : Nat) (f : Port → Port) : (s.updPort i f).caps = s.caps := rfl
@[simp] theorem State.updPort_free (i : Nat) (f : Port → Port) : (s.updPort i f).free = s.free := rfl
@[simp] theorem State.updPort_out (i : Nat) (f : Port → Port) : (s.updPort i f).out = s.out := rfl

/-! ### updCtx -/

@[simp] theorem State.updCtx_pending (c : Nat) (f : Ctx → Ctx) : (s.updCtx c f).pending = s.pending := rfl
@[simp] theorem State.updCtx_stamp (c : Nat) (f : Ctx → Ctx) : (s.updCtx c f).stamp = s.stamp := rfl
@[simp] theorem State.updCtx_mark (c : Nat) (f : Ctx → Ctx) : (s.updCtx c f).mark = s.mark := rfl
@[simp] theorem State.updCtx_cores (c : Nat) (f : Ctx → Ctx) : (s.updCtx c f).cores = s.cores := rfl
@[simp] theorem State.updCtx_dies (c : Nat) (f : Ctx → Ctx) : (s.updCtx c f).dies = s.dies := rfl
@[simp] theorem State.updCtx_ports (c : Nat) (f : Ctx → Ctx) : (s.updCtx c f).ports = s.ports := rfl
@[simp] theorem State.updCtx_tierH (c : Nat) (f : Ctx → Ctx) : (s.updCtx c f).tierH = s.tierH := rfl
@[simp] theorem State.updCtx_tierM (c : Nat) (f : Ctx → Ctx) : (s.updCtx c f).tierM = s.tierM := rfl
@[simp] theorem State.updCtx_tierF (c : Nat) (f : Ctx → Ctx) : (s.updCtx c f).tierF = s.tierF := rfl
@[simp] theorem State.updCtx_sealH (c : Nat) (f : Ctx → Ctx) : (s.updCtx c f).sealH = s.sealH := rfl
@[simp] theorem State.updCtx_sealM (c : Nat) (f : Ctx → Ctx) : (s.updCtx c f).sealM = s.sealM := rfl
@[simp] theorem State.updCtx_hif (c : Nat) (f : Ctx → Ctx) : (s.updCtx c f).hif = s.hif := rfl
@[simp] theorem State.updCtx_queues (c : Nat) (f : Ctx → Ctx) : (s.updCtx c f).queues = s.queues := rfl
@[simp] theorem State.updCtx_rings (c : Nat) (f : Ctx → Ctx) : (s.updCtx c f).rings = s.rings := rfl
@[simp] theorem State.updCtx_tongs0 (c : Nat) (f : Ctx → Ctx) : (s.updCtx c f).tongs0 = s.tongs0 := rfl
@[simp] theorem State.updCtx_tongs8 (c : Nat) (f : Ctx → Ctx) : (s.updCtx c f).tongs8 = s.tongs8 := rfl
@[simp] theorem State.updCtx_reads (c : Nat) (f : Ctx → Ctx) : (s.updCtx c f).reads = s.reads := rfl
@[simp] theorem State.updCtx_nextTag (c : Nat) (f : Ctx → Ctx) : (s.updCtx c f).nextTag = s.nextTag := rfl
@[simp] theorem State.updCtx_nextAcc (c : Nat) (f : Ctx → Ctx) : (s.updCtx c f).nextAcc = s.nextAcc := rfl
@[simp] theorem State.updCtx_fences (c : Nat) (f : Ctx → Ctx) : (s.updCtx c f).fences = s.fences := rfl
@[simp] theorem State.updCtx_faultQ (c : Nat) (f : Ctx → Ctx) : (s.updCtx c f).faultQ = s.faultQ := rfl
@[simp] theorem State.updCtx_faultLog (c : Nat) (f : Ctx → Ctx) : (s.updCtx c f).faultLog = s.faultLog := rfl
@[simp] theorem State.updCtx_revs (c : Nat) (f : Ctx → Ctx) : (s.updCtx c f).revs = s.revs := rfl
@[simp] theorem State.updCtx_nextSeq (c : Nat) (f : Ctx → Ctx) : (s.updCtx c f).nextSeq = s.nextSeq := rfl
@[simp] theorem State.updCtx_models (c : Nat) (f : Ctx → Ctx) : (s.updCtx c f).models = s.models := rfl
@[simp] theorem State.updCtx_commits (c : Nat) (f : Ctx → Ctx) : (s.updCtx c f).commits = s.commits := rfl
@[simp] theorem State.updCtx_arenas (c : Nat) (f : Ctx → Ctx) : (s.updCtx c f).arenas = s.arenas := rfl
@[simp] theorem State.updCtx_comps (c : Nat) (f : Ctx → Ctx) : (s.updCtx c f).comps = s.comps := rfl
@[simp] theorem State.updCtx_joins (c : Nat) (f : Ctx → Ctx) : (s.updCtx c f).joins = s.joins := rfl
@[simp] theorem State.updCtx_recs (c : Nat) (f : Ctx → Ctx) : (s.updCtx c f).recs = s.recs := rfl
@[simp] theorem State.updCtx_recIndex (c : Nat) (f : Ctx → Ctx) : (s.updCtx c f).recIndex = s.recIndex := rfl
@[simp] theorem State.updCtx_recPage (c : Nat) (f : Ctx → Ctx) : (s.updCtx c f).recPage = s.recPage := rfl
@[simp] theorem State.updCtx_pool (c : Nat) (f : Ctx → Ctx) : (s.updCtx c f).pool = s.pool := rfl
@[simp] theorem State.updCtx_route (c : Nat) (f : Ctx → Ctx) : (s.updCtx c f).route = s.route := rfl
@[simp] theorem State.updCtx_sec (c : Nat) (f : Ctx → Ctx) : (s.updCtx c f).sec = s.sec := rfl
@[simp] theorem State.updCtx_pwr (c : Nat) (f : Ctx → Ctx) : (s.updCtx c f).pwr = s.pwr := rfl
@[simp] theorem State.updCtx_rst (c : Nat) (f : Ctx → Ctx) : (s.updCtx c f).rst = s.rst := rfl
@[simp] theorem State.updCtx_sb (c : Nat) (f : Ctx → Ctx) : (s.updCtx c f).sb = s.sb := rfl
@[simp] theorem State.updCtx_cfg (c : Nat) (f : Ctx → Ctx) : (s.updCtx c f).cfg = s.cfg := rfl
@[simp] theorem State.updCtx_repairCores (c : Nat) (f : Ctx → Ctx) : (s.updCtx c f).repairCores = s.repairCores := rfl
@[simp] theorem State.updCtx_repairClusters (c : Nat) (f : Ctx → Ctx) : (s.updCtx c f).repairClusters = s.repairClusters := rfl
@[simp] theorem State.updCtx_repairDies (c : Nat) (f : Ctx → Ctx) : (s.updCtx c f).repairDies = s.repairDies := rfl
@[simp] theorem State.updCtx_repairLog (c : Nat) (f : Ctx → Ctx) : (s.updCtx c f).repairLog = s.repairLog := rfl
@[simp] theorem State.updCtx_hardRows (c : Nat) (f : Ctx → Ctx) : (s.updCtx c f).hardRows = s.hardRows := rfl
@[simp] theorem State.updCtx_caps (c : Nat) (f : Ctx → Ctx) : (s.updCtx c f).caps = s.caps := rfl
@[simp] theorem State.updCtx_free (c : Nat) (f : Ctx → Ctx) : (s.updCtx c f).free = s.free := rfl
@[simp] theorem State.updCtx_out (c : Nat) (f : Ctx → Ctx) : (s.updCtx c f).out = s.out := rfl

/-! ### updQueue -/

@[simp] theorem State.updQueue_pending (q : Nat) (f : Queue → Queue) : (s.updQueue q f).pending = s.pending := rfl
@[simp] theorem State.updQueue_stamp (q : Nat) (f : Queue → Queue) : (s.updQueue q f).stamp = s.stamp := rfl
@[simp] theorem State.updQueue_mark (q : Nat) (f : Queue → Queue) : (s.updQueue q f).mark = s.mark := rfl
@[simp] theorem State.updQueue_cores (q : Nat) (f : Queue → Queue) : (s.updQueue q f).cores = s.cores := rfl
@[simp] theorem State.updQueue_dies (q : Nat) (f : Queue → Queue) : (s.updQueue q f).dies = s.dies := rfl
@[simp] theorem State.updQueue_ports (q : Nat) (f : Queue → Queue) : (s.updQueue q f).ports = s.ports := rfl
@[simp] theorem State.updQueue_tierH (q : Nat) (f : Queue → Queue) : (s.updQueue q f).tierH = s.tierH := rfl
@[simp] theorem State.updQueue_tierM (q : Nat) (f : Queue → Queue) : (s.updQueue q f).tierM = s.tierM := rfl
@[simp] theorem State.updQueue_tierF (q : Nat) (f : Queue → Queue) : (s.updQueue q f).tierF = s.tierF := rfl
@[simp] theorem State.updQueue_sealH (q : Nat) (f : Queue → Queue) : (s.updQueue q f).sealH = s.sealH := rfl
@[simp] theorem State.updQueue_sealM (q : Nat) (f : Queue → Queue) : (s.updQueue q f).sealM = s.sealM := rfl
@[simp] theorem State.updQueue_hif (q : Nat) (f : Queue → Queue) : (s.updQueue q f).hif = s.hif := rfl
@[simp] theorem State.updQueue_rings (q : Nat) (f : Queue → Queue) : (s.updQueue q f).rings = s.rings := rfl
@[simp] theorem State.updQueue_tongs0 (q : Nat) (f : Queue → Queue) : (s.updQueue q f).tongs0 = s.tongs0 := rfl
@[simp] theorem State.updQueue_tongs8 (q : Nat) (f : Queue → Queue) : (s.updQueue q f).tongs8 = s.tongs8 := rfl
@[simp] theorem State.updQueue_reads (q : Nat) (f : Queue → Queue) : (s.updQueue q f).reads = s.reads := rfl
@[simp] theorem State.updQueue_nextTag (q : Nat) (f : Queue → Queue) : (s.updQueue q f).nextTag = s.nextTag := rfl
@[simp] theorem State.updQueue_nextAcc (q : Nat) (f : Queue → Queue) : (s.updQueue q f).nextAcc = s.nextAcc := rfl
@[simp] theorem State.updQueue_ctxs (q : Nat) (f : Queue → Queue) : (s.updQueue q f).ctxs = s.ctxs := rfl
@[simp] theorem State.updQueue_fences (q : Nat) (f : Queue → Queue) : (s.updQueue q f).fences = s.fences := rfl
@[simp] theorem State.updQueue_faultQ (q : Nat) (f : Queue → Queue) : (s.updQueue q f).faultQ = s.faultQ := rfl
@[simp] theorem State.updQueue_faultLog (q : Nat) (f : Queue → Queue) : (s.updQueue q f).faultLog = s.faultLog := rfl
@[simp] theorem State.updQueue_revs (q : Nat) (f : Queue → Queue) : (s.updQueue q f).revs = s.revs := rfl
@[simp] theorem State.updQueue_nextSeq (q : Nat) (f : Queue → Queue) : (s.updQueue q f).nextSeq = s.nextSeq := rfl
@[simp] theorem State.updQueue_models (q : Nat) (f : Queue → Queue) : (s.updQueue q f).models = s.models := rfl
@[simp] theorem State.updQueue_commits (q : Nat) (f : Queue → Queue) : (s.updQueue q f).commits = s.commits := rfl
@[simp] theorem State.updQueue_arenas (q : Nat) (f : Queue → Queue) : (s.updQueue q f).arenas = s.arenas := rfl
@[simp] theorem State.updQueue_comps (q : Nat) (f : Queue → Queue) : (s.updQueue q f).comps = s.comps := rfl
@[simp] theorem State.updQueue_joins (q : Nat) (f : Queue → Queue) : (s.updQueue q f).joins = s.joins := rfl
@[simp] theorem State.updQueue_recs (q : Nat) (f : Queue → Queue) : (s.updQueue q f).recs = s.recs := rfl
@[simp] theorem State.updQueue_recIndex (q : Nat) (f : Queue → Queue) : (s.updQueue q f).recIndex = s.recIndex := rfl
@[simp] theorem State.updQueue_recPage (q : Nat) (f : Queue → Queue) : (s.updQueue q f).recPage = s.recPage := rfl
@[simp] theorem State.updQueue_pool (q : Nat) (f : Queue → Queue) : (s.updQueue q f).pool = s.pool := rfl
@[simp] theorem State.updQueue_route (q : Nat) (f : Queue → Queue) : (s.updQueue q f).route = s.route := rfl
@[simp] theorem State.updQueue_sec (q : Nat) (f : Queue → Queue) : (s.updQueue q f).sec = s.sec := rfl
@[simp] theorem State.updQueue_pwr (q : Nat) (f : Queue → Queue) : (s.updQueue q f).pwr = s.pwr := rfl
@[simp] theorem State.updQueue_rst (q : Nat) (f : Queue → Queue) : (s.updQueue q f).rst = s.rst := rfl
@[simp] theorem State.updQueue_sb (q : Nat) (f : Queue → Queue) : (s.updQueue q f).sb = s.sb := rfl
@[simp] theorem State.updQueue_cfg (q : Nat) (f : Queue → Queue) : (s.updQueue q f).cfg = s.cfg := rfl
@[simp] theorem State.updQueue_repairCores (q : Nat) (f : Queue → Queue) : (s.updQueue q f).repairCores = s.repairCores := rfl
@[simp] theorem State.updQueue_repairClusters (q : Nat) (f : Queue → Queue) : (s.updQueue q f).repairClusters = s.repairClusters := rfl
@[simp] theorem State.updQueue_repairDies (q : Nat) (f : Queue → Queue) : (s.updQueue q f).repairDies = s.repairDies := rfl
@[simp] theorem State.updQueue_repairLog (q : Nat) (f : Queue → Queue) : (s.updQueue q f).repairLog = s.repairLog := rfl
@[simp] theorem State.updQueue_hardRows (q : Nat) (f : Queue → Queue) : (s.updQueue q f).hardRows = s.hardRows := rfl
@[simp] theorem State.updQueue_caps (q : Nat) (f : Queue → Queue) : (s.updQueue q f).caps = s.caps := rfl
@[simp] theorem State.updQueue_free (q : Nat) (f : Queue → Queue) : (s.updQueue q f).free = s.free := rfl
@[simp] theorem State.updQueue_out (q : Nat) (f : Queue → Queue) : (s.updQueue q f).out = s.out := rfl

/-! ### updRing -/

@[simp] theorem State.updRing_pending (r : Nat) (f : EvRing → EvRing) : (s.updRing r f).pending = s.pending := rfl
@[simp] theorem State.updRing_stamp (r : Nat) (f : EvRing → EvRing) : (s.updRing r f).stamp = s.stamp := rfl
@[simp] theorem State.updRing_mark (r : Nat) (f : EvRing → EvRing) : (s.updRing r f).mark = s.mark := rfl
@[simp] theorem State.updRing_cores (r : Nat) (f : EvRing → EvRing) : (s.updRing r f).cores = s.cores := rfl
@[simp] theorem State.updRing_dies (r : Nat) (f : EvRing → EvRing) : (s.updRing r f).dies = s.dies := rfl
@[simp] theorem State.updRing_ports (r : Nat) (f : EvRing → EvRing) : (s.updRing r f).ports = s.ports := rfl
@[simp] theorem State.updRing_tierH (r : Nat) (f : EvRing → EvRing) : (s.updRing r f).tierH = s.tierH := rfl
@[simp] theorem State.updRing_tierM (r : Nat) (f : EvRing → EvRing) : (s.updRing r f).tierM = s.tierM := rfl
@[simp] theorem State.updRing_tierF (r : Nat) (f : EvRing → EvRing) : (s.updRing r f).tierF = s.tierF := rfl
@[simp] theorem State.updRing_sealH (r : Nat) (f : EvRing → EvRing) : (s.updRing r f).sealH = s.sealH := rfl
@[simp] theorem State.updRing_sealM (r : Nat) (f : EvRing → EvRing) : (s.updRing r f).sealM = s.sealM := rfl
@[simp] theorem State.updRing_hif (r : Nat) (f : EvRing → EvRing) : (s.updRing r f).hif = s.hif := rfl
@[simp] theorem State.updRing_queues (r : Nat) (f : EvRing → EvRing) : (s.updRing r f).queues = s.queues := rfl
@[simp] theorem State.updRing_tongs0 (r : Nat) (f : EvRing → EvRing) : (s.updRing r f).tongs0 = s.tongs0 := rfl
@[simp] theorem State.updRing_tongs8 (r : Nat) (f : EvRing → EvRing) : (s.updRing r f).tongs8 = s.tongs8 := rfl
@[simp] theorem State.updRing_reads (r : Nat) (f : EvRing → EvRing) : (s.updRing r f).reads = s.reads := rfl
@[simp] theorem State.updRing_nextTag (r : Nat) (f : EvRing → EvRing) : (s.updRing r f).nextTag = s.nextTag := rfl
@[simp] theorem State.updRing_nextAcc (r : Nat) (f : EvRing → EvRing) : (s.updRing r f).nextAcc = s.nextAcc := rfl
@[simp] theorem State.updRing_ctxs (r : Nat) (f : EvRing → EvRing) : (s.updRing r f).ctxs = s.ctxs := rfl
@[simp] theorem State.updRing_fences (r : Nat) (f : EvRing → EvRing) : (s.updRing r f).fences = s.fences := rfl
@[simp] theorem State.updRing_faultQ (r : Nat) (f : EvRing → EvRing) : (s.updRing r f).faultQ = s.faultQ := rfl
@[simp] theorem State.updRing_faultLog (r : Nat) (f : EvRing → EvRing) : (s.updRing r f).faultLog = s.faultLog := rfl
@[simp] theorem State.updRing_revs (r : Nat) (f : EvRing → EvRing) : (s.updRing r f).revs = s.revs := rfl
@[simp] theorem State.updRing_nextSeq (r : Nat) (f : EvRing → EvRing) : (s.updRing r f).nextSeq = s.nextSeq := rfl
@[simp] theorem State.updRing_models (r : Nat) (f : EvRing → EvRing) : (s.updRing r f).models = s.models := rfl
@[simp] theorem State.updRing_commits (r : Nat) (f : EvRing → EvRing) : (s.updRing r f).commits = s.commits := rfl
@[simp] theorem State.updRing_arenas (r : Nat) (f : EvRing → EvRing) : (s.updRing r f).arenas = s.arenas := rfl
@[simp] theorem State.updRing_comps (r : Nat) (f : EvRing → EvRing) : (s.updRing r f).comps = s.comps := rfl
@[simp] theorem State.updRing_joins (r : Nat) (f : EvRing → EvRing) : (s.updRing r f).joins = s.joins := rfl
@[simp] theorem State.updRing_recs (r : Nat) (f : EvRing → EvRing) : (s.updRing r f).recs = s.recs := rfl
@[simp] theorem State.updRing_recIndex (r : Nat) (f : EvRing → EvRing) : (s.updRing r f).recIndex = s.recIndex := rfl
@[simp] theorem State.updRing_recPage (r : Nat) (f : EvRing → EvRing) : (s.updRing r f).recPage = s.recPage := rfl
@[simp] theorem State.updRing_pool (r : Nat) (f : EvRing → EvRing) : (s.updRing r f).pool = s.pool := rfl
@[simp] theorem State.updRing_route (r : Nat) (f : EvRing → EvRing) : (s.updRing r f).route = s.route := rfl
@[simp] theorem State.updRing_sec (r : Nat) (f : EvRing → EvRing) : (s.updRing r f).sec = s.sec := rfl
@[simp] theorem State.updRing_pwr (r : Nat) (f : EvRing → EvRing) : (s.updRing r f).pwr = s.pwr := rfl
@[simp] theorem State.updRing_rst (r : Nat) (f : EvRing → EvRing) : (s.updRing r f).rst = s.rst := rfl
@[simp] theorem State.updRing_sb (r : Nat) (f : EvRing → EvRing) : (s.updRing r f).sb = s.sb := rfl
@[simp] theorem State.updRing_cfg (r : Nat) (f : EvRing → EvRing) : (s.updRing r f).cfg = s.cfg := rfl
@[simp] theorem State.updRing_repairCores (r : Nat) (f : EvRing → EvRing) : (s.updRing r f).repairCores = s.repairCores := rfl
@[simp] theorem State.updRing_repairClusters (r : Nat) (f : EvRing → EvRing) : (s.updRing r f).repairClusters = s.repairClusters := rfl
@[simp] theorem State.updRing_repairDies (r : Nat) (f : EvRing → EvRing) : (s.updRing r f).repairDies = s.repairDies := rfl
@[simp] theorem State.updRing_repairLog (r : Nat) (f : EvRing → EvRing) : (s.updRing r f).repairLog = s.repairLog := rfl
@[simp] theorem State.updRing_hardRows (r : Nat) (f : EvRing → EvRing) : (s.updRing r f).hardRows = s.hardRows := rfl
@[simp] theorem State.updRing_caps (r : Nat) (f : EvRing → EvRing) : (s.updRing r f).caps = s.caps := rfl
@[simp] theorem State.updRing_free (r : Nat) (f : EvRing → EvRing) : (s.updRing r f).free = s.free := rfl
@[simp] theorem State.updRing_out (r : Nat) (f : EvRing → EvRing) : (s.updRing r f).out = s.out := rfl

/-! ### updFence -/

@[simp] theorem State.updFence_pending (n : Nat) (f : Fence → Fence) : (s.updFence n f).pending = s.pending := rfl
@[simp] theorem State.updFence_stamp (n : Nat) (f : Fence → Fence) : (s.updFence n f).stamp = s.stamp := rfl
@[simp] theorem State.updFence_mark (n : Nat) (f : Fence → Fence) : (s.updFence n f).mark = s.mark := rfl
@[simp] theorem State.updFence_cores (n : Nat) (f : Fence → Fence) : (s.updFence n f).cores = s.cores := rfl
@[simp] theorem State.updFence_dies (n : Nat) (f : Fence → Fence) : (s.updFence n f).dies = s.dies := rfl
@[simp] theorem State.updFence_ports (n : Nat) (f : Fence → Fence) : (s.updFence n f).ports = s.ports := rfl
@[simp] theorem State.updFence_tierH (n : Nat) (f : Fence → Fence) : (s.updFence n f).tierH = s.tierH := rfl
@[simp] theorem State.updFence_tierM (n : Nat) (f : Fence → Fence) : (s.updFence n f).tierM = s.tierM := rfl
@[simp] theorem State.updFence_tierF (n : Nat) (f : Fence → Fence) : (s.updFence n f).tierF = s.tierF := rfl
@[simp] theorem State.updFence_sealH (n : Nat) (f : Fence → Fence) : (s.updFence n f).sealH = s.sealH := rfl
@[simp] theorem State.updFence_sealM (n : Nat) (f : Fence → Fence) : (s.updFence n f).sealM = s.sealM := rfl
@[simp] theorem State.updFence_hif (n : Nat) (f : Fence → Fence) : (s.updFence n f).hif = s.hif := rfl
@[simp] theorem State.updFence_queues (n : Nat) (f : Fence → Fence) : (s.updFence n f).queues = s.queues := rfl
@[simp] theorem State.updFence_rings (n : Nat) (f : Fence → Fence) : (s.updFence n f).rings = s.rings := rfl
@[simp] theorem State.updFence_tongs0 (n : Nat) (f : Fence → Fence) : (s.updFence n f).tongs0 = s.tongs0 := rfl
@[simp] theorem State.updFence_tongs8 (n : Nat) (f : Fence → Fence) : (s.updFence n f).tongs8 = s.tongs8 := rfl
@[simp] theorem State.updFence_reads (n : Nat) (f : Fence → Fence) : (s.updFence n f).reads = s.reads := rfl
@[simp] theorem State.updFence_nextTag (n : Nat) (f : Fence → Fence) : (s.updFence n f).nextTag = s.nextTag := rfl
@[simp] theorem State.updFence_nextAcc (n : Nat) (f : Fence → Fence) : (s.updFence n f).nextAcc = s.nextAcc := rfl
@[simp] theorem State.updFence_ctxs (n : Nat) (f : Fence → Fence) : (s.updFence n f).ctxs = s.ctxs := rfl
@[simp] theorem State.updFence_faultQ (n : Nat) (f : Fence → Fence) : (s.updFence n f).faultQ = s.faultQ := rfl
@[simp] theorem State.updFence_faultLog (n : Nat) (f : Fence → Fence) : (s.updFence n f).faultLog = s.faultLog := rfl
@[simp] theorem State.updFence_revs (n : Nat) (f : Fence → Fence) : (s.updFence n f).revs = s.revs := rfl
@[simp] theorem State.updFence_nextSeq (n : Nat) (f : Fence → Fence) : (s.updFence n f).nextSeq = s.nextSeq := rfl
@[simp] theorem State.updFence_models (n : Nat) (f : Fence → Fence) : (s.updFence n f).models = s.models := rfl
@[simp] theorem State.updFence_commits (n : Nat) (f : Fence → Fence) : (s.updFence n f).commits = s.commits := rfl
@[simp] theorem State.updFence_arenas (n : Nat) (f : Fence → Fence) : (s.updFence n f).arenas = s.arenas := rfl
@[simp] theorem State.updFence_comps (n : Nat) (f : Fence → Fence) : (s.updFence n f).comps = s.comps := rfl
@[simp] theorem State.updFence_joins (n : Nat) (f : Fence → Fence) : (s.updFence n f).joins = s.joins := rfl
@[simp] theorem State.updFence_recs (n : Nat) (f : Fence → Fence) : (s.updFence n f).recs = s.recs := rfl
@[simp] theorem State.updFence_recIndex (n : Nat) (f : Fence → Fence) : (s.updFence n f).recIndex = s.recIndex := rfl
@[simp] theorem State.updFence_recPage (n : Nat) (f : Fence → Fence) : (s.updFence n f).recPage = s.recPage := rfl
@[simp] theorem State.updFence_pool (n : Nat) (f : Fence → Fence) : (s.updFence n f).pool = s.pool := rfl
@[simp] theorem State.updFence_route (n : Nat) (f : Fence → Fence) : (s.updFence n f).route = s.route := rfl
@[simp] theorem State.updFence_sec (n : Nat) (f : Fence → Fence) : (s.updFence n f).sec = s.sec := rfl
@[simp] theorem State.updFence_pwr (n : Nat) (f : Fence → Fence) : (s.updFence n f).pwr = s.pwr := rfl
@[simp] theorem State.updFence_rst (n : Nat) (f : Fence → Fence) : (s.updFence n f).rst = s.rst := rfl
@[simp] theorem State.updFence_sb (n : Nat) (f : Fence → Fence) : (s.updFence n f).sb = s.sb := rfl
@[simp] theorem State.updFence_cfg (n : Nat) (f : Fence → Fence) : (s.updFence n f).cfg = s.cfg := rfl
@[simp] theorem State.updFence_repairCores (n : Nat) (f : Fence → Fence) : (s.updFence n f).repairCores = s.repairCores := rfl
@[simp] theorem State.updFence_repairClusters (n : Nat) (f : Fence → Fence) : (s.updFence n f).repairClusters = s.repairClusters := rfl
@[simp] theorem State.updFence_repairDies (n : Nat) (f : Fence → Fence) : (s.updFence n f).repairDies = s.repairDies := rfl
@[simp] theorem State.updFence_repairLog (n : Nat) (f : Fence → Fence) : (s.updFence n f).repairLog = s.repairLog := rfl
@[simp] theorem State.updFence_hardRows (n : Nat) (f : Fence → Fence) : (s.updFence n f).hardRows = s.hardRows := rfl
@[simp] theorem State.updFence_caps (n : Nat) (f : Fence → Fence) : (s.updFence n f).caps = s.caps := rfl
@[simp] theorem State.updFence_free (n : Nat) (f : Fence → Fence) : (s.updFence n f).free = s.free := rfl
@[simp] theorem State.updFence_out (n : Nat) (f : Fence → Fence) : (s.updFence n f).out = s.out := rfl

/-! ### updComp -/

@[simp] theorem State.updComp_pending (k : Nat) (f : Comp → Comp) : (s.updComp k f).pending = s.pending := rfl
@[simp] theorem State.updComp_stamp (k : Nat) (f : Comp → Comp) : (s.updComp k f).stamp = s.stamp := rfl
@[simp] theorem State.updComp_mark (k : Nat) (f : Comp → Comp) : (s.updComp k f).mark = s.mark := rfl
@[simp] theorem State.updComp_cores (k : Nat) (f : Comp → Comp) : (s.updComp k f).cores = s.cores := rfl
@[simp] theorem State.updComp_dies (k : Nat) (f : Comp → Comp) : (s.updComp k f).dies = s.dies := rfl
@[simp] theorem State.updComp_ports (k : Nat) (f : Comp → Comp) : (s.updComp k f).ports = s.ports := rfl
@[simp] theorem State.updComp_tierH (k : Nat) (f : Comp → Comp) : (s.updComp k f).tierH = s.tierH := rfl
@[simp] theorem State.updComp_tierM (k : Nat) (f : Comp → Comp) : (s.updComp k f).tierM = s.tierM := rfl
@[simp] theorem State.updComp_tierF (k : Nat) (f : Comp → Comp) : (s.updComp k f).tierF = s.tierF := rfl
@[simp] theorem State.updComp_sealH (k : Nat) (f : Comp → Comp) : (s.updComp k f).sealH = s.sealH := rfl
@[simp] theorem State.updComp_sealM (k : Nat) (f : Comp → Comp) : (s.updComp k f).sealM = s.sealM := rfl
@[simp] theorem State.updComp_hif (k : Nat) (f : Comp → Comp) : (s.updComp k f).hif = s.hif := rfl
@[simp] theorem State.updComp_queues (k : Nat) (f : Comp → Comp) : (s.updComp k f).queues = s.queues := rfl
@[simp] theorem State.updComp_rings (k : Nat) (f : Comp → Comp) : (s.updComp k f).rings = s.rings := rfl
@[simp] theorem State.updComp_tongs0 (k : Nat) (f : Comp → Comp) : (s.updComp k f).tongs0 = s.tongs0 := rfl
@[simp] theorem State.updComp_tongs8 (k : Nat) (f : Comp → Comp) : (s.updComp k f).tongs8 = s.tongs8 := rfl
@[simp] theorem State.updComp_reads (k : Nat) (f : Comp → Comp) : (s.updComp k f).reads = s.reads := rfl
@[simp] theorem State.updComp_nextTag (k : Nat) (f : Comp → Comp) : (s.updComp k f).nextTag = s.nextTag := rfl
@[simp] theorem State.updComp_nextAcc (k : Nat) (f : Comp → Comp) : (s.updComp k f).nextAcc = s.nextAcc := rfl
@[simp] theorem State.updComp_ctxs (k : Nat) (f : Comp → Comp) : (s.updComp k f).ctxs = s.ctxs := rfl
@[simp] theorem State.updComp_fences (k : Nat) (f : Comp → Comp) : (s.updComp k f).fences = s.fences := rfl
@[simp] theorem State.updComp_faultQ (k : Nat) (f : Comp → Comp) : (s.updComp k f).faultQ = s.faultQ := rfl
@[simp] theorem State.updComp_faultLog (k : Nat) (f : Comp → Comp) : (s.updComp k f).faultLog = s.faultLog := rfl
@[simp] theorem State.updComp_revs (k : Nat) (f : Comp → Comp) : (s.updComp k f).revs = s.revs := rfl
@[simp] theorem State.updComp_nextSeq (k : Nat) (f : Comp → Comp) : (s.updComp k f).nextSeq = s.nextSeq := rfl
@[simp] theorem State.updComp_models (k : Nat) (f : Comp → Comp) : (s.updComp k f).models = s.models := rfl
@[simp] theorem State.updComp_commits (k : Nat) (f : Comp → Comp) : (s.updComp k f).commits = s.commits := rfl
@[simp] theorem State.updComp_arenas (k : Nat) (f : Comp → Comp) : (s.updComp k f).arenas = s.arenas := rfl
@[simp] theorem State.updComp_joins (k : Nat) (f : Comp → Comp) : (s.updComp k f).joins = s.joins := rfl
@[simp] theorem State.updComp_recs (k : Nat) (f : Comp → Comp) : (s.updComp k f).recs = s.recs := rfl
@[simp] theorem State.updComp_recIndex (k : Nat) (f : Comp → Comp) : (s.updComp k f).recIndex = s.recIndex := rfl
@[simp] theorem State.updComp_recPage (k : Nat) (f : Comp → Comp) : (s.updComp k f).recPage = s.recPage := rfl
@[simp] theorem State.updComp_pool (k : Nat) (f : Comp → Comp) : (s.updComp k f).pool = s.pool := rfl
@[simp] theorem State.updComp_route (k : Nat) (f : Comp → Comp) : (s.updComp k f).route = s.route := rfl
@[simp] theorem State.updComp_sec (k : Nat) (f : Comp → Comp) : (s.updComp k f).sec = s.sec := rfl
@[simp] theorem State.updComp_pwr (k : Nat) (f : Comp → Comp) : (s.updComp k f).pwr = s.pwr := rfl
@[simp] theorem State.updComp_rst (k : Nat) (f : Comp → Comp) : (s.updComp k f).rst = s.rst := rfl
@[simp] theorem State.updComp_sb (k : Nat) (f : Comp → Comp) : (s.updComp k f).sb = s.sb := rfl
@[simp] theorem State.updComp_cfg (k : Nat) (f : Comp → Comp) : (s.updComp k f).cfg = s.cfg := rfl
@[simp] theorem State.updComp_repairCores (k : Nat) (f : Comp → Comp) : (s.updComp k f).repairCores = s.repairCores := rfl
@[simp] theorem State.updComp_repairClusters (k : Nat) (f : Comp → Comp) : (s.updComp k f).repairClusters = s.repairClusters := rfl
@[simp] theorem State.updComp_repairDies (k : Nat) (f : Comp → Comp) : (s.updComp k f).repairDies = s.repairDies := rfl
@[simp] theorem State.updComp_repairLog (k : Nat) (f : Comp → Comp) : (s.updComp k f).repairLog = s.repairLog := rfl
@[simp] theorem State.updComp_hardRows (k : Nat) (f : Comp → Comp) : (s.updComp k f).hardRows = s.hardRows := rfl
@[simp] theorem State.updComp_caps (k : Nat) (f : Comp → Comp) : (s.updComp k f).caps = s.caps := rfl
@[simp] theorem State.updComp_free (k : Nat) (f : Comp → Comp) : (s.updComp k f).free = s.free := rfl
@[simp] theorem State.updComp_out (k : Nat) (f : Comp → Comp) : (s.updComp k f).out = s.out := rfl

/-! ### updRec -/

@[simp] theorem State.updRec_pending (k : Nat) (f : RecRing → RecRing) : (s.updRec k f).pending = s.pending := rfl
@[simp] theorem State.updRec_stamp (k : Nat) (f : RecRing → RecRing) : (s.updRec k f).stamp = s.stamp := rfl
@[simp] theorem State.updRec_mark (k : Nat) (f : RecRing → RecRing) : (s.updRec k f).mark = s.mark := rfl
@[simp] theorem State.updRec_cores (k : Nat) (f : RecRing → RecRing) : (s.updRec k f).cores = s.cores := rfl
@[simp] theorem State.updRec_dies (k : Nat) (f : RecRing → RecRing) : (s.updRec k f).dies = s.dies := rfl
@[simp] theorem State.updRec_ports (k : Nat) (f : RecRing → RecRing) : (s.updRec k f).ports = s.ports := rfl
@[simp] theorem State.updRec_tierH (k : Nat) (f : RecRing → RecRing) : (s.updRec k f).tierH = s.tierH := rfl
@[simp] theorem State.updRec_tierM (k : Nat) (f : RecRing → RecRing) : (s.updRec k f).tierM = s.tierM := rfl
@[simp] theorem State.updRec_tierF (k : Nat) (f : RecRing → RecRing) : (s.updRec k f).tierF = s.tierF := rfl
@[simp] theorem State.updRec_sealH (k : Nat) (f : RecRing → RecRing) : (s.updRec k f).sealH = s.sealH := rfl
@[simp] theorem State.updRec_sealM (k : Nat) (f : RecRing → RecRing) : (s.updRec k f).sealM = s.sealM := rfl
@[simp] theorem State.updRec_hif (k : Nat) (f : RecRing → RecRing) : (s.updRec k f).hif = s.hif := rfl
@[simp] theorem State.updRec_queues (k : Nat) (f : RecRing → RecRing) : (s.updRec k f).queues = s.queues := rfl
@[simp] theorem State.updRec_rings (k : Nat) (f : RecRing → RecRing) : (s.updRec k f).rings = s.rings := rfl
@[simp] theorem State.updRec_tongs0 (k : Nat) (f : RecRing → RecRing) : (s.updRec k f).tongs0 = s.tongs0 := rfl
@[simp] theorem State.updRec_tongs8 (k : Nat) (f : RecRing → RecRing) : (s.updRec k f).tongs8 = s.tongs8 := rfl
@[simp] theorem State.updRec_reads (k : Nat) (f : RecRing → RecRing) : (s.updRec k f).reads = s.reads := rfl
@[simp] theorem State.updRec_nextTag (k : Nat) (f : RecRing → RecRing) : (s.updRec k f).nextTag = s.nextTag := rfl
@[simp] theorem State.updRec_nextAcc (k : Nat) (f : RecRing → RecRing) : (s.updRec k f).nextAcc = s.nextAcc := rfl
@[simp] theorem State.updRec_ctxs (k : Nat) (f : RecRing → RecRing) : (s.updRec k f).ctxs = s.ctxs := rfl
@[simp] theorem State.updRec_fences (k : Nat) (f : RecRing → RecRing) : (s.updRec k f).fences = s.fences := rfl
@[simp] theorem State.updRec_faultQ (k : Nat) (f : RecRing → RecRing) : (s.updRec k f).faultQ = s.faultQ := rfl
@[simp] theorem State.updRec_faultLog (k : Nat) (f : RecRing → RecRing) : (s.updRec k f).faultLog = s.faultLog := rfl
@[simp] theorem State.updRec_revs (k : Nat) (f : RecRing → RecRing) : (s.updRec k f).revs = s.revs := rfl
@[simp] theorem State.updRec_nextSeq (k : Nat) (f : RecRing → RecRing) : (s.updRec k f).nextSeq = s.nextSeq := rfl
@[simp] theorem State.updRec_models (k : Nat) (f : RecRing → RecRing) : (s.updRec k f).models = s.models := rfl
@[simp] theorem State.updRec_commits (k : Nat) (f : RecRing → RecRing) : (s.updRec k f).commits = s.commits := rfl
@[simp] theorem State.updRec_arenas (k : Nat) (f : RecRing → RecRing) : (s.updRec k f).arenas = s.arenas := rfl
@[simp] theorem State.updRec_comps (k : Nat) (f : RecRing → RecRing) : (s.updRec k f).comps = s.comps := rfl
@[simp] theorem State.updRec_joins (k : Nat) (f : RecRing → RecRing) : (s.updRec k f).joins = s.joins := rfl
@[simp] theorem State.updRec_recIndex (k : Nat) (f : RecRing → RecRing) : (s.updRec k f).recIndex = s.recIndex := rfl
@[simp] theorem State.updRec_recPage (k : Nat) (f : RecRing → RecRing) : (s.updRec k f).recPage = s.recPage := rfl
@[simp] theorem State.updRec_pool (k : Nat) (f : RecRing → RecRing) : (s.updRec k f).pool = s.pool := rfl
@[simp] theorem State.updRec_route (k : Nat) (f : RecRing → RecRing) : (s.updRec k f).route = s.route := rfl
@[simp] theorem State.updRec_sec (k : Nat) (f : RecRing → RecRing) : (s.updRec k f).sec = s.sec := rfl
@[simp] theorem State.updRec_pwr (k : Nat) (f : RecRing → RecRing) : (s.updRec k f).pwr = s.pwr := rfl
@[simp] theorem State.updRec_rst (k : Nat) (f : RecRing → RecRing) : (s.updRec k f).rst = s.rst := rfl
@[simp] theorem State.updRec_sb (k : Nat) (f : RecRing → RecRing) : (s.updRec k f).sb = s.sb := rfl
@[simp] theorem State.updRec_cfg (k : Nat) (f : RecRing → RecRing) : (s.updRec k f).cfg = s.cfg := rfl
@[simp] theorem State.updRec_repairCores (k : Nat) (f : RecRing → RecRing) : (s.updRec k f).repairCores = s.repairCores := rfl
@[simp] theorem State.updRec_repairClusters (k : Nat) (f : RecRing → RecRing) : (s.updRec k f).repairClusters = s.repairClusters := rfl
@[simp] theorem State.updRec_repairDies (k : Nat) (f : RecRing → RecRing) : (s.updRec k f).repairDies = s.repairDies := rfl
@[simp] theorem State.updRec_repairLog (k : Nat) (f : RecRing → RecRing) : (s.updRec k f).repairLog = s.repairLog := rfl
@[simp] theorem State.updRec_hardRows (k : Nat) (f : RecRing → RecRing) : (s.updRec k f).hardRows = s.hardRows := rfl
@[simp] theorem State.updRec_caps (k : Nat) (f : RecRing → RecRing) : (s.updRec k f).caps = s.caps := rfl
@[simp] theorem State.updRec_free (k : Nat) (f : RecRing → RecRing) : (s.updRec k f).free = s.free := rfl
@[simp] theorem State.updRec_out (k : Nat) (f : RecRing → RecRing) : (s.updRec k f).out = s.out := rfl

/-! ### emit -/

@[simp] theorem State.emit_pending (o : Out) : (s.emit o).pending = s.pending := rfl
@[simp] theorem State.emit_stamp (o : Out) : (s.emit o).stamp = s.stamp := rfl
@[simp] theorem State.emit_mark (o : Out) : (s.emit o).mark = s.mark := rfl
@[simp] theorem State.emit_cores (o : Out) : (s.emit o).cores = s.cores := rfl
@[simp] theorem State.emit_dies (o : Out) : (s.emit o).dies = s.dies := rfl
@[simp] theorem State.emit_ports (o : Out) : (s.emit o).ports = s.ports := rfl
@[simp] theorem State.emit_tierH (o : Out) : (s.emit o).tierH = s.tierH := rfl
@[simp] theorem State.emit_tierM (o : Out) : (s.emit o).tierM = s.tierM := rfl
@[simp] theorem State.emit_tierF (o : Out) : (s.emit o).tierF = s.tierF := rfl
@[simp] theorem State.emit_sealH (o : Out) : (s.emit o).sealH = s.sealH := rfl
@[simp] theorem State.emit_sealM (o : Out) : (s.emit o).sealM = s.sealM := rfl
@[simp] theorem State.emit_hif (o : Out) : (s.emit o).hif = s.hif := rfl
@[simp] theorem State.emit_queues (o : Out) : (s.emit o).queues = s.queues := rfl
@[simp] theorem State.emit_rings (o : Out) : (s.emit o).rings = s.rings := rfl
@[simp] theorem State.emit_tongs0 (o : Out) : (s.emit o).tongs0 = s.tongs0 := rfl
@[simp] theorem State.emit_tongs8 (o : Out) : (s.emit o).tongs8 = s.tongs8 := rfl
@[simp] theorem State.emit_reads (o : Out) : (s.emit o).reads = s.reads := rfl
@[simp] theorem State.emit_nextTag (o : Out) : (s.emit o).nextTag = s.nextTag := rfl
@[simp] theorem State.emit_nextAcc (o : Out) : (s.emit o).nextAcc = s.nextAcc := rfl
@[simp] theorem State.emit_ctxs (o : Out) : (s.emit o).ctxs = s.ctxs := rfl
@[simp] theorem State.emit_fences (o : Out) : (s.emit o).fences = s.fences := rfl
@[simp] theorem State.emit_faultQ (o : Out) : (s.emit o).faultQ = s.faultQ := rfl
@[simp] theorem State.emit_faultLog (o : Out) : (s.emit o).faultLog = s.faultLog := rfl
@[simp] theorem State.emit_revs (o : Out) : (s.emit o).revs = s.revs := rfl
@[simp] theorem State.emit_nextSeq (o : Out) : (s.emit o).nextSeq = s.nextSeq := rfl
@[simp] theorem State.emit_models (o : Out) : (s.emit o).models = s.models := rfl
@[simp] theorem State.emit_commits (o : Out) : (s.emit o).commits = s.commits := rfl
@[simp] theorem State.emit_arenas (o : Out) : (s.emit o).arenas = s.arenas := rfl
@[simp] theorem State.emit_comps (o : Out) : (s.emit o).comps = s.comps := rfl
@[simp] theorem State.emit_joins (o : Out) : (s.emit o).joins = s.joins := rfl
@[simp] theorem State.emit_recs (o : Out) : (s.emit o).recs = s.recs := rfl
@[simp] theorem State.emit_recIndex (o : Out) : (s.emit o).recIndex = s.recIndex := rfl
@[simp] theorem State.emit_recPage (o : Out) : (s.emit o).recPage = s.recPage := rfl
@[simp] theorem State.emit_pool (o : Out) : (s.emit o).pool = s.pool := rfl
@[simp] theorem State.emit_route (o : Out) : (s.emit o).route = s.route := rfl
@[simp] theorem State.emit_sec (o : Out) : (s.emit o).sec = s.sec := rfl
@[simp] theorem State.emit_pwr (o : Out) : (s.emit o).pwr = s.pwr := rfl
@[simp] theorem State.emit_rst (o : Out) : (s.emit o).rst = s.rst := rfl
@[simp] theorem State.emit_sb (o : Out) : (s.emit o).sb = s.sb := rfl
@[simp] theorem State.emit_cfg (o : Out) : (s.emit o).cfg = s.cfg := rfl
@[simp] theorem State.emit_repairCores (o : Out) : (s.emit o).repairCores = s.repairCores := rfl
@[simp] theorem State.emit_repairClusters (o : Out) : (s.emit o).repairClusters = s.repairClusters := rfl
@[simp] theorem State.emit_repairDies (o : Out) : (s.emit o).repairDies = s.repairDies := rfl
@[simp] theorem State.emit_repairLog (o : Out) : (s.emit o).repairLog = s.repairLog := rfl
@[simp] theorem State.emit_hardRows (o : Out) : (s.emit o).hardRows = s.hardRows := rfl
@[simp] theorem State.emit_caps (o : Out) : (s.emit o).caps = s.caps := rfl
@[simp] theorem State.emit_free (o : Out) : (s.emit o).free = s.free := rfl

/-! ### updTongs -/

@[simp] theorem State.updTongs_pending (p : Bool) (f : Tongs → Tongs) : (s.updTongs p f).pending = s.pending := by cases p <;> rfl
@[simp] theorem State.updTongs_stamp (p : Bool) (f : Tongs → Tongs) : (s.updTongs p f).stamp = s.stamp := by cases p <;> rfl
@[simp] theorem State.updTongs_mark (p : Bool) (f : Tongs → Tongs) : (s.updTongs p f).mark = s.mark := by cases p <;> rfl
@[simp] theorem State.updTongs_cores (p : Bool) (f : Tongs → Tongs) : (s.updTongs p f).cores = s.cores := by cases p <;> rfl
@[simp] theorem State.updTongs_dies (p : Bool) (f : Tongs → Tongs) : (s.updTongs p f).dies = s.dies := by cases p <;> rfl
@[simp] theorem State.updTongs_ports (p : Bool) (f : Tongs → Tongs) : (s.updTongs p f).ports = s.ports := by cases p <;> rfl
@[simp] theorem State.updTongs_tierH (p : Bool) (f : Tongs → Tongs) : (s.updTongs p f).tierH = s.tierH := by cases p <;> rfl
@[simp] theorem State.updTongs_tierM (p : Bool) (f : Tongs → Tongs) : (s.updTongs p f).tierM = s.tierM := by cases p <;> rfl
@[simp] theorem State.updTongs_tierF (p : Bool) (f : Tongs → Tongs) : (s.updTongs p f).tierF = s.tierF := by cases p <;> rfl
@[simp] theorem State.updTongs_sealH (p : Bool) (f : Tongs → Tongs) : (s.updTongs p f).sealH = s.sealH := by cases p <;> rfl
@[simp] theorem State.updTongs_sealM (p : Bool) (f : Tongs → Tongs) : (s.updTongs p f).sealM = s.sealM := by cases p <;> rfl
@[simp] theorem State.updTongs_hif (p : Bool) (f : Tongs → Tongs) : (s.updTongs p f).hif = s.hif := by cases p <;> rfl
@[simp] theorem State.updTongs_queues (p : Bool) (f : Tongs → Tongs) : (s.updTongs p f).queues = s.queues := by cases p <;> rfl
@[simp] theorem State.updTongs_rings (p : Bool) (f : Tongs → Tongs) : (s.updTongs p f).rings = s.rings := by cases p <;> rfl
@[simp] theorem State.updTongs_reads (p : Bool) (f : Tongs → Tongs) : (s.updTongs p f).reads = s.reads := by cases p <;> rfl
@[simp] theorem State.updTongs_nextTag (p : Bool) (f : Tongs → Tongs) : (s.updTongs p f).nextTag = s.nextTag := by cases p <;> rfl
@[simp] theorem State.updTongs_nextAcc (p : Bool) (f : Tongs → Tongs) : (s.updTongs p f).nextAcc = s.nextAcc := by cases p <;> rfl
@[simp] theorem State.updTongs_ctxs (p : Bool) (f : Tongs → Tongs) : (s.updTongs p f).ctxs = s.ctxs := by cases p <;> rfl
@[simp] theorem State.updTongs_fences (p : Bool) (f : Tongs → Tongs) : (s.updTongs p f).fences = s.fences := by cases p <;> rfl
@[simp] theorem State.updTongs_faultQ (p : Bool) (f : Tongs → Tongs) : (s.updTongs p f).faultQ = s.faultQ := by cases p <;> rfl
@[simp] theorem State.updTongs_faultLog (p : Bool) (f : Tongs → Tongs) : (s.updTongs p f).faultLog = s.faultLog := by cases p <;> rfl
@[simp] theorem State.updTongs_revs (p : Bool) (f : Tongs → Tongs) : (s.updTongs p f).revs = s.revs := by cases p <;> rfl
@[simp] theorem State.updTongs_nextSeq (p : Bool) (f : Tongs → Tongs) : (s.updTongs p f).nextSeq = s.nextSeq := by cases p <;> rfl
@[simp] theorem State.updTongs_models (p : Bool) (f : Tongs → Tongs) : (s.updTongs p f).models = s.models := by cases p <;> rfl
@[simp] theorem State.updTongs_commits (p : Bool) (f : Tongs → Tongs) : (s.updTongs p f).commits = s.commits := by cases p <;> rfl
@[simp] theorem State.updTongs_arenas (p : Bool) (f : Tongs → Tongs) : (s.updTongs p f).arenas = s.arenas := by cases p <;> rfl
@[simp] theorem State.updTongs_comps (p : Bool) (f : Tongs → Tongs) : (s.updTongs p f).comps = s.comps := by cases p <;> rfl
@[simp] theorem State.updTongs_joins (p : Bool) (f : Tongs → Tongs) : (s.updTongs p f).joins = s.joins := by cases p <;> rfl
@[simp] theorem State.updTongs_recs (p : Bool) (f : Tongs → Tongs) : (s.updTongs p f).recs = s.recs := by cases p <;> rfl
@[simp] theorem State.updTongs_recIndex (p : Bool) (f : Tongs → Tongs) : (s.updTongs p f).recIndex = s.recIndex := by cases p <;> rfl
@[simp] theorem State.updTongs_recPage (p : Bool) (f : Tongs → Tongs) : (s.updTongs p f).recPage = s.recPage := by cases p <;> rfl
@[simp] theorem State.updTongs_pool (p : Bool) (f : Tongs → Tongs) : (s.updTongs p f).pool = s.pool := by cases p <;> rfl
@[simp] theorem State.updTongs_route (p : Bool) (f : Tongs → Tongs) : (s.updTongs p f).route = s.route := by cases p <;> rfl
@[simp] theorem State.updTongs_sec (p : Bool) (f : Tongs → Tongs) : (s.updTongs p f).sec = s.sec := by cases p <;> rfl
@[simp] theorem State.updTongs_pwr (p : Bool) (f : Tongs → Tongs) : (s.updTongs p f).pwr = s.pwr := by cases p <;> rfl
@[simp] theorem State.updTongs_rst (p : Bool) (f : Tongs → Tongs) : (s.updTongs p f).rst = s.rst := by cases p <;> rfl
@[simp] theorem State.updTongs_sb (p : Bool) (f : Tongs → Tongs) : (s.updTongs p f).sb = s.sb := by cases p <;> rfl
@[simp] theorem State.updTongs_cfg (p : Bool) (f : Tongs → Tongs) : (s.updTongs p f).cfg = s.cfg := by cases p <;> rfl
@[simp] theorem State.updTongs_repairCores (p : Bool) (f : Tongs → Tongs) : (s.updTongs p f).repairCores = s.repairCores := by cases p <;> rfl
@[simp] theorem State.updTongs_repairClusters (p : Bool) (f : Tongs → Tongs) : (s.updTongs p f).repairClusters = s.repairClusters := by cases p <;> rfl
@[simp] theorem State.updTongs_repairDies (p : Bool) (f : Tongs → Tongs) : (s.updTongs p f).repairDies = s.repairDies := by cases p <;> rfl
@[simp] theorem State.updTongs_repairLog (p : Bool) (f : Tongs → Tongs) : (s.updTongs p f).repairLog = s.repairLog := by cases p <;> rfl
@[simp] theorem State.updTongs_hardRows (p : Bool) (f : Tongs → Tongs) : (s.updTongs p f).hardRows = s.hardRows := by cases p <;> rfl
@[simp] theorem State.updTongs_caps (p : Bool) (f : Tongs → Tongs) : (s.updTongs p f).caps = s.caps := by cases p <;> rfl
@[simp] theorem State.updTongs_free (p : Bool) (f : Tongs → Tongs) : (s.updTongs p f).free = s.free := by cases p <;> rfl
@[simp] theorem State.updTongs_out (p : Bool) (f : Tongs → Tongs) : (s.updTongs p f).out = s.out := by cases p <;> rfl

/-! ### Reads of one part after an update of another -/

@[simp] theorem State.die_setCore (k : Nat) (c : Core) (i : Nat) : (s.setCore k c).die i = s.die i := rfl
@[simp] theorem State.port_setCore (k : Nat) (c : Core) (i : Nat) : (s.setCore k c).port i = s.port i := rfl
@[simp] theorem State.ctx_setCore (k : Nat) (c : Core) (i : Nat) : (s.setCore k c).ctx i = s.ctx i := rfl
@[simp] theorem State.queue_setCore (k : Nat) (c : Core) (i : Nat) : (s.setCore k c).queue i = s.queue i := rfl
@[simp] theorem State.ring_setCore (k : Nat) (c : Core) (i : Nat) : (s.setCore k c).ring i = s.ring i := rfl
@[simp] theorem State.fence_setCore (k : Nat) (c : Core) (i : Nat) : (s.setCore k c).fence i = s.fence i := rfl
@[simp] theorem State.comp_setCore (k : Nat) (c : Core) (i : Nat) : (s.setCore k c).comp i = s.comp i := rfl
@[simp] theorem State.recRing_setCore (k : Nat) (c : Core) (i : Nat) : (s.setCore k c).recRing i = s.recRing i := rfl
@[simp] theorem State.tongs_setCore (k : Nat) (c : Core) (i : Bool) : (s.setCore k c).tongs i = s.tongs i := rfl
@[simp] theorem State.lane_setCore (k : Nat) (c : Core) (i j : Nat) : (s.setCore k c).lane i j = s.lane i j := rfl
@[simp] theorem State.router_setCore (k : Nat) (c : Core) (i j : Nat) : (s.setCore k c).router i j = s.router i j := rfl
@[simp] theorem State.stop_setCore (k : Nat) (c : Core) (i : StopId) : (s.setCore k c).stop i = s.stop i := rfl

@[simp] theorem State.core_setDie (d : Nat) (x : Die) (i : Nat) : (s.setDie d x).core i = s.core i := rfl
@[simp] theorem State.port_setDie (d : Nat) (x : Die) (i : Nat) : (s.setDie d x).port i = s.port i := rfl
@[simp] theorem State.ctx_setDie (d : Nat) (x : Die) (i : Nat) : (s.setDie d x).ctx i = s.ctx i := rfl
@[simp] theorem State.queue_setDie (d : Nat) (x : Die) (i : Nat) : (s.setDie d x).queue i = s.queue i := rfl
@[simp] theorem State.ring_setDie (d : Nat) (x : Die) (i : Nat) : (s.setDie d x).ring i = s.ring i := rfl
@[simp] theorem State.fence_setDie (d : Nat) (x : Die) (i : Nat) : (s.setDie d x).fence i = s.fence i := rfl
@[simp] theorem State.comp_setDie (d : Nat) (x : Die) (i : Nat) : (s.setDie d x).comp i = s.comp i := rfl
@[simp] theorem State.recRing_setDie (d : Nat) (x : Die) (i : Nat) : (s.setDie d x).recRing i = s.recRing i := rfl
@[simp] theorem State.tongs_setDie (d : Nat) (x : Die) (i : Bool) : (s.setDie d x).tongs i = s.tongs i := rfl

@[simp] theorem State.core_updDie (d : Nat) (f : Die → Die) (i : Nat) : (s.updDie d f).core i = s.core i := rfl
@[simp] theorem State.port_updDie (d : Nat) (f : Die → Die) (i : Nat) : (s.updDie d f).port i = s.port i := rfl
@[simp] theorem State.ctx_updDie (d : Nat) (f : Die → Die) (i : Nat) : (s.updDie d f).ctx i = s.ctx i := rfl
@[simp] theorem State.queue_updDie (d : Nat) (f : Die → Die) (i : Nat) : (s.updDie d f).queue i = s.queue i := rfl
@[simp] theorem State.ring_updDie (d : Nat) (f : Die → Die) (i : Nat) : (s.updDie d f).ring i = s.ring i := rfl
@[simp] theorem State.fence_updDie (d : Nat) (f : Die → Die) (i : Nat) : (s.updDie d f).fence i = s.fence i := rfl
@[simp] theorem State.comp_updDie (d : Nat) (f : Die → Die) (i : Nat) : (s.updDie d f).comp i = s.comp i := rfl
@[simp] theorem State.recRing_updDie (d : Nat) (f : Die → Die) (i : Nat) : (s.updDie d f).recRing i = s.recRing i := rfl
@[simp] theorem State.tongs_updDie (d : Nat) (f : Die → Die) (i : Bool) : (s.updDie d f).tongs i = s.tongs i := rfl

@[simp] theorem State.core_updLane (d l : Nat) (f : Lane → Lane) (i : Nat) : (s.updLane d l f).core i = s.core i := rfl
@[simp] theorem State.port_updLane (d l : Nat) (f : Lane → Lane) (i : Nat) : (s.updLane d l f).port i = s.port i := rfl
@[simp] theorem State.ctx_updLane (d l : Nat) (f : Lane → Lane) (i : Nat) : (s.updLane d l f).ctx i = s.ctx i := rfl
@[simp] theorem State.queue_updLane (d l : Nat) (f : Lane → Lane) (i : Nat) : (s.updLane d l f).queue i = s.queue i := rfl
@[simp] theorem State.ring_updLane (d l : Nat) (f : Lane → Lane) (i : Nat) : (s.updLane d l f).ring i = s.ring i := rfl
@[simp] theorem State.fence_updLane (d l : Nat) (f : Lane → Lane) (i : Nat) : (s.updLane d l f).fence i = s.fence i := rfl
@[simp] theorem State.comp_updLane (d l : Nat) (f : Lane → Lane) (i : Nat) : (s.updLane d l f).comp i = s.comp i := rfl
@[simp] theorem State.recRing_updLane (d l : Nat) (f : Lane → Lane) (i : Nat) : (s.updLane d l f).recRing i = s.recRing i := rfl
@[simp] theorem State.tongs_updLane (d l : Nat) (f : Lane → Lane) (i : Bool) : (s.updLane d l f).tongs i = s.tongs i := rfl

@[simp] theorem State.core_updRouter (d r : Nat) (f : Router → Router) (i : Nat) : (s.updRouter d r f).core i = s.core i := rfl
@[simp] theorem State.port_updRouter (d r : Nat) (f : Router → Router) (i : Nat) : (s.updRouter d r f).port i = s.port i := rfl
@[simp] theorem State.ctx_updRouter (d r : Nat) (f : Router → Router) (i : Nat) : (s.updRouter d r f).ctx i = s.ctx i := rfl
@[simp] theorem State.queue_updRouter (d r : Nat) (f : Router → Router) (i : Nat) : (s.updRouter d r f).queue i = s.queue i := rfl
@[simp] theorem State.ring_updRouter (d r : Nat) (f : Router → Router) (i : Nat) : (s.updRouter d r f).ring i = s.ring i := rfl
@[simp] theorem State.fence_updRouter (d r : Nat) (f : Router → Router) (i : Nat) : (s.updRouter d r f).fence i = s.fence i := rfl
@[simp] theorem State.comp_updRouter (d r : Nat) (f : Router → Router) (i : Nat) : (s.updRouter d r f).comp i = s.comp i := rfl
@[simp] theorem State.recRing_updRouter (d r : Nat) (f : Router → Router) (i : Nat) : (s.updRouter d r f).recRing i = s.recRing i := rfl
@[simp] theorem State.tongs_updRouter (d r : Nat) (f : Router → Router) (i : Bool) : (s.updRouter d r f).tongs i = s.tongs i := rfl

@[simp] theorem State.core_updStop (i0 : StopId) (f : MemStop → MemStop) (i : Nat) : (s.updStop i0 f).core i = s.core i := rfl
@[simp] theorem State.port_updStop (i0 : StopId) (f : MemStop → MemStop) (i : Nat) : (s.updStop i0 f).port i = s.port i := rfl
@[simp] theorem State.ctx_updStop (i0 : StopId) (f : MemStop → MemStop) (i : Nat) : (s.updStop i0 f).ctx i = s.ctx i := rfl
@[simp] theorem State.queue_updStop (i0 : StopId) (f : MemStop → MemStop) (i : Nat) : (s.updStop i0 f).queue i = s.queue i := rfl
@[simp] theorem State.ring_updStop (i0 : StopId) (f : MemStop → MemStop) (i : Nat) : (s.updStop i0 f).ring i = s.ring i := rfl
@[simp] theorem State.fence_updStop (i0 : StopId) (f : MemStop → MemStop) (i : Nat) : (s.updStop i0 f).fence i = s.fence i := rfl
@[simp] theorem State.comp_updStop (i0 : StopId) (f : MemStop → MemStop) (i : Nat) : (s.updStop i0 f).comp i = s.comp i := rfl
@[simp] theorem State.recRing_updStop (i0 : StopId) (f : MemStop → MemStop) (i : Nat) : (s.updStop i0 f).recRing i = s.recRing i := rfl
@[simp] theorem State.tongs_updStop (i0 : StopId) (f : MemStop → MemStop) (i : Bool) : (s.updStop i0 f).tongs i = s.tongs i := rfl

@[simp] theorem State.core_updPort (i0 : Nat) (f : Port → Port) (i : Nat) : (s.updPort i0 f).core i = s.core i := rfl
@[simp] theorem State.die_updPort (i0 : Nat) (f : Port → Port) (i : Nat) : (s.updPort i0 f).die i = s.die i := rfl
@[simp] theorem State.ctx_updPort (i0 : Nat) (f : Port → Port) (i : Nat) : (s.updPort i0 f).ctx i = s.ctx i := rfl
@[simp] theorem State.queue_updPort (i0 : Nat) (f : Port → Port) (i : Nat) : (s.updPort i0 f).queue i = s.queue i := rfl
@[simp] theorem State.ring_updPort (i0 : Nat) (f : Port → Port) (i : Nat) : (s.updPort i0 f).ring i = s.ring i := rfl
@[simp] theorem State.fence_updPort (i0 : Nat) (f : Port → Port) (i : Nat) : (s.updPort i0 f).fence i = s.fence i := rfl
@[simp] theorem State.comp_updPort (i0 : Nat) (f : Port → Port) (i : Nat) : (s.updPort i0 f).comp i = s.comp i := rfl
@[simp] theorem State.recRing_updPort (i0 : Nat) (f : Port → Port) (i : Nat) : (s.updPort i0 f).recRing i = s.recRing i := rfl
@[simp] theorem State.tongs_updPort (i0 : Nat) (f : Port → Port) (i : Bool) : (s.updPort i0 f).tongs i = s.tongs i := rfl
@[simp] theorem State.lane_updPort (i0 : Nat) (f : Port → Port) (i j : Nat) : (s.updPort i0 f).lane i j = s.lane i j := rfl
@[simp] theorem State.router_updPort (i0 : Nat) (f : Port → Port) (i j : Nat) : (s.updPort i0 f).router i j = s.router i j := rfl
@[simp] theorem State.stop_updPort (i0 : Nat) (f : Port → Port) (i : StopId) : (s.updPort i0 f).stop i = s.stop i := rfl

@[simp] theorem State.core_updCtx (c : Nat) (f : Ctx → Ctx) (i : Nat) : (s.updCtx c f).core i = s.core i := rfl
@[simp] theorem State.die_updCtx (c : Nat) (f : Ctx → Ctx) (i : Nat) : (s.updCtx c f).die i = s.die i := rfl
@[simp] theorem State.port_updCtx (c : Nat) (f : Ctx → Ctx) (i : Nat) : (s.updCtx c f).port i = s.port i := rfl
@[simp] theorem State.queue_updCtx (c : Nat) (f : Ctx → Ctx) (i : Nat) : (s.updCtx c f).queue i = s.queue i := rfl
@[simp] theorem State.ring_updCtx (c : Nat) (f : Ctx → Ctx) (i : Nat) : (s.updCtx c f).ring i = s.ring i := rfl
@[simp] theorem State.fence_updCtx (c : Nat) (f : Ctx → Ctx) (i : Nat) : (s.updCtx c f).fence i = s.fence i := rfl
@[simp] theorem State.comp_updCtx (c : Nat) (f : Ctx → Ctx) (i : Nat) : (s.updCtx c f).comp i = s.comp i := rfl
@[simp] theorem State.recRing_updCtx (c : Nat) (f : Ctx → Ctx) (i : Nat) : (s.updCtx c f).recRing i = s.recRing i := rfl
@[simp] theorem State.tongs_updCtx (c : Nat) (f : Ctx → Ctx) (i : Bool) : (s.updCtx c f).tongs i = s.tongs i := rfl
@[simp] theorem State.lane_updCtx (c : Nat) (f : Ctx → Ctx) (i j : Nat) : (s.updCtx c f).lane i j = s.lane i j := rfl
@[simp] theorem State.router_updCtx (c : Nat) (f : Ctx → Ctx) (i j : Nat) : (s.updCtx c f).router i j = s.router i j := rfl
@[simp] theorem State.stop_updCtx (c : Nat) (f : Ctx → Ctx) (i : StopId) : (s.updCtx c f).stop i = s.stop i := rfl

@[simp] theorem State.core_updQueue (q : Nat) (f : Queue → Queue) (i : Nat) : (s.updQueue q f).core i = s.core i := rfl
@[simp] theorem State.die_updQueue (q : Nat) (f : Queue → Queue) (i : Nat) : (s.updQueue q f).die i = s.die i := rfl
@[simp] theorem State.port_updQueue (q : Nat) (f : Queue → Queue) (i : Nat) : (s.updQueue q f).port i = s.port i := rfl
@[simp] theorem State.ctx_updQueue (q : Nat) (f : Queue → Queue) (i : Nat) : (s.updQueue q f).ctx i = s.ctx i := rfl
@[simp] theorem State.ring_updQueue (q : Nat) (f : Queue → Queue) (i : Nat) : (s.updQueue q f).ring i = s.ring i := rfl
@[simp] theorem State.fence_updQueue (q : Nat) (f : Queue → Queue) (i : Nat) : (s.updQueue q f).fence i = s.fence i := rfl
@[simp] theorem State.comp_updQueue (q : Nat) (f : Queue → Queue) (i : Nat) : (s.updQueue q f).comp i = s.comp i := rfl
@[simp] theorem State.recRing_updQueue (q : Nat) (f : Queue → Queue) (i : Nat) : (s.updQueue q f).recRing i = s.recRing i := rfl
@[simp] theorem State.tongs_updQueue (q : Nat) (f : Queue → Queue) (i : Bool) : (s.updQueue q f).tongs i = s.tongs i := rfl
@[simp] theorem State.lane_updQueue (q : Nat) (f : Queue → Queue) (i j : Nat) : (s.updQueue q f).lane i j = s.lane i j := rfl
@[simp] theorem State.router_updQueue (q : Nat) (f : Queue → Queue) (i j : Nat) : (s.updQueue q f).router i j = s.router i j := rfl
@[simp] theorem State.stop_updQueue (q : Nat) (f : Queue → Queue) (i : StopId) : (s.updQueue q f).stop i = s.stop i := rfl

@[simp] theorem State.core_updRing (r : Nat) (f : EvRing → EvRing) (i : Nat) : (s.updRing r f).core i = s.core i := rfl
@[simp] theorem State.die_updRing (r : Nat) (f : EvRing → EvRing) (i : Nat) : (s.updRing r f).die i = s.die i := rfl
@[simp] theorem State.port_updRing (r : Nat) (f : EvRing → EvRing) (i : Nat) : (s.updRing r f).port i = s.port i := rfl
@[simp] theorem State.ctx_updRing (r : Nat) (f : EvRing → EvRing) (i : Nat) : (s.updRing r f).ctx i = s.ctx i := rfl
@[simp] theorem State.queue_updRing (r : Nat) (f : EvRing → EvRing) (i : Nat) : (s.updRing r f).queue i = s.queue i := rfl
@[simp] theorem State.fence_updRing (r : Nat) (f : EvRing → EvRing) (i : Nat) : (s.updRing r f).fence i = s.fence i := rfl
@[simp] theorem State.comp_updRing (r : Nat) (f : EvRing → EvRing) (i : Nat) : (s.updRing r f).comp i = s.comp i := rfl
@[simp] theorem State.recRing_updRing (r : Nat) (f : EvRing → EvRing) (i : Nat) : (s.updRing r f).recRing i = s.recRing i := rfl
@[simp] theorem State.tongs_updRing (r : Nat) (f : EvRing → EvRing) (i : Bool) : (s.updRing r f).tongs i = s.tongs i := rfl
@[simp] theorem State.lane_updRing (r : Nat) (f : EvRing → EvRing) (i j : Nat) : (s.updRing r f).lane i j = s.lane i j := rfl
@[simp] theorem State.router_updRing (r : Nat) (f : EvRing → EvRing) (i j : Nat) : (s.updRing r f).router i j = s.router i j := rfl
@[simp] theorem State.stop_updRing (r : Nat) (f : EvRing → EvRing) (i : StopId) : (s.updRing r f).stop i = s.stop i := rfl

@[simp] theorem State.core_updFence (n : Nat) (f : Fence → Fence) (i : Nat) : (s.updFence n f).core i = s.core i := rfl
@[simp] theorem State.die_updFence (n : Nat) (f : Fence → Fence) (i : Nat) : (s.updFence n f).die i = s.die i := rfl
@[simp] theorem State.port_updFence (n : Nat) (f : Fence → Fence) (i : Nat) : (s.updFence n f).port i = s.port i := rfl
@[simp] theorem State.ctx_updFence (n : Nat) (f : Fence → Fence) (i : Nat) : (s.updFence n f).ctx i = s.ctx i := rfl
@[simp] theorem State.queue_updFence (n : Nat) (f : Fence → Fence) (i : Nat) : (s.updFence n f).queue i = s.queue i := rfl
@[simp] theorem State.ring_updFence (n : Nat) (f : Fence → Fence) (i : Nat) : (s.updFence n f).ring i = s.ring i := rfl
@[simp] theorem State.comp_updFence (n : Nat) (f : Fence → Fence) (i : Nat) : (s.updFence n f).comp i = s.comp i := rfl
@[simp] theorem State.recRing_updFence (n : Nat) (f : Fence → Fence) (i : Nat) : (s.updFence n f).recRing i = s.recRing i := rfl
@[simp] theorem State.tongs_updFence (n : Nat) (f : Fence → Fence) (i : Bool) : (s.updFence n f).tongs i = s.tongs i := rfl
@[simp] theorem State.lane_updFence (n : Nat) (f : Fence → Fence) (i j : Nat) : (s.updFence n f).lane i j = s.lane i j := rfl
@[simp] theorem State.router_updFence (n : Nat) (f : Fence → Fence) (i j : Nat) : (s.updFence n f).router i j = s.router i j := rfl
@[simp] theorem State.stop_updFence (n : Nat) (f : Fence → Fence) (i : StopId) : (s.updFence n f).stop i = s.stop i := rfl

@[simp] theorem State.core_updComp (k : Nat) (f : Comp → Comp) (i : Nat) : (s.updComp k f).core i = s.core i := rfl
@[simp] theorem State.die_updComp (k : Nat) (f : Comp → Comp) (i : Nat) : (s.updComp k f).die i = s.die i := rfl
@[simp] theorem State.port_updComp (k : Nat) (f : Comp → Comp) (i : Nat) : (s.updComp k f).port i = s.port i := rfl
@[simp] theorem State.ctx_updComp (k : Nat) (f : Comp → Comp) (i : Nat) : (s.updComp k f).ctx i = s.ctx i := rfl
@[simp] theorem State.queue_updComp (k : Nat) (f : Comp → Comp) (i : Nat) : (s.updComp k f).queue i = s.queue i := rfl
@[simp] theorem State.ring_updComp (k : Nat) (f : Comp → Comp) (i : Nat) : (s.updComp k f).ring i = s.ring i := rfl
@[simp] theorem State.fence_updComp (k : Nat) (f : Comp → Comp) (i : Nat) : (s.updComp k f).fence i = s.fence i := rfl
@[simp] theorem State.recRing_updComp (k : Nat) (f : Comp → Comp) (i : Nat) : (s.updComp k f).recRing i = s.recRing i := rfl
@[simp] theorem State.tongs_updComp (k : Nat) (f : Comp → Comp) (i : Bool) : (s.updComp k f).tongs i = s.tongs i := rfl
@[simp] theorem State.lane_updComp (k : Nat) (f : Comp → Comp) (i j : Nat) : (s.updComp k f).lane i j = s.lane i j := rfl
@[simp] theorem State.router_updComp (k : Nat) (f : Comp → Comp) (i j : Nat) : (s.updComp k f).router i j = s.router i j := rfl
@[simp] theorem State.stop_updComp (k : Nat) (f : Comp → Comp) (i : StopId) : (s.updComp k f).stop i = s.stop i := rfl

@[simp] theorem State.core_updRec (k : Nat) (f : RecRing → RecRing) (i : Nat) : (s.updRec k f).core i = s.core i := rfl
@[simp] theorem State.die_updRec (k : Nat) (f : RecRing → RecRing) (i : Nat) : (s.updRec k f).die i = s.die i := rfl
@[simp] theorem State.port_updRec (k : Nat) (f : RecRing → RecRing) (i : Nat) : (s.updRec k f).port i = s.port i := rfl
@[simp] theorem State.ctx_updRec (k : Nat) (f : RecRing → RecRing) (i : Nat) : (s.updRec k f).ctx i = s.ctx i := rfl
@[simp] theorem State.queue_updRec (k : Nat) (f : RecRing → RecRing) (i : Nat) : (s.updRec k f).queue i = s.queue i := rfl
@[simp] theorem State.ring_updRec (k : Nat) (f : RecRing → RecRing) (i : Nat) : (s.updRec k f).ring i = s.ring i := rfl
@[simp] theorem State.fence_updRec (k : Nat) (f : RecRing → RecRing) (i : Nat) : (s.updRec k f).fence i = s.fence i := rfl
@[simp] theorem State.comp_updRec (k : Nat) (f : RecRing → RecRing) (i : Nat) : (s.updRec k f).comp i = s.comp i := rfl
@[simp] theorem State.tongs_updRec (k : Nat) (f : RecRing → RecRing) (i : Bool) : (s.updRec k f).tongs i = s.tongs i := rfl
@[simp] theorem State.lane_updRec (k : Nat) (f : RecRing → RecRing) (i j : Nat) : (s.updRec k f).lane i j = s.lane i j := rfl
@[simp] theorem State.router_updRec (k : Nat) (f : RecRing → RecRing) (i j : Nat) : (s.updRec k f).router i j = s.router i j := rfl
@[simp] theorem State.stop_updRec (k : Nat) (f : RecRing → RecRing) (i : StopId) : (s.updRec k f).stop i = s.stop i := rfl

@[simp] theorem State.core_emit (o : Out) (i : Nat) : (s.emit o).core i = s.core i := rfl
@[simp] theorem State.die_emit (o : Out) (i : Nat) : (s.emit o).die i = s.die i := rfl
@[simp] theorem State.port_emit (o : Out) (i : Nat) : (s.emit o).port i = s.port i := rfl
@[simp] theorem State.ctx_emit (o : Out) (i : Nat) : (s.emit o).ctx i = s.ctx i := rfl
@[simp] theorem State.queue_emit (o : Out) (i : Nat) : (s.emit o).queue i = s.queue i := rfl
@[simp] theorem State.ring_emit (o : Out) (i : Nat) : (s.emit o).ring i = s.ring i := rfl
@[simp] theorem State.fence_emit (o : Out) (i : Nat) : (s.emit o).fence i = s.fence i := rfl
@[simp] theorem State.comp_emit (o : Out) (i : Nat) : (s.emit o).comp i = s.comp i := rfl
@[simp] theorem State.recRing_emit (o : Out) (i : Nat) : (s.emit o).recRing i = s.recRing i := rfl
@[simp] theorem State.tongs_emit (o : Out) (i : Bool) : (s.emit o).tongs i = s.tongs i := rfl
@[simp] theorem State.lane_emit (o : Out) (i j : Nat) : (s.emit o).lane i j = s.lane i j := rfl
@[simp] theorem State.router_emit (o : Out) (i j : Nat) : (s.emit o).router i j = s.router i j := rfl
@[simp] theorem State.stop_emit (o : Out) (i : StopId) : (s.emit o).stop i = s.stop i := rfl

@[simp] theorem State.core_updTongs (p : Bool) (f : Tongs → Tongs) (i : Nat) : (s.updTongs p f).core i = s.core i := by cases p <;> rfl
@[simp] theorem State.die_updTongs (p : Bool) (f : Tongs → Tongs) (i : Nat) : (s.updTongs p f).die i = s.die i := by cases p <;> rfl
@[simp] theorem State.port_updTongs (p : Bool) (f : Tongs → Tongs) (i : Nat) : (s.updTongs p f).port i = s.port i := by cases p <;> rfl
@[simp] theorem State.ctx_updTongs (p : Bool) (f : Tongs → Tongs) (i : Nat) : (s.updTongs p f).ctx i = s.ctx i := by cases p <;> rfl
@[simp] theorem State.queue_updTongs (p : Bool) (f : Tongs → Tongs) (i : Nat) : (s.updTongs p f).queue i = s.queue i := by cases p <;> rfl
@[simp] theorem State.ring_updTongs (p : Bool) (f : Tongs → Tongs) (i : Nat) : (s.updTongs p f).ring i = s.ring i := by cases p <;> rfl
@[simp] theorem State.fence_updTongs (p : Bool) (f : Tongs → Tongs) (i : Nat) : (s.updTongs p f).fence i = s.fence i := by cases p <;> rfl
@[simp] theorem State.comp_updTongs (p : Bool) (f : Tongs → Tongs) (i : Nat) : (s.updTongs p f).comp i = s.comp i := by cases p <;> rfl
@[simp] theorem State.recRing_updTongs (p : Bool) (f : Tongs → Tongs) (i : Nat) : (s.updTongs p f).recRing i = s.recRing i := by cases p <;> rfl
@[simp] theorem State.lane_updTongs (p : Bool) (f : Tongs → Tongs) (i j : Nat) : (s.updTongs p f).lane i j = s.lane i j := by cases p <;> rfl
@[simp] theorem State.router_updTongs (p : Bool) (f : Tongs → Tongs) (i j : Nat) : (s.updTongs p f).router i j = s.router i j := by cases p <;> rfl
@[simp] theorem State.stop_updTongs (p : Bool) (f : Tongs → Tongs) (i : StopId) : (s.updTongs p f).stop i = s.stop i := by cases p <;> rfl

/-! ### Reads of the part that was updated -/

@[simp] theorem State.core_setCore (k : Nat) (c : Core) : (s.setCore k c).core k = c := by
  simp [State.core, State.setCore]
theorem State.core_setCore_ne (k : Nat) (c : Core) {j : Nat} (h : j ≠ k) : (s.setCore k c).core j = s.core j := by
  simp only [State.core, State.setCore]
  exact Tab.look_put_ne _ h
@[simp] theorem State.die_setDie (k : Nat) (c : Die) : (s.setDie k c).die k = c := by
  simp [State.die, State.setDie]
theorem State.die_setDie_ne (k : Nat) (c : Die) {j : Nat} (h : j ≠ k) : (s.setDie k c).die j = s.die j := by
  simp only [State.die, State.setDie]
  exact Tab.look_put_ne _ h
@[simp] theorem State.die_updDie (k : Nat) (f : Die → Die) : (s.updDie k f).die k = f (s.die k) := by
  simp [State.die, State.updDie, State.setDie]
theorem State.die_updDie_ne (k : Nat) (f : Die → Die) {j : Nat} (h : j ≠ k) : (s.updDie k f).die j = s.die j := by
  simp only [State.die, State.updDie, State.setDie]
  exact Tab.look_put_ne _ h
@[simp] theorem State.port_updPort (k : Nat) (f : Port → Port) : (s.updPort k f).port k = f (s.port k) := by
  simp [State.port, State.updPort, Tab.upd]
theorem State.port_updPort_ne (k : Nat) (f : Port → Port) {j : Nat} (h : j ≠ k) : (s.updPort k f).port j = s.port j := by
  simp only [State.port, State.updPort, Tab.upd]
  exact Tab.look_put_ne _ h
@[simp] theorem State.ctx_updCtx (k : Nat) (f : Ctx → Ctx) : (s.updCtx k f).ctx k = f (s.ctx k) := by
  simp [State.ctx, State.updCtx, Tab.upd]
theorem State.ctx_updCtx_ne (k : Nat) (f : Ctx → Ctx) {j : Nat} (h : j ≠ k) : (s.updCtx k f).ctx j = s.ctx j := by
  simp only [State.ctx, State.updCtx, Tab.upd]
  exact Tab.look_put_ne _ h
@[simp] theorem State.queue_updQueue (k : Nat) (f : Queue → Queue) : (s.updQueue k f).queue k = f (s.queue k) := by
  simp [State.queue, State.updQueue, Tab.upd]
theorem State.queue_updQueue_ne (k : Nat) (f : Queue → Queue) {j : Nat} (h : j ≠ k) : (s.updQueue k f).queue j = s.queue j := by
  simp only [State.queue, State.updQueue, Tab.upd]
  exact Tab.look_put_ne _ h
@[simp] theorem State.ring_updRing (k : Nat) (f : EvRing → EvRing) : (s.updRing k f).ring k = f (s.ring k) := by
  simp [State.ring, State.updRing, Tab.upd]
theorem State.ring_updRing_ne (k : Nat) (f : EvRing → EvRing) {j : Nat} (h : j ≠ k) : (s.updRing k f).ring j = s.ring j := by
  simp only [State.ring, State.updRing, Tab.upd]
  exact Tab.look_put_ne _ h
@[simp] theorem State.fence_updFence (k : Nat) (f : Fence → Fence) : (s.updFence k f).fence k = f (s.fence k) := by
  simp [State.fence, State.updFence, Tab.upd]
theorem State.fence_updFence_ne (k : Nat) (f : Fence → Fence) {j : Nat} (h : j ≠ k) : (s.updFence k f).fence j = s.fence j := by
  simp only [State.fence, State.updFence, Tab.upd]
  exact Tab.look_put_ne _ h
@[simp] theorem State.comp_updComp (k : Nat) (f : Comp → Comp) : (s.updComp k f).comp k = f (s.comp k) := by
  simp [State.comp, State.updComp, Tab.upd]
theorem State.comp_updComp_ne (k : Nat) (f : Comp → Comp) {j : Nat} (h : j ≠ k) : (s.updComp k f).comp j = s.comp j := by
  simp only [State.comp, State.updComp, Tab.upd]
  exact Tab.look_put_ne _ h
@[simp] theorem State.recRing_updRec (k : Nat) (f : RecRing → RecRing) : (s.updRec k f).recRing k = f (s.recRing k) := by
  simp [State.recRing, State.updRec, Tab.upd]
theorem State.recRing_updRec_ne (k : Nat) (f : RecRing → RecRing) {j : Nat} (h : j ≠ k) : (s.updRec k f).recRing j = s.recRing j := by
  simp only [State.recRing, State.updRec, Tab.upd]
  exact Tab.look_put_ne _ h

@[simp] theorem State.tongs_updTongs (p : Bool) (f : Tongs → Tongs) : (s.updTongs p f).tongs p = f (s.tongs p) := by
  cases p <;> rfl

theorem State.tongs_updTongs_ne (p q : Bool) (f : Tongs → Tongs) (h : q ≠ p) : (s.updTongs p f).tongs q = s.tongs q := by
  cases p <;> cases q <;> simp_all [State.updTongs, State.tongs]

@[simp] theorem State.lane_updLane (d l : Nat) (f : Lane → Lane) : (s.updLane d l f).lane d l = f (s.lane d l) := by
  simp [State.lane, State.updLane]

theorem State.lane_updLane_ne (d l : Nat) (f : Lane → Lane) {d' l' : Nat} (h : d' ≠ d ∨ l' ≠ l) :
    (s.updLane d l f).lane d' l' = s.lane d' l' := by
  unfold State.lane State.updLane
  by_cases e : d' = d
  · subst e
    rw [State.die_updDie]
    exact Tab.look_upd_ne _ (h.resolve_left (by simp))
  · rw [State.die_updDie_ne _ _ _ e]

@[simp] theorem State.router_updRouter (d r : Nat) (f : Router → Router) :
    (s.updRouter d r f).router d r = f (s.router d r) := by
  simp [State.router, State.updRouter]

@[simp] theorem State.stop_updStop (i : StopId) (f : MemStop → MemStop) : (s.updStop i f).stop i = f (s.stop i) := by
  simp only [State.stop, State.updStop, State.die_updDie]
  cases i.cls <;> simp [Die.updStop]

end Sys2Proof.Machine
end

