-- ==== Sys2Proof/Laws/Faults.lean ====
section
/-! SUPPORT. What completing descriptors, poisoning fences, appending records and losing a context do to the context
records: all but the last leave every context as it was. One lemma per shared operation. -/

namespace Sys2Proof.Machine

/-- Steps that each leave the contexts alone leave them alone together. -/
theorem foldl_ctxs {α : Type} {f : State → α → State} (h : ∀ u a, (f u a).ctxs = u.ctxs) (l : List α) (s : State) :
    (l.foldl f s).ctxs = s.ctxs := by
  induction l generalizing s with
  | nil => rfl
  | cons a l ih => simp [ih, h]

/-- The parts of a state that ending a descriptor and poisoning a fence leave alone. -/
structure Aside where
  ctxs : Tab Ctx
  /-- Valid bit and context of every region's tag. -/
  tags : Bool → Nat × Nat × Nat → Bool × Nat
  cores : Tab Core
  comps : Tab Comp
  revs : List Revocation
  faultQ : List FaultMsg
  faultLog : List FaultMsg
  sec : Sec
  pwr : Pwr
  recs : Tab RecRing
  pool : Pool

/-- Those parts of a state. -/
def State.aside (s : State) : Aside :=
  ⟨s.ctxs, fun m r => ((s.region m r).tagged, (s.region m r).tag), s.cores, s.comps, s.revs, s.faultQ, s.faultLog, s.sec, s.pwr, s.recs, s.pool⟩

/-- Steps that each leave those parts alone leave them alone together. -/
theorem foldl_aside {α : Type} {f : State → α → State} (h : ∀ u a, (f u a).aside = u.aside) (l : List α) (s : State) :
    (l.foldl f s).aside = s.aside := by
  induction l generalizing s with
  | nil => rfl
  | cons a l ih => simp [ih, h]

@[simp] theorem State.updQueue_aside (s : State) (q : Nat) (f : Queue → Queue) : (s.updQueue q f).aside = s.aside := rfl
@[simp] theorem State.updRing_aside (s : State) (q : Nat) (f : EvRing → EvRing) : (s.updRing q f).aside = s.aside := rfl
@[simp] theorem State.updFence_aside (s : State) (q : Nat) (f : Fence → Fence) : (s.updFence q f).aside = s.aside := rfl
@[simp] theorem State.emit_aside (s : State) (o : Out) : (s.emit o).aside = s.aside := rfl
@[simp] theorem State.updTongs_aside (s : State) (p : Bool) (f : Tongs → Tongs) : (s.updTongs p f).aside = s.aside := by
  cases p <;> rfl

/-- A region after a change of a region. -/
theorem State.region_updRegion (s : State) (m m' : Bool) (r r' : Nat × Nat × Nat) (f : Region → Region) :
    (s.updRegion m r f).region m' r' = if m' = m ∧ r' = r then f (s.region m r) else s.region m' r' := by
  obtain ⟨d, i, k⟩ := r
  obtain ⟨d', i', k'⟩ := r'
  unfold State.region State.updRegion
  by_cases hd : d' = d
  · subst hd
    rw [State.die_updDie]
    cases m <;> cases m' <;> simp only [Die.updStop, Bool.false_eq_true, if_true, if_false, reduceCtorEq, false_and, true_and, Prod.mk.injEq]
    all_goals
      by_cases hi : i' = i
      · subst hi
        rw [Tab.look_upd_same]
        by_cases hk : k' = k
        · subst hk; simp
        · rw [Tab.look_upd_ne _ hk]; simp [hk]
      · rw [Tab.look_upd_ne _ hi]; simp [hi]
  · rw [State.die_updDie_ne _ _ _ hd]; simp [hd]

/-- Asking for an epoch's advance changes no tag. -/
@[simp] theorem State.askAdvance_aside (s : State) (m : Bool) (r : Nat × Nat × Nat) : (s.askAdvance m r).aside = s.aside := by
  have e : ∀ m' r', (((s.askAdvance m r).region m' r').tagged, ((s.askAdvance m r).region m' r').tag) =
      ((s.region m' r').tagged, (s.region m' r').tag) := by
    intro m' r'
    unfold State.askAdvance
    rw [State.region_updRegion]
    split
    · rename_i h; rw [h.1, h.2]
    · rfl
  unfold State.aside
  simp only [e]
  rfl

@[simp] theorem State.pushWork_aside (s : State) (p : Bool) (c : Nat) (w : Work) : (s.pushWork p c w).aside = s.aside := by
  simp [State.pushWork]

@[simp] theorem State.noticeOn_aside (s : State) (p : Bool) (r : Nat) (l : List Payload) : (s.noticeOn p r l).1.aside = s.aside := by
  unfold State.noticeOn; dsimp only; (repeat' split) <;> simp [foldl_aside]

@[simp] theorem State.notice_aside (s : State) (r : Nat) (l : List Payload) : (s.notice r l).1.aside = s.aside := by
  simp [State.notice]

@[simp] theorem State.updPart_aside (s : State) (k p : Nat) (f : Part → Part) : (s.updPart k p f).aside = s.aside := rfl

@[simp] theorem State.updObj_aside (s : State) (k h : Nat) (f : Obj → Obj) : (s.updObj k h f).aside = s.aside := rfl

@[simp] theorem State.returnG_aside (s : State) (k p : Nat) (gs : List Nat) : (s.returnG k p gs).aside = s.aside := by
  unfold State.returnG; dsimp only
  rw [foldl_aside]
  · simp
  · intro u a; (repeat' split) <;> first | rfl | simp

@[simp] theorem State.dropIfDead_aside (s : State) (k h : Nat) (b : Bool) : (s.dropIfDead k h b).aside = s.aside := by
  unfold State.dropIfDead; dsimp only; (repeat' split) <;> simp

@[simp] theorem State.unref_aside (s : State) (h : Nat) : (s.unref h).aside = s.aside := by
  unfold State.unref; split <;> simp

@[simp] theorem State.pushCompletion_aside (s : State) (q : Nat) (a : Accepted) (st : Status) (r : BitVec 256) :
    (s.pushCompletion q a st r).aside = s.aside := by simp [State.pushCompletion]

@[simp] theorem State.dropFront_aside (s : State) (q : Nat) : (s.dropFront q).aside = s.aside := by
  unfold State.dropFront; dsimp only; split <;> simp

@[simp] theorem State.finish_aside (s : State) (q : Nat) (st : Status) (r : BitVec 256) : (s.finish q st r).aside = s.aside := by
  unfold State.finish; dsimp only; (repeat' split) <;> simp

@[simp] theorem State.settleN_aside (q n : Nat) (s : State) : (State.settleN q n s).aside = s.aside := by
  induction n generalizing s with
  | zero => rfl
  | succ n ih =>
    unfold State.settleN; dsimp only
    split
    · rfl
    · (repeat' split) <;> simp [ih]

@[simp] theorem State.settle_aside (s : State) (q : Nat) : (s.settle q).aside = s.aside := by simp [State.settle]

/-- Completing a descriptor changes nothing of that. -/
@[simp] theorem State.complete_aside (s : State) (q : Nat) (st : Status) (r : BitVec 256) : (s.complete q st r).aside = s.aside := by
  unfold State.complete; dsimp only; split <;> simp

@[simp] theorem State.releaseWaits_aside (s : State) (n : Nat) : (s.releaseWaits n).aside = s.aside := by
  unfold State.releaseWaits; exact foldl_aside (by intro u a; (repeat' split) <;> simp) _ _

@[simp] theorem State.poison_aside (s : State) (n : Nat) : (s.poison n).aside = s.aside := by
  unfold State.poison; dsimp only; (repeat' split) <;> simp [foldl_aside]

@[simp] theorem State.complete_ctxs (s : State) (q : Nat) (st : Status) (r : BitVec 256) : (s.complete q st r).ctxs = s.ctxs :=
  congrArg Aside.ctxs (s.complete_aside q st r)

@[simp] theorem State.settle_ctxs (s : State) (q : Nat) : (s.settle q).ctxs = s.ctxs := congrArg Aside.ctxs (s.settle_aside q)

@[simp] theorem State.notice_ctxs (s : State) (r : Nat) (l : List Payload) : (s.notice r l).1.ctxs = s.ctxs :=
  congrArg Aside.ctxs (s.notice_aside r l)

@[simp] theorem State.pushWork_ctxs (s : State) (p : Bool) (c : Nat) (w : Work) : (s.pushWork p c w).ctxs = s.ctxs :=
  congrArg Aside.ctxs (s.pushWork_aside p c w)

@[simp] theorem State.poison_ctxs (s : State) (n : Nat) : (s.poison n).ctxs = s.ctxs := congrArg Aside.ctxs (s.poison_aside n)

@[simp] theorem State.appendClose_ctxs (s : State) (k r : Nat) : (s.appendClose k r).ctxs = s.ctxs := by
  unfold State.appendClose; split <;> simp [State.append]

@[simp] theorem State.updLanes_ctxs (s : State) (ds : List Nat) (l : Nat) (f : Lane → Lane) : (s.updLanes ds l f).ctxs = s.ctxs := by
  unfold State.updLanes; exact foldl_ctxs (by intro u a; rfl) _ _

@[simp] theorem State.stopComp_ctxs (s : State) (k : Nat) : (s.stopComp k).ctxs = s.ctxs := by
  unfold State.stopComp; dsimp only
  rw [State.updComp_ctxs, foldl_ctxs (by intro u a; rfl)]
  simp

@[simp] theorem State.quench_ctxs (s : State) (c d : Nat) : (s.quench c d).ctxs = s.ctxs := by
  unfold State.quench; dsimp only
  exact foldl_ctxs (by intro u a; rfl) _ _

@[simp] theorem State.drainQueues_ctxs (s : State) (c : Nat) : (s.drainQueues c).ctxs = s.ctxs := by
  simp [State.drainQueues, foldl_ctxs]

/-- The actions of R301 make the context LOST and bring its counters up to date; no other context changes. -/
theorem State.loseBody_ctxs (s : State) (c d : Nat) :
    (s.loseBody c d).ctxs = ((s.account c).updCtx c fun x => { x with st := .lost }).ctxs := by
  simp [State.loseBody, foldl_ctxs]

/-- The fault event changes no context but for the mark that it was dropped. -/
theorem State.faultEvent_ctxs (s : State) (c : Nat) (m : FaultMsg) (more : Bool) :
    (s.faultEvent c m more).ctxs = s.ctxs ∨
      (s.faultEvent c m more).ctxs = (s.updCtx c fun x => { x with fDropped := true }).ctxs := by
  unfold State.faultEvent; dsimp only
  split
  · left; simp
  · split
    · left; simp
    · right
      simp only [State.updCtx, State.notice_ctxs]

/-- Recording a fault: the context is LOST with the fault's unit, code and status, its count as it was; no other
context changes. -/
theorem State.recordFault_ctx (s : State) (c : Nat) (m : FaultMsg) (more : Bool) :
    ((s.recordFault c m more).ctx c).st = .lost ∧ ((s.recordFault c m more).ctx c).fValid = true ∧
    ((s.recordFault c m more).ctx c).fUnit = BitVec.ofNat 8 m.unit ∧ ((s.recordFault c m more).ctx c).fCode = BitVec.ofNat 8 m.code ∧
    ((s.recordFault c m more).ctx c).fStatus = BitVec.ofNat 8 m.status.code ∧
    ((s.recordFault c m more).ctx c).fCount = (s.ctx c).fCount ∧
    ∀ i, i ≠ c → (s.recordFault c m more).ctx i = s.ctx i := by
  have e : ∀ u : State, ∀ i, u.ctx i = Tab.look {} u.ctxs i := fun _ _ => rfl
  have acc : ∀ u : State, ∀ i, ((u.account c).updCtx c fun x => { x with st := .lost }).ctx i =
      if i = c then { (u.ctx c).account (u.ctxBytes c) with st := .lost } else u.ctx i := by
    intro u i
    by_cases h : i = c
    · subst h; rw [State.ctx_updCtx]; unfold State.account; rw [State.ctx_updCtx]; simp
    · rw [State.ctx_updCtx_ne _ _ _ h]; unfold State.account; rw [State.ctx_updCtx_ne _ _ _ h]; simp [h]
  generalize hb : (s.updCtx c fun x =>
    { x with fUnit := BitVec.ofNat 8 m.unit, fCode := BitVec.ofNat 8 m.code,
             fStatus := BitVec.ofNat 8 m.status.code, fValid := true }) = b
  have b1 : b.ctx c = { s.ctx c with fUnit := BitVec.ofNat 8 m.unit, fCode := BitVec.ofNat 8 m.code, fStatus := BitVec.ofNat 8 m.status.code, fValid := true } := by
    rw [← hb, State.ctx_updCtx]
  have b2 : ∀ i, i ≠ c → b.ctx i = s.ctx i := fun i h => by rw [← hb, State.ctx_updCtx_ne _ _ _ h]
  generalize hu : ((b.faultEvent c m more).compsOf c).foldl (fun s k => s.appendClose k 2) (b.faultEvent c m more) = u
  have hr : s.recordFault c m more = u.loseBody c m.die := by
    unfold State.recordFault; rw [hb]; dsimp only; rw [hu]
  have u1 : u.ctxs = (b.faultEvent c m more).ctxs := by rw [← hu, foldl_ctxs (by intro u a; simp)]
  have look : ∀ i, (s.recordFault c m more).ctx i = if i = c then { (u.ctx c).account (u.ctxBytes c) with st := .lost } else u.ctx i := by
    intro i; rw [hr, e, State.loseBody_ctxs, ← e, acc]
  have uc : ∃ d : Bool, u.ctx c = { b.ctx c with fDropped := d } := by
    rcases State.faultEvent_ctxs b c m more with h | h
    · exact ⟨(b.ctx c).fDropped, by rw [e u, u1, h]; rfl⟩
    · exact ⟨true, by rw [e u, u1, h, ← e, State.ctx_updCtx]⟩
  have un : ∀ i, i ≠ c → u.ctx i = b.ctx i := by
    intro i hi
    rcases State.faultEvent_ctxs b c m more with h | h
    · rw [e u, u1, h]; rfl
    · rw [e u, u1, h, ← e, State.ctx_updCtx_ne _ _ _ hi]
  obtain ⟨d, hd⟩ := uc
  rw [look c, if_pos rfl, hd, b1]
  refine ⟨rfl, rfl, rfl, rfl, rfl, rfl, ?_⟩
  intro i hi
  rw [look i, if_neg hi, un i hi, b2 i hi]

end Sys2Proof.Machine
end

