-- ==== Sys2Proof/Laws/Mem.lean ====
section
/-! SUPPORT. Memory stops and tiers: what an update of a stop leaves, and that every write of a tier keeps its memory in
canonical form. -/

namespace Sys2Proof.Machine

theorem State.lane_updDie {f : Die → Die} (hf : ∀ x, (f x).lanes = x.lanes) (s : State) (e d l : Nat) :
    (s.updDie e f).lane d l = s.lane d l := by
  unfold State.lane
  by_cases hd : d = e
  · subst hd; rw [State.die_updDie, hf]
  · rw [State.die_updDie_ne _ _ _ hd]

@[simp] theorem State.memStop_updMemStop (s : State) (m : Bool) (d i : Nat) (f : MemStop → MemStop) :
    (s.updMemStop m d i f).memStop m d i = f (s.memStop m d i) := by
  cases m <;> simp [State.updMemStop, State.memStop, Die.updStop]

@[simp] theorem State.lane_updMemStop (s : State) (m : Bool) (d i : Nat) (f : MemStop → MemStop) (e l : Nat) :
    (s.updMemStop m d i f).lane e l = s.lane e l := by
  unfold State.updMemStop
  exact State.lane_updDie (by intro x; cases m <;> rfl) _ _ _ _

@[simp] theorem State.memStop_updLane (s : State) (d l : Nat) (f : Lane → Lane) (m : Bool) (e i : Nat) :
    (s.updLane d l f).memStop m e i = s.memStop m e i := by
  simp only [State.memStop, State.updLane]
  by_cases h : e = d
  · subst h; rw [State.die_updDie]
  · rw [State.die_updDie_ne _ _ _ h]

@[simp] theorem State.memStop_setCore (s : State) (k : Nat) (c : Core) (m : Bool) (e i : Nat) :
    (s.setCore k c).memStop m e i = s.memStop m e i := rfl

/-- A change of a stop that keeps its regions leaves every region. -/
theorem State.region_updMemStop {f : MemStop → MemStop} (hf : ∀ x, (f x).regions = x.regions) (s : State) (n : Bool)
    (d i : Nat) (m : Bool) (r : Nat × Nat × Nat) : (s.updMemStop n d i f).region m r = s.region m r := by
  obtain ⟨e, j, k⟩ := r
  unfold State.region State.updMemStop
  by_cases he : e = d
  · subst he
    simp only [State.die_updDie]
    cases m <;> cases n <;> simp only [Die.updStop, if_true, if_false, Bool.false_eq_true] <;>
    first
    | rfl
    | by_cases hj : j = i
      · subst hj; rw [Tab.look_upd_same, hf]
      · rw [Tab.look_upd_ne _ hj]
  · simp only [State.die_updDie_ne _ _ _ he]

theorem State.memsec_updMemStop (s : State) (n : Bool) (d i : Nat) (f : MemStop → MemStop) (e : Nat) :
    ((s.updMemStop n d i f).die e).memsec = (s.die e).memsec := by
  unfold State.updMemStop
  by_cases he : e = d
  · subst he; rw [State.die_updDie]; cases n <;> rfl
  · rw [State.die_updDie_ne _ _ _ he]

/-- … and so every byte of the tiers as their stops deliver it. -/
theorem State.memRead_updMemStop {f : MemStop → MemStop} (hf : ∀ x, (f x).regions = x.regions) (s : State) (b : Bool)
    (d i : Nat) (m : Bool) (a n : Nat) : (s.updMemStop b d i f).memRead m a n = s.memRead m a n := by
  unfold State.memRead
  congr 1
  funext j
  unfold State.memByte State.sealedAt State.writeGen
  simp only [State.memsec_updMemStop, State.region_updMemStop hf]
  rfl

/-- Counting a lane's bytes touches its context alone. -/
theorem State.memBytes_frame (s : State) (m : Bool) (d o n : Nat) :
    ∃ c, s.memBytes m d o n = { s with ctxs := c } := by
  unfold State.memBytes
  split
  · split
    · exact ⟨_, rfl⟩
    · exact ⟨_, rfl⟩
  · exact ⟨_, rfl⟩

/-! ### Writes keep the canonical form of the tiers -/

theorem State.memSet_wf {s : State} (m : Bool) (a : Nat) (b : Byte) (h : s.tierH.wf = true) (h' : s.tierM.wf = true) :
    (s.memSet m a b).tierH.wf = true ∧ (s.memSet m a b).tierM.wf = true := by
  unfold State.memSet
  split <;> cases m <;> simp only [if_true, if_false, Bool.false_eq_true] <;>
  first
  | exact ⟨h, Memory.wf_setByte _ _ (Memory.wf_write _ _ h')⟩
  | exact ⟨Memory.wf_setByte _ _ (Memory.wf_write _ _ h), h'⟩
  | exact ⟨h, Memory.wf_setByte _ _ h'⟩
  | exact ⟨Memory.wf_setByte _ _ h, h'⟩

/-- A write of bytes of a tier keeps both memories in canonical form. -/
theorem State.memWrite_wf {s : State} (m : Bool) (a : Nat) (l : List Byte) (h : s.tierH.wf = true)
    (h' : s.tierM.wf = true) : (s.memWrite m a l).tierH.wf = true ∧ (s.memWrite m a l).tierM.wf = true := by
  induction l generalizing s a with
  | nil => exact ⟨h, h'⟩
  | cons b l ih =>
    obtain ⟨h1, h2⟩ := State.memSet_wf m a b h h'
    exact ih _ h1 h2

/-- In plain mode a write of bytes is a write of the tier's memory. -/
theorem State.memSet_plain {s : State} (m : Bool) (a : Nat) (b : Byte) (h : s.sealedAt m a = false) :
    s.memSet m a b = if m then { s with tierM := s.tierM.setByte a b } else { s with tierH := s.tierH.setByte a b } := by
  unfold State.memSet
  rw [if_neg (by simp [h])]

end Sys2Proof.Machine
end

