-- ==== Sys2Proof/Laws/Lanes.lean ====
section
/-! SUPPORT. A lane changed on several dies, and folds that touch one part of the state. -/

namespace Sys2Proof.Machine

/-- What a fold leaves where each of its steps leaves it. -/
theorem foldl_keeps {α β γ : Type} (p : α → γ) (f : α → β → α) (h : ∀ a b, p (f a b) = p a) (l : List β) (a : α) :
    p (l.foldl f a) = p a := by
  induction l generalizing a with
  | nil => rfl
  | cons b l ih => rw [List.foldl_cons, ih, h]

/-- Changing a lane on the dies of a list by an idempotent change. -/
theorem State.lane_foldl_updLane {f : Lane → Lane} (hf : ∀ L, f (f L) = f L) (l : Nat) (ds : List Nat) (s : State)
    (i : Nat) :
    (ds.foldl (fun s d => s.updLane d l f) s).lane i l = if i ∈ ds then f (s.lane i l) else s.lane i l := by
  induction ds generalizing s with
  | nil => simp
  | cons d ds ih =>
    rw [List.foldl_cons, ih]
    by_cases h : i = d
    · subst h; simp [hf]
    · rw [State.lane_updLane_ne _ _ _ _ (.inl h)]; simp [h]

/-- Other lanes are left alone. -/
theorem State.lane_foldl_updLane_ne {f : Lane → Lane} (l : Nat) (ds : List Nat) (s : State) (i : Nat) {j : Nat}
    (h : j ≠ l) : (ds.foldl (fun s d => s.updLane d l f) s).lane i j = s.lane i j :=
  foldl_keeps (fun s => s.lane i j) _ (fun s d => State.lane_updLane_ne s d l f (.inr h)) ds s

/-- Changing lanes changes the dies alone. -/
theorem State.foldl_updLane_eq (f : Lane → Lane) (l : Nat) (ds : List Nat) (s : State) :
    ∃ x, ds.foldl (fun s d => s.updLane d l f) s = { s with dies := x } := by
  induction ds generalizing s with
  | nil => exact ⟨s.dies, rfl⟩
  | cons d ds ih =>
    obtain ⟨x, hx⟩ := ih (s.updLane d l f)
    exact ⟨x, by rw [List.foldl_cons, hx]; rfl⟩

theorem State.updLanes_lane {f : Lane → Lane} (hf : ∀ L, f (f L) = f L) (s : State) (ds : List Nat) (l i : Nat) :
    (s.updLanes ds l f).lane i l = if i ∈ ds then f (s.lane i l) else s.lane i l :=
  State.lane_foldl_updLane hf l ds s i

theorem State.updLanes_lane_ne {f : Lane → Lane} (s : State) (ds : List Nat) (l i : Nat) {j : Nat} (h : j ≠ l) :
    (s.updLanes ds l f).lane i j = s.lane i j := State.lane_foldl_updLane_ne l ds s i h

theorem State.updLanes_eq (s : State) (ds : List Nat) (l : Nat) (f : Lane → Lane) :
    ∃ x, s.updLanes ds l f = { s with dies := x } := State.foldl_updLane_eq f l ds s

/-- The first lane changed of several. -/
theorem State.updLanes_lane_mem {f : Lane → Lane} (hf : ∀ L, f (f L) = f L) (s : State) {ds : List Nat} (l : Nat) {i : Nat}
    (h : i ∈ ds) : (s.updLanes ds l f).lane i l = f (s.lane i l) := by
  rw [State.updLanes_lane hf, if_pos h]

end Sys2Proof.Machine
end

