-- ==== Sys2Proof/Laws/Host.lean ====
section
/-! SUPPORT. Host descriptors: a descriptor that passes the common checks reaches its own effect. -/

namespace Sys2Proof.Machine

/-- A descriptor that begins, and whose own form and names are in order, has its effect. -/
theorem State.descr_begins {s : State} {q op : Nat} {used : List (Nat × Nat)} {b : List Byte} (h : s.begins q op used b)
    {fmt : List Byte → Bool} {denied : State → Nat → List Byte → Bool} {f : State → Start → State}
    {fmtS : State → List Byte → Bool} (hf : fmt b = true) (hd : denied s (s.queue q).ctx b = false) (hs : fmtS s b = true) :
    s.descr q op used fmt denied f fmtS = f s { ctx := (s.queue q).ctx, comp := field b 12 2, b } := by
  obtain ⟨⟨a, h1, h2, h3⟩, h4, h5, h6, h7, h8, h9, h10⟩ := h
  unfold State.descr
  simp only [h1]
  rw [if_neg (by simp [h4, h2, h5])]
  rw [if_neg (by simp [h6])]
  rw [h3, if_neg (by simp [h7, h8, hf, hs])]
  have ha : (descAdmin op && q != 0) = false := by
    cases hh : descAdmin op
    · rfl
    · simp [h9 hh]
  by_cases hn : field b 12 2 < 256
  · obtain ⟨n1, n2, n3⟩ := h10 hn
    rw [if_neg (by simp [ha, hd, n2]), if_neg (by simp [n1]), if_neg]
    rcases n3 with n3 | n3 <;> simp [n3]
  · rw [if_neg (by simp [ha, hd, hn]), if_neg (by simp [hn]), if_neg (by simp [hn])]

/-- The same for a descriptor that names no object or ring and whose form does not rest on the state. -/
theorem State.descr_plain {s : State} {q op : Nat} {used : List (Nat × Nat)} {b : List Byte} (h : s.begins q op used b)
    {fmt : List Byte → Bool} {f : State → Start → State} (hf : fmt b = true) :
    s.descr q op used fmt noDenied f = f s { ctx := (s.queue q).ctx, comp := field b 12 2, b } :=
  State.descr_begins (denied := noDenied) (fmtS := fun _ _ => true) h hf rfl rfl

/-- Host data that is there is handed on. -/
theorem State.withData_has {s : State} {q n : Nat} (h : s.hasData q n) (f : List Byte → State) (st : Status) :
    s.withData q n f st = f ((s.queue q).buf.take n) := by
  obtain ⟨h1, h2⟩ := h
  unfold State.withData
  dsimp only
  rw [if_neg (by simp [h1]), if_neg (by omega)]

end Sys2Proof.Machine
end

