-- ==== Sys2Proof/Laws/Issue.lean ====
section
/-! SUPPORT. What issuing a tile instruction does, said once: a control instruction whose fields are legal, an engine
instruction whose checks pass, and one whose checks fail. -/

namespace Sys2Proof.Machine

theorem State.issue_at {s : State} {k op : Nat} {f : Core → Nat → State} (h : s.atOp k op) (hd : opDefined op = true) :
    s.issue k op f = f (s.core k) (s.insn k) := by
  obtain ⟨h1, h2⟩ := h
  unfold State.insn at h2
  simp [State.issue, h1, h2, hd, State.insn]

theorem State.control_at {s : State} {k op : Nat} {r : Nat → Bool} {f : Core → Nat → State} (h : s.atOp k op)
    (hd : opDefined op = true) (hc : ctlClean (s.insn k)) (hr : r (iReg (s.insn k)) = true) :
    s.control k op r f = f (s.core k) (s.insn k) := by
  rw [State.control, State.issue_at h hd]
  simp [hc.1, hc.2, hr]

/-- Ranges that are apart raise no hazard. -/
theorem Core.hazard_none {c : Core} {e : Eng} {ovl : List Eng} {p : Plan} (h : c.apart e ovl p.reads p.writes) :
    c.hazard e ovl p = none := by
  unfold Core.hazard
  rw [List.head?_eq_none_iff, List.filterMap_eq_nil_iff]
  intro x hx
  simp only [List.mem_filter, Bool.and_eq_true, bne_iff_ne, List.contains_iff_mem] at hx
  cases hf : c.flying x with
  | none => rfl
  | some r => simp [(h x hx.2.2 hx.2.1 r hf).1, (h x hx.2.2 hx.2.1 r hf).2]

theorem Core.puts_scratch (c : Core) (l : List (Nat × List Byte)) :
    (c.puts l).scratch = l.foldl (fun m p => m.write p.1 p.2) c.scratch := by
  induction l generalizing c with
  | nil => rfl
  | cons p l ih => obtain ⟨a, b⟩ := p; simp [Core.puts, ih, Core.put]

/-- Writing scratch leaves everything else of a core but the poison marks. -/
theorem Core.puts_eq (c : Core) (l : List (Nat × List Byte)) :
    c.puts l = { c with scratch := (c.puts l).scratch, poison := (c.puts l).poison } := by
  induction l generalizing c with
  | nil => rfl
  | cons p l ih =>
    obtain ⟨a, b⟩ := p
    simp only [Core.puts]
    rw [ih]
    rfl

/-- The core after an instruction's effect: scratch, accumulators, OVF and the engine's in-flight record. -/
theorem Core.commit_eq (c : Core) (e : Eng) (pc : BitVec 12) (p : Plan) :
    ∃ po m v t, c.commit e pc p =
      { c with scratch := p.data.foldl (fun m p => m.write p.1 p.2) c.scratch, poison := po,
               accs := p.accs.foldl (fun a p => Tab.put {} a p.1 p.2) c.accs, ovf := c.ovf || p.ovf,
               mx := m, vx := v, tx := t } := by
  unfold Core.commit
  rw [Core.puts_eq, Core.puts_scratch]
  cases e <;> exact ⟨_, _, _, _, rfl⟩

/-- Counting busy cycles touches the context alone. -/
theorem State.countBusy_frame (s : State) (d : Nat) (ln : Option Nat) (e : Eng) (r n : Nat) :
    (∀ j, (s.countBusy d ln e r n).core j = s.core j) ∧ (∀ j l, (s.countBusy d ln e r n).lane j l = s.lane j l) ∧
      (s.countBusy d ln e r n).tierH = s.tierH ∧ (s.countBusy d ln e r n).tierM = s.tierM ∧
      (s.countBusy d ln e r n).tierF = s.tierF := by
  unfold State.countBusy
  split <;> simp

/-- The effect of an instruction on the state. -/
theorem State.commit_applied (s : State) (k : Nat) (e : Eng) (pc : BitVec 12) (p : Plan) :
    s.applied (s.commit k e pc p) k (s.core k).pc p.data p.accs p.ovf := by
  obtain ⟨po, m, v, t, h⟩ := Core.commit_eq (s.core k) e pc p
  simp only [State.commit, h]
  simp only [State.applied, State.countBusy_frame]
  split
  · refine ⟨?_, ?_, ?_, ?_, ?_, ?_, ?_, ?_, ?_, ?_, ?_, ?_, ?_, rfl, rfl, rfl⟩ <;> try (simp; done)
    · intro j hj; rw [State.core_setCore_ne _ _ _ hj]
  · refine ⟨?_, ?_, ?_, ?_, ?_, ?_, ?_, ?_, ?_, ?_, ?_, ?_, ?_, rfl, rfl, rfl⟩ <;> try (simp; done)
    · intro j hj; rw [State.core_updDie, State.core_setCore_ne _ _ _ hj]
    · intro d l; rw [State.lane_updDie (by intro x; rfl)]; rfl

/-- The effect of an instruction that issues. -/
theorem State.commit_took (s : State) (k : Nat) (e : Eng) (p : Plan) :
    s.tookEffect ((s.setCore k (s.core k).next).commit k e (s.core k).pc p) k p.data p.accs p.ovf := by
  have h := State.commit_applied (s.setCore k (s.core k).next) k e (s.core k).pc p
  have o : ∀ j, j ≠ k → (s.setCore k (s.core k).next).core j = s.core j := fun j hj => State.core_setCore_ne _ _ _ hj
  unfold State.tookEffect
  unfold State.applied at *
  dsimp only at h
  rw [State.core_setCore] at h
  obtain ⟨h1, h2, h3, h4, h5, h6, h7, h8, h9, h10, h11, h12, h13, h14, h15, h16⟩ := h
  exact ⟨h1, h2, h3, h4, h5, h6, h7, h8, h9, h10, h11, fun j hj => (h12 j hj).trans (o j hj), h13, h14, h15, h16⟩

/-- A report to the lane of a core: the lane is in FAULT and its composition's context is charged. -/
theorem State.coreReport_frame (s : State) (k : Nat) (c : Core) (f : CF) (pc : BitVec 12) (e u i a : Nat) :
    let t := s.coreReport k c f pc e u i a
    (∀ j, t.core j = s.core j) ∧ t.tierH = s.tierH ∧ t.tierM = s.tierM ∧ t.tierF = s.tierF ∧
    (∀ l, c.lane = some l → (t.lane (keyDie k) l).st = .fault ∧
      ∀ n, s.laneComp (keyDie k) l = some n → s.inEntry = false →
        ∃ m, t.faultQ = s.faultQ ++ [m] ∧ m.ctx = (s.comp n).ctx ∧ m.code = f.code ∧ m.status = f.st ∧ m.comp = n ∧
          m.lane = l ∧ m.pc = pc.toNat ∧ m.info = i) := by
  simp only [State.coreReport]
  cases hl : c.lane with
  | none => simp
  | some l =>
    simp only
    have e1 : (s.updLane (keyDie k) l fun L => { L with st := .fault }).laneComp (keyDie k) l = s.laneComp (keyDie k) l := rfl
    have e2 : (s.updLane (keyDie k) l fun L => { L with st := .fault }).inEntry = s.inEntry := rfl
    rw [e1]
    cases hn : s.laneComp (keyDie k) l with
    | none => refine ⟨by simp, rfl, rfl, rfl, ?_⟩; intro l' h; cases h; exact ⟨by simp, fun n h => by rw [hn] at h; cases h⟩
    | some n =>
      simp only [State.raise, e2]
      cases he : s.inEntry with
      | false =>
        refine ⟨fun _ => rfl, rfl, rfl, rfl, ?_⟩
        intro l' h; cases h
        refine ⟨by simp [State.lane, State.updLane, State.die, State.updDie, State.setDie], ?_⟩
        intro n' h _; rw [hn] at h; cases h
        exact ⟨_, rfl, rfl, rfl, rfl, rfl, rfl, rfl, rfl⟩
      | true =>
        refine ⟨fun _ => rfl, rfl, rfl, rfl, ?_⟩
        intro l' h; cases h
        refine ⟨by simp [State.lane, State.updLane, State.die, State.updDie, State.setDie], ?_⟩
        intro n' h h'; cases h'

/-- The core after a fault: stopped, with its first fault of the step recorded. -/
theorem Core.faulted_eq (c : Core) (f : CF) (pc : BitVec 12) (e : Nat) :
    ∃ ft, (c.capture f pc e).halt =
        { c with st := .fault, refetch := none, landing := none, barWait := none, fault := ft } ∧
      (c.fault.valid = false → ft =
        { status := BitVec.ofNat 8 f.st.code, code := BitVec.ofNat 8 f.code, pc, engine := BitVec.ofNat 2 e,
          valid := true, more := c.fault.more, info := BitVec.ofNat 32 f.info }) ∧
      (c.fault.valid = true → ft = c.fault) := by
  unfold Core.capture
  split
  · rename_i h; exact ⟨_, rfl, fun h' => by simp [h] at h', fun _ => rfl⟩
  · rename_i h; exact ⟨_, rfl, fun _ => rfl, fun h' => absurd h' h⟩

/-- A fault of a core that is not in FAULT. -/
theorem State.coreFault_took {s : State} {k : Nat} (f : CF) (pc : BitVec 12) (e : Nat) (h : (s.core k).st ≠ .fault) :
    s.tookFault (s.coreFault k f pc e) k f pc e := by
  obtain ⟨ft, hc, ha, hb⟩ := Core.faulted_eq (s.core k) f pc e
  simp only [State.coreFault, if_neg h, hc]
  obtain ⟨h1, h2, h3, h4, h5⟩ := State.coreReport_frame
    (s.setCore k { s.core k with st := .fault, refetch := none, landing := none, barWait := none, fault := ft })
    k (s.core k) f pc e 1 f.info 0
  unfold State.tookFault
  simp only [h1, State.core_setCore, true_and]
  exact ⟨ha, hb, fun j hj => State.core_setCore_ne _ _ _ hj, h2, h3, h4, h5⟩

/-- An engine instruction whose checks pass, whose ranges are apart from those in flight and whose landing record, if it
reads one, passes its check, takes its effect. -/
theorem State.engine_commits {s : State} {k op : Nat} {e : Eng} {ovl : List Eng}
    {plan : State → Nat → Nat → Except CF Plan} {p : Plan} (h : s.starts k op e ovl p.reads p.writes)
    (hd : opDefined op = true) (hp : plan s k (s.insn k) = .ok p)
    (hl : ∀ a, p.land = some a → s.landingOk k a = true) :
    s.engine k op e ovl none plan = (s.setCore k (s.core k).next).commit k e (s.core k).pc p := by
  obtain ⟨ha, hb, hz⟩ := h
  rw [State.engine, State.issue_at ha hd, if_neg (by simp [hb]), hp]
  simp only [State.execute, State.core_setCore]
  have : (s.core k).next.apart e ovl p.reads p.writes := hz
  rw [Core.hazard_none this]
  cases hland : p.land with
  | none => rfl
  | some a =>
    have : (s.setCore k (s.core k).next).landingOk k a = s.landingOk k a := by
      simp [State.landingOk, State.tileCheck, Core.next, Core.num]
    simp [this, hl a hland]

/-- The effect of an engine instruction. -/
theorem State.engine_took {s : State} {k op : Nat} {e : Eng} {ovl : List Eng}
    {plan : State → Nat → Nat → Except CF Plan} {p : Plan} (h : s.starts k op e ovl p.reads p.writes)
    (hd : opDefined op = true) (hp : plan s k (s.insn k) = .ok p)
    (hl : ∀ a, p.land = some a → s.landingOk k a = true) :
    s.tookEffect (s.engine k op e ovl none plan) k p.data p.accs p.ovf := by
  rw [State.engine_commits h hd hp hl]
  exact State.commit_took s k e p

/-- A core that has advanced its PC and then faults. -/
theorem State.next_fault_took {s : State} {k : Nat} (f : CF) (pc : BitVec 12) (e : Nat) (h : (s.core k).st ≠ .fault) :
    s.tookFault ((s.setCore k (s.core k).next).coreFault k f pc e) k f pc e := by
  have hs : (s.setCore k (s.core k).next).core k = (s.core k).next := State.core_setCore _ _ _
  have ht := State.coreFault_took (s := s.setCore k (s.core k).next) (k := k) f pc e (by rw [hs]; exact h)
  have o : ∀ j, j ≠ k → (s.setCore k (s.core k).next).core j = s.core j := fun j hj => State.core_setCore_ne _ _ _ hj
  unfold State.tookFault at *
  dsimp only at ht
  rw [hs] at ht
  obtain ⟨h1, h2, h3, h4, h5, h6, h7, h8, h9, h10, h11, h12, h13, h14, h15, h16⟩ := ht
  exact ⟨h1, h2, h3, h4, h5, h6, h7, h8, h9, h10, h11, fun j hj => (h12 j hj).trans (o j hj), h13, h14, h15, h16⟩

theorem State.atOp_run {s : State} {k op : Nat} (h : s.atOp k op) : (s.core k).st ≠ .fault := by
  have := h.1
  simp only [Core.issuing, Bool.and_eq_true, beq_iff_eq] at this
  rw [this.1.1]; decide

/-- An engine instruction whose checks fail raises its fault. -/
theorem State.engine_fails {s : State} {k op : Nat} {e : Eng} {ovl : List Eng} {ue : Option (Nat × Nat)}
    {plan : State → Nat → Nat → Except CF Plan} {f : CF} (ha : s.atOp k op) (hb : (s.core k).busy e = false)
    (hd : opDefined op = true) (hp : plan s k (s.insn k) = .error f) :
    s.tookFault (s.engine k op e ovl ue plan) k f (s.core k).pc (if f.code = 1 then 3 else e.num) := by
  rw [State.engine, State.issue_at ha hd, if_neg (by simp [hb]), hp]
  exact State.next_fault_took _ _ _ (State.atOp_run ha)

theorem areaBad_none {al : Bool} {r : Range} (h : inScratch al r) : areaBad al r = none := by
  unfold areaBad
  rw [if_neg]
  simp only [Bool.or_eq_true, Bool.and_eq_true, bne_iff_ne, decide_eq_true_eq, not_or, not_and]
  exact ⟨fun ha hn => hn (h.2 ha), by have := h.1; omega⟩

end Sys2Proof.Machine
end

