-- ==== Sys2Proof/Laws/Stops.lean ====
section
/-! SUPPORT. What ends when a loop ends, a warning stands or a module reset begins: finishing descriptors, records and
objects leave the lanes, contexts, messages, power and reset state alone; ending a loop only brings lanes to rest; a
warning cuts the lanes that do not finish; a reset takes every port down and stops every lane and core. -/

namespace Sys2Proof.Machine

open Sys2Proof

/-- What a stop is about: the messages to the steward, the contexts' states, the power and reset state and the lanes. -/
structure StopView where
  faultQ : List FaultMsg
  cst : Nat → CtxState
  pwr : Pwr
  rst : Rst
  lanes : Nat → Nat → Lane

def State.stopView (s : State) : StopView := ⟨s.faultQ, fun c => (s.ctx c).st, s.pwr, s.rst, fun d l => s.lane d l⟩

theorem State.stopView_foldl {α : Type} {f : State → α → State} (h : ∀ u a, (f u a).stopView = u.stopView) (l : List α) (s : State) :
    (l.foldl f s).stopView = s.stopView := by
  induction l generalizing s with
  | nil => rfl
  | cons a l ih => simp [ih, h]

@[simp] theorem State.stopView_updQueue (s : State) (q : Nat) (f : Queue → Queue) : (s.updQueue q f).stopView = s.stopView := rfl

@[simp] theorem State.stopView_updRing (s : State) (q : Nat) (f : EvRing → EvRing) : (s.updRing q f).stopView = s.stopView := rfl

@[simp] theorem State.stopView_updFence (s : State) (q : Nat) (f : Fence → Fence) : (s.updFence q f).stopView = s.stopView := rfl

@[simp] theorem State.stopView_updComp (s : State) (q : Nat) (f : Comp → Comp) : (s.updComp q f).stopView = s.stopView := rfl

@[simp] theorem State.stopView_emit (s : State) (o : Out) : (s.emit o).stopView = s.stopView := rfl

@[simp] theorem State.stopView_fresh (s : State) : s.fresh.2.stopView = s.stopView := rfl

@[simp] theorem State.stopView_updTongs (s : State) (p : Bool) (f : Tongs → Tongs) : (s.updTongs p f).stopView = s.stopView := by cases p <;> rfl

theorem State.stopView_updDie (s : State) (d : Nat) (f : Die → Die) (h : (f (s.die d)).lanes = (s.die d).lanes) : (s.updDie d f).stopView = s.stopView := by
  have e : ∀ d' l, (s.updDie d f).lane d' l = s.lane d' l := by
    intro d' l
    unfold State.lane
    by_cases c : d' = d
    · subst c; rw [State.die_updDie, h]
    · rw [State.die_updDie_ne _ _ _ c]
  unfold State.stopView
  simp only [e]
  rfl

theorem State.stopView_updCtx (s : State) (c : Nat) (f : Ctx → Ctx) (h : ∀ x, (f x).st = x.st) : (s.updCtx c f).stopView = s.stopView := by
  have e : ∀ d, ((s.updCtx c f).ctx d).st = (s.ctx d).st := by
    intro d
    by_cases g : d = c
    · subst g; rw [State.ctx_updCtx, h]
    · rw [State.ctx_updCtx_ne _ _ _ g]
  unfold State.stopView
  simp only [e]
  rfl

@[simp] theorem State.stopView_pushWork (s : State) (p : Bool) (c : Nat) (w : Work) : (s.pushWork p c w).stopView = s.stopView := by simp [State.pushWork]

@[simp] theorem State.stopView_noticeOn (s : State) (p : Bool) (r : Nat) (l : List Payload) : (s.noticeOn p r l).1.stopView = s.stopView := by
  unfold State.noticeOn; dsimp only; (repeat' split) <;> simp [State.stopView_foldl]

@[simp] theorem State.stopView_notice (s : State) (r : Nat) (l : List Payload) : (s.notice r l).1.stopView = s.stopView := by simp [State.notice]

@[simp] theorem State.stopView_updPart (s : State) (k p : Nat) (f : Part → Part) : (s.updPart k p f).stopView = s.stopView := rfl

@[simp] theorem State.stopView_updObj (s : State) (k h : Nat) (f : Obj → Obj) : (s.updObj k h f).stopView = s.stopView := rfl

@[simp] theorem State.stopView_askAdvance (s : State) (m : Bool) (r : Nat × Nat × Nat) : (s.askAdvance m r).stopView = s.stopView := by
  obtain ⟨d, i, k⟩ := r
  unfold State.askAdvance State.updRegion
  exact State.stopView_updDie _ _ _ (by cases m <;> rfl)

@[simp] theorem State.stopView_returnG (s : State) (k p : Nat) (gs : List Nat) : (s.returnG k p gs).stopView = s.stopView := by
  unfold State.returnG; dsimp only
  rw [State.stopView_foldl]
  · simp
  · intro u a; (repeat' split) <;> first | rfl | simp

@[simp] theorem State.stopView_dropIfDead (s : State) (k h : Nat) (b : Bool) : (s.dropIfDead k h b).stopView = s.stopView := by
  unfold State.dropIfDead; dsimp only; (repeat' split) <;> simp

@[simp] theorem State.stopView_unref (s : State) (h : Nat) : (s.unref h).stopView = s.stopView := by unfold State.unref; split <;> simp

@[simp] theorem State.stopView_pushCompletion (s : State) (q : Nat) (a : Accepted) (st : Status) (r : BitVec 256) : (s.pushCompletion q a st r).stopView = s.stopView := by simp [State.pushCompletion]

@[simp] theorem State.stopView_dropFront (s : State) (q : Nat) : (s.dropFront q).stopView = s.stopView := by unfold State.dropFront; dsimp only; split <;> simp

@[simp] theorem State.stopView_finish (s : State) (q : Nat) (st : Status) (r : BitVec 256) : (s.finish q st r).stopView = s.stopView := by
  unfold State.finish; dsimp only; (repeat' split) <;> simp

@[simp] theorem State.stopView_settleN (q n : Nat) (s : State) : (State.settleN q n s).stopView = s.stopView := by
  induction n generalizing s with
  | zero => rfl
  | succ n ih =>
    unfold State.settleN; dsimp only
    split
    · rfl
    · (repeat' split) <;> simp [ih]

@[simp] theorem State.stopView_settle (s : State) (q : Nat) : (s.settle q).stopView = s.stopView := by simp [State.settle]

@[simp] theorem State.stopView_complete (s : State) (q : Nat) (st : Status) (r : BitVec 256) : (s.complete q st r).stopView = s.stopView := by
  unfold State.complete; dsimp only; split <;> simp

@[simp] theorem State.stopView_append (s : State) (k j : Nat) (b : List Byte) : (s.append k j b).stopView = s.stopView := rfl

@[simp] theorem State.stopView_irqCheck (s : State) (r : Nat) (p : Bool) : (s.irqCheck r p).stopView = s.stopView := by
  unfold State.irqCheck; dsimp only; (repeat' split) <;> rfl

@[simp] theorem State.stopView_hostBytes (s : State) (c n : Nat) : (s.hostBytes c n).stopView = s.stopView := State.stopView_updCtx _ _ _ (by intro x; rfl)

@[simp] theorem State.stopView_writeRecord (s : State) (r : Nat) (x : Payload) (p : Bool) : (s.writeRecord r x p).stopView = s.stopView := by
  simp [State.writeRecord]

@[simp] theorem State.stopView_tokenEvent (s : State) (k : Nat) (lp : Loop) (l : List Payload) : (s.tokenEvent k lp l).1.stopView = s.stopView := by
  unfold State.tokenEvent; dsimp only; (repeat' split) <;> simp [State.stopView_foldl]

@[simp] theorem State.stopView_hostop (s : State) (k : Nat) (h : Bool) (b : List Byte) : (s.hostop k h b).stopView = s.stopView := by
  unfold State.hostop; dsimp only; split <;> simp

@[simp] theorem State.stopView_endRef (s : State) (q a h : Nat) : (s.endRef q a h).stopView = s.stopView := by
  unfold State.endRef; (repeat' split) <;> simp

@[simp] theorem State.stopView_freeObj (s : State) (k h : Nat) (b : Bool) : (s.freeObj k h b).stopView = s.stopView := by simp [State.freeObj]

@[simp] theorem State.stopView_freeNow (s : State) (a b : Bool) (q : Option Nat) (x y : Nat) : (s.freeNow a b q x y).stopView = s.stopView := by
  unfold State.freeNow; dsimp only; split <;> simp

@[simp] theorem State.stopView_returnPending (s : State) (k : Nat) : (s.returnPending k).stopView = s.stopView := by
  unfold State.returnPending
  refine State.stopView_foldl ?_ _ _
  intro u a
  refine State.stopView_foldl ?_ _ _
  intro u a; dsimp only; split <;> simp

@[simp] theorem State.stopView_alloc (s : State) (a b c d e f : Nat) : (s.alloc a b c d e f).1.stopView = s.stopView := by
  unfold State.alloc; dsimp only; (repeat' split) <;> rfl

@[simp] theorem State.stopView_hostAlloc (s : State) (a : Bool) (q k v t n : Nat) : (s.hostAlloc a q k v t n).stopView = s.stopView := by simp [State.hostAlloc]

@[simp] theorem State.stopView_applyPending (s : State) (k : Nat) (a : Bool) : (s.applyPending k a).stopView = s.stopView := by
  unfold State.applyPending; dsimp only
  rw [State.stopView_foldl, State.stopView_returnPending, State.stopView_foldl, State.stopView_updComp]
  · intro u a; (repeat' split) <;> simp
  · intro u a; (repeat' split) <;> simp

@[simp] theorem State.stopView_pwrIrq (s : State) : s.pwrIrq.stopView = s.stopView := by
  unfold State.pwrIrq; split
  · refine State.stopView_foldl ?_ _ _; intro u a; split <;> rfl
  · rfl

/-- What the end of a loop may change: lanes become idle, or stay. -/
def State.OnlyRests (s t : State) : Prop :=
  t.faultQ = s.faultQ ∧ (∀ c, (t.ctx c).st = (s.ctx c).st) ∧ t.pwr = s.pwr ∧ t.rst = s.rst ∧
    ∀ d l, t.lane d l = s.lane d l ∨ (t.lane d l).st = .idle

theorem State.OnlyRests.of_w {s t : State} (h : t.stopView = s.stopView) : State.OnlyRests s t := by
  refine ⟨congrArg StopView.faultQ h, fun c => congrFun (congrArg StopView.cst h) c, congrArg StopView.pwr h, congrArg StopView.rst h, fun d l => .inl ?_⟩
  exact congrFun (congrFun (congrArg StopView.lanes h) d) l

theorem State.OnlyRests.trans {s t u : State} (h : State.OnlyRests s t) (g : State.OnlyRests t u) : State.OnlyRests s u := by
  obtain ⟨h1, h2, h3, h4, h5⟩ := h
  obtain ⟨g1, g2, g3, g4, g5⟩ := g
  refine ⟨g1.trans h1, fun c => (g2 c).trans (h2 c), g3.trans h3, g4.trans h4, ?_⟩
  intro d l
  rcases g5 d l with e | e
  · rcases h5 d l with f | f
    · exact .inl (e.trans f)
    · right; rw [e]; exact f
  · exact .inr e

theorem State.OnlyRests.refl (s : State) : State.OnlyRests s s := .of_w rfl

theorem State.onlyRests_foldl {α : Type} {f : State → α → State} (h : ∀ u a, State.OnlyRests u (f u a)) (l : List α) (s : State) : State.OnlyRests s (l.foldl f s) := by
  induction l generalizing s with
  | nil => exact State.OnlyRests.refl s
  | cons a l ih => exact (h s a).trans (ih _)

theorem State.onlyRests_updLanes (s : State) (ds : List Nat) (l : Nat) : State.OnlyRests s (s.updLanes ds l Lane.rest) := by
  unfold State.updLanes
  refine State.onlyRests_foldl ?_ _ _
  intro u d
  refine ⟨rfl, fun c => rfl, rfl, rfl, ?_⟩
  intro d' l'
  unfold State.updLane State.lane
  by_cases e : d' = d
  · subst e
    rw [State.die_updDie]
    by_cases g : l' = l
    · subst g; right; dsimp only; rw [Tab.look_upd_same]; rfl
    · left; dsimp only; rw [Tab.look_upd_ne _ g]
  · left; rw [State.die_updDie_ne _ _ _ e]

theorem State.onlyRests_endLoop (s : State) (k e : Nat) : State.OnlyRests s (s.endLoop k e) := by
  unfold State.endLoop
  dsimp only
  split
  · exact State.OnlyRests.refl s
  · rename_i lp _
    generalize hu : (State.applyPending ((s.append k 4 (s.loopBody k true false e lp)).updComp k fun m => { m with loop := none, holding := false }) k false) = u
    have h1 : State.OnlyRests s u := .of_w (by rw [← hu]; simp)
    refine h1.trans ?_
    refine State.OnlyRests.trans ?_ (State.onlyRests_foldl (fun u a => .of_w (by simp)) _ _)
    refine State.OnlyRests.trans ?_ (State.onlyRests_foldl (fun u a => .of_w (State.stopView_updDie _ _ _ rfl)) _ _)
    refine State.OnlyRests.trans ?_ (State.onlyRests_updLanes _ _ _)
    exact .of_w rfl

theorem State.onlyRests_finalEvent (s : State) (k : Nat) (st : Status) (e : Nat) : State.OnlyRests s (s.finalEvent k st e) := by
  unfold State.finalEvent
  split
  · exact State.OnlyRests.refl s
  · dsimp only
    exact State.OnlyRests.trans (.of_w (by simp)) (State.onlyRests_endLoop _ _ _)

theorem State.onlyRests_endLoops (s : State) : State.OnlyRests s s.endLoops := by
  unfold State.endLoops
  refine State.onlyRests_foldl ?_ _ _
  intro u a
  dsimp only
  split
  · exact State.OnlyRests.refl u
  · split
    · exact .of_w (by simp)
    · exact State.onlyRests_finalEvent _ _ _ _

theorem State.lane_cutLanes (s : State) (d l : Nat) : s.cutLanes.lane d l = if (s.lane d l).cut then (s.lane d l).warnStop else s.lane d l := by
  have e : ∀ x : Die, Tab.look {} (Tab.mapVals {} (fun _ (L : Lane) => if L.cut then L.warnStop else L) x.lanes) l =
      if (Tab.look {} x.lanes l).cut then (Tab.look {} x.lanes l).warnStop else Tab.look {} x.lanes l := by
    intro x; rw [Tab.look_mapVals_eq]; rfl
  show Tab.look {} (Tab.look {} (Tab.mapVals {} (fun _ (x : Die) => { x with lanes := Tab.mapVals {} (fun _ (L : Lane) => if L.cut then L.warnStop else L) x.lanes }) s.dies) d).lanes l = _
  rw [Tab.look_mapVals_eq rfl]
  exact e _

theorem Lane.cut_iff (L : Lane) : L.cut = true ↔ L.st ≠ .idle ∧ L.st ≠ .fault ∧ L.st ≠ .commit ∧ L.st ≠ .event := by
  unfold Lane.cut Lane.goesOn; cases L.st <;> simp

theorem no_loops (cs : Tab Comp) (h : ∀ e ∈ cs, e.2.loop = none) : cs.filter (fun e => e.2.loop.isSome) = [] := by
  rw [List.filter_eq_nil_iff]; intro e he; simp [h e he]

theorem State.writeLossDump_keeps (s : State) : (s.writeLossDump).faultQ = s.faultQ ∧ (∀ c, (s.writeLossDump.ctx c).st = (s.ctx c).st) ∧ s.writeLossDump.pwr = s.pwr ∧
    (∀ d l, s.writeLossDump.lane d l = s.lane d l) := by
  unfold State.writeLossDump; split <;> exact ⟨rfl, fun _ => rfl, rfl, fun _ _ => rfl⟩

theorem State.out_pwrIrq (s : State) (h : s.pwr.irqEnable = true) : s.pwrIrq.out = s.out ++ ([false, true].filter s.portUp).map fun p => .irq p s.pwr.vector.toNat := by
  have e : ∀ o, State.portUp (s.emit o) true = s.portUp true := by intro o; rfl
  unfold State.pwrIrq; rw [if_pos h]
  simp only [List.foldl]
  cases a : s.portUp false <;> cases b : s.portUp true <;> simp [a, e, b] <;> simp [State.emit]

theorem State.sendDown_port (s : State) (i r j : Nat) : (s.sendDown i r).port j = s.port j := rfl

theorem State.portDown_other (s : State) (i r j : Nat) (h : j ≠ i) : ((s.portDown i r).port j).st = (s.port j).st := by
  have e : ∀ u : State, u.ports = (s.updPort i fun p => p.enterDown r).ports → (Tab.look {} (Tab.mapVals {} (fun _ (q : Port) => { q with transit := q.transit.filter fun e => e.1 != i }) u.ports) j).st = (s.port j).st := by
    intro u hu
    rw [Tab.look_mapVals_eq rfl, hu]
    show ((s.updPort i fun p => p.enterDown r).port j).st = _
    rw [State.port_updPort_ne _ _ _ h]
  exact e _ rfl

theorem State.portDown_out (s : State) (i r : Nat) : (s.portDown i r).out = s.out := rfl

theorem State.portsDown_out (l : List Nat) : ∀ (s : State) (acc : List Nat), l.Nodup → (∀ i ∈ l, i ∉ acc) →
    ∃ o, (l.foldl (fun s i => if (s.port i).st = .up then (s.sendDown i 11).portDown i 11 else s) s).out = s.out ++ o ∧
      ∀ i ∈ l, (s.port i).st = .up → ∃ h, Out.control i [] [h] ∈ o ∧ h.msg = .down 11 := by
  induction l with
  | nil => intro s acc _ _; exact ⟨[], by simp, by simp⟩
  | cons i l ih =>
    intro s acc nd ha
    rw [List.foldl_cons]
    have ni := (List.nodup_cons.mp nd).1
    obtain ⟨o, h1, h2⟩ := ih (if (s.port i).st = .up then (s.sendDown i 11).portDown i 11 else s) [] (List.nodup_cons.mp nd).2 (by simp)
    by_cases c : (s.port i).st = .up
    · rw [if_pos c] at h1 h2
      rw [if_pos c, h1, State.portDown_out]
      refine ⟨_ :: o, by simp only [State.sendDown, State.emit, List.append_assoc]; rfl, ?_⟩
      intro j hj hu
      rcases List.mem_cons.mp hj with rfl | hj
      · exact ⟨_, List.mem_cons_self .., rfl⟩
      · have ne : j ≠ i := fun e => ni (e ▸ hj)
        obtain ⟨h, m1, m2⟩ := h2 j hj (by rw [State.portDown_other _ _ _ _ ne, State.sendDown_port]; exact hu)
        exact ⟨h, List.mem_cons_of_mem _ m1, m2⟩
    · rw [if_neg c] at h1 h2
      rw [if_neg c]
      refine ⟨o, h1, ?_⟩
      intro j hj hu
      rcases List.mem_cons.mp hj with rfl | hj
      · exact absurd hu c
      · exact h2 j hj hu

theorem State.allPortsDown_out (s : State) : ∃ o, s.allPortsDown.out = s.out ++ o ∧ ∀ i < 16, (s.port i).st = .up → ∃ h, Out.control i [] [h] ∈ o ∧ h.msg = .down 11 := by
  obtain ⟨o, h1, h2⟩ := State.portsDown_out (List.range 16) s [] List.nodup_range (by simp)
  exact ⟨o, h1, fun i hi => h2 i (List.mem_range.mpr hi)⟩

theorem State.stopLanes_keeps (s : State) : (s.stopLanes).faultLog = s.faultLog ∧ s.stopLanes.faultQ = s.faultQ ∧ s.stopLanes.rst = s.rst ∧ s.stopLanes.ctxs = s.ctxs ∧ s.stopLanes.ports = s.ports ∧
    s.stopLanes.out = s.out ∧ s.stopLanes.tierM = s.tierM ∧ s.stopLanes.tierF = s.tierF ∧ s.stopLanes.sec = s.sec ∧ s.stopLanes.sb = s.sb := by
  unfold State.stopLanes; exact ⟨rfl, rfl, rfl, rfl, rfl, rfl, rfl, rfl, rfl, rfl⟩

theorem State.stopLanes_lane (s : State) (d l : Nat) : (s.stopLanes.lane d l).st = .idle := by
  have h : s.stopLanes.dies = Tab.mapVals {} (fun _ (x : Die) => { x with lanes := Tab.mapVals {} (fun _ (L : Lane) => { L with st := .idle }) x.lanes }) s.dies := by
    unfold State.stopLanes; dsimp only
  unfold State.lane State.die
  rw [h, Tab.look_mapVals_eq rfl]
  exact Tab.mapVals_all (d := ({} : Lane)) (p := fun L : Lane => L.st = .idle) rfl (fun k v => rfl) l

theorem State.stopLanes_core (s : State) (k : Nat) : (s.stopLanes.core k).st ≠ .run := by
  have h : s.stopLanes.cores = Tab.mapVals {} (fun _ (c : Core) => if c.st == CoreState.run || c.st == CoreState.fault then c.stopped else c) s.cores := by
    unfold State.stopLanes; dsimp only
  unfold State.core
  rw [h]
  refine Tab.mapVals_all (d := ({} : Core)) (p := fun c : Core => c.st ≠ .run) (by decide) ?_ k
  intro k c
  split
  · rename_i hc
    unfold Core.stopped; dsimp only
    cases e : c.halt.st <;> simp_all [Core.halt]
  · rename_i hc; simp at hc; exact hc.1

theorem State.portsDown_keeps (l : List Nat) : ∀ s : State, let t := l.foldl (fun s i => if (s.port i).st = .up then (s.sendDown i 11).portDown i 11 else s) s
    t.faultLog = s.faultLog ∧ t.faultQ = s.faultQ ∧ t.rst = s.rst ∧ t.ctxs = s.ctxs ∧ t.tierM = s.tierM ∧ t.tierF = s.tierF ∧ t.sec = s.sec ∧ t.sb = s.sb := by
  induction l with
  | nil => intro s; exact ⟨rfl, rfl, rfl, rfl, rfl, rfl, rfl, rfl⟩
  | cons a l ih =>
    intro s
    dsimp only at ih ⊢
    rw [List.foldl_cons]
    obtain ⟨h1, h2, h3, h4, h5, h6, h7, h8⟩ := ih (if (s.port a).st = .up then (s.sendDown a 11).portDown a 11 else s)
    refine ⟨h1.trans ?_, h2.trans ?_, h3.trans ?_, h4.trans ?_, h5.trans ?_, h6.trans ?_, h7.trans ?_, h8.trans ?_⟩ <;> split <;> rfl

theorem State.portDown_self (s : State) (i r : Nat) : ((s.portDown i r).port i).st = .down := by
  have e : ∀ u : State, u.ports = (s.updPort i fun p => p.enterDown r).ports → (Tab.look {} (Tab.mapVals {} (fun _ (q : Port) => { q with transit := q.transit.filter fun e => e.1 != i }) u.ports) i).st = .down := by
    intro u hu
    rw [Tab.look_mapVals_eq rfl, hu]
    show ((s.updPort i fun p => p.enterDown r).port i).st = _
    rw [State.port_updPort]; rfl
  exact e _ rfl

theorem State.portsDown_port (l : List Nat) : ∀ (s : State) (j : Nat), (j ∈ l ∨ (s.port j).st ≠ .up) →
    ((l.foldl (fun s i => if (s.port i).st = .up then (s.sendDown i 11).portDown i 11 else s) s).port j).st ≠ .up := by
  induction l with
  | nil => intro s j h; rcases h with h | h
           · cases h
           · exact h
  | cons a l ih =>
    intro s j h
    rw [List.foldl_cons]
    apply ih
    by_cases e : j = a
    · subst e; right
      split
      · rw [State.portDown_self]; decide
      · assumption
    · rcases h with h | h
      · left; exact (List.mem_cons.mp h).resolve_left e
      · right; split
        · rw [State.portDown_other _ _ _ _ e]; exact h
        · exact h

end Sys2Proof.Machine
end

