-- ==== Sys2Proof/Laws/Release.lean ====
section
/-! SUPPORT. The state after a module reset is released (15 R512): the reset state but for the named fields, dies and
ports; and what enabling dies and storing a dump change. -/

namespace Sys2Proof.Machine

open Sys2Proof

theorem State.foldl_dies {β : Type} (f : State → β → State) (h : ∀ u b, ∃ D, f u b = { u with dies := D }) (l : List β) : ∀ s : State, ∃ D, l.foldl f s = { s with dies := D } := by
  induction l with
  | nil => intro s; exact ⟨s.dies, rfl⟩
  | cons a l ih =>
    intro s; rw [List.foldl_cons]
    obtain ⟨D, hD⟩ := h s a
    obtain ⟨E, hE⟩ := ih (f s a)
    exact ⟨E, by rw [hE, hD]⟩

theorem State.foldl_ports {β : Type} (f : State → β → State) (h : ∀ u b, ∃ D, f u b = { u with ports := D }) (l : List β) : ∀ s : State, ∃ D, l.foldl f s = { s with ports := D } := by
  induction l with
  | nil => intro s; exact ⟨s.ports, rfl⟩
  | cons a l ih =>
    intro s; rw [List.foldl_cons]
    obtain ⟨D, hD⟩ := h s a
    obtain ⟨E, hE⟩ := ih (f s a)
    exact ⟨E, by rw [hE, hD]⟩

theorem State.die_setDies (g : Nat → Die) (l : List Nat) : ∀ (t : State) (d : Nat), (d ∈ l ∨ t.die d = g d) → (l.foldl (fun (t : State) d => t.setDie d (g d)) t).die d = g d := by
  induction l with
  | nil => intro t d h; exact h.resolve_left (by simp)
  | cons a l ih =>
    intro t d h
    rw [List.foldl_cons]
    apply ih
    by_cases e : d = a
    · right; subst e; show Tab.look {} (Tab.put {} t.dies d (g d)) d = _; exact Tab.look_put_same ..
    · rcases h with h | h
      · left; exact (List.mem_cons.mp h).resolve_left e
      · right; rw [← h]; show Tab.look {} (Tab.put {} t.dies a (g a)) d = _
        rw [Tab.look_put, if_neg (fun x => e x.symm)]; rfl

theorem State.port_trained (l : List Nat) : ∀ (t : State) (d : Nat), (d ∈ l ∨ (t.port d).st = .training) → ((l.foldl (fun (t : State) i => t.updPort i fun p => { p with st := .training }) t).port d).st = .training := by
  induction l with
  | nil => intro t d h; exact h.resolve_left (by simp)
  | cons a l ih =>
    intro t d h
    rw [List.foldl_cons]
    apply ih
    by_cases e : d = a
    · right; subst e; rw [State.port_updPort]
    · rcases h with h | h
      · left; exact (List.mem_cons.mp h).resolve_left e
      · right; rw [State.port_updPort_ne _ _ _ e]; exact h

theorem stopsAfter_training (n : Nat) (k : Bool) (T : Tab MemStop) (i : Nat) (h : i < n) : (Tab.look {} (stopsAfter n k T) i).st = .training := by
  unfold stopsAfter
  have : ∀ (l : List Nat) (T : Tab MemStop) (i : Nat), (i ∈ l ∨ (Tab.look {} T i).st = .training) →
      (Tab.look {} (l.foldl (fun l i => Tab.upd ({} : MemStop) l i fun x => x.afterReset k) T) i).st = .training := by
    intro l
    induction l with
    | nil => intro T i h; exact h.resolve_left (by simp)
    | cons a l ih =>
      intro T i h
      rw [List.foldl_cons]
      apply ih
      by_cases e : i = a
      · right; subst e; rw [Tab.look_upd_same]; rfl
      · rcases h with h | h
        · left; exact (List.mem_cons.mp h).resolve_left e
        · right; rw [Tab.look_upd_ne _ e]; exact h
  exact this _ _ _ (.inl (List.mem_range.mpr h))

def State.releaseBase (s : State) : State := { State.reset with
    pending := s.pending, out := s.out, free := s.free, tierM := s.tierM, sealM := s.sealM, tierF := s.tierF,
    models := s.models.map Model.afterReset, commits := s.commits,
    recs := Tab.mapVals {} (fun _ (r : RecRing) => r.afterReset) s.recs,
    pool := s.pool.afterReset, sec := s.sec.afterReset, pwr := s.pwr.afterReset, rst := { s.rst with
      phase := .run, collecting := [], sections := [], selfTested := false, selSlot := false, selDie := 0, selPage := 0 },
    sb := { s.sb with step := if lcCode s.sec.vote = 4 then 15 else 1 },
    route := { devid := s.sb.devid },
    repairCores := s.repairCores, repairClusters := s.repairClusters, repairDies := s.repairDies,
    repairLog := s.repairLog, hardRows := s.hardRows }

theorem State.release_eq (s : State) : ∃ D P I, s.release = { s.releaseBase with dies := D, ports := P, pwr := { s.pwr.afterReset with inforce := I } } ∧
    (∀ d < 8, Tab.look {} D d = (s.die d).afterReset d) ∧ ∀ p < 16, (Tab.look {} P p).st = .training := by
  unfold State.release
  dsimp only
  generalize hb : ({ State.reset with
    pending := s.pending, out := s.out, free := s.free, tierM := s.tierM, sealM := s.sealM, tierF := s.tierF,
    models := s.models.map Model.afterReset, commits := s.commits,
    recs := Tab.mapVals {} (fun _ (r : RecRing) => r.afterReset) s.recs,
    pool := s.pool.afterReset, sec := s.sec.afterReset, pwr := s.pwr.afterReset, rst := { s.rst with
      phase := .run, collecting := [], sections := [], selfTested := false, selSlot := false, selDie := 0, selPage := 0 },
    sb := { s.sb with step := if lcCode s.sec.vote = 4 then 15 else 1 },
    route := { devid := s.sb.devid },
    repairCores := s.repairCores, repairClusters := s.repairClusters, repairDies := s.repairDies,
    repairLog := s.repairLog, hardRows := s.hardRows } : State) = b
  have hbb : s.releaseBase = b := hb
  have bp : b.pwr = s.pwr.afterReset := by rw [← hbb]; rfl
  obtain ⟨D, hD⟩ := State.foldl_dies (fun (t : State) d => t.setDie d ((s.die d).afterReset d)) (by intro u b; exact ⟨_, rfl⟩) (List.range 8) b
  have dd : ∀ d < 8, Tab.look {} D d = (s.die d).afterReset d := by
    intro d hd
    have := State.die_setDies (fun d => (s.die d).afterReset d) (List.range 8) b d (.inl (List.mem_range.mpr hd))
    rw [hD] at this; exact this
  rw [hD]
  obtain ⟨P, hP⟩ := State.foldl_ports (fun (t : State) i => t.updPort i fun p => { p with st := .training }) (by intro u b; exact ⟨_, rfl⟩) (List.range 16) { b with dies := D }
  have pp : ∀ p < 16, (Tab.look {} P p).st = .training := by
    intro p hp
    have := State.port_trained (List.range 16) { b with dies := D } p (.inl (List.mem_range.mpr hp))
    rw [hP] at this; exact this
  rw [hP]
  refine ⟨D, P, (State.recap { b with dies := D, ports := P }).pwr.inforce, ?_, dd, pp⟩
  unfold State.recap
  dsimp only
  rw [bp, hbb]

theorem Rst.storeDump_stores (x : Rst) (m : Dump) : (if (x.storeDump m).newest then (x.storeDump m).dump1 else (x.storeDump m).dump0) = some m ∧
    (x.dump0 ≠ none ∨ x.dump1 ≠ none → (x.storeDump m).newest ≠ x.newest ∧ (if x.newest then (x.storeDump m).dump1 else (x.storeDump m).dump0) = if x.newest then x.dump1 else x.dump0) := by
  unfold Rst.storeDump; dsimp only
  cases a : x.dump0 <;> cases b : x.dump1 <;> cases c : x.newest <;> simp

theorem bit_b2n_zero (a : Bool) : bit (b2n a) 0 = a := by cases a <;> rfl

theorem State.die_updDies (g : Nat → Die → Die) (l : List Nat) : ∀ (t : State) (d : Nat), l.Nodup → (l.foldl (fun (t : State) d => t.updDie d (g d)) t).die d = if d ∈ l then g d (t.die d) else t.die d := by
  induction l with
  | nil => intro t d _; simp
  | cons a l ih =>
    intro t d nd
    have na := (List.nodup_cons.mp nd).1
    rw [List.foldl_cons, ih _ _ (List.nodup_cons.mp nd).2]
    by_cases e : d = a
    · subst e; rw [if_neg na, if_pos (List.mem_cons_self ..), State.die_updDie]
    · rw [State.die_updDie_ne _ _ _ e]
      by_cases m : d ∈ l
      · rw [if_pos m, if_pos (List.mem_cons_of_mem _ m)]
      · rw [if_neg m, if_neg (fun h => by rcases List.mem_cons.mp h with h | h; exact e h; exact m h)]

theorem State.core_setCore_eq (s : State) (k j : Nat) (c : Core) : (s.setCore k c).core j = if k = j then c else s.core j := by
  unfold State.core State.setCore; exact Tab.look_put ..

theorem State.core_marked (l : List CoreId) : ∀ (t : State) (k : Nat), (t.core k).good = false ∨ k ∈ l.map CoreId.key →
    ((l.foldl (fun (s : State) c => s.setCore c.key { s.core c.key with good := false }) t).core k).good = false := by
  induction l with
  | nil => intro t k h; simpa using h
  | cons a l ih =>
    intro t k h
    rw [List.foldl_cons]
    apply ih
    rw [State.core_setCore_eq]
    by_cases e : a.key = k
    · left; rw [if_pos e]
    · rcases h with h | h
      · left; rw [if_neg e]; exact h
      · right; rw [List.map_cons] at h; exact (List.mem_cons.mp h).resolve_left (fun x => e x.symm)

theorem State.dies_marked (l : List CoreId) : ∀ (t : State), (l.foldl (fun (s : State) c => s.setCore c.key { s.core c.key with good := false }) t).dies = t.dies := by
  induction l with
  | nil => intro t; rfl
  | cons a l ih => intro t; rw [List.foldl_cons, ih]; rfl

theorem State.enableCores_eq (l : List Nat) : ∀ t : State, ∃ C, l.foldl (fun (s : State) k => s.setCore k { s.core k with enable := true, st := .idle }) t = { t with cores := C } ∧
    ∀ k, (Tab.look {} C k).good = (t.core k).good ∧ ((Tab.look {} C k).enable = true → (t.core k).enable = true ∨ k ∈ l) := by
  induction l with
  | nil => intro t; exact ⟨t.cores, rfl, fun k => ⟨rfl, fun h => .inl h⟩⟩
  | cons a l ih =>
    intro t
    rw [List.foldl_cons]
    obtain ⟨C, h1, h2⟩ := ih (t.setCore a { t.core a with enable := true, st := .idle })
    refine ⟨C, h1, ?_⟩
    intro k
    obtain ⟨x, y⟩ := h2 k
    rw [State.core_setCore_eq] at x y
    by_cases e : a = k
    · subst e; rw [if_pos rfl] at x; exact ⟨x, fun _ => .inr (List.mem_cons_self ..)⟩
    · rw [if_neg e] at x y
      refine ⟨x, fun h => ?_⟩
      rcases y h with z | z
      · exact .inl z
      · exact .inr (List.mem_cons_of_mem _ z)

theorem State.enableDie_eq (s : State) (d : Nat) : ∃ C D P, s.enableDie d = { s with cores := C, dies := D, ports := P } ∧
    ∀ k, (Tab.look {} C k).good = (s.core k).good ∧ ((Tab.look {} C k).enable = true → (s.core k).enable = true ∨ (s.core k).good = true ∧ k ∉ s.repairCores) := by
  unfold State.enableDie
  dsimp only
  obtain ⟨C, h1, h2⟩ := State.enableCores_eq ((s.enabledClusters d).flatMap fun c => (s.goodCores d c).take 24) s
  rw [h1]
  have h3 : ∀ k, (Tab.look {} C k).good = (s.core k).good ∧ ((Tab.look {} C k).enable = true → (s.core k).enable = true ∨ (s.core k).good = true ∧ k ∉ s.repairCores) := by
    intro k
    refine ⟨(h2 k).1, fun h => ?_⟩
    rcases (h2 k).2 h with z | z
    · exact .inl z
    · right
      obtain ⟨c, -, hc⟩ := List.mem_flatMap.mp z
      have := List.mem_of_mem_take hc
      unfold State.goodCores at this
      simpa using (List.mem_filter.mp this).2
  split
  · obtain ⟨D, hD⟩ := State.foldl_dies (fun (s : State) r => s.updRouter d r fun x =>
      (Config.routePlan d r).foldl (fun (x : Router) e =>
        { x with active := Tab.put 0 x.active e.1 e.2,
                 mirror := if 256 ≤ e.1 then Tab.put 0 x.mirror e.1 e.2 else x.mirror }) x) (by intro u b; exact ⟨_, rfl⟩) (List.range 300)
        (State.updDie { s with cores := C } d fun x => { x with clusters := s.enabledClusters d })
    rw [hD]; exact ⟨C, D, s.ports, rfl, h3⟩
  · obtain ⟨P, hP⟩ := State.foldl_ports (fun (s : State) i => s.updPort i fun p => { p with st := .off }) (by intro u b; exact ⟨_, rfl⟩) [2 * d, 2 * d + 1]
        (State.updDie { s with cores := C } d fun x => { x with clusters := s.enabledClusters d })
    rw [hP]; exact ⟨C, _, P, rfl, h3⟩

theorem State.enableDies_eq (l : List Nat) : ∀ s : State, ∃ C D P, l.foldl (fun (s : State) d => s.enableDie d) s = { s with cores := C, dies := D, ports := P } ∧
    ∀ k, (Tab.look {} C k).good = (s.core k).good ∧ ((Tab.look {} C k).enable = true → (s.core k).enable = true ∨ (s.core k).good = true ∧ k ∉ s.repairCores) := by
  induction l with
  | nil => intro s; exact ⟨s.cores, s.dies, s.ports, rfl, fun k => ⟨rfl, fun h => .inl h⟩⟩
  | cons a l ih =>
    intro s
    rw [List.foldl_cons]
    obtain ⟨C, D, P, h1, h2⟩ := State.enableDie_eq s a
    obtain ⟨C', D', P', h3, h4⟩ := ih (s.enableDie a)
    refine ⟨C', D', P', by rw [h3, h1], ?_⟩
    intro k
    have e : (s.enableDie a).core k = Tab.look {} C k := by rw [h1]; rfl
    have e2 : (s.enableDie a).repairCores = s.repairCores := by rw [h1]
    obtain ⟨x, y⟩ := h4 k
    rw [e] at x y
    rw [e2] at y
    refine ⟨x.trans (h2 k).1, fun h => ?_⟩
    rcases y h with z | z
    · exact (h2 k).2 z
    · right; rw [(h2 k).1] at z; exact z

theorem State.tested_repair (dead : BitVec 8) (badR badB : List (Fin 8 × Fin 300)) (good : List Nat) (R : List Nat) (l : List Nat) : ∀ t : State, t.repairDies = R →
    l.foldl (fun (s : State) d => s.updDie d fun x => x.tested d (bit dead.toNat d || s.repairDies.contains d) badR badB good) t =
    l.foldl (fun (s : State) d => s.updDie d fun x => x.tested d (bit dead.toNat d || R.contains d) badR badB good) t := by
  induction l with
  | nil => intro t _; rfl
  | cons a l ih => intro t h; rw [List.foldl_cons, List.foldl_cons, ih _ (by exact h), h]

end Sys2Proof.Machine
end

