-- ==== Sys2Proof/WellFormed.lean ====
section
/-! DEFINITION. What a command's operands must satisfy beyond their types: lengths and ranges that the
spec's formats fix. `exec` is total on every command; these checks say which ones the module's
surroundings can send. -/

namespace Sys2Proof

/-- A draft record is 768 bytes (04 R130). -/
def wfDraft (l : List Byte) : Bool := l.length == 768

/-- A general message's units (11 Table 9) and its device IDs. -/
def wfGen (m : GenHdr) : Bool := decide (m.dest < 2 ^ 18) && decide (m.src < 2 ^ 18)

/-- A block carries at most 64 flits (11 R374). -/
def wfBlock (b : Block) : Bool := decide (b.flits.length ≤ 64) && decide (b.cls < 8)

/-- The well-formed commands. -/
def Instr.wellFormed : Instr → Bool
  | .draftPhase _ (some r) => wfDraft r
  | .draftCall _ _ _ _ r => wfDraft r
  | .linkBlockReceive _ b => wfBlock b.blk && decide (1 ≤ b.k) && decide (b.k ≤ 7)
  | .controlBlock _ u m => u.length == 16 && m.all wfGen
  | .objWr _ bytes => decide (bytes.length ≤ 1024)
  | .objRd _ _ len => decide (1 ≤ len) && decide (len ≤ 1024)
  | .data _ _ bytes => decide (bytes.length ≤ 1024)
  | .strapWindow samples => samples.length == 16
  | .droop _ mv => decide (mv < 2 ^ 16)
  | .fmcMeasurementDone _ count => decide (count < 2 ^ 40)
  | .powerOn c => decide (c < 2 ^ 16)
  | _ => true

end Sys2Proof
end

