-- ==== Sys2Proof/Tests/Slice0.lean ====
section
/-! SUPPORT. Tests. The first part shows that every check of `wellFormed` refuses something. The second checks single
commands on small states against values of the spec. The third, named `wit_…`, shows for each statement of
Certificates/Slice0 with hypotheses a state and operands that meet them together. -/

-- One theorem after another: checked side by side they need more threads than the memory limit allows.
set_option Elab.async false

namespace Sys2Proof.Tests

open Sys2Proof.Machine

/-! ### Ill-formed operands (one for each check of `wellFormed`) -/

theorem test_wf_refuses_short_draft_record : (Instr.draftPhase 0 (some [])).wellFormed = false := by decide
theorem test_wf_refuses_short_draft_call : (Instr.draftCall 0 0 0 0 []).wellFormed = false := by decide
def rx (n cls k : Nat) : RxBlock :=
  { corrected := 0, bad := 0, tagOk := true, slot := 1, k, symerr := [], degraded := 0
    blk := { dest := 0, src := 0, cls, last := true, ctr := 0, faddr := 0, gen := 0, flits := List.replicate n 0 } }
theorem test_wf_refuses_blocks : ∀ b ∈ [rx 65 2 1, rx 1 8 1, rx 1 2 0, rx 1 2 8], (Instr.linkBlockReceive 0 b).wellFormed = false := by decide
theorem test_wf_takes_block : (Instr.linkBlockReceive 0 (rx 64 7 7)).wellFormed = true := by decide
theorem test_wf_refuses_short_control_block : (Instr.controlBlock 0 [] []).wellFormed = false := by decide
def gen (dest src : Nat) : GenHdr := { seq := 0, dest, src, msg := .echo 0 }
theorem test_wf_refuses_device_ids : ∀ m ∈ [gen (2 ^ 18) 0, gen 0 (2 ^ 18)],
    (Instr.controlBlock 0 (List.replicate 16 { code := 0, swap := false, gen := 0, word := 0 }) [m]).wellFormed = false := by decide
theorem test_wf_refuses_long_window_write : (Instr.objWr 0 (List.replicate 1025 0)).wellFormed = false := by
  show decide ((List.replicate 1025 (0 : Byte)).length ≤ 1024) = false
  rw [List.length_replicate]; rfl
theorem test_wf_refuses_window_reads : ∀ n ∈ [0, 1025], (Instr.objRd 0 0 n).wellFormed = false := by decide
theorem test_wf_refuses_long_data : (Instr.data 0 false (List.replicate 1025 0)).wellFormed = false := by
  show decide ((List.replicate 1025 (0 : Byte)).length ≤ 1024) = false
  rw [List.length_replicate]; rfl
theorem test_wf_refuses_few_samples : (Instr.strapWindow [0, 0]).wellFormed = false := by decide
theorem test_wf_refuses_wide_numbers :
    ∀ c ∈ [Instr.droop 0 (2 ^ 16), .fmcMeasurementDone 0 (2 ^ 40), .powerOn (2 ^ 16)], c.wellFormed = false := by decide

/-! ### Tile instructions -/

/-- A word from its fields: (lowest bit, value). -/
def word (l : List (Nat × Nat)) : BitVec 128 := BitVec.ofNat 128 (pack l)
def k0 : CoreId := ⟨0, 0, 0⟩
/-- Core d0.c0.k0 runs a program of one word. -/
def run (w : BitVec 128) : Core := { enable := true, st := .run, prog := [(0, w)] }
def one (c : Core) : State := { cores := [(0, c)] }
def at0 (w : BitVec 128) : State := one (run w)
/-- The state that a command answers. -/
def after (o : Host.Outcome State Fault Refusal) : State := match o with
  | .next s => s
  | _ => {}

theorem starts_alone {s : State} {k op : Nat} {e : Eng} {rd wr : List Range} (h : (s.core k).issuing = true ∧ iOp (s.insn k) = op)
    (g : (s.core k).busy e = false) : s.starts k op e [] rd wr := ⟨h, g, by intro x hx; cases hx⟩

-- Expected results worked by hand from 03 Table 4 (JMP, LOOP, XADD) and 02 (FP32 addition: 1.0 + 2.0 = 3.0).
theorem test_jmp_goes_to_target : ((after (exec (.jmp k0) (at0 (word [(0, 2), (20, 0xABC)])))).core 0).pc = 0xABC := by decide
theorem test_loop_jumps_at_one_left : ((after (exec (.loop k0) (one { run (word [(0, 4), (16, 7), (20, 5)]) with loops := [(7, 2)] }))).core 0).pc = 5 := by
  decide
theorem test_xadd_wraps : ((after (exec (.xadd k0) (one { run (word [(0, 8), (16, 3), (64, 2)]) with bases := [(3, 0xFFFF)] }))).core 0).bases = [(3, 1)] := by
  decide
theorem test_vadd_one_plus_two : ((after (exec (.vadd k0 [] none) (one { run (word [(0, 0x80), (16, 0xA), (20, 0xA), (24, 0xA), (40, 8), (56, 0), (72, 4)])
    with scratch := [(2, 0x80), (3, 0x3F), (67, 0x40)] }))).core 0).num 128 4 = 0x40400000 := by decide

/-- FIPS 180-4: the digest of the empty message begins with E3 B0 C4 42 and ends with B8 55. -/
theorem test_sha256_of_nothing : let h := sha256Bytes []; h.take 4 = [0xE3, 0xB0, 0xC4, 0x42] ∧ h.drop 30 = [0xB8, 0x55] := by decide +kernel
/-- 04 R148 by hand: 16 frames at θ = 8 are 19 frames of 160 ns with the clock's tolerance, 3.04 µs, so B is 4 µs. -/
theorem test_loop_bound : loopBound 16 8 = 4 := by decide
/-- 14 R470 by hand: of the 64 units of a bubble period at level 1 exactly one is a bubble. -/
theorem test_bubbles_at_level_one : (List.range 64).countP (isBubble 1) = 1 := by decide

/-- Control words of 03 Table 4 at the bounds of their fields, with the opcode and the largest REG each allows. -/
def controls : List (Nat × Nat) := [(0x00, 0), (0x02, 0), (0x03, 7), (0x04, 7), (0x05, 0), (0x05, 1), (0x06, 0), (0x07, 1), (0x07, 3), (0x08, 1),
  (0x08, 3), (0x0B, 0), (0x09, 1), (0x09, 7), (0x0A, 0), (0x0C, 0), (0x0D, 0), (0x01, 0)]
theorem wit_ControlInstructions : ∀ e ∈ controls, let s := at0 (word [(0, e.1), (16, e.2)])
    (bits (s.insn 0) 63 38 = 0 ∧ bits (s.insn 0) 127 96 = 0) ∧ ((s.core 0).issuing = true ∧ iOp (s.insn 0) = e.1) ∧ iReg (s.insn 0) = e.2 ∧
    (∀ g ∈ [Eng.mx, .vx, .tx], (s.core 0).busy g = false) ∧ iValue (s.insn 0) ≤ ((s.core 0).ctr 0).toNat ∧ (s.core 0).refetch = none := by decide
theorem wit_ControlInstructions_waits : let s := one { run (word [(0, 9), (16, 4), (64, 1)]) with
      refetch := some { tid := 0, addr := 0, eng := .tx, pc := 0, sent := false } }
    bit (iReg (s.insn 0)) 2 = true ∧ (s.core 0).busy .tx = true ∧ ((s.core 0).ctr 0).toNat < iValue (s.insn 0) ∧ s.frameIndex 0 < iValue (s.insn 0) := by
  decide
/-- A composition of core 0 on lane 2 of die 0 in its Layers phase. -/
def comp0 : Comp := { st := .ready, ctx := 5, lane := 2, gen := 1, diemap := [(0, 0)], clusters := [(0, 0, 0, 0, [0])] }
def laneSt (L : Lane) : State := { comps := [(0, comp0)], dies := [(0, { lanes := [(2, L)] })] }
theorem wit_BarrierAndEnd : ∀ e ∈ [(0x0D, 253), (0x01, 0)],
    let s := { laneSt { st := .layers } with cores := [(0, { run (word [(0, e.1), (64, e.2)]) with lane := some 2 })] }
    (bits (s.insn 0) 63 38 = 0 ∧ bits (s.insn 0) 127 96 = 0) ∧ ((s.core 0).issuing = true ∧ iOp (s.insn 0) = e.1) ∧ iReg (s.insn 0) = 0 ∧
    (s.core 0).refetch = none ∧ iValue (s.insn 0) % 256 < 254 ∧ (s.core 0).lane = some 2 ∧ s.laneComp 0 2 = some 0 ∧ 0 ∈ (s.comp 0).dies ∧
    (s.lane 0 2).st = .layers := by decide
theorem wit_VxConverts_vcvt : let s := at0 (word [(0, 0x89), (16, 0xA), (24, 0x9), (40, 8)]); let w := s.insn 0; let x := s.core 0
    opClean w 104 1 ∧ iFa w ≤ 0xA ∧ iFb w = 0 ∧ resultBytes (iFd w) ≠ 0 ∧ inScratch (iMod w == 1 || isMx (iFa w)) (x.ea (iA w) (iAx w), vcvtBytes w (iN w)) ∧
    inScratch false (x.ea (iD w) (iDx w), iN w * resultBytes (iFd w)) ∧ ¬iMod w = 1 := by unfold opClean inScratch; decide
theorem wit_VxConverts_starts : (at0 (word [(0, 0x89), (16, 0xA), (24, 0x9), (40, 8)])).starts 0 0x89 .vx [] [(0, 4)] [(128, 2)] := starts_alone (by decide) (by decide)
theorem wit_VxConverts_vqnt : let s := at0 (word [(0, 0x8A), (16, 0xA), (24, 0x6), (40, 16), (88, 31)]); let w := s.insn 0; let x := s.core 0
    opClean w 111 0 ∧ iFa w = 0xA ∧ iFb w = 0 ∧ isMx (iFd w) = true ∧ iN w % 32 = 0 ∧ inScratch false (rowsRange (x.ea (iA w) (iAx w)) (iRows w) (iN w)) ∧
    inScratch true (x.ea (iD w) (iDx w), panelBytes (iFd w) (iRows w) (iN w / 32)) := by unfold opClean inScratch; decide
theorem wit_VxConverts_vtmk : let s := one { run (word [(0, 0x90), (40, 4), (88, 1), (104, 1)]) with scratch := [(0, 0xFF)] }
    let w := s.insn 0; let x := s.core 0
    opClean w 111 0 ∧ opFormats w 0 0 0 ∧ inScratch false (x.ea (iA w) (iAx w), iRows w) ∧
    inScratch false (x.ea (iD w) (iDx w), (iRows w - 1) * maskStride (iN w) + cdiv (iN w) 8) ∧
    parentsOk ((List.range (iRows w)).map fun i => x.num (x.ea (iA w) (iAx w) + i) 1) = true ∧ iRows w ≤ iN w := by
  unfold opClean opFormats inScratch; decide
theorem wit_VxSums : ∀ m ∈ [0, 1], let s := at0 (word [(0, 0x8B), (16, 0xA), (20, 0xA * m), (28, m), (40, 16), (72, 4)]); let w := s.insn 0; let x := s.core 0
    opClean w 121 1 ∧ opFormats w 0xA (if iMod w = 1 then 0xA else 0) 0 ∧ inScratch false (rowsRange (x.ea (iA w) (iAx w)) (iRows w) (iN w)) ∧
    inScratch false (rowsRange (x.ea (iB w) (iBx w)) (iRows w) (iN w)) ∧ inScratch true (x.ea (iD w) (iDx w), 32 * iRows w) := by
  unfold opClean opFormats inScratch; decide
theorem wit_VxSums_vrnd : let s := at0 (word [(0, 0x8C), (24, 0xA), (40, 16)]); let w := s.insn 0; let x := s.core 0
    opClean w 111 0 ∧ opFormats w 0 0 0xA ∧ inScratch true (x.ea (iA w) (iAx w), 32 * iRows w) ∧ inScratch false (x.ea (iD w) (iDx w), 4 * iRows w) ∧
    ∀ r < iRows w, recOk (x.scratch.read (x.ea (iA w) (iAx w) + 32 * r) 32) = true := by unfold opClean opFormats inScratch; decide
/-- Words of the elementwise instructions and the composites, with the formats they ask. -/
theorem wit_VxElementwise : ∀ e ∈ [(0x80, 0xA), (0x81, 0xA), (0x82, 0xA), (0x83, 0xA), (0x84, 0xA), (0x85, 0), (0x86, 0xA), (0x87, 0xA), (0x88, 0)],
    let s := at0 (word [(0, e.1), (16, 0xA), (20, e.2), (24, 0xA), (40, 8), (72, 4)]); let w := s.insn 0; let x := s.core 0
    opClean w 104 0 ∧ opFormats w 0xA e.2 0xA ∧ inScratch false (x.ea (iA w) (iAx w), 4 * iN w) ∧ inScratch false (x.ea (iB w) (iBx w), 4 * iN w) ∧
    inScratch false (x.ea (iD w) (iDx w), 4 * iN w) ∧ iOp w = e.1 ∧ x.issuing = true ∧ x.busy .vx = false := by
  unfold opClean opFormats inScratch; decide
theorem wit_VxComposites : ∀ op ∈ [0x8D, 0x8E, 0x8F], let s := at0 (word [(0, op), (16, 0xA), (24, 0xA), (40, 8), (72, 4)]); let w := s.insn 0; let x := s.core 0
    opClean w 111 0 ∧ opFormats w 0xA 0 0xA ∧ inScratch false (rowsRange (x.ea (iA w) (iAx w)) (iRows w) (iN w)) ∧ inScratch false (x.ea (iB w) (iBx w), 64) ∧
    inScratch false (rowsRange (x.ea (iD w) (iDx w)) (iRows w) (iN w)) ∧
    (∀ r ∈ [(x.num 64 4, 4), (x.num 68 4, 4), (x.num 64 4, (iRows w - 1) * maskStride (iN w) + cdiv (iN w) 8)], inScratch false r) ∧
    (∀ z ∈ [(14, 50), (4, 4), (12, 2)], x.num (x.ea (iB w) (iBx w) + z.1) z.2 = 0) ∧ iOp w = op ∧ x.issuing = true := by
  unfold opClean opFormats inScratch; decide
theorem wit_MxInstructions : ∀ e ∈ [(0x40, 110, 0, 0), (0x41, 108, 1, 1), (0x42, 100, 0, 0), (0x43, 100, 0, 0), (0x44, 100, 0, 0)],
    let s := at0 (word [(0, e.1), (16, e.2.2.1), (20, e.2.2.2), (24, if e.1 = 0x42 then 0xA else 0), (40, if e.1 = 0x42 ∨ e.1 = 0x43 then 64 else 4095),
      (56, if e.1 = 0x42 ∨ e.1 = 0x43 then 4095 else 4), (72, 8)])
    let w := s.insn 0; let x := s.core 0; let b := if e.1 = 0x42 ∨ e.1 = 0x43 then (iA w, iAx w) else (iD w, iDx w)
    (opClean w e.2.1 0 ∧ b.1 < 4096 ∧ b.2 = 0 ∧ b.1 + 32 * (iP w - 1) + (iNc w - 1) ≤ 4095) ∧ opFormats w e.2.2.1 e.2.2.2 (if e.1 = 0x42 then 0xA else 0) ∧
    (e.1 = 0x41 → pairRate (iFa w) (iFb w) ≠ 0 ∧ inScratch true (x.ea (iA w) (iAx w), panelBytes (iFa w) (iP w) (iKb w)) ∧
      inScratch true (x.ea (iB w) (iBx w), panelBytes (iFb w) (iNc w) (iKb w)) ∧ iMod w = 0) ∧
    (e.1 = 0x42 → resultBytes (iFd w) ≠ 0 ∧ inScratch false (x.ea (iD w) (iDx w), iP w * iNc w * resultBytes (iFd w))) ∧
    (e.1 = 0x43 → inScratch true (x.ea (iD w) (iDx w), 32 * (iP w * iNc w))) ∧
    (e.1 = 0x44 → inScratch true (x.ea (iA w) (iAx w), 32 * (iP w * iNc w)) ∧
      combinable (x.acc (iD w)) (x.scratch.read (x.ea (iA w) (iAx w)) 32) = true) ∧ iOp w = e.1 ∧ x.issuing = true ∧ x.busy .mx = false := by
  unfold opClean opFormats inScratch; decide
/-- A core with one usable channel, whose router grants cycle 0 of port 1 to owner 2, class 1. -/
def txSt (op len : Nat) : State :=
  { cores := [(0, { run (word [(0, op), (56, 4), (80, len)]) with chan := [(0, 1 + 16 + 128 + 2048)] })]
    dies := [(0, { routers := [(coreRouter 0 0, { active := [(256, 296)] })], origins := [(originOf (coreRouter 0 0), { allow := [(1, 4)] })] })] }
theorem wit_TxInstructions : ∀ op ∈ [0xC0, 0xC1, 0xC2], let s := txSt op 1; let w := s.insn 0; let x := s.core 0; let e := x.channel w
    (bits w 39 36 = 0 ∧ bits w 79 76 = 0 ∧ bits w 127 108 = 0 ∧ chDefined e = true ∧ iSlot w + iRunN w ≤ 256 ∧ iLen w ≠ 0 ∧ s.ungranted 0 w = none) ∧
    iRun w = 0 ∧ inScratch false (x.ea (iLaddr w) (iLx w), 64 * iLen w) ∧ x.remote (iRaddr w) (iRx w) < chUnits e ∧
    16 * x.remote (iRaddr w) (iRx w) + 64 ≤ scratchBytes ∧ (x.issuing = true ∧ iOp w = op) ∧ x.busy .tx = false := by unfold inScratch; decide +kernel
theorem wit_CoreFaults : (∀ e ∈ [(0x3F, 0, 0), (0x00, 1, 0), (0x0D, 0, 254)], let w := (at0 (word [(0, e.1), (16, e.2.1), (64, e.2.2)])).insn 0
      bits w 63 38 = 0 ∧ bits w 127 96 = 0 ∧ iOp w = e.1 ∧ (opDefined (iOp w) = false ↔ e.1 = 0x3F) ∧ iReg w = e.2.1 ∧ iValue w % 256 = e.2.2) ∧
    (let w := (at0 (word [(0, 0x41), (16, 0xB), (20, 0xA)])).insn 0; opClean w 108 1 ∧ iD w < 4096 ∧ iDx w = 0 ∧ pairRate (iFa w) (iFb w) = 0) ∧
    (let s := at0 (word [(0, 0x85), (16, 0xA), (24, 0xA), (56, 0xFFFF), (88, 4)]); let w := s.insn 0
      opClean w 104 0 ∧ opFormats w 0xA 0 0xA ∧ scratchBytes < (s.core 0).ea (iA w) (iAx w) + 4 * iN w) ∧
    (let s := one { run (word [(0, 0x44)]) with accs := [(0, { alsb := 1, a := 1 })] }; let w := s.insn 0
      opClean w 100 0 ∧ opFormats w 0 0 0 ∧ iD w < 4096 ∧ iDx w = 0 ∧ iP w = 1 ∧ iNc w = 1 ∧ inScratch true ((s.core 0).ea (iA w) (iAx w), 32) ∧
      combinable ((s.core 0).acc (iD w)) ((s.core 0).scratch.read ((s.core 0).ea (iA w) (iAx w)) 32) = false) ∧
    (let s := at0 (word [(0, 0x85), (16, 0xA), (24, 0xA), (40, 8)]); let w := s.insn 0
      opClean w 104 0 ∧ opFormats w 0xA 0 0xA ∧ inScratch false ((s.core 0).ea (iA w) (iAx w), 4 * iN w) ∧
      inScratch false ((s.core 0).ea (iD w) (iDx w), 4 * iN w) ∧ overlaps [((s.core 0).ea (iD w) (iDx w), 4 * iN w)] ([(131, 2)] ++ []) = some 131) := by
  unfold opClean opFormats inScratch; decide +kernel
theorem wit_Refetches_request : let s := one { run (word [(0, 0x89), (24, 0x9), (28, 1), (40, 512)]) with poison := [0] }; let w := s.insn 0; let x := s.core 0
    opClean w 104 1 ∧ iMod w = 1 ∧ iFa w ≤ 0xA ∧ iFb w = 0 ∧ resultBytes (iFd w) ≠ 0 ∧ inScratch true (x.ea (iA w) (iAx w), 4416) ∧
    inScratch false (x.ea (iD w) (iDx w), iN w * resultBytes (iFd w)) ∧ cdiv (iN w) 32 ≤ landingGroups (iFa w) ∧
    bits (x.num (x.ea (iA w) (iAx w) + 4360) 8) 63 60 = iFa w ∧ s.landingOk 0 (x.ea (iA w) (iAx w)) = false ∧ x.refetchUsed = false ∧ x.busy .vx = false := by
  unfold opClean inScratch; decide +kernel
/-- A core of lane 2 that waits for a refetch, and a stop M0 whose block 0 is the lane's for use 0. -/
def refSt (sent : Bool) (q : List MemReq) (landing : Option (Option (List Byte))) : State :=
  { comps := [(0, comp0)], dies := [(0, { lanes := [(2, { rfw := 1 })], mstops := [(0, { st := .ready, enable := true, own0 := 0x82, queue := q })] })]
    cores := [(0, { run 0 with refetch := some { tid := 7, addr := 64, eng := .vx, pc := 0, sent }, landing })] }
theorem wit_Refetches_window : let s := refSt false [] none
    (0 : Fin 9).val < (s.lane 0 2).rfw.toNat ∧ s.windowCore 0 2 0 = some 0 ∧ (s.core 0).refetch.any (fun r => !r.sent) = true ∧
    (s.memStop true 0 0).grants 2 0 = true := by decide +kernel
def refReq : MemReq := { owner := 2, use := 0, addr := 0, len := 4360, data := [], reply := .refetch 0 7 }
theorem wit_Refetches_serve : let s := refSt true [refReq] none; let m := s.memStop true 0 0
    m.st = .ready ∧ m.enable = true ∧ owValid (m.own 0) = true ∧ owUse (m.own 0) = 0 ∧ s.laneHeld (owOwner (m.own 0)) = false ∧
    takeReq (owOwner (m.own 0)) 0 0 m.queue = some (refReq, []) ∧ (s.core 0).refetch.isSome = true := by decide +kernel
theorem wit_Refetches_landing : ∀ l ∈ [none, some []], let s := refSt true [] (some l)
    (s.core 0).refetch.isSome = true ∧ (s.core 0).st = .run ∧ (s.core 0).landing = some l := by decide +kernel
/-- One stream entry of two tiles, and its segment. -/
def streamE : BitVec 256 := BitVec.ofNat 256 (pack [(112, 2), (128, 4), (144, 1)])
def streamSt (x : Spindle) (fi : BitVec 32) (q : List MemReq) : State :=
  { dies := [(0, { lanes := [(2, { st := .layers, fi, spindles := [(0, x)] })]
                   hstops := [(0, { st := .ready, enable := true, own0 := 0x82, queue := q, segs := [(0, { count := 2, valid := true })] })] })] }
theorem wit_TileStreams_read : ∀ fi ∈ [0, 1], let s := streamSt { entries := [streamE] } (BitVec.ofNat 32 fi) []; let x := s.spindle 0 2 0
    x.entries[x.entry]? = some streamE ∧ (s.lane 0 2).st = .layers ∧ x.staging.length + x.issued < 32 ∧ s.entryOk 0 0 (entryBytes streamE) = true ∧
    s.tileSlotOwned 0 2 0 (9 * fi % 9) = true ∧ s.addrOk false 0 0 (chunkAddr 0 0 0) = true := by decide +kernel
theorem wit_TileStreams_send : let s := streamSt { staging := [{ g := 9, ch := 0, laddr := 4, ctr := 0, record := [] }] } 1 []
    ((s.spindle 0 2 0).staging.head?.map fun y => decide (y.g / 9 ≤ (s.lane 0 2).fi.toNat)) = some true ∧ (s.lane 0 2).st = .layers ∧
    s.tileSlotOwned 0 2 0 (9 % 9) = true := by decide +kernel
def tileReq : MemReq := { owner := 2, use := 0, addr := 0, len := 4096, data := [], reply := .tile 2 0 4 0 9 0 }
theorem wit_TileStreams_serve : let s := streamSt {} 0 [tileReq]; let t := s.memStop false 0 0
    t.st = .ready ∧ t.enable = true ∧ owValid (t.own 0) = true ∧ s.laneHeld (owOwner (t.own 0)) = false ∧
    takeReq (owOwner (t.own 0)) (owUse (t.own 0)) 0 t.queue = some (tileReq, []) := by decide +kernel
theorem wit_BlockService : ∀ r ∈ [({ owner := 2, use := 2, addr := 64, len := 4, data := [], reply := .obj 1 } : MemReq),
      { owner := 2, use := 2, addr := 64, len := 1, data := [5], reply := .obj 1 }],
    let s : State := { dies := [(0, { mstops := [(0, { st := .ready, enable := true, own0 := 0xA2, queue := [r] })] })] }; let m := s.memStop true 0 0
    m.st = .ready ∧ m.enable = true ∧ owValid (m.own 0) = true ∧ owUse (m.own 0) ≠ 0 ∧ s.laneHeld (owOwner (m.own 0)) = false ∧
    takeReq (owOwner (m.own 0)) (owUse (m.own 0)) 0 m.queue = some (r, []) ∧ s.sealedAt true 64 = false := by decide +kernel
theorem wit_MemoryRefusals : (∀ a ∈ [0, 2 ^ 39], let s : State := {}; owValid ((s.memStop false 0 0).own 8) = false ∧ s.addrOk false 0 0 a = decide (a = 0) ∧
      (s.memStop false 0 0).grants 2 0 = false) ∧
    (let s : State := { dies := [(0, { mstops := [(0, { own0 := 0x82 })] })] };
      owValid ((s.memStop true 0 0).own 8) = false ∧ s.addrOk true 0 0 0 = true ∧ (s.memStop true 0 0).grants 2 0 = true) := by decide +kernel
def hStop (m : MemStop) (arm : Bool) : State := { dies := [(7, { ctl := { arm }, hstops := [(7, m)] })] }
def h77 : StopId := ⟨7, .h, 7⟩
theorem wit_StopUpkeep : StopOk h77 = true ∧ ((hStop { st := .ready } false).stop h77).st = .ready ∧ ((hStop { st := .ready } false).stop h77).scrub = true ∧
    ((hStop { st := .ready } false).stop h77).uev = false ∧ ((hStop { st := .training } false).stop h77).st = .training ∧
    ((hStop { st := .ready, own1 := 0x80 } false).stop h77).anyOwner = true ∧ ((hStop {} true).die 7).ctl.arm = true ∧ ((hStop {} false).die 7).ctl.arm = false ∧
    (∀ e ∈ [0, 0xFFFFFFFE], let s := hStop { regions := [(3, { advance := true, epoch := BitVec.ofNat 32 e })] } false;
      (s.region false (7, 7, 3)).advance = true ∧ (s.region false (7, 7, 3)).withdrawn = false ∧ (s.stop h77).queue = []) := by decide +kernel
def flit0 (last : Bool) : Flit :=
  { owner := 2, cls := 1, last, ctr := 3, faddr := 5, poison := false, payload := 9, use := .data, router := coreRouter 0 0, port := 1, cycle := 255 }
theorem wit_MeshFlits_delivery : (∀ a ∈ [true, false], let s : State := { cores := [(0, run 0)], dies := [(0, { flights := [flit0 a], routers := [(coreRouter 0 0, { active := [(255, 1 + 8 + 32 + 256)] })] })] };
      (s.die 0).flights[0]? = some (flit0 a) ∧ coreAt (coreRouter 0 0) = true ∧ unitAt (coreRouter 0 0) = .core 0 0 ∧ (s.core (coreKey 0 0 0)).st = .run ∧
      walkFlit { s.die 0 with flights := [] } [] [] (flit0 a) = [.local (coreRouter 0 0) 255]) ∧
    walkFlit {} [] [] (flit0 true) = [.stray (coreRouter 0 0) 1 255] := by decide +kernel
theorem wit_MeshFlits_queues : elasticDepth 7 = 256 ∧ elasticDepth 8 = 64 ∧
    (let s : State := { comps := [(0, comp0)], dies := [(0, { routers := [(299, { active := [(0, 8 + 32)] })], gets := [(299, [{ flit0 true with use := .getReq 4 2 8 1 0 255 1 }])] })] };
      (s.router 0 299).failed = false ∧ ((0, (8 + 32 : BitVec 16)) ∈ (s.router 0 299).active) ∧ slValid (8 + 32) = true ∧ slOwner (8 + 32) = 2 ∧ s.laneComp 0 2 = some 0 ∧
      s.inEntry = false ∧ Tab.look [] (s.die 0).gets 299 = [{ flit0 true with use := .getReq 4 2 8 1 0 255 1 }]) := by decide +kernel
theorem wit_TableLoads : ∀ a ∈ [true, false], ((({ dies := [(3, { ctl := { arm := a, busy := !a } })] } : State).die 3).ctl.arm = a) ∧
    ((({ dies := [(3, { ctl := { arm := a, busy := !a } })] } : State).die 3).ctl.busy = !a) := by decide +kernel
theorem wit_FrameStartsAndReleases : ∀ e ∈ [(0, 0, false), (1, 1, false), (2, 0, true)],
    let s := laneSt { st := .layers, enable := true, dieArrived := true, barid := 0xFD, barriers := [(0xFD, BitVec.ofNat 64 (e.1 + 256 * 5))], mask := BitVec.ofNat 8 e.2.1, relArrived := e.2.2, fi := 5 }
    s.laneComp 0 2 = some 0 ∧ (s.comp 0).lane = 2 ∧ (s.lane 0 2).dieArrived = true ∧ (s.lane 0 2).st = .layers ∧ (s.lane 0 2).barid.toNat < 0xFE ∧
    (barScope (s.lane 0 2).barrier = 0 ∨ barScope (s.lane 0 2).barrier = 1 ∧ (∀ d ∈ (s.comp 0).dies, bit (s.lane 0 2).mask.toNat d = true) ∨
      barScope (s.lane 0 2).barrier = 2 ∧ (s.lane 0 2).relArrived = true) := by decide +kernel
def loop0 : Loop := { tring := 3, bound := 8, evPort := false, evSlot := 0, failover := none, produced := 0, stoppers := [], dropped := false, ltab := 0,
                      breq := 8, dsrc := 2, draftAdm := [] }
def loopSt (L : Lane) (m : Comp) : State := { laneSt L with comps := [(0, m)], ctxs := [(5, { st := .active })] }
theorem wit_LatheBarriers : ∀ e ∈ [(0xFF, LaneState.start), (0xFE, .commit)],
    let s := loopSt { st := e.2, dieArrived := true, barid := BitVec.ofNat 8 e.1 } { comp0 with loop := some loop0 }; let m := s.comp 0
    s.laneComp 0 2 = some 0 ∧ m.lane = 2 ∧ (s.lane 0 2).dieArrived = true ∧ barScope (s.lane 0 2).barrier = 0 ∧ (s.lane 0 2).barid.toNat = e.1 ∧
    (s.lane 0 2).st = e.2 ∧ m.loop.isSome = true ∧ (s.die 0).ctl.arm = false ∧ m.stage = 0 ∧ (s.lane m.rootDie 2).swapMark = false ∧ m.newCaps = none ∧
    m.balDue = false := by decide +kernel
theorem wit_CompositionBarriers : ∀ e ∈ [(true, 0), (false, 0), (false, 1)],
    let s := loopSt { st := .layers, dieArrived := true, barid := 1, barriers := [(1, 2)], relArrived := e.1, mask := 1 }
      { comp0 with nmod := 2, vmod := e.2, fanout := 2 }; let m := s.comp 0; let L := s.compLane 0
    s.laneComp 0 2 = some 0 ∧ L.dieArrived = true ∧ barScope L.barrier = 2 ∧ L.relArrived = e.1 ∧ L.sentUp = false ∧ L.sentDown = false ∧
    s.maskFull m m.rootDie = true ∧ (m.parent.isSome = (e.2 == 1)) := by decide +kernel
theorem wit_BarrierTimeouts : let s := laneSt { arrived := [0], barid := 1, barriers := [(1, BitVec.ofNat 64 (256 * 4 + 2 ^ 40 * 3))], fi := 7 }; let L := s.lane 0 2
    L.arrived ≠ [] ∧ bits L.barrier.toNat 39 8 + bits L.barrier.toNat 55 40 ≤ L.fi.toNat := by decide +kernel

/-! ### Descriptors -/

/-- A descriptor from its body: (byte offset, value); one that names a composition names index 0, generation 1. -/
def acc (op : Nat) (body : List (Nat × Nat)) : Accepted :=
  { pos := 0, port := false, seq := 0, ref := none
    d := BitVec.ofNat 512 (pack (((0, op) :: (if descNames op then [(8, 1)] else [(12, 0xFFFF)]) ++ body).map fun (e : Nat × Nat) => (8 * e.1, e.2))) }
/-- A module in RUN with that descriptor at the front of queue 0, of context 5. -/
def dq (op : Nat) (body : List (Nat × Nat)) (s : State := { comps := [(0, comp0)] }) (x : Queue := {}) : State :=
  { s with rst := { phase := .run }, queues := [(0, { x with st := .live, ctx := 5, acc := [acc op body] })] }
/-- The descriptor may begin. -/
def bgn (op : Nat) (used body : List (Nat × Nat)) (s : State) : Bool :=
  let b := (acc op body).bytes
  let x := s.queue 0
  (match x.front with
    | some a => a.op == op && a.bytes == b
    | none => false) && x.fin.isNone && s.inRun && (s.ctx x.ctx).st != .lost && headerOk b s.sb.role && bodyZero b used &&
  (!decide (256 ≤ field b 12 2) → (s.comp (field b 12 2)).st ≠ .free ∧ (s.comp (field b 12 2)).ctx = x.ctx ∧
    (x.started = true ∨ (s.comp (field b 12 2)).gen.toNat = field b 8 4))
theorem begins_bgn {op : Nat} {used body : List (Nat × Nat)} {s : State} (h : bgn op used body s = true) : s.begins 0 op used (acc op body).bytes := by
  unfold bgn at h
  simp only [Bool.and_eq_true, decide_eq_true_eq] at h
  obtain ⟨⟨⟨⟨⟨⟨h1, h2⟩, h3⟩, h4⟩, h5⟩, h6⟩, h7⟩ := h
  refine ⟨?_, by simpa using h2, h3, by simpa using h4, h5, h6, fun _ => rfl, fun g => h7 (by simpa using g)⟩
  cases hf : (s.queue 0).front with
  | none => rw [hf] at h1; cases h1
  | some a => rw [hf] at h1; exact ⟨a, rfl, by simpa using h1⟩
/-- A manifest of one virtual die without tiles; its zero bytes are left out. -/
def man0 : List Byte := [0x58, 0x4D, 0x47, 0x31, 1, 0, 1, 1, 1]
def mod0 (st : Residency) : Model := { digest := 7, manifest := man0, body := [], st, slot := if st = .library then 0 else 9 }
def lib (m : Model) : State := { models := [m], dies := [(0, { mstops := [(0, { st := .ready })] })] }
def B (op : Nat) (body : List (Nat × Nat)) : List Byte := (acc op body).bytes
theorem wit_ModelLibrary : ∀ e ∈ [(0x23, Residency.hot, 65534), (0x23, .warm, 0), (0x24, .hot, 1), (0x25, .hot, 0), (0x25, .hot, 1), (0x26, .warm, 0),
      (0x27, .library, 0)], let m := { mod0 e.2.1 with pins := e.2.2 }; let s := dq e.1 [(16, 7)] (lib m)
    bgn e.1 [(16, 32)] [(16, 7)] s = true ∧ s.hearthTurn 0 = true ∧ s.model (descDigest (B e.1 [(16, 7)])) = some m ∧ s.boundTo m.digest = false ∧
    (s.queue 0).started = false := by decide +kernel
def mapBody : List (Nat × Nat) := [(16, 7), (48, 1), (56, 0xFFFFFFFFFFFFFF00)]
theorem wit_ModelLibrary_maps : ∀ e ∈ [(0x21, Residency.library, []), (0x22, .hot, [(0, 0)]), (0x22, .hot, []), (0x22, .loading, [(0, 0)])],
    let m := { mod0 e.2.1 with loadMap := e.2.2 }; let s := dq e.1 mapBody (lib m); let b := B e.1 mapBody
    bgn e.1 [(16, 32), (48, 1), (56, 8)] mapBody s = true ∧ s.hearthTurn 0 = true ∧ s.model (descDigest b) = some m ∧ mapBodyOk b = true ∧
    (s.queue 0).started = false ∧ s.mapStatus m (descMap b) = none ∧ s.freeSlot = some 1 ∧ (s.placeM m 1 (field b 48 1) (descMap b)).isSome = true ∧
    descMap b = [(0, 0)] := by decide +kernel
theorem wit_ModelLibrary_load : let m := mod0 .loading; let s := lib m; s.slotModel 9 = some m ∧ s.copiesGood m = true := by decide +kernel
theorem slice_zeros (l : List Byte) (n a m : Nat) : slice (l ++ List.replicate n 0) a m = slice l a m := by
  unfold slice
  apply List.map_congr_left
  intro i _
  by_cases h : a + i < l.length
  · rw [List.getElem?_append_left h]
  · rw [List.getElem?_append_right (by omega), List.getElem?_replicate, List.getElem?_eq_none (by omega)]; split <;> rfl
def img0 : List Byte := man0 ++ List.replicate 4087 0
theorem img0_form : img0.length = 4096 ∧ imageForm img0 = true := by
  have hl : img0.length = 4096 := by unfold img0; rw [List.length_append, List.length_replicate]; rfl
  refine ⟨hl, ?_⟩
  have tail : ∀ n, zeros man0 96 n = true := by
    intro n; unfold zeros slice; rw [List.all_map, List.all_eq_true]; intro i _
    rw [Function.comp_apply, List.getElem?_eq_none (show man0.length ≤ 96 + i from Nat.le_trans (by decide) (Nat.le_add_right 96 i))]; rfl
  unfold imageForm
  rw [hl, List.take_of_length_le (by rw [hl])]
  unfold manOk manTotal manTiles manCounts manCount manNvd zeros field
  unfold img0
  simp only [slice_zeros]
  have e : leNat (slice man0 7 1) = 1 := by decide
  have t := tail 4000
  unfold zeros at t
  rw [e]
  simp only [Nat.mul_one, Nat.reduceAdd, Nat.reduceSub, t]
  decide
def storeB : List (Nat × Nat) := [(16, 8), (56, 4096)]
theorem wit_TierF_store : let s := dq 0x20 storeB (lib (mod0 .warm)) { buf := img0 }
    bgn 0x20 [(16, 32), (48, 8), (56, 8)] storeB s = true ∧ al64 (B 0x20 storeB) 48 = true ∧ (s.queue 0).started = false ∧ s.hearthTurn 0 = true ∧
    (s.queue 0).buf = img0 ∧ (s.queue 0).readFailed = false ∧ field (B 0x20 storeB) 56 8 = img0.length ∧ s.model (descDigest (B 0x20 storeB)) = none ∧
    s.models.length < 16384 := by
  dsimp only
  rw [img0_form.1]
  refine ⟨?_, ?_, rfl, ?_, rfl, rfl, ?_, ?_, ?_⟩ <;> decide +kernel
theorem wit_TierF_commands : ∀ e ∈ [(true, true), (false, true), (false, false)], ∀ q ∈ [none, some 0],
    let c : FCmd := { write := e.2, sector := 2 ^ 40, data := [1], sectors := 1, channels := 1, sealedEpochOk := true, wellFormed := true, q }
    let s : State := { dq 0x20 storeB {} { started := true } with dies := [(7, { fqueue := [c] })], pwr := { warn := e.1 } }
    (s.die 7).fqueue = [c] ∧ s.inEntry = false ∧ (s.die 7).fdefer = false ∧ s.pwr.commitOk c.bytes c.channels = (!e.1) ∧ c.wellFormed = true ∧
    (s.queue 0).front = some (acc 0x20 storeB) ∧ (acc 0x20 storeB).op = 0x20 ∧ (s.queue 0).started = true ∧ (s.queue 0).fin = none ∧
    s.model (descDigest (acc 0x20 storeB).bytes) = none ∧ ((s.updDie 7 fun x => { x with fdefer := true }).die 7).fdefer = true := by decide +kernel
/-- A composition of one virtual die, an arena of tier M with one object of the host, and its handle. -/
def compO (l : Option Loop) : Comp := { comp0 with shape := [0, 0, 0, 0, 0, 0, 1], loop := l }
def h0 : Nat := handleOf 5 hostPart 0
def objSt (l : Option Loop) (g : Nat) (o : Obj) : State := { comps := [(0, compO l)], arenas := [(1, { parts := [(hostPart, { g, usedG := [0], objs := [(0, o)] })] })] }
def obj0 : Obj := { live := true, n := 1, refs := 1, tier := 1 }
def allocB : List (Nat × Nat) := [(17, 1), (24, 2 ^ 40)]
theorem wit_HostObjects_alloc : ∀ l ∈ [none, some loop0], ∀ g ∈ [2 ^ 24 + 1, 2 ^ 24], let s := dq 0x30 allocB (objSt l g obj0); let b := B 0x30 allocB
    let a := arenaKey 0 (field b 16 1) (field b 17 1); let x := s.part a hostPart; let n := (field b 24 8 + 0xFFFF) / 2 ^ 16
    bgn 0x30 [(16, 1), (17, 1), (24, 8)] allocB s = true ∧ field b 16 1 < field (s.comp 0).shape 6 1 ∧ field b 17 1 ≤ 1 ∧ 1 ≤ field b 24 8 ∧
    field b 24 8 ≤ 2 ^ 40 ∧ (s.queue 0).started = false ∧ s.looping 0 = l.isSome ∧ s.recRoom 0 128 = true ∧ lowestFree 0 (s.liveIdx 5 a hostPart) ≤ 2047 ∧
    lowestRun x.usedG x.g n = (if g = 2 ^ 24 then none else some 1) := by decide +kernel
theorem wit_HostObjects : ∀ e ∈ [(0x31, { obj0 with freed := true }, none), (0x31, obj0, none), (0x31, obj0, some loop0), (0x32, obj0, none), (0x33, obj0, none),
      (0x33, { obj0 with maps := 1 }, none), (0x34, obj0, none)], ∀ d ∈ [0, 1],
    let y := if e.1 = 0x34 then [(16, h0), (20, d), (24, 2 ^ 16 - 64), (32, 64), (40, 64)] else [(16, h0)]
    let s := dq e.1 y (objSt e.2.2 4 e.2.1) { buf := List.replicate 64 1 }; let b := B e.1 y
    bgn e.1 ((16, 4) :: if e.1 = 0x34 then [(20, 1), (24, 8), (32, 8), (40, 8)] else []) y s = true ∧ hCtx (field b 16 4) = (s.queue 0).ctx ∧
    s.findObj (field b 16 4) = some 1 ∧ (s.queue 0).started = false ∧ (s.objAt 1 (field b 16 4)) = e.2.1 ∧ s.looping 0 = e.2.2.isSome ∧ s.recRoom 0 128 = true ∧
    (e.1 = 0x34 → field b 20 1 = d ∧ field b 24 8 % 64 = 0 ∧ field b 32 8 % 64 = 0 ∧ field b 40 8 = 64 ∧ field b 24 8 + field b 40 8 ≤ 2 ^ 16 * 1 ∧
      (s.queue 0).readFailed = false ∧ field b 40 8 ≤ (s.queue 0).buf.length) := by decide +kernel
/-- An image of one virtual die whose core (0, 0) has allocator index 3. -/
def die0 : ImageDie := { vd := 0, programs := [], channels := [], streams := [], barriers := [], hdrAddr := 0, slots := 4, lmax := 64, mapBase := 0,
                         quotas := [(0, 0, 3, 0, 4)], ucp := false }
def var0 : Variant := { idx := 0, models := [7], vocab := 100, dies := [die0], commitRfi := 6, startCost := 1, draftFrames := [1, 2, 3, 4], carry := [],
                        routesOk := true, allowOk := true, edges := [] }
def compA : Comp := { comp0 with img := { digest := 0, variants := [var0] } }
def areq : AllocReq := { core := 0, lane := 2, vcluster := 0, ctr := 0, req := bytesPayload (leBytes 16 (pack [(0, 1), (8, 1), (64, 65537)])), raddr := 0 }
def alSt (n : Nat) (c : Ctx) : State :=
  { comps := [(0, compA)], ctxs := [(5, c)], cores := [(0, { lane := some 2 })], arenas := [(1, { parts := [(3, { g := 4 })] })]
    dies := [(0, { lanes := [(2, {})], frames := 2, reqRings := [(9, List.replicate n areq)] })] }
theorem wit_Allocator : ((alSt 3 {}).die 0).unanswered 0 < 4 ∧ 4 ≤ ((alSt 4 {}).die 0).unanswered 0 ∧ ((alSt 4 {}).core areq.core).lane = some 2 ∧
    (∀ r ∈ [true, false], let s := alSt 3 { allocRevoked := r }; s.laneComp 0 ((s.die 0).frames % 8) = some 0 ∧ (s.ctx (s.comp 0).ctx).allocRevoked = r) ∧
    (let s := alSt 3 {}; let b := payloadBytes areq.req
      reqOk b = true ∧ field b 0 1 = 1 ∧ (s.comp 0).allocIndex 0 0 0 = some 3 ∧ field b 1 1 = 1 ∧ (field b 8 8 + 0xFFFF) / 2 ^ 16 = 2 ∧
      lowestFree 0 (s.liveIdx 5 (arenaKey 0 0 1) 3) = 0 ∧ lowestRun (s.part 1 3).usedG (s.part 1 3).g 2 = some 0) := by decide +kernel
theorem wit_Window : (let s := objSt none 4 { obj0 with maps := 1 }
      ∀ len ≤ 1024, ∃ off e, s.windowObj off len = some e ∧ s.windowOk e = true) ∧ ∀ len, ({} : State).windowObj 0 len = none := by
  refine ⟨?_, fun _ => rfl⟩
  intro s len hl
  have hm : s.mappedObjs = [(1, h0)] := by decide
  have hn : (s.objAt 1 h0).n = 1 := by decide
  have hk : (s.ctx (hCtx h0)).st ≠ .lost := by decide
  refine ⟨Config.windowBase h0 % 2 ^ 64, (1, h0, 0), ?_, by unfold State.windowOk; simpa using hk⟩
  unfold State.windowObj
  simp only [hm, List.find?_cons, hn, Nat.le_refl, decide_true, Bool.true_and, Nat.add_le_add_iff_left]
  rw [decide_eq_true (by omega)]
  simp
/-- Queue 7 and ring 7 of context 5, with 16 and 64 places; the pointers lie next to the wrap of 32 bits. -/
def bellSt (tail head : Nat) : State :=
  { ctxs := [(5, { st := .opened })], queues := [(7, { st := .live, ctx := 5, log2n := 4, head := 0xFFFFFFF8, tail := 0xFFFFFFFC })]
    rings := [(7, { live := true, ctx := 5, log2n := 6, head := BitVec.ofNat 32 head, tail := BitVec.ofNat 32 tail })] }
def bell (kind p : Nat) : Nat := kind + 4 * 7 + 2 ^ 16 * p
theorem wit_Doorbells : ∀ e ∈ [(0, 8), (0, 9), (0, 0xFFFFFFFB), (1, 0xFFFFFFFF), (1, 2), (2, 1), (2, 0), (3, 0)], let w := bell e.1 e.2; let s := bellSt 1 0xFFFFFFFE
    let p := BitVec.ofNat 32 (bits w 47 16); let x := s.queue 7; let r := s.ring 7
    bits w 15 14 = 0 ∧ bits w 63 48 = 0 ∧ bits w 13 2 = 7 ∧ bits w 1 0 = e.1 ∧ bits w 47 16 = e.2 ∧ (s.ctx 5).st ≠ .closed ∧ (s.ctx 5).closing = false ∧
    x.st ≠ .free ∧ x.ctx = 5 ∧ x.ctx ≠ 6 ∧ r.live = true ∧ r.ctx = 5 ∧ (e.1 = 0 → (decide ((p - x.head).toNat ≤ 2 ^ x.log2n) && decide ((p - x.tail).toNat ≤
      (p - x.head).toNat)) = (e.2 == 8)) ∧ (e.1 = 1 → decide ((r.tail - p).toNat ≤ (r.tail - r.head).toNat) = (e.2 == 0xFFFFFFFF)) ∧
    (e.1 = 2 → decide (r.tail = p) = (e.2 == 1)) := by decide +kernel
/-- Both host ports up, slot 20 of context 5, a queue and a ring of it, and what is pending. -/
def tongsSt (w : List Work) (x : Queue) (r : EvRing) (reads : List TRead) : State :=
  { ports := [(0, { st := .up }), (8, { st := .up })], hif := { enable := true }, tongs0 := { slot := 20, grants := [(20, 5)], work := [(5, w)] }
    ctxs := [(5, { st := .opened })], queues := [(7, { x with st := .live, ctx := 5, log2n := 4, evring := 3 })], reads
    rings := [(3, { r with live := true, ctx := 5, log2n := 6 })] }
theorem wit_TongsSlots : (∀ w ∈ [[Work.headwb 7 3], [Work.record 3 (BitVec.ofNat 512 2) true], []], let s := tongsSt w { head := 0xFFFFFFFF, tail := 0xF } {} []
      s.portUp false = true ∧ s.portUp true = true ∧ s.hif.enable = true ∧ Tab.look [] (s.tongs false).work 5 = w ∧ Tab.look 0 (s.tongs false).grants 20 = 5 ∧
      (s.tongs false).slot.toNat = 20 ∧ (s.ring 3).armed = none ∧ field (payloadBytes (BitVec.ofNat 512 2)) 0 1 ≠ 1 ∧ s.fetchable false 5 = some 7) ∧
    (∀ n ∈ [0, 1], let r : TRead := { tag := 9, ctx := 5, q := 7, count := n, len := 64, port := false }; let s := tongsSt [] { acc := [acc 0x10 []] } {} [r]
      s.reads.find? (fun x => x.tag == 9) = some r ∧ (s.queue 7).st ≠ .free ∧ (s.queue 7).ctx = 5 ∧ (s.ctx 5).closing = false ∧
      0 < (s.ring (s.queue 7).evring).freeRecs ∧ (s.queue 7).acc ≠ [] ∧ s.refOf 5 (bytesPayload (slice [] 0 64)) = none) := by decide +kernel
theorem wit_Completion : (∀ f ∈ [0, 1], let s := dq 0x10 [(1, f)]
      bgn 0x10 [] [(1, f)] s = true ∧ (s.queue 0).front = some (acc 0x10 [(1, f)]) ∧ (s.ctx 5).closing = false ∧ bits (field (B 0x10 [(1, f)]) 1 1) 0 0 = f ∧
      (s.queue 0).outBuf = []) ∧
    (∀ n ∈ [16, 4096], let y := [(16, 64), (24, n)]; let s := dq 0x11 y; bgn 0x11 [(16, 8), (24, 4)] y s = true ∧ (s.queue 0).front = some (acc 0x11 y) ∧
      (s.ctx 5).closing = false ∧ field (B 0x11 y) 16 8 % 64 = 0 ∧ field (B 0x11 y) 24 4 % 16 = 0 ∧ 16 ≤ field (B 0x11 y) 24 4 ∧
      field (B 0x11 y) 24 4 ≤ 4096) := by decide +kernel
def hostSt (t : Nat) : State := { sec := { tenancy := t }, ctxs := [(0, { st := .opened }), (5, { st := .active }), (6, { st := .opened })],
                                  rings := [(3, { live := true, ctx := 6, log2n := 6 })] }
theorem wit_Contexts_open : ∀ e ∈ [(1, some 1), (1023, some 1023), (0xFFFF, some 1)], let y := [(16, 2 ^ 20 - 1), (20, e.1), (22, 0x81), (24, 64)]
    let s := dq 0x01 y (hostSt 2) { buf := leBytes 64 (2 ^ 16) }; let b := B 0x01 y; let g := (s.queue 0).buf.take 64
    bgn 0x01 [(16, 4), (20, 2), (22, 1), (24, 8)] y s = true ∧ field b 16 4 < 2 ^ 20 ∧ field b 24 8 % 64 = 0 ∧ (s.queue 0).readFailed = false ∧
    64 ≤ (s.queue 0).buf.length ∧ field g 0 2 = 0 ∧ field g 32 2 = 0 ∧ s.sec.tenancy ≠ 0 ∧ s.grantHeld g (field b 22 1) = false ∧ field b 20 2 = e.1 ∧
    (e.1 = 0xFFFF ∨ (s.ctx e.1).st = .closed) ∧ (e.1 = 0xFFFF → lowestIn 1 1024 (fun i => (s.ctx i).st == .closed) = e.2) := by decide +kernel
theorem wit_Contexts_close : (∀ c ∈ [5, 0, 1023], let y := [(16, c)]; let s := dq 0x02 y (hostSt 1)
      bgn 0x02 [(16, 2)] y s = true ∧ field (B 0x02 y) 16 2 = c ∧ (s.queue 0).started = false ∧ (s.ctx 5).st ≠ .closed ∧ (s.ctx 5).closing = false ∧
      (s.ctx 1023).st = .closed) ∧
    (∀ l ∈ [[acc 0x02 [(16, 6)]], []], let s : State := { ctxs := [(6, { st := .opened, closing := true, revoked := true })], queues := [(0, { st := .live, acc := l })] }
      (s.ctx 6).closing = true ∧ (s.ctx 6).revoked = true ∧ s.hearthRuns 6 = false ∧ (((s.account 6).closeFree 6).queue 0).front = l.head? ∧
      (((s.account 6).closeFree 6).queue 0).fin = none ∧ (acc 0x02 [(16, 6)]).op = 0x02 ∧ field (acc 0x02 [(16, 6)]).bytes 16 2 = 6) := by decide +kernel
theorem wit_Queues_create : ∀ e ∈ [1, 4095, 0xFFFF], ∀ n ∈ [4, 16], let y := [(16, 6), (18, e), (20, n), (21, 1), (22, 3), (24, 4096), (32, 8)]
    let s := dq 0x03 y (hostSt 1); let b := B 0x03 y
    bgn 0x03 [(16, 2), (18, 2), (20, 1), (21, 1), (22, 2), (24, 8), (32, 8)] y s = true ∧ field b 16 2 = 6 ∧ field b 20 1 = n ∧ field b 21 1 ≤ 1 ∧
    field b 24 8 % 4096 = 0 ∧ field b 32 8 % 8 = 0 ∧ (s.ring (field b 22 2)).live = true ∧ (s.ring (field b 22 2)).ctx = 6 ∧ (s.ctx 6).st ≠ .closed ∧
    (s.ctx 6).st ≠ .lost ∧ field b 18 2 = e ∧ (e = 0xFFFF ∨ (s.queue e).st = .free) ∧
    (e = 0xFFFF → lowestIn 1 4096 (fun i => (s.queue i).st == .free) = some 1) := by decide +kernel
theorem wit_Queues_destroy : ∀ e ∈ [(QState.live, []), (.free, []), (.live, [acc 0x10 []])], let y := [(16, 7)]
    let s0 := dq 0x04 y {}; let s := { s0 with queues := s0.queues ++ [(7, { st := e.1, acc := e.2 })] }
    bgn 0x04 [(16, 2)] y s = true ∧ field (B 0x04 y) 16 2 = 7 ∧ (s.queue 7).st = e.1 ∧ (s.queue 7).tail = (s.queue 7).head ∧ (s.queue 7).acc = e.2 := by
  decide +kernel
theorem wit_Rings : (∀ e ∈ [1, 511, 0xFFFF], ∀ n ∈ [6, 16], let y := [(16, 6), (18, e), (20, n), (21, 3), (22, 2047), (24, 4096)]
      let s := dq 0x05 y (hostSt 1); let b := B 0x05 y
      bgn 0x05 [(16, 2), (18, 2), (20, 1), (21, 1), (22, 2), (24, 8)] y s = true ∧ field b 16 2 = 6 ∧ field b 20 1 = n ∧ field b 21 1 ≤ 3 ∧ field b 22 2 < 2048 ∧
      field b 24 8 % 4096 = 0 ∧ (s.ctx 6).st ≠ .closed ∧ (s.ctx 6).st ≠ .lost ∧ s.faultRing 6 = none ∧ field b 18 2 = e ∧
      (e = 0xFFFF ∨ (s.ring e).live = false) ∧ (e = 0xFFFF → lowestIn 1 512 (fun i => !(s.ring i).live) = some 1)) ∧
    (∀ e ∈ [(3, true, false), (4, false, false), (3, true, true)], let y := [(16, e.1)]
      let s := dq 0x06 y { rings := [(3, { live := true, ctx := 6, faults := e.2.2 })] }
      bgn 0x06 [(16, 2)] y s = true ∧ field (B 0x06 y) 16 2 = e.1 ∧ (s.ring e.1).live = e.2.1 ∧ s.ringNamed e.1 = e.2.2) := by decide +kernel
def fenceSt (f : Fence) : State := { fences := [(9, f)], rings := [(3, { live := true, ctx := 5 })] }
theorem wit_Fences_create : ∀ e ∈ [(0, 3), (65534, 0xFFFF), (0xFFFF, 3)], let y := [(16, e.1), (18, 1), (20, e.2), (24, 7), (32, 8)]; let s := dq 0x50 y (fenceSt {})
    let b := B 0x50 y
    bgn 0x50 [(16, 2), (18, 1), (20, 2), (24, 8), (32, 8)] y s = true ∧ field b 18 1 ≤ 1 ∧ field b 32 8 % 8 = 0 ∧ field b 16 2 = e.1 ∧ field b 20 2 = e.2 ∧
    (e.2 = 0xFFFF ∨ (s.ring 3).live = true ∧ (s.ring 3).ctx = 5) ∧ (s.fence e.1).st = .free ∧ (s.fence 0).st = .free := by decide +kernel
theorem wit_Fences : ∀ e ∈ [(0x51, 6, [], 0), (0x51, 5, [], 0), (0x52, 6, [5], 0), (0x52, 5, [6], 0), (0x53, 5, [], 1), (0x53, 5, [], 2 ^ 63 - 1), (0x53, 5, [], 2 ^ 63),
      (0x54, 6, [5], 2 ^ 64 - 2 ^ 63 + 1), (0x54, 5, [], 2 ^ 63)], ∀ st ∈ [FState.live, .poisoned],
    let y := if e.1 = 0x51 then [(16, 9), (18, e.2.1)] else if e.1 = 0x52 then [(16, 9)] else [(16, 9), (24, e.2.2.2)]
    let s := dq e.1 y (fenceSt { st, owner := e.2.1, share := true, attached := e.2.2.1 }); let b := B e.1 y; let f := s.fence (field b 16 2)
    bgn e.1 (if e.1 = 0x51 then [(16, 2), (18, 2)] else if e.1 = 0x52 then [(16, 2)] else [(16, 2), (24, 8)]) y s = true ∧
    f.st = st ∧ f.share = true ∧ f.owner = e.2.1 ∧ f.attached = e.2.2.1 ∧ f.value = 0 ∧ f.nring = 0xFFFF ∧ f.wb = 0 ∧ f.ownerGone = false ∧ (s.queue 0).ctx = 5 ∧
    (s.queue 0).started = false ∧ (e.1 = 0x51 → field b 18 2 = f.owner) ∧ (0x53 ≤ e.1 → field b 24 8 = e.2.2.2) := by decide +kernel
theorem wit_Admin_tenant : ∀ e ∈ [(0, true, 7), (0, true, 8), (1, false, 7), (2, false, 8)], let y := [(16, e.2.2)]
    let s := dq 0x07 y { sec := { tenancy := e.1, clean := e.2.1, store := { root := 7, valid := true }, volRoot := 7 } }; let z := dq 0x08 [] { sec := { tenancy := e.1 } }
    bgn 0x07 [(16, 32)] y s = true ∧ s.sec.tenancy = e.1 ∧ s.sec.clean = e.2.1 ∧ (BitVec.ofNat 256 (field (B 0x07 y) 16 32) = s.sec.fRoot ↔ e.2.2 = 7) ∧
    bgn 0x08 [] [] z = true ∧ z.sec.tenancy = e.1 ∧ z.ctxs = [] ∧ (z.die 0).memsec.sealedNext = false := by decide +kernel
theorem wit_Admin_open_context : let s := dq 0x08 [] (hostSt 1); bgn 0x08 [] [] s = true ∧ s.sec.tenancy ≠ 0 ∧ ∃ e ∈ s.ctxs, e.1 ≠ 0 ∧ e.2.st ≠ .closed := by
  decide +kernel
theorem wit_Admin : (let y := [(16, 2 ^ 64 - 1)]; bgn 0x0A [(16, 8)] y (dq 0x0A y) = true) ∧
    (∀ lc ∈ [0, 1, 2, 3], let y := [(16, 5), (48, 64), (56, 1024)]; let s := dq 0x0B y { sec := { lcForce := lc, kek := 1, store := { idkey := true, valid := true } } }
      bgn 0x0B [(16, 32), (48, 8), (56, 4)] y s = true ∧ field (B 0x0B y) 48 8 % 64 = 0 ∧ field (B 0x0B y) 56 4 = 1024 ∧ s.sec.lcForce = lc ∧
      s.sec.idHeld = true) ∧
    (∀ e ∈ [(8, 0xFF), (9, 0), (32, 1)], ∀ l ∈ [none, some loop0], let y := [(16, e.1), (17, e.2), (18, e.2)];
      let s := dq 0x09 y { comps := [(0, { comp0 with loop := l })] };
      bgn 0x09 [(16, 1), (17, 1), (18, 1)] y s = true ∧ field (B 0x09 y) 16 1 = e.1 ∧ field (B 0x09 y) 17 1 = e.2 ∧ field (B 0x09 y) 18 1 = e.2 ∧
      s.anyLoop = l.isSome ∧ s.pwr.theta.toNat = 8) ∧
    (let s : State := { rst := { phase := .run }, hif := { ready := true, qlog2n := 16, elog2n := 6 } };
      s.inRun = true ∧ s.sec.terminal = false ∧ s.hif.enable = false ∧ s.hif.ready = true ∧ s.hif.qlog2n.toNat = 16 ∧ s.hif.elog2n.toNat = 6) := by
  decide +kernel
def fm (stamp unit : Nat) : FaultMsg :=
  { ctx := 5, stamp, die := 0, unit, code := 1, status := .slot, comp := 0, lane := 2, gen := 1, step := 0, fi := 0, ploc := 0, virt := false, vloc := 0, pc := 0,
    info := 0, addr := 0 }
theorem wit_FaultRecording : (∀ e ∈ [(CtxState.active, []), (.lost, [fm 3 2]), (.active, [fm 7 1, fm 3 2])],
      let s : State := { ctxs := [(5, { st := e.1 })], faultQ := e.2 ++ [{ fm 0 0 with ctx := 6 }] }
      s.faultQ.filter (fun m => m.ctx == 5) = e.2 ∧ (s.ctx 5).st = e.1 ∧ s.alive 5 = (e.1 == .active)) := by decide +kernel
theorem wit_Revocation : (∀ st ∈ [CtxState.lost, .active], let s : State := { comps := [(0, comp0)], dies := [(0, { lanes := [(2, {})] })], ctxs := [(5, { st })] }
      s.laneCtx 0 2 = some 5 ∧ (s.ctx 5).st = st) ∧
    (∀ e ∈ [([], false), ([(0, 4)], false), ([], true)],
      let s : State := { revs := [{ ctx := 5, acks := e.1 }], dies := [(0, { hstops := [(0, { regions := [(0, { revoked := true, advance := e.2, tag := 5 })] })] })] }
      s.revs.find? (fun r => r.ctx == 5) = some { ctx := 5, acks := e.1 } ∧ s.advancing 5 = e.2 ∧ ∀ r ∈ s.revs, r.ctx ≠ 6) := by decide +kernel
def cfgSt (p : Phase) (ready : Bool) : State := { rst := { phase := p }, hif := { ready }, ports := [(3, { mgmtin := ready })] }
theorem wit_MisalignedAccesses : ∀ a ∈ [(⟨0x20000000, false⟩ : CfgAddr), ⟨0x20000001, true⟩, ⟨0x20000007, true⟩], let s := cfgSt .run true
    s.inRun = true ∧ (a.aligned = false ∨ a.off % 8 ≠ 0) ∧ (s.port 3).mgmtin = true := by decide +kernel
theorem wit_ConfigAccesses : (cfgSt .entry true).inRun = false ∧ (cfgSt .run false).inRun = true ∧ ((cfgSt .run false).port 3).mgmtin = false ∧
    (let s := cfgSt .run true; s.inRun = true ∧ s.hif.ready = true ∧ s.sec.terminal = false ∧ (s.port 3).mgmtin = true ∧ s.resolve 0x20000008 = .one (.cfg 8) ∧
      s.resolve 0x38000000 = .unmapped ∧ s.resolve 0x33500000 = .many ((List.range 8).map fun d => .thr d 0) ∧ (s.die 7).working = true) ∧
    (cfgSt .run true).resolve 0x1000020 = .one (.core 0 0x20) ∧
    (∀ c ∈ [CoreState.run, .idle], ((({ cfgSt .run true with cores := [(0, { st := c })] } : State).core (⟨0, 0, 0⟩ : CoreId).key).st = c)) := by decide +kernel
theorem wit_Sideband : (∀ o ∈ [0x20080001, 0x40000000], o % 8 ≠ 0 ∨ 0x40000000 ≤ o) ∧
    (∀ o ∈ [0x2007FFF8, 0x20080000, 0x2008FFF8, 0x20090000, 0x3FFFFFF8, 0x20000040], let s := cfgSt .run true
      s.rst.phase = .run ∧ ¬ (o % 8 ≠ 0 ∨ 0x40000000 ≤ o) ∧ s.hif.ready = true ∧ s.sec.terminal = false) ∧
    (cfgSt .run false).hif.ready = false ∧ (cfgSt .run true).resolve 0x20000008 = .one (.cfg 8) ∧ (cfgSt .entry true).rst.phase = .entry ∧
    (cfgSt .off true).rst.phase ≠ .run ∧ (cfgSt .off true).rst.phase ≠ .entry := by decide +kernel
/-- A shape of one virtual die and one module with `n` clusters of one core, for variant `v` of an image with no bytes. -/
def shape (v n movef : Nat) : List Byte :=
  leBytes 112 (pack (([(0, 0x31504853), (4, 1), (6, 1), (7, 1), (9, 2), (10, 1), (11, v), (12, 0xFFFF), (14, movef), (32, (sha256 []).toNat), (65, n), (66, 1), (67, 9),
    (68, 6)] : List (Nat × Nat)).map fun (e : Nat × Nat) => (8 * e.1, e.2)))
def imgC : Image := { digest := sha256 [], variants := [var0] }
/-- One HOT model with a copy in tier M on die 0, whose cluster 0 has one free core. -/
def bindSt (role : Bool) (m : List (Nat × Comp)) : State :=
  { comps := m, models := [{ mod0 .hot with loadMap := [(0, 0)], copies := 1 }], cores := [(0, { enable := true })], dies := [(0, { clusters := [0] })]
    sb := { role }, ctxs := [(5, { st := .opened })] }
/-- A binding was found, and it is core 0 of cluster 0 in lane 0. -/
def bound (r : Except Status (List (Nat × Nat) × Nat × Binding)) : Option Bool :=
  match r with
  | .ok x => some (x == ([(0, 0)], 0, [(0, 0, 0, 0, [0])]))
  | .error _ => none
def createB : List (Nat × Nat) := [(16, 64), (24, 112), (32, 64)]
theorem wit_CompCreate : ∀ e ∈ [(false, 0, 1), (true, 0, 1), (false, 0, 2), (false, 1, 1)], let sh := shape e.2.1 e.2.2 4096
    let s := dq 0x40 createB (bindSt e.1 []) { buf := sh }; let b := B 0x40 createB; let d := (s.queue 0).buf.take (field b 24 4 + field b 40 8)
    let img : Image := { imgC with digest := sha256 (d.drop 112) }
    bgn 0x40 [(16, 8), (24, 4), (32, 8), (40, 8)] createB s = true ∧ field b 16 8 % 64 = 0 ∧ field b 32 8 % 64 = 0 ∧ field b 24 4 = 112 ∧
    (s.queue 0).readFailed = false ∧ d.length = 112 ∧ d.take 112 = sh ∧ (img.variant (shVariant sh) = if e.2.1 = 0 then some var0 else none) ∧
    (e.2.1 = 0 → shapeOk sh 112 = true ∧ s.shapeFits 5 sh img = true) ∧ s.sb.role = e.1 ∧ s.freeIndex = some 0 ∧ shNmod sh = 1 ∧
    (e.2.1 = 0 → bound (s.bindChecks 0 none [] [] (compOf 5 sh img 0) sh var0 true) = if e.2.2 = 1 then some true else none) := by decide +kernel
theorem wit_CompCreate_full : (bindSt false ((List.range 256).map fun i => (i, comp0))).freeIndex = none := by decide +kernel
def compR (st : CompState) (l : Option Loop) (sh : List Byte) : Comp :=
  { comp0 with st, loop := l, shape := sh, img := imgC, nmod := 1, lane := 0, movef := 1, clusters := [(0, 0, 0, 0, [0])] }
def rebindB : List (Nat × Nat) := [(16, 64), (24, 112)]
/-- The composition's state, its loop, the new count of clusters, and whether the binding fails. -/
theorem wit_CompRebind : ∀ e ∈ [(CompState.ready, none, 1, false), (.ready, some loop0, 1, false), (.rebind, none, 1, false), (.ready, none, 2, true)],
    let sh := shape 0 e.2.2.1 1; let m := compR e.1 e.2.1 (shape 0 1 1); let s := dq 0x41 rebindB (bindSt false [(0, m)]) { buf := sh }; let b := B 0x41 rebindB
    bgn 0x41 [(16, 8), (24, 4)] rebindB s = true ∧ field b 16 8 % 64 = 0 ∧ field b 12 2 = 0 ∧ field b 24 4 = 112 ∧ (s.queue 0).started = false ∧
    (s.queue 0).readFailed = false ∧ (s.queue 0).buf.length = 112 ∧ (s.queue 0).buf.take 112 = sh ∧ (s.comp 0).img.variant (shVariant sh) = some var0 ∧
    shapeOk sh 112 = true ∧ s.shapeFits 5 sh m.img = true ∧ shapeKeeps m.shape sh = true ∧ (s.comp 0).st = e.1 ∧ (s.comp 0).loop = e.2.1 ∧
    s.recRoom 0 (bindingSize m.shape sh) = true ∧ bound (s.bindChecks 0 (some 0) m.cores m.boundClusters m sh var0 false) = (if e.2.2.2 then none else some true) ∧ planFrames (carryOf 1 var0 m.clusters m.clusters) ≤ m.movef := by decide +kernel
theorem wit_CompDestroy : ∀ e ∈ [(CompState.ready, none, []), (.failed, none, []), (.ready, some loop0, []), (.rebind, none, []), (.ready, none, [(7, 1, 2)])],
    let m : Comp := { comp0 with st := e.1, loop := e.2.1, attached := e.2.2.map fun (a : Nat × Nat × Nat) => (BitVec.ofNat 64 a.1, a.2.1, a.2.2) }
    let s := dq 0x42 [] { comps := [(0, m)] }; bgn 0x42 [] [] s = true ∧ (s.comp 0).st = e.1 ∧ (s.comp 0).loop = e.2.1 ∧ (s.comp 0).attached.length = e.2.2.length := by
  decide +kernel
theorem wit_DrainRelease : ∀ d ∈ [true, false], let s : State := { comps := [(255, { comp0 with draining := d, nmod := 1, heldCores := [0], heldClusters := [(0, 0)] })] }
    let m := s.comp 255
    m.draining = d ∧ s.oldWork 255 = false ∧ s.heldDrained m = true ∧ m.nmod = 1 := by decide +kernel
/-- A composition of two modules with CID 9. -/
def joinC (st : CompState) (vmod : Nat) (shift : Bool) : Comp :=
  { comp0 with st, nmod := 2, vmod, fanout := 2, cid := 9, balShift := shift, shape := shape 0 1 1, joined := [(0, 0)] }
theorem wit_Joining : ∀ e ∈ [(CompState.joining, 0, false), (.joining, 1, false), (.ready, 0, true), (.ready, 0, false)],
    let s : State := { comps := [(0, joinC e.1 e.2.1 e.2.2)] }; let m := s.comp 0
    s.compByCid 9 = some 0 ∧ s.compByCid 8 = none ∧ m.st = e.1 ∧ m.parent.isSome = (e.2.1 == 1) ∧ m.gen = 1 ∧ m.vmod = e.2.1 ∧ m.balShift = e.2.2 ∧ 1 < m.nmod ∧
    (∀ x ∈ m.joined, x.1 ≠ 1) ∧ m.joined.length ≠ m.nmod ∧ shapeDigest m.shape ≠ 0 := by decide +kernel
theorem wit_CompRebind_bound : let m := { compR .ready (some loop0) (shape 0 1 1) with clusters := [(0, 0, 0, 1, [coreKey 0 1 0])] }
    let s := dq 0x41 rebindB (bindSt false [(0, m)]) { buf := shape 0 1 1 }
    bgn 0x41 [(16, 8), (24, 4)] rebindB s = true ∧ bound (s.bindChecks 0 (some 0) m.cores m.boundClusters m (shape 0 1 1) var0 false) = some true ∧
    rebindKind m.shape m.shape m.clusters [(0, 0, 0, 0, [0])] = 2 ∧ m.movef < planFrames (carryOf 2 var0 m.clusters [(0, 0, 0, 0, [0])]) := by decide +kernel
/-- Sampling parameters with TOPP 1.0, and the descriptor of LOOP_START. -/
def sp : List Byte := leBytes 64 (0x3F800000 * 2 ^ 160)
def loopB (breq : Nat) : List (Nat × Nat) := [(16, breq), (20, 3), (22, 3), (24, 64), (32, 0)]
def loopC (l : Option Loop) : Comp := { compR .ready l (shape 0 1 1) with diemap := [(0, 0)], lane := 2 }
def admSt (m : Comp) (warn role live : Bool) (ev : Option Nat) : State :=
  { comps := [(0, m)], pwr := { warn }, sb := { role }, rings := [(3, { live, ctx := 5 })], tongs0 := { evHolder := [(1, ev)] } }
/-- The composition, a supply warning, the pool role, the ring's liveness and the holder of the event slot. -/
theorem wit_LoopStart : ∀ e ∈ [(loopC none, false, false, true, some 5), (loopC none, false, false, true, none), (loopC (some loop0), false, false, true, some 5),
      (loopC none, true, false, true, some 5), (loopC none, false, true, true, some 5), (loopC none, false, false, false, some 5)], ∀ breq ∈ [3, 4, 65535],
    let s := dq 0x48 (loopB breq) (admSt e.1 e.2.1 e.2.2.1 e.2.2.2.1 e.2.2.2.2) { buf := sp }; let b := B 0x48 (loopB breq); let m := s.comp (field b 12 2)
    bgn 0x48 [(16, 4), (20, 1), (21, 1), (22, 2), (24, 8), (32, 4)] (loopB breq) s = true ∧ field b 16 4 = breq ∧ field b 20 1 = 3 ∧ field b 21 1 ≤ 1 ∧
    field b 24 8 % 64 = 0 ∧ field b 22 2 = 3 ∧ (s.ring 3).ctx = (s.queue 0).ctx ∧ field b 32 4 = 0 ∧ (s.queue 0).readFailed = false ∧ (s.queue 0).buf.length = 64 ∧
    sparamsOk ((s.queue 0).buf.take 64) = true ∧ s.ltabOk 0 0 = true ∧ m.st = .ready ∧ m.loop = e.1.loop ∧ s.sb.role = e.2.2.1 ∧ s.pwr.warn = e.2.1 ∧
    (s.ring 3).live = e.2.2.2.1 ∧ (s.tongs (s.ring 3).port).freeEvSlot 5 = (e.2.2.2.2.map fun _ => 1) ∧ m.img.variant m.variant = some var0 ∧
    recReserve ≤ (s.recRing 0).freeBytes ∧ loopBound (loopFrames var0 3 m.movef) s.pwr.theta.toNat = 4 := by decide +kernel
/-- A record ring that holds `n` bytes. -/
def ringOf (n : Nat) : RecRing := { recs := [{ kind := 0, seq := 0, step := 0, bytes := List.replicate n 0 }] }
theorem ringOf_free (n : Nat) : (ringOf n).freeBytes = recBytes - n := by
  unfold RecRing.freeBytes RecRing.used ringOf
  rw [List.map_cons, List.map_nil, List.sum_cons, List.sum_nil, List.length_replicate, Nat.add_zero]
theorem wit_ring_full (k n : Nat) : let s : State := { recs := [(k, ringOf recBytes)] }; s.recRoom k n = false ∧ (s.recRing k).freeBytes < recReserve := by
  have h : ({ recs := [(k, ringOf recBytes)] } : State).recRing k = ringOf recBytes := by
    unfold State.recRing Tab.look; rw [if_pos rfl]
  refine ⟨?_, by rw [h, ringOf_free, Nat.sub_self]; decide⟩
  unfold State.recRoom
  rw [h, ringOf_free, Nat.sub_self, decide_eq_false]
  have : 0 < recReserve := by decide
  omega
theorem wit_LoopStop : ∀ l ∈ [none, some loop0], let s := dq 0x49 [] (admSt (loopC l) false false true none)
    bgn 0x49 [] [] s = true ∧ (s.queue 0).started = false ∧ (s.comp 0).loop = l := by decide +kernel
theorem wit_SampleSet : ∀ m ∈ [loopC none, loopC (some loop0), { loopC none with st := .joining }], let y := [(24, 64)]
    let s := dq 0x4A y (admSt m false false true none) { buf := sp }
    bgn 0x4A [(24, 8)] y s = true ∧ field (B 0x4A y) 24 8 % 64 = 0 ∧ (s.queue 0).readFailed = false ∧ (s.queue 0).buf.length = 64 ∧
    sparamsOk ((s.queue 0).buf.take 64) = true ∧ (s.comp 0).st = m.st ∧ (s.comp 0).loop = m.loop ∧ s.recRoom 0 128 = true := by decide +kernel
theorem wit_Draft : ∀ m ∈ [loopC none, { loopC none with vmod := 1 }, { loopC none with st := .joining }], let y := [(16, 64)]
    let s := dq 0x4B y (admSt m false false true none) { buf := List.replicate 768 0 }
    bgn 0x4B [(16, 8)] y s = true ∧ field (B 0x4B y) 16 8 % 64 = 0 ∧ (s.queue 0).readFailed = false ∧ (s.queue 0).buf.length = 768 ∧ (s.comp 0).st = m.st ∧
    (s.comp 0).vmod = m.vmod := by decide +kernel
def admitted : Loop := { loop0 with draftAdm := [4, 1, 4, 3, 5] }
theorem wit_StopDsrc : ∀ l ∈ [none, some admitted], let s := loopSt {} { comp0 with loop := l }
    s.laneLoop 0 2 = l ∧ (admitted.draftAdm[1 + 1]?).getD 0 ≤ admitted.draftAdm.headD 0 ∧ admitted.draftAdm.headD 0 < (admitted.draftAdm[3 + 1]?).getD 0 := by
  decide +kernel
theorem wit_UserPrograms : ∀ e ∈ [(true, 2, 0), (true, 2, 1), (false, 2, 0), (true, 3, 0)],
    let s : State := { comps := [(0, comp0)], dies := [(0, { quantum := BitVec.ofNat 3 e.2.1, lanes := [(2, { dsrc := BitVec.ofNat 2 e.2.2 })], ucps := [(2, { running := e.1 })] })] }
    (s.ucp 0 2).running = e.1 ∧ (s.ucp 0 2).waiting = false ∧ (s.die 0).quantum.toNat = e.2.1 ∧ s.laneComp 0 2 = some 0 ∧ (s.comp 0).vmod = 0 ∧
    ((s.lane 0 2).dsrc = 0 ↔ e.2.2 = 0) ∧ recForce [] = false := by decide +kernel
def rec1 (kind step n : Nat) : Rec := { kind, seq := 0, step := BitVec.ofNat 64 step, bytes := List.replicate n 0 }
theorem wit_RecordFetch : ∀ n ∈ [0, 8, 9], let y := [(16, n), (24, 64), (32, 4096)]
    let s := dq 0x4C y { comps := [(0, comp0)], recs := [(0, { recs := [rec1 1 0 64, rec1 5 8 64] })] }; let b := B 0x4C y
    bgn 0x4C [(16, 8), (24, 8), (32, 4)] y s = true ∧ field b 24 8 % 64 = 0 ∧ field b 32 4 % 64 = 0 ∧ 4096 ≤ field b 32 4 ∧ field b 12 2 = 0 ∧ (s.comp 0).st = .ready ∧
    field b 16 8 = n ∧ (s.recRing 0).nextStep = 8 := by decide +kernel
theorem wit_Recorder : ∀ e ∈ [(true, 5), (true, 9), (false, 5)],
    let s : State := { hif := { ready := true }, recIndex := 255, recs := [(255, { recs := [rec1 e.2 0 64], orphan := e.1, due := [(4, 7)] })] }
    (s.recRing 255).orphan = e.1 ∧ s.hif.ready = true ∧ (s.recRing 255).closed = (e.2 == 9) ∧ (s.recRing 255).recs ≠ [] ∧ s.recIndex.toNat = 255 ∧
    (s.recRing 255).due = [(4, 7)] ∧ (s.recRing 0).due = [] ∧ s.sec.idHeld = false ∧ (({ s with comps := [(255, comp0)] } : State).comp 255).st ≠ .free := by
  decide +kernel
/-- A pool map entry. -/
def entry (op epoch member len : Nat) : List Byte :=
  leBytes 64 (pack (([(0, 7), (8, 1), (12, epoch), (16, member), (20, op), (24, h0), (40, len), (48, 600000)] : List (Nat × Nat)).map
    fun (e : Nat × Nat) => (8 * e.1, e.2)))
def poolB : List (Nat × Nat) := [(16, 64), (24, 1)]
/-- The entry's OP and LEN, the composition's loop, and whether its object is live. -/
theorem wit_PoolMaps : ∀ e ∈ [(1, 64, none, true), (1, 4 * 2 ^ 16 + 64, none, true), (8, 64, none, true), (1, 64, some loop0, true), (1, 64, none, false), (7, 0, none, false)],
    let s := dq 0x4D poolB (objSt e.2.2.1 4 { obj0 with n := 4, live := e.2.2.2 }) { buf := entry e.1 1 3 e.2.1 }; let b := B 0x4D poolB
    let x := poolEntry ((s.queue 0).buf.take 64) 0
    bgn 0x4D [(16, 8), (24, 4)] poolB s = true ∧ field b 16 8 % 64 = 0 ∧ field b 24 4 = 1 ∧ field b 12 2 = 0 ∧ (s.queue 0).started = false ∧
    (s.queue 0).readFailed = false ∧ (s.queue 0).buf.length = 64 ∧ s.sb.role = false ∧ (s.comp 0).st = .ready ∧ (s.comp 0).loop = e.2.2.1 ∧
    (entryOk false s.devId x = (e.1 != 8)) ∧ (e.1 = 1 → s.entryRange 0 x = (e.2.1 == 64)) ∧ (e.1 = 7 → s.entryRange 0 x = true) ∧
    (e.1 ≠ 8 → s.entryLive 0 x = (e.2.2.2 || e.1 == 7)) ∧ s.recRoom 0 128 = true := by decide +kernel
theorem wit_PoolMaps_member : let y := poolB ++ [(8, 0xFFFF00000000 - 1)]; let s := { dq 0x4D y {} { buf := entry 5 1 0 0 } with sb := { role := true } }; let b := B 0x4D y
    bgn 0x4D [(16, 8), (24, 4)] y s = true ∧ field b 12 2 = 0xFFFF ∧ field b 8 4 = 0 ∧ field b 24 4 = 1 ∧
    entryOk true s.devId (poolEntry ((s.queue 0).buf.take 64) 0) = true ∧ s.entryRange 0xFFFF (poolEntry ((s.queue 0).buf.take 64) 0) = true := by decide +kernel
/-- A pool member that serves, with session 7. -/
def memSt (x : Session) (gone : List Nat := []) : State := { rst := { phase := .run }, sb := { role := true }, pool := { sessions := [(7, x)], discarded := gone } }
theorem wit_member : (memSt {}).member = true ∧ ({} : State).member = false ∧ (memSt {} [7]).goneSid 7 = true ∧ (memSt {}).goneSid 7 = false ∧ (memSt {} [7]).member = true := by
  decide
theorem wit_PoolSpace (n : Nat) (x : Session) (h : x.offered = none) (hb : x.bytes = []) : (memSt x).poolSpace 0 = true ∧ (memSt x).poolSpace (n - n) = true := by
  have : (memSt x).poolUsed = 0 := by unfold State.poolUsed memSt; simp [h, hb]
  unfold State.poolSpace; simp [this]
theorem wit_PoolEntries : ∀ e ∈ [(Own.none, none, none), (.dropped 2, none, none), (.own 1, none, none), (.own 1, some 9, none), (.own 1, none, some 4), (.prep 1 4, none, none),
      (.given 1 4, none, some 4), (.own 2, none, none)], let s := memSt { mgen := 3, own := e.1, attacher := e.2.1, target := e.2.2 }; let x := s.session 7
    x.own = e.1 ∧ x.attacher = e.2.1 ∧ x.target = e.2.2 ∧ x.mgen.toNat ≤ (3 : BitVec 32).toNat ∧ (2 : BitVec 32).toNat < x.mgen.toNat ∧ s.member = true ∧
    s.goneSid 7 = false ∧ x.bytes = [] ∧ x.offered = none ∧ x.commits = 0 := by decide
theorem wit_Handoff : ∀ e ∈ [(Own.none, some (4, 2, 2), none), (.dropped 1, none, none), (.own 1, none, some 4), (.prep 2 4, none, none), (.given 2 4, none, some 4)],
    let s := memSt { own := e.1, offered := e.2.1, target := e.2.2 }; let x := s.session 7
    x.own = e.1 ∧ x.offered = e.2.1 ∧ x.target = e.2.2 ∧ s.member = true ∧ s.goneSid 7 = false ∧ (2 : BitVec 32) - 1 = 1 := by decide
theorem wit_Handoff_offer : let s := memSt { own := .dropped 1, mgen := 3 }; let x := s.session 7
    x.own ≠ .own x.epoch ∧ x.epoch.toNat < (2 : BitVec 32).toNat ∧ (2 : BitVec 32).toNat < x.mgen.toNat ∧ x.mgen.toNat ≤ (3 : BitVec 32).toNat := by decide
theorem wit_Handoff_block : let s := memSt { offered := some (4, 2, 2) }; ∀ n ∈ [1, 2], let p : PoolData := { sid := 7, epoch := 2, off := 0, data := List.replicate n 0 }
    s.goneSid p.sid = false ∧ (s.session p.sid).offered = some (4, p.epoch.toNat, 2) ∧ (p.off + p.data.length = 2 ↔ n = 2) := by decide
theorem wit_Disputes : ∀ e ∈ [(Own.own 1, false), (.given 1 4, false), (.given 1 4, true), (.prep 1 4, false), (.prep 1 4, true)],
    let s := memSt { own := e.1, target := some 4, resolving := e.2 }; let x := s.session 7
    s.member = true ∧ s.goneSid 7 = false ∧ x.own = e.1 ∧ x.target = some 4 ∧ x.resolving = e.2 := by decide
def train (pass dev role flight : Nat) (keyOk : Bool) : LinkTrain :=
  { pass := BitVec.ofNat 5 pass, peerId := dev, peerPort := 0, peerRole := role, peerNonce := 0, keyOk, flight }
def linkSt (p : Port) : State := { rst := { phase := .run }, sec := { volFs := some 1 }, ports := [(8, p), (9, p)] }
theorem wit_LinkTraining : ∀ st ∈ [PortState.training, .up, .down, .off], ∀ en ∈ [true, false], let s := linkSt { st, enable := en }
    (s.port 8).st = st ∧ (s.port 8).enable = en ∧ s.inRun = true ∧ s.sec.fs ≠ none := by decide
/-- What the lane test passed, and how many lanes of 0 to 3 failed. -/
theorem wit_LinkTraining_lanes : ∀ e ∈ [(0x1F, 0), (0xF, 0), (0x17, 1), (0x7, 1), (0x13, 2)], let t := train e.1 3 0 30 true
    ((List.range 4).filter fun n => !t.pass.toNat.testBit n).length = e.2 ∧ (t.pass.toNat.testBit 4 = true ↔ 0xF < e.1) := by decide
theorem wit_LinkTraining_peer : let s := linkSt {}
    (∀ e ∈ [(3, 0), (0x3FFFF, 2)], e.1 ≠ s.route.devid.toNat ∧ (e.2 = 2 → (8 = 0 ∨ 8 = 8)) ∧ (e.2 ≠ 2 → e.1 ≠ 0x3FFFF)) ∧ 0 = s.route.devid.toNat ∧
    ¬ (9 = 0 ∨ 9 = 8) ∧ ¬ (30 < (train 0x1F 3 0 30 true).flight) ∧ 30 < (train 0x1F 3 0 31 true).flight := by decide
theorem wit_LinkMessages : ∀ e ∈ [(0, none), (2 ^ 47 - 1, none), (2 ^ 47, none), (2 ^ 48 - 17, none), (2 ^ 48 - 16, none), (2 ^ 48 - 1, some (2 ^ 48 - 1))],
    let s := linkSt { st := .up, txfc := BitVec.ofNat 48 e.1, txRekey := e.2, tx := [(3, 1 + 2 * 32)] }; let p := s.port 8
    p.st = .up ∧ p.txfc.toNat = e.1 ∧ p.txRekey = e.2 ∧ p.rxEpoch = 0 ∧ p.rxfc.toNat = 0 ∧ p.runsLane 2 = true := by decide
/-- A port with a run of lane 2 and class 1 at slots 3 and 4 of either direction. -/
def runPort (fc : Nat) : Port := { st := .up, peerId := 6, txfc := BitVec.ofNat 48 fc, tx := [(3, 1 + 4 + 64), (4, 3)], rx := [(3, 1 + 4 + 64), (4, 3)], seen := [9] }
theorem wit_LinkTraffic_slots : (∀ fc ∈ [0, 2 ^ 48 - 1], let p := (linkSt (runPort fc)).port 8
      p.st = .up ∧ lkValid (lkEntry p.tx 4) = true ∧ lkCont (lkEntry p.tx 4) = true ∧ lkValid (lkEntry p.tx 3) = true ∧ lkCont (lkEntry p.tx 3) = false ∧
      lkTransit (lkEntry p.tx 3) = false ∧ lkOwner (lkEntry p.tx 3) = 2 ∧ lkClass (lkEntry p.tx 3) = 1 ∧ lkValid (lkEntry p.tx 5) = false ∧
      (p.atSlot 3).isNone = (fc != 0) ∧ (p.atSlot 0).isNone = (fc != 0)) ∧ (linkSt { st := .down }).port 8 = { st := .down } := by decide
theorem wit_LinkTraffic_receive : ∀ g ∈ [1, 2], let s := { linkSt (runPort 0) with comps := [(0, { comp0 with diemap := [(0, 4)] })] }; let p := s.port 8; let r := lkEntry p.rx 3
    let x : RxBlock := { corrected := 0, bad := 0, tagOk := true, slot := 3, k := 2, symerr := [], degraded := 0,
                         blk := { dest := 0, src := 6, cls := 1, last := true, ctr := 0, faddr := 0, gen := BitVec.ofNat 32 g, flits := [0] } }
    p.st = .up ∧ lkStart p.rx x.slot.val = true ∧ x.blk.cls = lkClass r ∧ x.k = lkRun p.rx x.slot.val ∧ x.blk.dest = s.route.devid.toNat ∧ x.blk.src = p.peerId.toNat ∧
    x.blk.flits ≠ [] ∧ s.laneComp 4 (lkOwner r) = some 0 ∧ (x.blk.gen = (s.comp 0).gen ↔ g = 1) := by decide
theorem wit_LinkTraffic_messages : let p := (linkSt (runPort 0)).port 8; (9 : BitVec 16) ∈ p.seen ∧ (8 : BitVec 16) ∉ p.seen ∧ 5 ≠ (linkSt {}).route.devid.toNat ∧
    peerOnly (.gone 3) = false ∧ (p.authTimes.filter fun t => decide (0 < t + 200000)).length < 7 ∧
    7 ≤ ((List.replicate 7 1).filter fun t => decide (200000 < t + 200000)).length := by decide
def secSt (x : Sec) (vin : Nat) : State := { rst := { phase := .run }, sec := x, pwr := { vin := BitVec.ofNat 16 vin } }
def lc (st target : Nat) : Sec := { copy0 := lcWord st, copy1 := lcWord st, copy2 := lcWord st, target := BitVec.ofNat 3 target }
/-- Every pair of 13 Table 5 with a met precondition and the right token, and one pair that it does not list. -/
theorem wit_LifecycleAdvance : ∀ e ∈ [(0, 1), (1, 2), (2, 3), (2, 4), (0, 4), (1, 4), (3, 4), (3, 2)],
    let g := some (sha256 ({} : Sec).args)
    let x : Sec := { lc e.1 e.2 with vk0 := some 1, kek := 1, volFs := some 1, tProv := g, tDeploy := g, tReturn := g, tTerm := g,
                                     store := { valid := true, idkey := true, fs := some 1 } }
    let s := secSt x 50000
    s.inRun = true ∧ x.terminal = false ∧ x.fails.toNat < 8 ∧ x.state = e.1 ∧ x.tenancy ≠ 1 ∧ 50000 ≤ s.pwr.vin.toNat ∧
    (((Claims.transitions x).any fun r => r.1 == x.state && r.2.1 == x.target.toNat && r.2.2.2 && (r.2.2.1 == none || r.2.2.1 == some (some (sha256 x.args)))) = (e.1 != 3 || e.2 == 4)) ∧
    (e.1 < e.2 → x.copy0 ||| lcWord e.2 = lcWord e.2) := by decide +kernel
theorem wit_LifecycleAdvance_stops : let x : Sec := { lc 0 1 with fails := 8 }; (secSt x 49999).pwr.vin.toNat < 50000 ∧ 8 ≤ x.fails.toNat ∧ (secSt (lc 0 1) 0).inRun = true ∧
    (({} : Sec).vk0.isSome = false) ∧ (∀ d, some x.tProv = some d → d ≠ some (sha256 x.args)) ∧ ({ x with lcForce := 4 } : Sec).terminal = true := by
  refine ⟨by decide, by decide, by decide, rfl, ?_, by decide⟩
  rintro d h; cases h; intro h; cases h
theorem wit_Provisioning_keys : (∀ e ∈ [(1, 0), (0, 0), (1, 1)], ∀ sel ∈ [true, false], let s := secSt { lcForce := e.1, kek := e.2, sel } 0
      s.inRun = true ∧ s.sec.terminal = false ∧ s.sec.lcForce = e.1 ∧ s.sec.kek = e.2 ∧ s.sec.current.version.toNat + 1 < 2 ^ 64 ∧ s.sec.sel = sel ∧
      s.sec.tDeploy = none ∧ s.sec.tTerm = none ∧ s.sec.fs = none) ∧
    (secSt { lcForce := 1, tDeploy := some 0 } 0).sec.tDeploy ≠ none ∧ (secSt { volFs := some 1 } 0).sec.fs ≠ none := by decide
theorem wit_Provisioning_ports : (∃ p < 16, (({ secSt {} 0 with ports := [(3, { st := .up })] } : State).port p).st = .up ∧ ∀ i ∈ some (2 : Fin 16), i.val ≠ p) ∧
    ¬ (∃ p < 16, ((secSt {} 0).port p).st = .up ∧ ∀ i ∈ some (2 : Fin 16), i.val ≠ p) ∧ (secSt {} 0).portUp false = false ∧ (secSt {} 0).portUp true = false ∧
    (secSt {} 0).sec.fwRunning = false ∧ ({ secSt {} 0 with ports := [(8, { st := .up })] } : State).portUp true = true ∧ (secSt {} 0).sec.verify [] ≠ .ok := by
  refine ⟨⟨3, by decide, by decide, by decide⟩, ?_, by decide, by decide, by decide, by decide, by decide +kernel⟩
  rintro ⟨p, -, h, -⟩; exact absurd h (by show ¬ PortState.off = .up; decide)
/-- A composition without a loop, a lane in a phase, causes that hold, and a power-loss dump. -/
def warnSt (run : Bool) (ls : LaneState) (causes : List Nat) (nodump : Bool) (d : Option Dump) (marked : Bool) : State :=
  { laneSt { st := ls } with rst := { phase := if run then .run else .entry, flossDump := d, marked }, pwr := { warn := !causes.isEmpty, causes, nodump } }
theorem wit_SupplyWarnings : ∀ run ∈ [true, false], ∀ ls ∈ [LaneState.start, .commit, .event, .idle], ∀ c ∈ [[], [1], [5], [1, 5]],
    ∀ d ∈ [none, some { kind := 2 }], ∀ mk ∈ [true, false], let s := warnSt run ls c mk d mk
    s.inRun = run ∧ (s.lane 0 2).st = ls ∧ s.pwr.causes = c ∧ s.pwr.warn = !c.isEmpty ∧ s.pwr.nodump = mk ∧ s.rst.flossDump = d ∧ s.rst.marked = mk ∧
    s.hif.ready = false ∧ s.rst.resets = 0 ∧ (∀ e ∈ s.comps, e.2.loop = none) := by decide
theorem wit_PowerUp : ∀ p ∈ [Phase.off, .powerUp true, .powerUp false, .run, .entry], (({ rst := { phase := p } } : State).rst.phase = p) := by decide
/-- Straps with both MARK pins, with one of them, and two samples that disagree. -/
theorem wit_PowerUp_straps : (∀ v ∈ [3, 0xFFF], bit (BitVec.ofNat 12 v).toNat 0 = true ∧ bit (BitVec.ofNat 12 v).toNat 1 = true) ∧
    (∀ v : BitVec 12, ∀ x ∈ [v, v], x = v) ∧ bit (2 : BitVec 12).toNat 0 = false ∧ bit (1 : BitVec 12).toNat 1 = false ∧
    ∃ x ∈ [(3 : BitVec 12), 7], ∃ y ∈ [(3 : BitVec 12), 7], x ≠ y :=
  ⟨by decide, by simp, by decide, by decide, 3, by simp, 7, by simp, by decide⟩
def thrSt (level pdie theta : Nat) (pinned : Bool) : State :=
  { rst := { phase := .run }, pwr := { theta := BitVec.ofNat 6 theta, pinned }
    dies := [(2, { thr := { level := BitVec.ofNat 7 level, pdie := BitVec.ofNat 12 pdie, vmin := 700 } })] }
theorem wit_Throttling : (∀ mv ∈ [699, 700, 719, 720], let s := thrSt 3 294 8 false
      s.inRun = true ∧ (s.die 2).thr.vmin.toNat = 700 ∧ (mv < 720 ↔ mv < (s.die 2).thr.vmin.toNat + 20)) ∧
    (∀ e ∈ [(294, 0, true), (300, 0, true), (301, 0, false), (301, 1, true), (400, 15, false), (400, 16, true)], let s := thrSt 3 e.1 8 false; let x := s.die 2
      s.pwr.pinned = false ∧ ((64 * s.pwr.pin.toNat ≤ 64 * s.pwr.inforce.toNat + e.2.1 * s.pwr.pin.toNat ∧ 64 * s.pwr.iin.toNat ≤ 64 * 7200 + e.2.1 * s.pwr.iin.toNat ∧
        64 * x.thr.pdie.toNat ≤ 64 * 300 + e.2.1 * x.thr.pdie.toNat) ↔ e.2.2 = true) ∧ 64 * (Claims.hottest x - 100) ≤ 16 * e.2.1 ∧
      (294 < x.thr.pdie.toNat ↔ e.1 ≠ 294)) ∧
    (thrSt 3 0 8 true).pwr.pinned = true ∧ (∀ c : Bool, let s : State := { comps := [(0, { comp0 with balShift := c })] };
      (∃ e ∈ s.comps, e.2.st ≠ .free ∧ e.2.balShift = true) ↔ c = true) := by
  refine ⟨by decide, by decide, by decide, ?_⟩
  intro c; simp [comp0]
def fmcSt (p : Phase) (q : Bool) (f : Fmc) : State := { rst := { phase := p }, dies := [(0, { fmc := { f with qualified := q } })] }
theorem wit_Clocks : (∀ p ∈ [Phase.off, .powerUp false, .powerUp true, .run], ∀ q ∈ [true, false], ∀ r ∈ [6, 7, 9], ∀ b ∈ [2, 3],
      let s := fmcSt p q { run := BitVec.ofNat 4 r, bad := b }
      s.rst.phase = p ∧ (s.die 0).fmc.qualified = q ∧ (s.die 0).fmc.run.toNat = r ∧ (s.die 0).fmc.bad = b ∧ (s.die 0).fmc.warned = false ∧
      (s.die 0).fmc.msrc.toNat < 11 ∧ (s.die 0).fmc.gsrc.toNat < 11 ∧ (s.die 0).fmc.gcyc ≠ 0 ∧ (s.die 0).fmc.busy = false) ∧
    (∀ n ∈ [102387, 102413], 102387 ≤ n ∧ n ≤ 102413) ∧ (∀ n ∈ [102386, 102414, 102298, 102502], ¬ (102387 ≤ n ∧ n ≤ 102413) ∧ ¬ (n < 102298 ∨ 102502 < n)) ∧
    (∀ n ∈ [102297, 102503], n < 102298 ∨ 102502 < n) ∧
    (∀ f ∈ [({ msrc := 11 } : Fmc), { gsrc := 15 }, { gcyc := 0 }], 11 ≤ f.msrc.toNat ∨ 11 ≤ f.gsrc.toNat ∨ f.gcyc = 0) := by decide
theorem wit_Clocks_release : let s : State := { fmcSt .run true { run := 9, warned := true } with pwr := { warn := true, causes := [5] } }
    (s.die 0).fmc.warned = true ∧ 9 ≤ (s.die 0).fmc.run.toNat ∧ s.pwr.warn = true ∧ (∀ c ∈ s.pwr.causes, c = 5) ∧
    (∀ e < 8, e ≠ 0 → (s.die e).fmc.warned = false) ∧ ({ fmcSt .run true { busy := true } with out := [] } : State).inRun = true := by decide
theorem wit_ResetCauses : (∀ e ∈ [([0, 1, 2, 3, 4], [], [0, 1, 2, 3], none), ([0, 1, 2, 3, 4], [1], [0, 4, 2, 3], none), ([0, 1, 2, 3], [], [0, 1, 2, 3], none),
      ([0, 1, 2, 3, 4], [2], [0, 1, 2, 3], some 2)],
      let x : Stewards := { good := e.1, failed := e.2.1, roles := e.2.2.1, takeover := e.2.2.2 }; let s : State := { rst := { phase := .run }, dies := [(1, { stew := x })] }
      s.inRun = true ∧ 3 ∉ (s.die 1).stew.failed ∧ 3 ∈ (s.die 1).stew.good ∧ 3 ∈ (s.die 1).stew.roles ∧ ((s.die 1).stew.failed = [] ↔ e.2.1 = []) ∧
      ((s.die 1).stew.spare = true ↔ e.1.length = 5 ∧ e.2.1 ≠ [1]) ∧ (s.die 1).stew.takeover = e.2.2.2) ∧
    ({ rst := { phase := .off } } : State).inRun = false ∧ (∀ c ∈ [CoreState.run, .fault], ((one { run 0 with st := c }).core k0.key).st = c) := by decide
theorem wit_Recovery : ∀ e ∈ [(true, Phase.entry), (true, .powerUp true), (false, .entry), (true, .run)], ∀ c ∈ [[], [(1, 3)]],
    let f := fmcSt e.2 e.1 {}; let s : State := { f with rst := { f.rst with collecting := c } }
    s.inEntry = (e.2 == .entry) ∧ s.inRun = (e.2 == .run) ∧ s.rst.collecting = c ∧ (s.die 0).fmc.qualified = e.1 := by decide
theorem wit_Recovery_ready : ∀ t ∈ [true, false], ∀ w ∈ [true, false], ∀ fw ∈ [true, false],
    let s : State := { rst := { phase := .run, selfTested := t }, sec := { fwRunning := fw }, dies := [(0, { working := w })] }
    s.inRun = true ∧ s.rst.selfTested = t ∧ s.hif.ready = false ∧ s.sec.terminal = false ∧ (s.die 0).working = w ∧ s.sec.fwRunning = fw ∧ s.sec.fwCopy = none := by
  decide
theorem wit_FusesOneWay : let s := State.reset; s.sec.vk0 = none ∧ s.sec.vk1 = none ∧ s.sec.vk2 = none ∧ s.sec.revoked = 0 ∧ s.sec.floor = 0 ∧ s.sec.tDeploy = none ∧
    s.sec.tTerm = none ∧ s.sec.kek = 0 ∧ s.sec.copy0 = 0 ∧ s.sec.copy1 = 0 ∧ s.sec.copy2 = 0 := by decide
theorem wit_StrapsLatched : ∃ t, step State.reset = .next t := ⟨_, rfl⟩
theorem wit_QueueUntouched : ∃ t, exec .clear State.reset = .next t := ⟨_, rfl⟩
def treeT : Tree := { base := 4, force := false, last := false, src := 3, seq := 0, parents := [0xFF], tokens := [7], slots := [0] }
def commitT : CommitW := { last := 0, drop := false, endc := 0, token := 9, step := 0 }
/-- The lane's phase, its tree, commit word and pending root. -/
def phaseSt (ls : LaneState) (t : Option Tree) (c : Option CommitW) (m : Comp) : State :=
  loopSt { st := ls, tree := t, commitw := c, root := some 7, lc := 4, lmax := 64, slots := 4 } { m with nmod := 1, loop := some loop0 }
theorem wit_StepPhases_start : let s := phaseSt .start none none { comp0 with holding := true }; let m := s.comp 0; let L := s.compLane 0
    m.st ≠ .free ∧ m.loop = some loop0 ∧ m.rootDie ∈ m.dies ∧ (s.ctx m.ctx).st ≠ .lost ∧ L.dieArrived = false ∧ L.st = .start ∧ L.tree = none ∧ m.vmod = 0 ∧
    m.nmod = 1 ∧ m.holding = true ∧ m.newest loop0.dsrc = none ∧ L.root = some 7 ∧ L.lc < L.lmax ∧ (prepareTree (rootTree L.lc 7) L.lmax L.slots L.used).slots ≠ [] := by
  decide
theorem wit_StepPhases_sample : let s := phaseSt .sample (some treeT) none { comp0 with params := some sp }; let m := s.comp 0; let L := s.compLane 0
    m.vmod = 0 ∧ L.st = .sample ∧ L.tree = some treeT ∧ m.params = some sp ∧ (sample (sparams sp) treeT [[0, 0x3F800000]] 0).isSome = true ∧
    sample (sparams sp) treeT [[]] 0 = none := by decide +kernel
theorem wit_StepPhases_commit : let s := phaseSt .commit (some treeT) (some commitT) comp0; let x := s.lane 0 2
    s.laneComp 0 2 = some 0 ∧ (s.comp 0).lane = 2 ∧ x.tree = some treeT ∧ x.commitw = some commitT ∧ x.st = .commit ∧ x.dieArrived = false ∧ x.barid ≠ 0xFE := by decide
theorem wit_StepPhases_event : let s := phaseSt .event (some treeT) (some commitT) { comp0 with vmod := 1 }; let m := s.comp 0; let L := s.compLane 0
    L.tree = some treeT ∧ L.commitw = some commitT ∧ (∀ d ∈ m.dies, (s.lane d m.lane).st = .event) ∧ m.vmod ≠ 0 ∧ commitT.endc = 0 ∧ loop0.warned = false := by decide
theorem wit_StepPhases_draft : let s := phaseSt .draft none none comp0; let m := s.comp 0
    (∀ d ∈ m.dies, (s.lane d m.lane).st = .draft) ∧ m.stage ≠ 2 ∧ loop0.dsrc = 2 ∧ m.vmod = 0 := by decide

end Sys2Proof.Tests
end

section
/-! PROOFS. Configuration accesses (00 R9, R12; 03 R111; 11 R405; 18 R542 to R545): what a read and a write of the
configuration space do at each target of an address, what each command that carries an access does, and the address
of `CORE_CTL`. -/

namespace Sys2Proof.Machine

/-! ### A read and a write at each target -/

section misaligned
variable (s : State) {a : CfgAddr} (hbad : a.aligned = false ∨ a.off % 8 ≠ 0)
include hbad

theorem State.cfgRead_misaligned (h : Nat) : s.cfgRead a h = (allOnes, s) :=
  if_pos (by simpa using hbad)

theorem State.cfgWrite_misaligned (src : CfgSrc) (v : Nat) : s.cfgWrite src a v = s :=
  if_pos (by simpa using hbad)

end misaligned

section served
variable {s : State} {a : CfgAddr} (ha : a.aligned = true) (h8 : a.off % 8 = 0) (hterm : s.sec.terminal = false)
include ha h8 hterm

theorem State.cfgRead_unmapped (hr : s.resolve a.off = .unmapped) (h : Nat) :
    s.cfgRead a h = (0, { s with cfg := { s.cfg with unmapped := satAdd s.cfg.unmapped 1 } }) := by
  simp [State.cfgRead, ha, h8, hr, State.countUnmapped, hterm]

theorem State.cfgWrite_unmapped (hr : s.resolve a.off = .unmapped) (src : CfgSrc) (v : Nat) :
    s.cfgWrite src a v = { s with cfg := { s.cfg with unmapped := satAdd s.cfg.unmapped 1 } } := by
  simp [State.cfgWrite, ha, h8, hr, State.countUnmapped, hterm]

variable (hready : s.hif.ready = true)
include hready

theorem State.cfgRead_one {r : RegId} (hr : s.resolve a.off = .one r) (h : Nat) :
    s.cfgRead a h = (s.regVal r, s.rcRead r h) := by
  simp [State.cfgRead, ha, h8, hr, State.readable, hterm, hready]

theorem State.cfgWrite_one {r : RegId} (hr : s.resolve a.off = .one r) (src : CfgSrc) (v : Nat) :
    s.cfgWrite src a v = s.regWrite src r v := by
  simp [State.cfgWrite, ha, h8, hr, hterm, hready]

theorem State.cfgRead_many {l : List RegId} (hr : s.resolve a.off = .many l) (h : Nat) :
    s.cfgRead a h = s.aliasRead l := by
  simp [State.cfgRead, ha, h8, hr, State.aliasable, hterm, hready]

theorem State.cfgWrite_many {l : List RegId} (hr : s.resolve a.off = .many l) (src : CfgSrc) (v : Nat) :
    s.cfgWrite src a v = l.foldl (fun (s : State) r => s.regWrite src r v) s := by
  simp [State.cfgWrite, ha, h8, hr, State.aliasable, hterm, hready]

end served

/-! ### The answer of an aliased read (18 R545) -/

/-- A bit of an OR over a list is set where it is set in the start value or in one of the list's. -/
theorem testBit_foldl_or (l : List Nat) (n i : Nat) :
    (l.foldl (· ||| ·) n).testBit i = (n.testBit i || l.any fun m => m.testBit i) := by
  induction l generalizing n with
  | nil => simp
  | cons m l ih => simp [ih, Bool.or_assoc]

theorem State.testBit_aliasRead (s : State) (l : List RegId) (i : Nat) :
    (s.aliasRead l).1.testBit i = l.any fun r => (s.regVal r).testBit i := by
  simp [State.aliasRead, testBit_foldl_or, List.any_map, Function.comp_def]

/-- SAME compares every selected value with the first; that is all of them with each other. -/
theorem State.aliasRead_same (s : State) (l : List RegId) :
    (s.aliasRead l).2.cfg.same = decide (∀ r ∈ l, ∀ r' ∈ l, s.regVal r = s.regVal r') := by
  cases l with
  | nil => rfl
  | cons q l =>
    have hsame : (s.aliasRead (q :: l)).2.cfg.same = (l.map s.regVal).all (· == s.regVal q) := rfl
    rw [hsame, Bool.eq_iff_iff, decide_eq_true_iff]
    simp only [List.all_map, List.all_eq_true, Function.comp_apply, beq_iff_eq]
    constructor
    · intro hq
      have hall : ∀ r ∈ q :: l, s.regVal r = s.regVal q := by simpa using hq
      exact fun r hr r' hr' => (hall r hr).trans (hall r' hr').symm
    · exact fun hall r hr => hall r (List.mem_cons_of_mem q hr) q List.mem_cons_self

/-- An aliased read leaves SAME and NSEL, and nothing else. -/
theorem State.aliasRead_state (s : State) (l : List RegId) :
    (s.aliasRead l).2 = { s with cfg := { s.cfg with
      same := decide (∀ r ∈ l, ∀ r' ∈ l, s.regVal r = s.regVal r'), nsel := BitVec.ofNat 16 l.length } } := by
  rw [← s.aliasRead_same l, ← List.length_map (as := l) s.regVal]
  rfl

/-! ### The commands that carry an access -/

theorem State.mgmtOk_of_mgmtin {s : State} {src : CfgSrc} (h : ∀ p, src = .mgmt p → (s.port p.val).mgmtin = true) :
    s.mgmtOk src = true := by
  cases src with
  | mgmt p => exact h p rfl
  | _ => rfl

section carried
variable {s : State} (hrun : s.inRun = true)
include hrun

theorem exec_cfgRd {src : CfgSrc} (hsrc : s.mgmtOk src = true) (tag : Nat) (a : CfgAddr) :
    exec (.cfgRd src tag a) s =
      .next ((s.cfgRead a 0).2.emit (.cfgData tag (BitVec.ofNat 64 (s.cfgRead a 0).1))) := by
  simp [exec, execCfgRd, State.takeCfgRd, hrun, hsrc]

theorem exec_cfgWr {src : CfgSrc} (hsrc : s.mgmtOk src = true) (a : CfgAddr) (v : Word64) :
    exec (.cfgWr src a v) s = .next (s.cfgWrite src a v.toNat) := by
  simp [exec, execCfgWr, State.takeCfgWr, hrun, hsrc]

theorem exec_cfgRd_dropped {src : CfgSrc} (hsrc : s.mgmtOk src = false) (tag : Nat) (a : CfgAddr) :
    exec (.cfgRd src tag a) s = .next (s.mgmtDrop src) := by
  simp [exec, execCfgRd, State.takeCfgRd, hrun, hsrc]

theorem exec_cfgWr_dropped {src : CfgSrc} (hsrc : s.mgmtOk src = false) (a : CfgAddr) (v : Word64) :
    exec (.cfgWr src a v) s = .next (s.mgmtDrop src) := by
  simp [exec, execCfgWr, State.takeCfgWr, hrun, hsrc]

theorem exec_registerWrite (a : CfgAddr) (v : Word64) :
    exec (.registerWrite a v) s = .next (s.cfgWrite (.host false) a v.toNat) := by
  simp [exec, execRegisterWrite, hrun]

theorem exec_rcRead (a : CfgAddr) (hw : Word64) :
    exec (.rcRead a hw) s =
      .next ((s.cfgRead a hw.toNat).2.emit (.regData (BitVec.ofNat 64 (s.cfgRead a hw.toNat).1))) := by
  simp [exec, execRcRead, State.plainRead, hrun]

theorem exec_aliasedRead (a : CfgAddr) :
    exec (.aliasedRead a) s = .next ((s.cfgRead a 0).2.emit (.regData (BitVec.ofNat 64 (s.cfgRead a 0).1))) := by
  simp [exec, execAliasedRead, State.plainRead, hrun]

end carried

/-- Outside RUN no access is carried out or answered. -/
theorem exec_access_outside_run {s : State} (hrun : s.inRun = false) (src : CfgSrc) (tag : Nat) (a : CfgAddr) (v : Word64) :
    exec (.cfgRd src tag a) s = .next s ∧ exec (.cfgWr src a v) s = .next s ∧
      exec (.registerWrite a v) s = .next s ∧ exec (.rcRead a v) s = .next s ∧ exec (.aliasedRead a) s = .next s := by
  simp [exec, execCfgRd, State.takeCfgRd, execCfgWr, State.takeCfgWr, execRegisterWrite, execRcRead, execAliasedRead,
    State.plainRead, hrun]

/-! ### `CORE_CTL` (03 R111) -/

/-- The registers of a core stand at their offsets in its place of the die's window. -/
theorem State.dieRegs_core (s : State) (d : Nat) {cl k o : Nat} (hcl : cl < 10) (hk : k < 26) (ho : o < 0x800) :
    s.dieRegs d (0x1000000 + cl * 0x10000 + k * 0x800 + o) = (false, [.core (coreKey d cl k) o]) := by
  have hin : inR (0x1000000 + cl * 0x10000 + k * 0x800 + o) 0x1000000 0x2000000 = true := by simp [inR]; omega
  have hy : 0x1000000 + cl * 0x10000 + k * 0x800 + o - 0x1000000 = cl * 0x10000 + k * 0x800 + o := by omega
  have hc : (cl * 0x10000 + k * 0x800 + o) / 0x10000 = cl := by omega
  have hr : (cl * 0x10000 + k * 0x800 + o) % 0x10000 / 0x800 = k := by omega
  have hoff : (cl * 0x10000 + k * 0x800 + o) % 0x800 = o := by omega
  have hcl' : cl ≠ 0xFF := by omega
  have hk' : k ≠ 0x1F := by omega
  have hpc : pick 10 0xFF cl = [cl] := by rw [pick, if_neg hcl', if_pos hcl]
  have hpk : pick 26 0x1F k = [k] := by rw [pick, if_neg hk', if_pos hk]
  simp [State.dieRegs, hin, hy, hc, hr, hoff, hpc, hpk, hcl', hk']

theorem State.resolve_coreCtl {s : State} (c : CoreId) (hw : (s.die c.die.val).working = true) :
    s.resolve (c.die.val * 0x4000000 + 0x1000000 + c.cluster.val * 0x10000 + c.core.val * 0x800) =
      .one (.core c.key 0) := by
  obtain ⟨⟨d, hd⟩, ⟨cl, hcl⟩, ⟨k, hk⟩⟩ := c
  dsimp only at hw ⊢
  have hlow : d * 0x4000000 + 0x1000000 + cl * 0x10000 + k * 0x800 < 0x20000000 := by omega
  have hdie : (d * 0x4000000 + 0x1000000 + cl * 0x10000 + k * 0x800) / 0x4000000 = d := by omega
  have hoff : (d * 0x4000000 + 0x1000000 + cl * 0x10000 + k * 0x800) % 0x4000000 =
      0x1000000 + cl * 0x10000 + k * 0x800 + 0 := by omega
  have hregs := s.dieRegs_core d hcl hk (by decide : 0 < 0x800)
  simp only [State.resolve, hlow, if_true, hdie, hoff, hregs]
  simp [hw, RegId.valid, coreKey, CoreId.key]

theorem exec_coreCtlWrite {s : State} (hrun : s.inRun = true) (hready : s.hif.ready = true)
    (hterm : s.sec.terminal = false) (c : CoreId) (hw : (s.die c.die.val).working = true) (v : Word64) :
    exec (.coreCtlWrite c v) s = .next (s.setCore c.key ((s.core c.key).writeCtl v.toNat)) := by
  have hx : exec (.coreCtlWrite c v) s = execCoreCtlWrite c v s := rfl
  rw [hx, execCoreCtlWrite, if_pos hrun,
    State.cfgWrite_one rfl (by dsimp only; omega) hterm hready (s.resolve_coreCtl c hw)]
  rfl

theorem Core.writeCtl_running {c : Core} (h : c.st = .run) (v : Nat) : c.writeCtl v = { c with wign := true } :=
  if_pos (by simp [h])

theorem Core.writeCtl_stopped {c : Core} (h : c.st ≠ .run) (v : Nat) :
    (c.writeCtl v).enable = v.testBit 0 ∧ (c.writeCtl v).fence = v.testBit 1 ∧
      (c.writeCtl v).entry = BitVec.ofNat 12 (v / 16 % 4096) ∧ (c.writeCtl v).scratch = c.scratch := by
  simp [Core.writeCtl, h, bit, fld, bits]

/-- The corrected-error counter of a core holds after its read what hardware added in the read's cycle (00 R12). -/
theorem State.rcRead_coreCorr (s : State) (k h : Nat) :
    s.rcRead (.core k 0x20) h = s.setCore k { s.core k with corr := BitVec.ofNat 32 (h % 2 ^ 32) } := by
  simp [State.rcRead, fld, bits]

end Sys2Proof.Machine

/-! ### The obligations -/

open Sys2Proof Sys2Proof.Machine

/-- Settles O34: an address that is not aligned gives all ones to a read and nothing to a write before it is resolved. -/
theorem misalignedAccesses : Obligations.MisalignedAccesses := by
  unfold Obligations.MisalignedAccesses
  intro s a hrun hbad
  refine ⟨fun src tag hin => ?_, fun v => ?_, fun hw => ?_, ?_⟩
  · have hsrc := State.mgmtOk_of_mgmtin hin
    refine ⟨?_, fun v => ?_⟩
    · rw [exec_cfgRd hrun hsrc, s.cfgRead_misaligned hbad]; rfl
    · rw [exec_cfgWr hrun hsrc, s.cfgWrite_misaligned hbad]
  · rw [exec_registerWrite hrun, s.cfgWrite_misaligned hbad]
  · rw [exec_rcRead hrun, s.cfgRead_misaligned hbad]; rfl
  · rw [exec_aliasedRead hrun, s.cfgRead_misaligned hbad]; rfl

/-- Settles O35, by what a read and a write do at each target of the address. -/
theorem configAccesses : Obligations.ConfigAccesses := by
  unfold Obligations.ConfigAccesses
  intro s src tag a v
  refine ⟨fun hrun => exec_access_outside_run hrun src tag a v, ?_, ?_, ?_⟩
  · rintro hrun p rfl hin i hi
    have hsrc : s.mgmtOk (.mgmt p) = false := hin
    simp only [List.mem_cons, List.not_mem_nil, or_false] at hi
    obtain rfl | rfl := hi
    · exact exec_cfgRd_dropped hrun hsrc tag a
    · exact exec_cfgWr_dropped hrun hsrc a v
  · intro hrun hready hterm ha h8 hin
    have hsrc := State.mgmtOk_of_mgmtin hin
    refine ⟨fun r hr => ⟨?_, ?_, ?_, ?_⟩, fun k hr => ?_, fun hr => ⟨?_, ?_⟩, fun l hr => ⟨?_, ?_⟩⟩
    · rw [exec_cfgRd hrun hsrc, State.cfgRead_one ha h8 hterm hready hr]
    · rw [exec_rcRead hrun, State.cfgRead_one ha h8 hterm hready hr]
    · rw [exec_cfgWr hrun hsrc, State.cfgWrite_one ha h8 hterm hready hr]
    · rw [exec_registerWrite hrun, State.cfgWrite_one ha h8 hterm hready hr]
    · rw [exec_rcRead hrun, State.cfgRead_one ha h8 hterm hready hr, s.rcRead_coreCorr]
    · rw [exec_cfgRd hrun hsrc, State.cfgRead_unmapped ha h8 hterm hr]; rfl
    · rw [exec_cfgWr hrun hsrc, State.cfgWrite_unmapped ha h8 hterm hr]
    · refine ⟨(s.aliasRead l).1, ?_, s.testBit_aliasRead l⟩
      rw [exec_aliasedRead hrun, State.cfgRead_many ha h8 hterm hready hr, s.aliasRead_state]
    · rw [exec_registerWrite hrun, State.cfgWrite_many ha h8 hterm hready hr]
  · intro hrun hready hterm c hw
    have hexec := exec_coreCtlWrite hrun hready hterm c hw v
    refine ⟨fun hst => ?_, fun hst => ⟨_, hexec, ?_⟩⟩
    · rw [hexec, Core.writeCtl_running hst]
    · rw [State.core_setCore]
      exact Core.writeCtl_stopped hst v.toNat

end

section
/-! PROOFS. What every command keeps: the queue behind it and the repair map, the straps unless it latches them, and
every bit of the fuses (01 R17; 13 R438; 16 R520). -/

namespace Sys2Proof.Machine

/-- The commands that latch the straps or make them latch anew (16 R518, R520). -/
def TakesStraps (c : Instr) : Prop :=
  c = .powerOnReset ∨ (∃ x, c = .strapWindow x) ∨ ∃ d h, c = .thermalPowerOnReset d h

/-- What `c` keeps of `a` in `b`: the queue and the repair map, every bit of the fuses, and the straps unless it takes
them anew. -/
structure Kept.KeptBy (c : Instr) (a b : Kept) : Prop where
  queue : a.sameQueue b
  fuses : a.fusesGrow b
  straps : a.sameStraps b ∨ TakesStraps c

theorem Kept.KeptBy.of_grows {c : Instr} {a b : Kept} (h : a.grows b) : a.KeptBy c b := by
  obtain ⟨hqueue, hstraps, hfuses⟩ := h
  exact ⟨hqueue, hfuses, .inl hstraps⟩

theorem Kept.KeptBy.of_kept {c : Instr} {a b : Kept} (h : b = a) : a.KeptBy c b :=
  .of_grows (.of_eq h)

theorem Kept.KeptBy.of_off {c : Instr} {a b : Kept} (h : a.sameQueue b ∧ a.fusesGrow b) (hc : TakesStraps c) :
    a.KeptBy c b :=
  ⟨h.1, h.2, .inr hc⟩

/-- What each command keeps, by the lemma of its own. -/
theorem exec_keptBy {s t : State} : ∀ c : Instr, exec c s = .next t → Kept.KeptBy c s.kept t.kept
  | .nop c, h => .of_kept (execNop_kept c s h)
  | .endp c, h => .of_kept (execEndp_kept c s h)
  | .jmp c, h => .of_kept (execJmp_kept c s h)
  | .lset c, h => .of_kept (execLset_kept c s h)
  | .loop c, h => .of_kept (execLoop_kept c s h)
  | .brc c, h => .of_kept (execBrc_kept c s h)
  | .clrc c hwSet, h => .of_kept (execClrc_kept c hwSet s h)
  | .xset c, h => .of_kept (execXset_kept c s h)
  | .xadd c, h => .of_kept (execXadd_kept c s h)
  | .waite c, h => .of_kept (execWaite_kept c s h)
  | .waitc c, h => .of_kept (execWaitc_kept c s h)
  | .cset c, h => .of_kept (execCset_kept c s h)
  | .waitf c, h => .of_kept (execWaitf_kept c s h)
  | .bar c, h => .of_kept (execBar_kept c s h)
  | .aclr c ovl, h => .of_kept (execAclr_kept c ovl s h)
  | .mma c ovl ue, h => .of_kept (execMma_kept c ovl ue s h)
  | .arnd c ovl ue, h => .of_kept (execArnd_kept c ovl ue s h)
  | .aexp c ovl ue, h => .of_kept (execAexp_kept c ovl ue s h)
  | .aadd c ovl ue, h => .of_kept (execAadd_kept c ovl ue s h)
  | .vadd c ovl ue, h => .of_kept (execVadd_kept c ovl ue s h)
  | .vsub c ovl ue, h => .of_kept (execVsub_kept c ovl ue s h)
  | .vmul c ovl ue, h => .of_kept (execVmul_kept c ovl ue s h)
  | .vfma c ovl ue, h => .of_kept (execVfma_kept c ovl ue s h)
  | .vdiv c ovl ue, h => .of_kept (execVdiv_kept c ovl ue s h)
  | .vsqrt c ovl ue, h => .of_kept (execVsqrt_kept c ovl ue s h)
  | .vmin c ovl ue, h => .of_kept (execVmin_kept c ovl ue s h)
  | .vmax c ovl ue, h => .of_kept (execVmax_kept c ovl ue s h)
  | .vfn c ovl ue, h => .of_kept (execVfn_kept c ovl ue s h)
  | .vcvt c ovl ue, h => .of_kept (execVcvt_kept c ovl ue s h)
  | .vqnt c ovl ue, h => .of_kept (execVqnt_kept c ovl ue s h)
  | .vsum c ovl ue, h => .of_kept (execVsum_kept c ovl ue s h)
  | .vrnd c ovl ue, h => .of_kept (execVrnd_kept c ovl ue s h)
  | .vsmx c ovl ue, h => .of_kept (execVsmx_kept c ovl ue s h)
  | .vrms c ovl ue, h => .of_kept (execVrms_kept c ovl ue s h)
  | .vln c ovl ue, h => .of_kept (execVln_kept c ovl ue s h)
  | .vtmk c ovl ue, h => .of_kept (execVtmk_kept c ovl ue s h)
  | .tsnd c ovl ue, h => .of_kept (execTsnd_kept c ovl ue s h)
  | .tget c ovl ue, h => .of_kept (execTget_kept c ovl ue s h)
  | .treq c ovl ue, h => .of_kept (execTreq_kept c ovl ue s h)
  | .refetchRequest die lane w, h => .of_kept (execRefetchRequest_kept die lane w s h)
  | .mirrorRefetchServe die stop block, h => .of_kept (execMirrorRefetchServe_kept die stop block s h)
  | .refetchLanding c ovl ue, h => .of_kept (execRefetchLanding_kept c ovl ue s h)
  | .flitDelivery die n cyc ovl bad badMirror ecc, h =>
      .of_kept (execFlitDelivery_kept die n cyc ovl bad badMirror ecc s h)
  | .elasticQueueArrival die stop f, h => .of_kept (execElasticQueueArrival_kept die stop f s h)
  | .routerFail die router, h => .of_kept (execRouterFail_kept die router s h)
  | .tgetReply die router, h => .of_kept (execTgetReply_kept die router s h)
  | .frameStart die, h => .of_kept (execFrameStart_kept die s h)
  | .compositionArrival die lane, h => .of_kept (execCompositionArrival_kept die lane s h)
  | .barrierRelease die lane, h => .of_kept (execBarrierRelease_kept die lane s h)
  | .barrierTimeout die lane remote unitFail, h => .of_kept (execBarrierTimeout_kept die lane remote unitFail s h)
  | .startPhase k, h => .of_kept (execStartPhase_kept k s h)
  | .samplePhase k logits, h => .of_kept (execSamplePhase_kept k logits s h)
  | .commitWord die lane, h => .of_kept (execCommitWord_kept die lane s h)
  | .eventPhase k, h => .of_kept (execEventPhase_kept k s h)
  | .draftPhase k rcd, h => .of_kept (execDraftPhase_kept k rcd s h)
  | .tileReadIssue die lane sp, h => .of_kept (execTileReadIssue_kept die lane sp s h)
  | .landingRecordSend die lane sp, h => .of_kept (execLandingRecordSend_kept die lane sp s h)
  | .hWindowService die stop win arrivals ue, h => .of_kept (execHWindowService_kept die stop win arrivals ue s h)
  | .mBlockService die stop block arrivals ue, h => .of_kept (execMBlockService_kept die stop block arrivals ue s h)
  | .refresh stop, h => .of_kept (execRefresh_kept stop s h)
  | .patrolScrub stop addr corrected ue, h => .of_kept (execPatrolScrub_kept stop addr corrected ue s h)
  | .train stop, h => .of_kept (execTrain_kept stop s h)
  | .stopTrainingTimeout stop, h => .of_grows (execStopTrainingTimeout_grows stop s h)
  | .timingUpkeep stop margin, h => .of_kept (execTimingUpkeep_kept stop margin s h)
  | .stopOwnWrite stop second v, h => .of_kept (execStopOwnWrite_kept stop second v s h)
  | .epochAdvance stop region, h => .of_kept (execEpochAdvance_kept stop region s h)
  | .fCommand die uncorrectable, h => .of_kept (execFCommand_kept die uncorrectable s h)
  | .fCommitRecheck die, h => .of_kept (execFCommitRecheck_kept die s h)
  | .modelStore q, h => .of_kept (execModelStore_kept q s h)
  | .modelWarm q, h => .of_kept (execModelWarm_kept q s h)
  | .modelLoad q, h => .of_kept (execModelLoad_kept q s h)
  | .modelLoadComplete slot bad, h => .of_kept (execModelLoadComplete_kept slot bad s h)
  | .modelPin q, h => .of_kept (execModelPin_kept q s h)
  | .modelUnpin q, h => .of_kept (execModelUnpin_kept q s h)
  | .modelEvict q, h => .of_kept (execModelEvict_kept q s h)
  | .modelDrop q, h => .of_kept (execModelDrop_kept q s h)
  | .modelDelete q, h => .of_kept (execModelDelete_kept q s h)
  | .allocRequestArrival die cluster r, h => .of_kept (execAllocRequestArrival_kept die cluster r s h)
  | .allocatorService die, h => .of_kept (execAllocatorService_kept die s h)
  | .tailDoorbell port ctx word zero, h => .of_kept (execTailDoorbell_kept port ctx word zero s h)
  | .headDoorbell port ctx word zero, h => .of_kept (execHeadDoorbell_kept port ctx word zero s h)
  | .armDoorbell port ctx word zero, h => .of_kept (execArmDoorbell_kept port ctx word zero s h)
  | .serviceSlot port, h => .of_kept (execServiceSlot_kept port s h)
  | .data tag failed bytes, h => .of_kept (execData_kept tag failed bytes s h)
  | .tongsReadTimeout tag, h => .of_kept (execTongsReadTimeout_kept tag s h)
  | .cfgRd src tag a, h => .of_kept (execCfgRd_kept src tag a s h)
  | .cfgWr src a v, h => .of_grows (execCfgWr_grows src a v s h)
  | .objRd tag off len, h => .of_kept (execObjRd_kept tag off len s h)
  | .objWr off bytes, h => .of_kept (execObjWr_kept off bytes s h)
  | .ctxOpen q, h => .of_kept (execCtxOpen_kept q s h)
  | .close q, h => .of_kept (execClose_kept q s h)
  | .closeComplete ctx, h => .of_kept (execCloseComplete_kept ctx s h)
  | .queueCreate q, h => .of_kept (execQueueCreate_kept q s h)
  | .queueDestroy q, h => .of_kept (execQueueDestroy_kept q s h)
  | .evringCreate q, h => .of_kept (execEvringCreate_kept q s h)
  | .evringDestroy q, h => .of_kept (execEvringDestroy_kept q s h)
  | .tenantStart q, h => .of_kept (execTenantStart_kept q s h)
  | .tenantEnd q, h => .of_kept (execTenantEnd_kept q s h)
  | .throttleSet q, h => .of_kept (execThrottleSet_kept q s h)
  | .epochMark q, h => .of_kept (execEpochMark_kept q s h)
  | .attest q, h => .of_kept (execAttest_kept q s h)
  | .descriptorNop q, h => .of_kept (execDescriptorNop_kept q s h)
  | .query q, h => .of_kept (execQuery_kept q s h)
  | .objAlloc q, h => .of_kept (execObjAlloc_kept q s h)
  | .objFree q, h => .of_kept (execObjFree_kept q s h)
  | .objMap q, h => .of_kept (execObjMap_kept q s h)
  | .objUnmap q, h => .of_kept (execObjUnmap_kept q s h)
  | .objCopy q, h => .of_kept (execObjCopy_kept q s h)
  | .compCreate q img, h => .of_kept (execCompCreate_kept q img s h)
  | .compRebind q, h => .of_kept (execCompRebind_kept q s h)
  | .compDestroy q, h => .of_kept (execCompDestroy_kept q s h)
  | .drainRelease k, h => .of_kept (execDrainRelease_kept k s h)
  | .loopStart q, h => .of_kept (execLoopStart_kept q s h)
  | .loopStop q, h => .of_kept (execLoopStop_kept q s h)
  | .sampleSet q, h => .of_kept (execSampleSet_kept q s h)
  | .draft q, h => .of_kept (execDraft_kept q s h)
  | .recordFetch q, h => .of_kept (execRecordFetch_kept q s h)
  | .poolMap q answers, h => .of_kept (execPoolMap_kept q answers s h)
  | .create attacher sid mgen bytes, h => .of_kept (execCreate_kept attacher sid mgen bytes s h)
  | .attach attacher sid mgen epoch len leaseMs, h => .of_kept (execAttach_kept attacher sid mgen epoch len leaseMs s h)
  | .sync attacher sid mgen epoch leaseMs bytes, h => .of_kept (execSync_kept attacher sid mgen epoch leaseMs bytes s h)
  | .detach attacher sid mgen epoch bytes, h => .of_kept (execDetach_kept attacher sid mgen epoch bytes s h)
  | .drop sid mgen epoch, h => .of_kept (execDrop_kept sid mgen epoch s h)
  | .handoff sid mgen epoch target, h => .of_kept (execHandoff_kept sid mgen epoch target s h)
  | .resolve sid mgen peer, h => .of_kept (execResolve_kept sid mgen peer s h)
  | .fenceCreate q, h => .of_kept (execFenceCreate_kept q s h)
  | .fenceAttach q, h => .of_kept (execFenceAttach_kept q s h)
  | .fenceDetach q, h => .of_kept (execFenceDetach_kept q s h)
  | .fenceSignal q, h => .of_kept (execFenceSignal_kept q s h)
  | .fenceWait q, h => .of_kept (execFenceWait_kept q s h)
  | .faultRecording ctx window, h => .of_kept (execFaultRecording_kept ctx window s h)
  | .revokeLane die lane ctx, h => .of_kept (execRevokeLane_kept die lane ctx s h)
  | .revokeTag die ctx, h => .of_kept (execRevokeTag_kept die ctx s h)
  | .collect die, h => .of_kept (execCollect_kept die s h)
  | .ack die seq, h => .of_kept (execAck_kept die seq s h)
  | .revocationComplete ctx, h => .of_kept (execRevocationComplete_kept ctx s h)
  | .join cid vmod digest, h => .of_kept (execJoin_kept cid vmod digest s h)
  | .ready cid gen allShift, h => .of_kept (execReady_kept cid gen allShift s h)
  | .refuse cid vmod, h => .of_kept (execRefuse_kept cid vmod s h)
  | .joinDeadline k, h => .of_kept (execJoinDeadline_kept k s h)
  | .memberJoinDeadline k, h => .of_kept (execMemberJoinDeadline_kept k s h)
  | .bal cid vmod step waited, h => .of_kept (execBal_kept cid vmod step waited s h)
  | .caps cid step caps, h => .of_kept (execCaps_kept cid step caps s h)
  | .offer src sid epoch mgen len, h => .of_kept (execOffer_kept src sid epoch mgen len s h)
  | .prepAck src sid epoch, h => .of_kept (execPrepAck_kept src sid epoch s h)
  | .commit src sid epoch, h => .of_kept (execCommit_kept src sid epoch s h)
  | .commitAck src sid epoch, h => .of_kept (execCommitAck_kept src sid epoch s h)
  | .abort src sid epoch, h => .of_kept (execAbort_kept src sid epoch s h)
  | .resolveMessage src sid epoch, h => .of_kept (execResolveMessage_kept src sid epoch s h)
  | .resolveAns src sid kind epoch dev, h => .of_kept (execResolveAns_kept src sid kind epoch dev s h)
  | .gone dev, h => .of_kept (execGone_kept dev s h)
  | .prepAckTimeout sid, h => .of_kept (execPrepAckTimeout_kept sid s h)
  | .commitResend sid, h => .of_kept (execCommitResend_kept sid s h)
  | .resolveTimer sid, h => .of_kept (execResolveTimer_kept sid s h)
  | .resolveDeadline sid, h => .of_kept (execResolveDeadline_kept sid s h)
  | .leaseEnd sid, h => .of_kept (execLeaseEnd_kept sid s h)
  | .memberUnreachable dev, h => .of_kept (execMemberUnreachable_kept dev s h)
  | .poolBlock src p, h => .of_kept (execPoolBlock_kept src p s h)
  | .linkTraining port t, h => .of_kept (execLinkTraining_kept port t s h)
  | .linkTrainingTimeout port, h => .of_kept (execLinkTrainingTimeout_kept port s h)
  | .retrainDelay port, h => .of_kept (execRetrainDelay_kept port s h)
  | .hello port dev peerPort role nonce, h => .of_kept (execHello_kept port dev peerPort role nonce s h)
  | .echo port token hold, h => .of_kept (execEcho_kept port token hold s h)
  | .echoAns port token hold flight, h => .of_kept (execEchoAns_kept port token hold flight s h)
  | .lanes port excl degraded, h => .of_kept (execLanes_kept port excl degraded s h)
  | .rekey port epoch fcsw, h => .of_kept (execRekey_kept port epoch fcsw s h)
  | .rekeyStart port, h => .of_kept (execRekeyStart_kept port s h)
  | .fcThreshold port, h => .of_kept (execFcThreshold_kept port s h)
  | .counterExhausted port, h => .of_kept (execCounterExhausted_kept port s h)
  | .down port reason, h => .of_kept (execDown_kept port reason s h)
  | .controlSilence port, h => .of_kept (execControlSilence_kept port s h)
  | .lockLoss port, h => .of_kept (execLockLoss_kept port s h)
  | .retrain port, h => .of_kept (execRetrain_kept port s h)
  | .linkEnableWrite port on, h => .of_kept (execLinkEnableWrite_kept port on s h)
  | .txRun port slot, h => .of_kept (execTxRun_kept port slot s h)
  | .linkBlockReceive port b, h => .of_grows (execLinkBlockReceive_grows port b s h)
  | .controlBlock port units msgs, h => .of_kept (execControlBlock_kept port units msgs s h)
  | .checkpoint k, h => .of_kept (execCheckpoint_kept k s h)
  | .orphanClose k, h => .of_kept (execOrphanClose_kept k s h)
  | .release, h => .of_kept (execRelease_kept s h)
  | .lcAdvance sideband, h => .of_grows (execLcAdvance_grows sideband s h)
  | .keygen sideband, h => .of_grows (execKeygen_grows sideband s h)
  | .digestSet sideband, h => .of_grows (execDigestSet_grows sideband s h)
  | .fsSet port, h => .of_kept (execFsSet_kept port s h)
  | .boot sideband image failed, h => .of_grows (execBoot_grows sideband image failed s h)
  | .undervoltage stamp, h => .of_kept (execUndervoltage_kept stamp s h)
  | .overvoltage stamp, h => .of_kept (execOvervoltage_kept stamp s h)
  | .overcurrent stamp, h => .of_kept (execOvercurrent_kept stamp s h)
  | .warningRelease, h => .of_kept (execWarningRelease_kept s h)
  | .powerLossDumpErase, h => .of_kept (execPowerLossDumpErase_kept s h)
  | .powerOnReset, h => .of_off (execPowerOnReset_off s h) (.inl rfl)
  | .powerOn cmeas, h => .of_kept (execPowerOn_kept cmeas s h)
  | .powerUpRetry step, h => .of_kept (execPowerUpRetry_kept step s h)
  | .powerLossDumpCopy, h => .of_kept (execPowerLossDumpCopy_kept s h)
  | .droop die mv, h => .of_kept (execDroop_kept die mv s h)
  | .thermal die temp, h => .of_kept (execThermal_kept die temp s h)
  | .thermalPowerOnReset die temp, h => .of_off (execThermalPowerOnReset_off die temp s h) (.inr (.inr ⟨_, _, rfl⟩))
  | .throttleUpdate, h => .of_kept (execThrottleUpdate_kept s h)
  | .bubblePeriod die, h => .of_kept (execBubblePeriod_kept die s h)
  | .telemetrySample t, h => .of_kept (execTelemetrySample_kept t s h)
  | .fmcWindow die count chk, h => .of_kept (execFmcWindow_kept die count chk s h)
  | .go die, h => .of_kept (execGo_kept die s h)
  | .fmcMeasurementDone die count, h => .of_kept (execFmcMeasurementDone_kept die count s h)
  | .capWrite v, h => .of_kept (execCapWrite_kept v s h)
  | .reset key, h => .of_kept (execReset_kept key s h)
  | .sbRst, h => .of_kept (execSbRst_kept s h)
  | .stewardWatchdog die steward, h => .of_kept (execStewardWatchdog_kept die steward s h)
  | .stewardTakeover die, h => .of_kept (execStewardTakeover_kept die s h)
  | .moduleWatchdog, h => .of_kept (execModuleWatchdog_kept s h)
  | .teardownTimeout ctx, h => .of_kept (execTeardownTimeout_kept ctx s h)
  | .engineWatchdog c e, h => .of_kept (execEngineWatchdog_kept c e s h)
  | .collectionTimeout die unit, h => .of_kept (execCollectionTimeout_kept die unit s h)
  | .firmwareError, h => .of_kept (execFirmwareError_kept s h)
  | .resetRelease, h => .of_kept (execResetRelease_kept s h)
  | .hifReady, h => .of_grows (execHifReady_grows s h)
  | .clear, h => .of_kept (execClear_kept s h)
  | .strapWindow samples, h => .of_off (execStrapWindow_off samples s h) (.inr (.inl ⟨_, rfl⟩))
  | .smbCfgWr off v pecOk, h => .of_grows (execSmbCfgWr_grows off v pecOk s h)
  | .smbCfgAddr off pecOk, h => .of_grows (execSmbCfgAddr_grows off pecOk s h)
  | .smbCfgData pecOk, h => .of_grows (execSmbCfgData_grows pecOk s h)
  | .coreCtlWrite c v, h => .of_grows (execCoreCtlWrite_grows c v s h)
  | .stop die lane, h => .of_kept (execStop_kept die lane s h)
  | .dsrcWrite die lane v, h => .of_kept (execDsrcWrite_kept die lane v s h)
  | .meshLoadGo die, h => .of_kept (execMeshLoadGo_kept die s h)
  | .meshLoadComplete die, h => .of_kept (execMeshLoadComplete_kept die s h)
  | .arm die, h => .of_kept (execArm_kept die s h)
  | .enable v, h => .of_kept (execEnable_kept v s h)
  | .registerWrite a v, h => .of_grows (execRegisterWrite_grows a v s h)
  | .aliasedRead a, h => .of_kept (execAliasedRead_kept a s h)
  | .rcRead a hw, h => .of_kept (execRcRead_kept a hw s h)
  | .waitEvent die lane call addr, h => .of_kept (execWaitEvent_kept die lane call addr s h)
  | .draftCall die lane call addr rcd, h => .of_kept (execDraftCall_kept die lane call addr rcd s h)
  | .stopCall die lane call, h => .of_kept (execStopCall_kept die lane call s h)
  | .stateRead die lane call, h => .of_kept (execStateRead_kept die lane call s h)
  | .exit die lane call, h => .of_kept (execExit_kept die lane call s h)
  | .ucpQuantum die, h => .of_kept (execUcpQuantum_kept die s h)
  | .stopReady stop lanes rows spareLeft, h => .of_grows (execStopReady_grows stop lanes rows spareLeft s h)
  | .selfTestComplete failed deadDies badRouters badBypass goodStewards, h =>
      .of_kept (execSelfTestComplete_kept failed deadDies badRouters badBypass goodStewards s h)
  | .attachingModuleLeaseEnd sid, h => .of_kept (execAttachingModuleLeaseEnd_kept sid s h)

end Sys2Proof.Machine

open Sys2Proof Sys2Proof.Machine

/-- Settles O59: the queue and the repair map are among what every command keeps. -/
theorem queueUntouched : Obligations.QueueUntouched := by
  unfold Obligations.QueueUntouched
  intro c s t h
  exact (exec_keptBy c h).queue

end

section
/-! PROOFS. User control programs (01 R31, R32): what a system call does by its number, and which programs it serves. -/

namespace Sys2Proof.Machine

/-- The program of the lane runs, waits for no event and has the quantum of its die. -/
def State.UcpRuns (s : State) (d l : Nat) : Prop :=
  (s.ucp d l).running = true ∧ (s.ucp d l).waiting = false ∧ (s.die d).quantum.toNat = l

section call
variable {s : State} {d l : Nat}

theorem State.ucpCall_not_runs (h : ¬ s.UcpRuns d l) (n call : Nat) (f : Nat → State) : s.ucpCall d l n call f = s :=
  if_neg (by simpa [State.UcpRuns, and_assoc] using h)

variable (hruns : s.UcpRuns d l)
include hruns

theorem State.ucpCall_runs (n call : Nat) (f : Nat → State) :
    s.ucpCall d l n call f =
      if call = n then (s.laneComp d l).elim s f else if call = 0 ∨ 5 < call then s.ucpFault d l else s := by
  obtain ⟨hrunning, hwaiting, hquantum⟩ := hruns
  cases hcomp : s.laneComp d l <;> simp [State.ucpCall, hrunning, hwaiting, hquantum, hcomp]

theorem State.ucpCall_unknown {n call : Nat} (hn : 1 ≤ n ∧ n ≤ 5) (hcall : call = 0 ∨ 5 < call) (f : Nat → State) :
    s.ucpCall d l n call f = s.ucpFault d l := by
  rw [State.ucpCall_runs hruns, if_neg (by omega), if_pos hcall]

theorem State.ucpCall_served {k : Nat} (hk : s.laneComp d l = some k) (n : Nat) (f : Nat → State) :
    s.ucpCall d l n n f = f k := by
  rw [State.ucpCall_runs hruns, if_pos rfl, hk]; rfl

end call

section served
variable {s : State} {die lane : Fin 8} {k : Nat} (hruns : s.UcpRuns die lane) (hk : s.laneComp die lane = some k)
include hruns hk

theorem exec_draftCall_refused (hmod : (s.lane die lane).dsrc ≠ 0 ∨ (s.comp k).vmod ≠ 0) (addr : Nat)
    (rcd : List Byte) :
    exec (.draftCall die lane 2 addr rcd) s = .next
      (if Config.ucpSpace die lane addr 768 then s.ucpReturn die lane Status.state.code 0
        else s.ucpFault die lane) := by
  have hrefused : ((s.lane die lane).dsrc != 0 || (s.comp k).vmod != 0) = true := by
    simpa only [Bool.or_eq_true, bne_iff_ne]
  refine congrArg Host.Outcome.next ((State.ucpCall_served hruns hk 2 _).trans ?_)
  by_cases hspace : Config.ucpSpace die lane addr 768 <;> simp only [hspace, hrefused] <;> rfl

theorem exec_draftCall_taken (hsrc : (s.lane die lane).dsrc = 0) (hmod : (s.comp k).vmod = 0) (addr : Nat)
    {rcd : List Byte} (hforce : recForce rcd = false) :
    exec (.draftCall die lane 2 addr rcd) s = .next
      (if Config.ucpSpace die lane addr 768
        then (s.updComp k fun m =>
          { m with drafts := m.drafts ++ [{ bytes := rcd, host := true }] }).ucpReturn die lane 0 0
        else s.ucpFault die lane) := by
  refine congrArg Host.Outcome.next ((State.ucpCall_served hruns hk 2 _).trans ?_)
  by_cases hspace : Config.ucpSpace die lane addr 768 <;> simp [hspace, hsrc, hmod, hforce]

end served

/-- Every system call passes through `State.ucpCall` with its own number. -/
theorem exec_ucpCall {die lane : Fin 8} {call addr : Nat} {rcd : List Byte} (s : State) :
    ∀ i ∈ [Instr.waitEvent die lane call addr, .draftCall die lane call addr rcd, .stopCall die lane call,
      .stateRead die lane call, .exit die lane call],
    ∃ n f, (1 ≤ n ∧ n ≤ 5) ∧ exec i s = .next (s.ucpCall die lane n call f) := by
  simp only [List.forall_mem_cons, List.not_mem_nil, false_implies, implies_true, and_true]
  exact ⟨⟨1, _, by decide, rfl⟩, ⟨2, _, by decide, rfl⟩, ⟨3, _, by decide, rfl⟩, ⟨4, _, by decide, rfl⟩,
    ⟨5, _, by decide, rfl⟩⟩

end Sys2Proof.Machine

open Sys2Proof Sys2Proof.Machine

/-- Settles O40, by the cases of a system call: not served, of an unknown number, served. -/
theorem userPrograms : Obligations.UserPrograms := by
  unfold Obligations.UserPrograms
  intro die lane call addr rcd s d l runs
  refine ⟨fun hruns i hi => ?_, fun hruns hcall i hi => ?_, fun hruns k hk => ⟨?_, ?_, ?_, ?_, ?_, ?_⟩, ?_⟩
  · obtain ⟨n, f, -, hexec⟩ := exec_ucpCall s i hi
    rw [hexec, State.ucpCall_not_runs hruns]
  · obtain ⟨n, f, hn, hexec⟩ := exec_ucpCall s i hi
    rw [hexec, State.ucpCall_unknown hruns hn hcall]
  · exact congrArg Host.Outcome.next (State.ucpCall_served hruns hk 1 _)
  · exact congrArg Host.Outcome.next (State.ucpCall_served hruns hk 3 _)
  · exact congrArg Host.Outcome.next (State.ucpCall_served hruns hk 4 _)
  · exact congrArg Host.Outcome.next (State.ucpCall_served hruns hk 5 _)
  · exact fun hmod => exec_draftCall_refused hruns hk hmod addr rcd
  · exact fun hsrc hmod hforce => exec_draftCall_taken hruns hk hsrc hmod addr hforce
  · refine ⟨_, rfl, ?_, fun e he => s.die_updDie_ne d _ he⟩
    rw [State.die_updDie]

end

section
/-! PROOFS. What starts a module reset (15 R486 to R496): reset entry from any cause, a failed steward and its
takeover, and the watchdog of a core. -/

namespace Sys2Proof.Machine

/-! ### Reset entry (15 R495, R496) -/

theorem State.inRun_iff {s : State} : s.inRun = true ↔ s.rst.phase = .run := by
  simp [State.inRun]

theorem State.resetEntry_of_not_inRun {s : State} (h : s.inRun = false) (cause : Nat) : s.resetEntry cause = s :=
  if_neg (by simp [← State.inRun_iff, h])

/-- `t` is `s` with every port down and every lane and core stopped, and what a reset reads as before. -/
structure State.QuietOf (s t : State) : Prop where
  faultLog : t.faultLog = s.faultLog
  faultQ : t.faultQ = s.faultQ
  rst : t.rst = s.rst
  ctxs : t.ctxs = s.ctxs
  tierM : t.tierM = s.tierM
  tierF : t.tierF = s.tierF
  sec : t.sec = s.sec
  lane : ∀ d l, (t.lane d l).st = .idle
  core : ∀ k, (t.core k).st ≠ .run
  port : ∀ p < 16, (t.port p).st ≠ .up
  down : ∀ p < 16, (s.port p).st = .up → ∃ h, Out.control p [] [h] ∈ t.out ∧ h.msg = .down 11

theorem State.allPortsDown_stopLanes_quiet (s : State) : s.QuietOf s.allPortsDown.stopLanes := by
  obtain ⟨plog, pq, prst, pctxs, pm, pf, psec, -⟩ := State.portsDown_keeps (List.range 16) s
  obtain ⟨llog, lq, lrst, lctxs, lports, lout, lm, lf, lsec, -⟩ := s.allPortsDown.stopLanes_keeps
  refine ⟨llog.trans plog, lq.trans pq, lrst.trans prst, lctxs.trans pctxs, lm.trans pm, lf.trans pf, lsec.trans psec,
    s.allPortsDown.stopLanes_lane, s.allPortsDown.stopLanes_core, fun p hp => ?_, fun p hp hup => ?_⟩
  · rw [State.port, lports]
    exact State.portsDown_port (List.range 16) s p (.inl (List.mem_range.mpr hp))
  · obtain ⟨sent, hsent, hdown⟩ := s.allPortsDown_out
    obtain ⟨m, hmem, hmsg⟩ := hdown p hp hup
    refine ⟨m, ?_, hmsg⟩
    rw [lout, hsent]
    exact List.mem_append_right _ hmem

theorem State.resetEntry_entered {s : State} (h : s.inRun = true) (cause : Nat) :
    Claims.entered s (s.resetEntry cause) cause := by
  have hquiet := s.allPortsDown_stopLanes_quiet
  unfold State.resetEntry
  rw [if_pos (State.inRun_iff.mp h)]
  generalize s.allPortsDown.stopLanes = t at hquiet ⊢
  have hpset : t.rst.pset = s.rst.pset := congrArg Rst.pset hquiet.rst
  have hresets : satAdd t.rst.resets 1 = satAdd s.rst.resets 1 := by rw [hquiet.rst]
  have hlog : t.faultLog ++ t.faultQ = s.faultLog ++ s.faultQ := by rw [hquiet.faultLog, hquiet.faultQ]
  exact ⟨rfl, rfl, hpset, hpset, hresets, rfl, rfl, rfl, rfl, hlog, hquiet.ctxs, hquiet.lane, hquiet.core, hquiet.port,
    hquiet.down, rfl, hquiet.tierM, hquiet.tierF, hquiet.sec, fun hp => if_pos (hpset.trans hp)⟩

theorem State.resetEntry_rst {s : State} (h : s.inRun = true) (cause : Nat) :
    (s.resetEntry cause).rst.phase = .entry ∧ (s.resetEntry cause).rst.cause = BitVec.ofNat 4 cause ∧
      (s.resetEntry cause).rst.stewfail = s.rst.stewfail := by
  have hquiet := s.allPortsDown_stopLanes_quiet
  unfold State.resetEntry
  rw [if_pos (State.inRun_iff.mp h)]
  generalize s.allPortsDown.stopLanes = t at hquiet ⊢
  have hstewfail : t.rst.stewfail = s.rst.stewfail := congrArg Rst.stewfail hquiet.rst
  exact ⟨rfl, rfl, hstewfail⟩

/-- The four commands that start a reset in RUN, with their cause codes (15 Table 4). -/
theorem exec_resetCause (s : State) :
    ∀ r ∈ [(1, Instr.reset 0xA5), (2, .sbRst), (7, .moduleWatchdog), (8, .firmwareError)],
      exec r.2 s = .next (s.resetEntry r.1) := by
  have hreset : exec (.reset 0xA5) s = .next (s.resetEntry 1) := by
    cases h : s.inRun with
    | false => simp [exec, execReset, State.resetWrite, h, State.resetEntry_of_not_inRun h]
    | true => simp [exec, execReset, State.resetWrite, h]
  simp only [List.forall_mem_cons, List.not_mem_nil, false_implies, implies_true, and_true]
  exact ⟨hreset, rfl, rfl, rfl⟩

theorem exec_reset_not_inRun {s : State} (h : s.inRun = false) (key : Byte) : exec (.reset key) s = .next s := by
  simp [exec, execReset, State.resetWrite, h]

theorem exec_reset_wrong_key {s : State} (h : s.inRun = true) {key : Byte} (hkey : key ≠ 0xA5) :
    exec (.reset key) s = .next { s with rst := { s.rst with wign := true } } := by
  have hne : (key == 0xA5) = false := beq_false_of_ne hkey
  simp only [exec, execReset, State.resetWrite, h, hne]
  rfl

/-! ### Stewards (01 R28, 15 R488) -/

/-- The state in which a steward's failure is noted and its role, where the spare can take it, waits. -/
def State.stewardNoted (s : State) (die : Fin 8) (st : Fin 5) : State :=
  let x := (s.die die).stew
  { s with rst := { s.rst with stewfail := s.rst.stewfail ||| BitVec.ofNat 40 (2 ^ (5 * die.val + st.val)) } }.updDie
    die fun y => { y with stew := { y.stew with
      failed := y.stew.failed ++ [st.val]
      takeover := if x.roles.contains st.val && x.spare then some st.val else y.stew.takeover } }

section steward
variable {s : State} {die : Fin 8} {st : Fin 5}

theorem exec_stewardWatchdog_ignored
    (h : s.inRun = false ∨ st.val ∈ (s.die die).stew.failed ∨ st.val ∉ (s.die die).stew.good) :
    exec (.stewardWatchdog die st) s = .next s := by
  refine congrArg Host.Outcome.next (if_pos ?_)
  simpa [or_assoc] using h

variable (hrun : s.inRun = true) (hnew : st.val ∉ (s.die die).stew.failed) (hgood : st.val ∈ (s.die die).stew.good)
include hrun hnew hgood

theorem exec_stewardWatchdog_counted :
    exec (.stewardWatchdog die st) s = .next
      (if (s.die die).stew.failed ≠ [] ∨ st.val ∈ (s.die die).stew.roles ∧ (s.die die).stew.spare = false
        then (s.stewardNoted die st).resetEntry 3 else s.stewardNoted die st) := by
  refine congrArg Host.Outcome.next ((if_neg (by simp [hrun, hnew, hgood])).trans ?_)
  simp [State.stewardNoted]

theorem exec_stewardWatchdog_resets (h : (s.die die).stew.failed ≠ [] ∨
      st.val ∈ (s.die die).stew.roles ∧ (s.die die).stew.spare = false) :
    exec (.stewardWatchdog die st) s = .next ((s.stewardNoted die st).resetEntry 3) := by
  rw [exec_stewardWatchdog_counted hrun hnew hgood, if_pos h]

theorem exec_stewardWatchdog_noted (hfirst : (s.die die).stew.failed = [])
    (hrole : st.val ∉ (s.die die).stew.roles ∨ (s.die die).stew.spare = true) :
    exec (.stewardWatchdog die st) s = .next (s.stewardNoted die st) := by
  rw [exec_stewardWatchdog_counted hrun hnew hgood, if_neg]
  rintro (hsecond | ⟨hin, hspare⟩)
  · exact hsecond hfirst
  · obtain hout | hhas := hrole
    · exact hout hin
    · simp [hhas] at hspare

end steward

theorem State.stewardNoted_stew (s : State) (die : Fin 8) (st : Fin 5) :
    ((s.stewardNoted die st).die die).stew = { (s.die die).stew with
      failed := (s.die die).stew.failed ++ [st.val]
      takeover := if (s.die die).stew.roles.contains st.val && (s.die die).stew.spare then some st.val
        else (s.die die).stew.takeover } := by
  rw [State.stewardNoted, State.die_updDie]; rfl

theorem State.stewardNoted_takeover {s : State} {die : Fin 8} {st : Fin 5}
    (hrole : st.val ∉ (s.die die).stew.roles ∨ (s.die die).stew.spare = true) :
    ((s.stewardNoted die st).die die).stew.takeover =
      if st.val ∈ (s.die die).stew.roles then some st.val else (s.die die).stew.takeover := by
  rw [State.stewardNoted_stew]
  obtain hout | hspare := hrole
  · simp [hout]
  · simp [hspare]

theorem exec_stewardTakeover_some {s : State} {die : Fin 8} {f : Nat} (h : (s.die die).stew.takeover = some f) :
    ∃ t, exec (.stewardTakeover die) s = .next t ∧ (t.die die).stew = { (s.die die).stew with
      roles := (s.die die).stew.roles.map fun r => if r = f then 4 else r, takeover := none } := by
  refine ⟨_, rfl, ?_⟩
  rw [State.die_updDie, h]

theorem exec_stewardTakeover_none {s : State} {die : Fin 8} (h : (s.die die).stew.takeover = none) :
    ∃ t, exec (.stewardTakeover die) s = .next t ∧ t.die die = s.die die := by
  refine ⟨_, rfl, ?_⟩
  rw [State.die_updDie, h]

/-! ### A stuck core (15 R490) -/

theorem exec_engineWatchdog_running {s : State} {c : CoreId} (h : (s.core c.key).st = .run) (e : Eng) :
    exec (.engineWatchdog c e) s = .next
      { s.setCore c.key { s.core c.key with barred := true } with
        rst := { s.rst with stuck := satAdd s.rst.stuck 1 } } :=
  congrArg Host.Outcome.next (if_pos (by simp [h]))

theorem exec_engineWatchdog_stopped {s : State} {c : CoreId} (h : (s.core c.key).st ≠ .run) (e : Eng) :
    exec (.engineWatchdog c e) s = .next s :=
  congrArg Host.Outcome.next (if_neg (by simp [h]))

end Sys2Proof.Machine

open Sys2Proof Sys2Proof.Machine

/-- Settles O55: the causes lead to one reset entry; a steward's failure is noted first. -/
theorem resetCauses : Obligations.ResetCauses := by
  unfold Obligations.ResetCauses
  intro s key die st c e x noted
  refine ⟨fun r hr => ⟨fun hrun => ?_, fun hrun => ⟨_, exec_resetCause s r hr, State.resetEntry_entered hrun _⟩⟩,
    fun hrun => exec_reset_not_inRun hrun key, fun hrun hkey => exec_reset_wrong_key hrun hkey,
    exec_stewardWatchdog_ignored, fun hrun hnew hgood => ⟨fun hreset => ?_, fun hfirst hrole => ?_⟩,
    fun f => exec_stewardTakeover_some, exec_stewardTakeover_none, fun hst => ?_,
    fun hst => exec_engineWatchdog_stopped hst e⟩
  · rw [exec_resetCause s r hr, State.resetEntry_of_not_inRun hrun]
  · obtain ⟨hphase, hcause, hfail⟩ := State.resetEntry_rst (s := s.stewardNoted die st) hrun 3
    exact ⟨_, exec_stewardWatchdog_resets hrun hnew hgood hreset, hfail, hphase, hcause⟩
  · refine ⟨_, exec_stewardWatchdog_noted hrun hnew hgood hfirst hrole, rfl, ?_,
      State.stewardNoted_takeover hrole, rfl, rfl⟩
    rw [State.stewardNoted_stew]
    exact congrArg (· ++ [st.val]) hfirst
  · exact ⟨_, exec_engineWatchdog_running hst e, s.core_setCore c.key _, rfl, rfl, rfl⟩

end

section
/-! PROOFS. From reset entry to READY (15 R496 to R505, R509, R510): collection, release, self-test, HIF_READY and
CLEAR. -/

namespace Sys2Proof.Machine

/-! ### Collection (15 R496, R498) -/

theorem Rst.mem_drop_collecting (x : Rst) (l : List (Nat × Nat)) (a : Nat × Nat) :
    a ∈ (x.drop l).collecting ↔ a ∈ x.collecting ∧ a ∉ l := by
  simp [Rst.drop]

section collect
variable {s : State} {die : Fin 8}

theorem exec_collect_answered (hentry : s.inEntry = true) (hany : ∃ u, (die.val, u) ∈ s.rst.collecting) :
    ∃ t h m, exec (.collect die) s = .next t ∧
      (∀ a, a ∈ t.rst.collecting ↔ a ∈ s.rst.collecting ∧ a.1 ≠ die.val) ∧ t.rst.absent = s.rst.absent ∧
      t.rst.sections = s.rst.sections ++ [(4, die.val, h), (5, die.val, m)] := by
  obtain ⟨u, hu⟩ := hany
  refine ⟨_, _, _, congrArg Host.Outcome.next (if_neg (by simpa [hentry] using ⟨u, hu⟩)), fun a => ?_, rfl, rfl⟩
  refine (Rst.mem_drop_collecting _ _ a).trans ?_
  simp +contextual

theorem exec_collect_ignored (h : s.inEntry = false ∨ ∀ u, (die.val, u) ∉ s.rst.collecting) :
    exec (.collect die) s = .next s := by
  refine congrArg Host.Outcome.next (if_pos ?_)
  obtain hout | hnone := h
  · simp [hout]
  · have hempty : (s.rst.collecting.filter fun e => e.1 == die.val) = [] := by
      rw [List.filter_eq_nil_iff]
      rintro ⟨d, u⟩ hu hd
      exact hnone u (by rwa [← eq_of_beq hd])
    simp [hempty]

variable {unit : Nat}

theorem exec_collectionTimeout_absent (hentry : s.inEntry = true) (hin : (die.val, unit) ∈ s.rst.collecting) :
    ∃ t, exec (.collectionTimeout die unit) s = .next t ∧
      (∀ a, a ∈ t.rst.collecting ↔ a ∈ s.rst.collecting ∧ a ≠ (die.val, unit)) ∧
      t.rst.absent = satAdd s.rst.absent 1 := by
  refine ⟨_, congrArg Host.Outcome.next (if_pos (by simp [hentry, hin])), fun a => ?_, rfl⟩
  refine (Rst.mem_drop_collecting _ _ a).trans ?_
  rw [List.mem_singleton]

theorem exec_collectionTimeout_ignored (h : s.inEntry = false ∨ (die.val, unit) ∉ s.rst.collecting) :
    exec (.collectionTimeout die unit) s = .next s :=
  congrArg Host.Outcome.next (if_neg (by simpa [imp_iff_not_or] using h))

end collect

/-! ### Release (15 R502, R504, R509) -/

/-- What `t` holds after the release of `s`, but for the dump slots and the link save (15 R504, R509, R512). -/
structure State.ReleasedFrom (s t : State) : Prop where
  phase : t.rst.phase = .run
  tierM : t.tierM = s.tierM
  tierF : t.tierF = s.tierF
  gone : t.tierH = [] ∧ t.ctxs = [] ∧ t.queues = [] ∧ t.rings = [] ∧ t.comps = [] ∧ t.fences = [] ∧ t.cores = [] ∧
    t.hif.ready = false
  theta : t.pwr.theta = s.pwr.theta
  cap : t.pwr.cap = s.pwr.cap
  pset : t.rst.pset = s.rst.pset
  stewfail : t.rst.stewfail = s.rst.stewfail
  stuck : t.rst.stuck = s.rst.stuck
  sec : t.sec = s.sec.afterReset
  ports : ∀ p < 16, (t.port p).st = .training
  hstops : ∀ d < 8, ∀ i < 8, (Tab.look {} (t.die d).hstops i).st = .training

/-- The dump slots and the slot of the newest. -/
def Rst.slots (x : Rst) : Option Dump × Option Dump × Bool := (x.dump0, x.dump1, x.newest)

theorem Die.afterReset_hstops (x : Die) (d : Nat) : (x.afterReset d).hstops = stopsAfter 8 false x.hstops := by
  rw [Die.afterReset]

theorem State.release_releasedFrom (s : State) : s.ReleasedFrom s.release := by
  obtain ⟨D, P, I, heq, hdies, hports⟩ := s.release_eq
  rw [heq]
  refine ⟨rfl, rfl, rfl, ⟨rfl, rfl, rfl, rfl, rfl, rfl, rfl, rfl⟩, rfl, rfl, rfl, rfl, rfl, rfl, hports, ?_⟩
  intro d hd i hi
  show (Tab.look {} (Tab.look {} D d).hstops i).st = .training
  rw [hdies d hd, Die.afterReset_hstops]
  exact stopsAfter_training 8 false _ i hi

theorem State.release_dumps (s : State) : s.release.rst.slots = s.rst.slots ∧ s.release.rst.save = s.rst.save := by
  obtain ⟨D, P, I, heq, -⟩ := s.release_eq
  rw [heq]
  exact ⟨rfl, rfl⟩

/-- What the pool member keeps is no part of it. -/
theorem State.ReleasedFrom.withPool {s t : State} (h : s.ReleasedFrom t) (p : Pool) :
    s.ReleasedFrom { t with pool := p } :=
  ⟨h.phase, h.tierM, h.tierF, h.gone, h.theta, h.cap, h.pset, h.stewfail, h.stuck, h.sec, h.ports, h.hstops⟩

theorem Rst.storeDump_keeps (x : Rst) (m : Dump) : (x.storeDump m).pset = x.pset ∧
    (x.storeDump m).stewfail = x.stewfail ∧ (x.storeDump m).stuck = x.stuck := by
  unfold Rst.storeDump
  generalize (if x.dump0.isNone && x.dump1.isNone then false else !x.newest) = slot
  cases slot <;> exact ⟨rfl, rfl, rfl⟩

/-- The end of a power-up, just before release. -/
def State.poweredUp (s : State) : State := { s with sb := s.sb.halt 0x44 }

theorem State.ReleasedFrom.of_poweredUp {s t : State} (h : s.poweredUp.ReleasedFrom t) : s.ReleasedFrom t :=
  ⟨h.phase, h.tierM, h.tierF, h.gone, h.theta, h.cap, h.pset, h.stewfail, h.stuck, h.sec, h.ports, h.hstops⟩

/-- The end of a reset entry, its dump and link save written, just before release. -/
def State.dumped (s : State) : State :=
  { s with rst := { s.rst.storeDump s.resetDump with save := if s.rst.psetUsed then some s.linkSave else none },
           sb := s.sb.halt 0x83 }

theorem State.ReleasedFrom.of_dumped {s t : State} (h : s.dumped.ReleasedFrom t) : s.ReleasedFrom t := by
  obtain ⟨hpset, hstewfail, hstuck⟩ := s.rst.storeDump_keeps s.resetDump
  exact ⟨h.phase, h.tierM, h.tierF, h.gone, h.theta, h.cap, h.pset.trans hpset, h.stewfail.trans hstewfail,
    h.stuck.trans hstuck, h.sec, h.ports, h.hstops⟩

section resetRelease
variable {s : State}

theorem exec_resetRelease_ignored (h : (s.die 0).fmc.qualified = false ∨
      s.inEntry = true ∧ s.rst.collecting ≠ [] ∨ s.inRun = true) : exec .resetRelease s = .next s := by
  refine congrArg Host.Outcome.next ?_
  cases hphase : s.rst.phase with
  | powerUp straps =>
    have hq : (s.die 0).fmc.qualified = false := by simpa [State.inEntry, State.inRun, hphase] using h
    cases straps <;> simp [hq]
  | entry =>
    have hq : s.rst.collecting = [] → (s.die 0).fmc.qualified = false := by
      intro hc
      simpa [State.inEntry, State.inRun, hphase, hc] using h
    by_cases hc : s.rst.collecting = [] <;> simp [hc, hq]
  | _ => rfl

variable (hq : (s.die 0).fmc.qualified = true)
include hq

theorem exec_resetRelease_powerUp (hphase : s.rst.phase = .powerUp true) :
    exec .resetRelease s = .next { s.poweredUp.release with pool := { amnesia := s.sb.role } } := by
  refine congrArg Host.Outcome.next ?_
  simp only [hphase, hq, if_true]
  rfl

theorem exec_resetRelease_entry (hentry : s.inEntry = true) (hc : s.rst.collecting = []) :
    exec .resetRelease s = .next s.dumped.release := by
  refine congrArg Host.Outcome.next ?_
  have hphase : s.rst.phase = .entry := by simpa [State.inEntry] using hentry
  simp only [hphase, hq, hc, List.isEmpty_nil, Bool.and_self, if_true]
  rfl

theorem exec_resetRelease_released (h : s.rst.phase = .powerUp true ∨ s.inEntry = true ∧ s.rst.collecting = []) :
    ∃ t, exec .resetRelease s = .next t ∧ s.ReleasedFrom t ∧
      (s.inEntry = true → t.rst.slots = (s.rst.storeDump s.resetDump).slots ∧
        t.rst.save = if s.rst.psetUsed then some s.linkSave else none) ∧
      (s.inEntry = false → t.rst.slots = s.rst.slots) := by
  obtain hphase | ⟨hentry, hc⟩ := h
  · have hentry : s.inEntry = false := by simp [State.inEntry, hphase]
    have hreleased := s.poweredUp.release_releasedFrom.of_poweredUp
    have hslots : s.poweredUp.release.rst.slots = s.rst.slots := s.poweredUp.release_dumps.1
    rw [exec_resetRelease_powerUp hq hphase]
    generalize s.poweredUp.release = t at hreleased hslots
    exact ⟨_, rfl, hreleased.withPool _, by simp [hentry], fun _ => hslots⟩
  · refine ⟨_, exec_resetRelease_entry hq hentry hc, s.dumped.release_releasedFrom.of_dumped, ?_, ?_⟩
    · exact fun _ => s.dumped.release_dumps
    · simp [hentry]

end resetRelease

theorem Rst.slots_eq {x y : Rst} (h : x.slots = y.slots) :
    x.dump0 = y.dump0 ∧ x.dump1 = y.dump1 ∧ x.newest = y.newest := by
  simpa [Rst.slots] using h

theorem State.resetDump_header (s : State) : s.resetDump.cause = s.rst.cause.toNat ∧
    s.resetDump.absent = s.rst.absent.toNat ∧ bit s.resetDump.kind 0 = s.rst.psetUsed :=
  ⟨rfl, rfl, bit_b2n_zero _⟩

/-! ### Self-test (01 R28) -/

section selfTest
variable {s : State} {failed : List CoreId} {dead : BitVec 8} {badR badB : List (Fin 8 × Fin 300)} {good : List Nat}

theorem exec_selfTestComplete_ignored (h : s.inRun = false ∨ s.rst.selfTested = true ∨ s.sec.terminal = true) :
    exec (.selfTestComplete failed dead badR badB good) s = .next s :=
  congrArg Host.Outcome.next (if_pos (by simpa [or_assoc] using h))

/-- The dies of a state after their self-test. -/
def State.testedDies (s : State) (dead : BitVec 8) (badR badB : List (Fin 8 × Fin 300)) (good : List Nat) : State :=
  (List.range 8).foldl (fun (s : State) d => s.updDie d fun x =>
    x.tested d (bit dead.toNat d || s.repairDies.contains d) badR badB good) s

theorem State.testedDies_working (s : State) {d : Nat} (hd : d < 8) :
    ((s.testedDies dead badR badB good).die d).working = true ↔
      bit dead.toNat d = false ∧ d ∉ s.repairDies ∧
        4 ≤ ((List.range 5).filter fun i => good.contains (5 * d + i)).length := by
  have hdie : (s.testedDies dead badR badB good).die d =
      (s.die d).tested d (bit dead.toNat d || s.repairDies.contains d) badR badB good := by
    rw [State.testedDies, State.tested_repair dead badR badB good s.repairDies _ s rfl,
      State.die_updDies (fun d x => x.tested d (bit dead.toNat d || s.repairDies.contains d) badR badB good) _ _ _
        List.nodup_range, if_pos (List.mem_range.mpr hd)]
  rw [hdie]
  simp [Die.tested, and_assoc]

theorem exec_selfTestComplete_tested (hrun : s.inRun = true) (htested : s.rst.selfTested = false)
    (hterm : s.sec.terminal = false) : ∃ t, exec (.selfTestComplete failed dead badR badB good) s = .next t ∧
      t.rst.selfTested = true ∧ t.dies = (s.testedDies dead badR badB good).dies ∧
      ∀ k ∈ failed, (t.core k.key).good = false := by
  refine ⟨_, congrArg Host.Outcome.next (if_neg (by simp [hrun, htested, hterm])), rfl, ?_, fun k hk => ?_⟩
  · exact State.dies_marked failed (s.testedDies dead badR badB good)
  · exact State.core_marked failed (s.testedDies dead badR badB good) k.key (.inr (List.mem_map_of_mem hk))

end selfTest

/-! ### HIF_READY (15 R504, R505, R510) -/

/-- READY: the capability table is built and the dump slots are shown as they stand. -/
def State.madeReady (s : State) : State :=
  { s with
    hif := { s.hif with ready := true }
    caps := s.fixedCaps.map fun e => (BitVec.ofNat 64 e.1, BitVec.ofNat 64 e.2)
    rst := { s.rst with shown0 := s.rst.dump0, shown1 := s.rst.dump1, shownNewest := s.rst.newest }
    sb := { s.sb with step := 7 } }

section hifReady
variable {s : State}

theorem exec_hifReady_ignored
    (h : s.inRun = false ∨ s.rst.selfTested = false ∨ s.hif.ready = true ∨ s.sec.terminal = true) :
    exec .hifReady s = .next s :=
  congrArg Host.Outcome.next (if_pos (by simpa [or_assoc] using h))

variable (hrun : s.inRun = true) (htested : s.rst.selfTested = true) (hready : s.hif.ready = false)
  (hterm : s.sec.terminal = false)
include hrun htested hready hterm

theorem exec_hifReady_dead (hdie : (s.die 0).working = false) :
    exec .hifReady s = .next { s with sb := { s.sb with step := 13 } } :=
  congrArg Host.Outcome.next ((if_neg (by simp [hrun, htested, hready, hterm])).trans (if_pos (by simp [hdie])))

theorem exec_hifReady_noFirmware (hdie : (s.die 0).working = true) (hfw : s.sec.fwRunning = false)
    (hcopy : s.sec.fwCopy = none) : exec .hifReady s = .next { s with sb := { s.sb with step := 14 } } := by
  have hstart : s.startCopy = s := by simp [State.startCopy, hcopy]
  refine congrArg Host.Outcome.next
    ((if_neg (by simp [hrun, htested, hready, hterm])).trans ((if_neg (by simp [hdie])).trans ?_))
  rw [hstart]
  exact if_pos (by simp [hfw])

theorem exec_hifReady_ready_eq (hdie : (s.die 0).working = true) (hfw : s.sec.fwRunning = true) :
    exec .hifReady s = .next ((List.range 8).foldl (fun (s : State) d => s.enableDie d) s).madeReady := by
  have hstart : s.startCopy = s := by
    unfold State.startCopy
    split <;> simp [hfw]
  refine congrArg Host.Outcome.next
    ((if_neg (by simp [hrun, htested, hready, hterm])).trans ((if_neg (by simp [hdie])).trans ?_))
  rw [hstart]
  exact if_neg (by simp [hfw])

theorem exec_hifReady_ready (hdie : (s.die 0).working = true) (hfw : s.sec.fwRunning = true) :
    ∃ t, exec .hifReady s = .next t ∧ t.hif.ready = true ∧ t.sb.step = 7 ∧
      t.rst = { s.rst with shown0 := s.rst.dump0, shown1 := s.rst.dump1, shownNewest := s.rst.newest } ∧
      ∀ k, (t.core k).enable = true → (s.core k).enable = true ∨ (s.core k).good = true ∧ k ∉ s.repairCores := by
  obtain ⟨C, D, P, henabled, hcores⟩ := State.enableDies_eq (List.range 8) s
  rw [exec_hifReady_ready_eq hrun htested hready hterm hdie hfw, henabled]
  exact ⟨_, rfl, rfl, rfl, rfl, fun k => (hcores k).2⟩

end hifReady

end Sys2Proof.Machine

open Sys2Proof Sys2Proof.Machine

/-- Settles O56, by what each command of the recovery does in the phases that serve it. -/
theorem recovery : Obligations.Recovery := by
  unfold Obligations.Recovery
  intro s die unit failed dead badR badB good works emptied slots
  refine ⟨exec_collect_answered, exec_collect_ignored, exec_collectionTimeout_absent, exec_collectionTimeout_ignored,
    exec_resetRelease_ignored, fun hq hphase => ?_, exec_selfTestComplete_ignored, fun hrun htested hterm => ?_,
    exec_hifReady_ignored, fun hrun htested hready hterm =>
      ⟨fun hdie => ?_, fun hdie hfw hcopy => ?_, fun hdie hfw => ?_⟩,
    fun hentry => congrArg Host.Outcome.next (if_neg (by simp [hentry])),
    fun hentry => congrArg Host.Outcome.next (if_pos hentry)⟩
  · obtain ⟨t, hexec, hreleased, hdumped, hkept⟩ := exec_resetRelease_released hq hphase
    obtain ⟨hH, hctxs, hqueues, hrings, hcomps, hfences, hcores, hhif⟩ := hreleased.gone
    have hsec := hreleased.sec
    refine ⟨t, hexec, hreleased.phase, hreleased.tierM, hreleased.tierF, hH, hctxs, hqueues, hrings, hcomps, hfences,
      hcores, hhif, hreleased.theta, hreleased.cap, hreleased.pset, hreleased.stewfail, hreleased.stuck,
      by rw [hsec]; rfl, by rw [hsec]; rfl, by rw [hsec]; rfl, by rw [hsec]; rfl, by rw [hsec]; rfl,
      hreleased.ports, hreleased.hstops, fun hentry => ?_, hkept⟩
    obtain ⟨hslots, hsave⟩ := hdumped hentry
    obtain ⟨h0, h1, hnewest⟩ := Rst.slots_eq hslots
    obtain ⟨hcause, habsent, hkind⟩ := s.resetDump_header
    obtain ⟨hnew, hold⟩ := s.rst.storeDump_stores s.resetDump
    rw [h0, h1, hnewest]
    exact ⟨s.resetDump, hcause, habsent, hkind, hnew, hold, fun hused => hsave.trans (if_pos hused)⟩
  · obtain ⟨t, hexec, htested', hdies, hfailed⟩ := exec_selfTestComplete_tested hrun htested hterm
    refine ⟨t, hexec, htested', fun d hd => ?_, hfailed⟩
    rw [State.die, hdies]
    exact s.testedDies_working hd
  · exact ⟨_, exec_hifReady_dead hrun htested hready hterm hdie, rfl, rfl⟩
  · exact ⟨_, exec_hifReady_noFirmware hrun htested hready hterm hdie hfw hcopy, rfl, rfl⟩
  · obtain ⟨t, hexec, hhif, hstep, hrst, hcores⟩ := exec_hifReady_ready hrun htested hready hterm hdie hfw
    refine ⟨t, hexec, hhif, hstep, ?_⟩
    dsimp only [slots]
    rw [hrst]
    exact ⟨rfl, rfl, rfl, rfl, hcores⟩

end

section
/-! PROOFS. The control instructions (03 R84, R87 to R89, Table 4): what WAITE asks of the engines, and each instruction
by its own effect. -/

namespace Sys2Proof.Machine

/-- A control instruction whose fields are legal answers its effect `f` on the core and the word. -/
theorem State.control_next {s t : State} {k op : Nat} {r : Nat → Bool} {f : Core → Nat → State}
    (hclean : ctlClean (s.insn k)) (hdef : opDefined op = true) (hat : s.atOp k op) (hreg : r (iReg (s.insn k)) = true)
    (heffect : f (s.core k) (s.insn k) = t) :
    (Host.Outcome.next (s.control k op r f) : Host.Outcome State Fault Refusal) = .next t := by
  rw [State.control_at hat hdef hclean hreg, heffect]

theorem regZero_iff {r : Nat} : regZero r = true ↔ r = 0 := beq_iff_eq

theorem regBase_iff {r : Nat} : regBase r = true ↔ 1 ≤ r ∧ r ≤ 3 := by simp [regBase]

theorem Core.setBase_of_pos (c : Core) {i : Nat} (hi : 1 ≤ i) (v : BitVec 16) :
    c.setBase i v = { c with bases := Tab.put 0 c.bases i v } :=
  if_neg (by omega)

/-! ### BRC (03 R87) -/

theorem Core.branch_set (c : Core) {reg : Nat} (hreg : reg = 0) (target : Nat) :
    (if brcTaken reg c.ovf then c.jump target else c.next) =
      { c with pc := if c.ovf then BitVec.ofNat 12 target else c.pc + 1 } := by
  cases hovf : c.ovf <;> simp [brcTaken, hreg, Core.jump, Core.next, hovf]

theorem Core.branch_clear (c : Core) {reg : Nat} (hreg : reg = 1) (target : Nat) :
    (if brcTaken reg c.ovf then c.jump target else c.next) =
      { c with pc := if c.ovf then c.pc + 1 else BitVec.ofNat 12 target } := by
  cases hovf : c.ovf <;> simp [brcTaken, hreg, Core.jump, Core.next, hovf]

/-! ### WAITE (03 R87) -/

theorem mem_waiteEngines {r : Nat} {e : Eng} : e ∈ waiteEngines r ↔ bit r e.num = true := by
  cases e <;> simp [waiteEngines, Eng.num]

theorem waiteEngines_any_busy (c : Core) (r : Nat) :
    (waiteEngines r).any c.busy = true ↔ ∃ e : Eng, bit r e.num = true ∧ c.busy e = true := by
  simp [mem_waiteEngines]

/-- Forgetting the last instructions of the engines of a list. -/
theorem Core.foldl_setFlying_none (l : List Eng) (c : Core) :
    l.foldl (fun c e => c.setFlying e none) c =
      { c with mx := if .mx ∈ l then none else c.mx, vx := if .vx ∈ l then none else c.vx,
               tx := if .tx ∈ l then none else c.tx } := by
  induction l generalizing c with
  | nil => simp
  | cons e l ih => rw [List.foldl_cons, ih]; cases e <;> simp [Core.setFlying]

section waite
variable {c : CoreId} {s : State} (hclean : ctlClean (s.insn c.key)) (hat : s.atOp c.key 0x09)
  (hreg : 1 ≤ iReg (s.insn c.key) ∧ iReg (s.insn c.key) ≤ 7)
include hclean hat hreg

theorem exec_waite_busy {e : Eng} (he : bit (iReg (s.insn c.key)) e.num = true) (hbusy : (s.core c.key).busy e = true) :
    exec (.waite c) s = .next s :=
  State.control_next hclean rfl hat (by simpa using hreg)
    (if_pos ((waiteEngines_any_busy _ _).2 ⟨e, he, hbusy⟩))

theorem exec_waite_idle (hidle : ∀ e : Eng, bit (iReg (s.insn c.key)) e.num = true → (s.core c.key).busy e = false) :
    exec (.waite c) s =
      .next (s.setCore c.key ((waiteEngines (iReg (s.insn c.key))).foldl (fun x e => x.setFlying e none)
        (s.core c.key)).next) := by
  refine State.control_next hclean rfl hat (by simpa using hreg) (if_neg ?_)
  intro hany
  obtain ⟨e, he, hbusy⟩ := (waiteEngines_any_busy _ _).1 hany
  exact absurd (hidle e he) (by simp [hbusy])

end waite

end Sys2Proof.Machine

open Sys2Proof Sys2Proof.Machine

/-- Settles O2: an instruction that issues has the effect the model names for it, and a wait goes on exactly when its
condition holds. -/
theorem controlInstructions : Obligations.ControlInstructions := by
  unfold Obligations.ControlInstructions
  refine ⟨fun c s hclean => ⟨fun hat hreg => ?nop, fun hat hreg => ?jmp, fun hat hreg => ?lset, fun hat hreg => ?loop,
    fun hat hreg => ?brcSet, fun hat hreg => ?brcClear, fun hwSet hat hreg => ?clrc, fun hat hpos hreg => ?xset,
    fun hat hpos hreg => ?xadd, fun hat hreg => ?cset⟩, fun c s hclean => ⟨fun hat hpos hreg => ?waite,
    fun hat hreg => ⟨fun hreached => ?waitcOn, fun hshort => ?waitcStays⟩,
    fun hat hreg => ⟨fun hreached => ?waitfOn, fun hshort => ?waitfStays⟩⟩⟩
  case nop => exact State.control_next hclean rfl hat (regZero_iff.2 hreg) rfl
  case jmp => exact State.control_next hclean rfl hat (regZero_iff.2 hreg) rfl
  case lset => exact State.control_next hclean rfl hat (decide_eq_true hreg) rfl
  case loop =>
    refine State.control_next hclean rfl hat (decide_eq_true hreg) (congrArg (s.setCore c.key) ?_)
    split <;> rfl
  case brcSet =>
    exact State.control_next hclean rfl hat (by simp [hreg]) (congrArg (s.setCore c.key) (Core.branch_set _ hreg _))
  case brcClear =>
    exact State.control_next hclean rfl hat (by simp [hreg]) (congrArg (s.setCore c.key) (Core.branch_clear _ hreg _))
  case clrc => exact State.control_next hclean rfl hat (regZero_iff.2 hreg) rfl
  case xset =>
    exact State.control_next hclean rfl hat (regBase_iff.2 ⟨hpos, hreg⟩)
      (congrArg (s.advance c.key) (Core.setBase_of_pos _ hpos _))
  case xadd =>
    exact State.control_next hclean rfl hat (regBase_iff.2 ⟨hpos, hreg⟩)
      (congrArg (s.advance c.key) (Core.setBase_of_pos _ hpos _))
  case cset => exact State.control_next hclean rfl hat (regZero_iff.2 hreg) rfl
  case waite =>
    refine ⟨fun hmx hvx htx => ?_, fun e => exec_waite_busy hclean hat ⟨hpos, hreg⟩⟩
    have hidle (e : Eng) : bit (iReg (s.insn c.key)) e.num = true → (s.core c.key).busy e = false := by
      cases e with
      | mx => exact hmx
      | vx => exact hvx
      | tx => exact htx
    rw [exec_waite_idle hclean hat ⟨hpos, hreg⟩ hidle, Core.foldl_setFlying_none]
    simp only [mem_waiteEngines, Eng.num, Core.next]
  case waitcOn => exact State.control_next hclean rfl hat (regZero_iff.2 hreg) (if_neg (Nat.not_lt.2 hreached))
  case waitcStays => exact State.control_next hclean rfl hat (regZero_iff.2 hreg) (if_pos hshort)
  case waitfOn => exact State.control_next hclean rfl hat (regZero_iff.2 hreg) (if_neg (Nat.not_lt.2 hreached))
  case waitfStays => exact State.control_next hclean rfl hat (regZero_iff.2 hreg) (if_pos hshort)

end

section
/-! PROOFS. Engine instructions that take their effect: the checks of 03 R552 one by one, and an instruction whose plan is
a list of checks that all pass. -/

namespace Sys2Proof.Machine

/-! ### Checks that pass -/

theorem faultIf_eq_none {b : Bool} {f : CF} : faultIf b f = none ↔ b = false := by
  cases b <;> simp [faultIf]

theorem firstSome_eq_none {l : List (Option CF)} (h : l.Forall (· = none)) : firstSome l = none := by
  induction l with
  | nil => rfl
  | cons o l ih =>
    obtain ⟨rfl, hl⟩ := (List.forall_cons _ _ _).1 h
    exact ih hl

theorem checked_ok {l : List (Option CF)} (h : l.Forall (· = none)) (p : Plan) : checked l p = .ok p := by
  simp [checked, firstSome_eq_none h]

theorem vxIllegal_none {w top m : Nat} (h : opClean w top m) : vxIllegal w top m = none := by
  obtain ⟨hlow, htop, hmod⟩ := h
  simp [vxIllegal, faultIf_eq_none, hlow, htop, hmod]

theorem vxFormats_none {w a b d : Nat} (h : opFormats w a b d) : vxFormats w a b d = none := by
  obtain ⟨ha, hb, hd⟩ := h
  simp [vxFormats, faultIf_eq_none, ha, hb, hd]

/-- The format check of an instruction that uses no format field (03 R96). -/
theorem noFormats_none {w : Nat} (h : opFormats w 0 0 0) :
    faultIf (iFa w != 0 || iFb w != 0 || iFd w != 0) (.badFormat w) = none :=
  vxFormats_none h

/-- A search that finds nothing raises no fault. -/
theorem find_fault_none {α : Type} {l : List α} {bad : α → Bool} (h : ∀ x ∈ l, bad x = false) (f : α → CF) :
    (l.find? bad).map f = none := by
  rw [List.find?_eq_none.2 (by simpa using h)]
  rfl

/-! ### The landing record of an instruction with MOD 1 (03 R91, R92, R97) -/

theorem landing_groups_none {m g limit : Nat} (h : m = 1 → g ≤ limit) (f : CF) :
    faultIf (m == 1 && decide (limit < g)) f = none := by
  simpa [faultIf_eq_none] using h

theorem landing_format_none {m named f : Nat} (h : m = 1 → named = f) (fault : CF) :
    faultIf (m == 1 && named != f) fault = none := by
  simpa [faultIf_eq_none] using h

theorem State.landingOk_of_mod {s : State} {k m a : Nat} (h : m = 1 → s.landingOk k a = true) :
    ∀ b, (if m = 1 then some a else none) = some b → s.landingOk k b = true := by
  intro b hb
  split at hb
  · rename_i hm
    cases hb
    exact h hm
  · cases hb

/-! ### The effect -/

/-- An engine instruction whose plan is a list of checks that all pass takes the effect of the plan. The
plans of the model have the shape that `hplan` asks for by definition. -/
theorem State.engine_effect {s : State} {k op : Nat} {e : Eng} {ovl : List Eng}
    {plan : State → Nat → Nat → Except CF Plan} {checks : List (Option CF)} {rd wr : List Range}
    {data : List (Nat × List Byte)} {accs : List (Nat × Acc)} {ovf : Bool} {land : Option Nat} {cycles rate : Nat}
    {flits : List Flit} (hs : s.starts k op e ovl rd wr) (hdef : opDefined op = true)
    (hplan : plan s k (s.insn k) = checked checks ⟨rd, wr, data, accs, ovf, land, cycles, rate, flits⟩)
    (hchecks : checks.Forall (· = none)) (hland : ∀ a, land = some a → s.landingOk k a = true) :
    s.tookEffect (s.engine k op e ovl none plan) k data accs ovf :=
  State.engine_took (p := ⟨rd, wr, data, accs, ovf, land, cycles, rate, flits⟩) hs hdef
    (hplan.trans (checked_ok hchecks _)) hland

end Sys2Proof.Machine

end

section
/-! PROOFS. The VX instructions (03 R100 to R102, Tables 7 and 8): elementwise results, conversions, row sums and
composites. -/

namespace Sys2Proof.Machine

/-! ### Elementwise instructions (02 R64, R66, R67) -/

/-- Operand B of an elementwise instruction, element by element. -/
theorem vxB_eq (c : Core) (w b n : Nat) :
    vxB c w b n = (List.range n).map fun i => c.num (if iMod w = 1 then b else b + 4 * i) 4 := by
  unfold vxB
  split
  · simp
  · rfl

/-- The bytes a two-operand elementwise instruction writes, element by element. -/
theorem f32Bytes_binary (c : Core) (f : Nat → Nat → Nat → Nat) (w a b d n : Nat) :
    f32Bytes (((c.f32s a n).zip ((vxB c w b n).zip (c.f32s d n))).map fun x => f x.1 x.2.1 x.2.2) =
      (List.range n).flatMap fun i => leBytes 4 (f (c.num (a + 4 * i) 4)
        (c.num (if iMod w = 1 then b else b + 4 * i) 4) (c.num (d + 4 * i) 4)) := by
  simp only [f32Bytes, vxB_eq, Core.f32s, List.zip_map', List.map_map, List.flatMap_map, Function.comp_apply]

/-- The bytes a one-operand elementwise instruction writes, element by element. -/
theorem f32Bytes_unary (c : Core) (f : Nat → Nat) (a n : Nat) :
    f32Bytes ((c.f32s a n).map f) = (List.range n).flatMap fun i => leBytes 4 (f (c.num (a + 4 * i) 4)) := by
  simp only [f32Bytes, Core.f32s, List.map_map, List.flatMap_map, Function.comp_apply]

theorem elementwise_of_planBinary {mk : CoreId → List Eng → Option (Nat × Nat) → Instr} {op : Nat}
    {f : Nat → Nat → Nat → Nat} {readsD : Bool} {div lat : Nat} (hdef : opDefined op = true)
    (hexec : ∀ c ovl s, exec (mk c ovl none) s =
      .next (s.engine c.key op .vx ovl none (planBinary f readsD div lat))) :
    Claims.elementwise mk op f readsD := by
  intro c ovl s k x w n a b d rb hclean hformats ha hb hd hs
  refine ⟨_, hexec c ovl s, ?_⟩
  rw [← f32Bytes_binary]
  have hs' : s.starts k op .vx ovl (if readsD then [(a, 4 * n), rb, (d, 4 * n)] else [(a, 4 * n), rb]) [(d, 4 * n)] := by
    cases readsD <;> exact hs
  exact State.engine_effect hs' hdef rfl
    ⟨vxIllegal_none hclean, vxFormats_none hformats, areaBad_none ha, areaBad_none hb, areaBad_none hd⟩
    nofun

theorem elementwise1_of_planUnary {mk : CoreId → List Eng → Option (Nat × Nat) → Instr} {op : Nat}
    {f : Nat → Nat → Nat} {m div lat : Nat} (hdef : opDefined op = true)
    (hexec : ∀ c ovl s, exec (mk c ovl none) s =
      .next (s.engine c.key op .vx ovl none fun s k w => planUnary (f (iMod w)) m div lat s k w)) :
    Claims.elementwise1 mk op f m := by
  intro c ovl s k x w n a d hclean hformats ha hd hs
  refine ⟨_, hexec c ovl s, ?_⟩
  rw [← f32Bytes_unary]
  exact State.engine_effect hs hdef rfl
    ⟨vxIllegal_none hclean, vxFormats_none hformats, areaBad_none ha, areaBad_none hd⟩ nofun

/-- The function MOD of VFN selects, as 03 Table 7 lists them. -/
theorem vfnOp_eq : vfnOp = fun m a =>
    if m = 0 then fexp a else if m = 1 then flog a else if m = 2 then frsqrt a else if m = 3 then frecip a
    else if m = 4 then ftanh a else ferf a := by
  funext m a
  match m with
  | 0 | 1 | 2 | 3 | 4 => rfl
  | m + 5 => simp [vfnOp]

/-! ### Conversions (02 R72, 03 R102) -/

section formats
variable {w n : Nat} (f : CF)

theorem vcvt_formats_none (ha : iFa w ≤ 0xA) (hb : iFb w = 0) (hd : resultBytes (iFd w) ≠ 0) :
    faultIf (decide (0xA < iFa w) || iFb w != 0 || resultBytes (iFd w) == 0) f = none := by
  simp [faultIf_eq_none, ha, hb, hd]

theorem vqnt_formats_none (ha : iFa w = 0xA) (hb : iFb w = 0) (hd : isMx (iFd w) = true) (hn : n % 32 = 0) :
    faultIf (iFa w != 0xA || iFb w != 0 || !isMx (iFd w) || n % 32 != 0) f = none := by
  simp [faultIf_eq_none, ha, hb, hd, hn]

theorem vtmk_tree_none {parents : List Nat} {p : Nat} (hparents : parentsOk parents = true) (hp : p ≤ n) :
    faultIf (!parentsOk parents || decide (n < p)) f = none := by
  simp [faultIf_eq_none, hparents, hp]

end formats

/-! ### Row sums (02 R68, R71) -/

/-- The ranges VSUM reads. -/
theorem vsum_reads (m : Nat) (ra rb : Range) :
    (if m == 1 then [ra, rb] else [ra]) = ra :: if m = 1 then [rb] else [] := by
  by_cases hm : m = 1 <;> simp [hm]

theorem vsum_formats_none {w : Nat} (h : opFormats w 0xA (if iMod w = 1 then 0xA else 0) 0) :
    vxFormats w 0xA (if iMod w == 1 then 0xA else 0) 0 = none :=
  vxFormats_none (by simpa using h)

theorem vsum_secondArea_none {m : Nat} {rb : Range} (h : m = 1 → inScratch false rb) :
    (if m == 1 then areaBad false rb else none) = none := by
  by_cases hm : m = 1
  · simpa [hm] using areaBad_none (h hm)
  · simp [hm]

theorem vrnd_records_none {c : Core} {a rows : Nat} (h : ∀ r < rows, recOk (c.scratch.read (a + 32 * r) 32) = true) :
    ((((List.range rows).map fun r => (r, c.scratch.read (a + 32 * r) 32)).find? fun x => !recOk x.2).map
      fun x => CF.alsb x.1) = none := by
  refine find_fault_none (List.forall_mem_map.2 fun r hr => ?_) _
  simp [h r (List.mem_range.1 hr)]

theorem f32Bytes_vrnd (c : Core) (a n rows : Nat) :
    f32Bytes (((List.range rows).map fun r => (r, c.scratch.read (a + 32 * r) 32)).map
        fun x => (accOfRecord x.2).roundDiv f32 n) =
      (List.range rows).flatMap fun r => leBytes 4 ((accOfRecord (c.scratch.read (a + 32 * r) 32)).roundDiv f32 n) := by
  simp only [f32Bytes, List.map_map, List.flatMap_map, Function.comp_apply]

/-! ### Composites (03 R101) -/

theorem blockBad_none {c : Core} {b : Nat} {zero : List (Nat × Nat)}
    (h : ∀ z ∈ (14, 50) :: zero, c.num (b + z.1) z.2 = 0) : blockBad c b zero = none :=
  faultIf_eq_none.2 (List.any_eq_false.2 fun z hz => by simp [h z hz])

theorem composite_of_planRows {mk : CoreId → List Eng → Option (Nat × Nat) → Instr} {op : Nat} {zero : List (Nat × Nat)}
    {args : Core → Nat → Nat → Nat → List Range} {row : Core → Nat → Nat → List Nat → List Nat} {mul lat : Nat}
    (hdef : opDefined op = true)
    (hexec : ∀ c ovl s, exec (mk c ovl none) s =
      .next (s.engine c.key op .vx ovl none (planRows zero args row mul lat))) :
    Claims.composite mk op zero args row := by
  intro c ovl s k x w n rows a b d hclean hformats ha hb hd hargs hzero hs
  have hextra : ((args x b n rows).map (areaBad false)).Forall (· = none) :=
    List.forall_iff_forall_mem.2 (List.forall_mem_map.2 fun r hr => areaBad_none (hargs r hr))
  refine ⟨_, hexec c ovl s, State.engine_effect hs hdef rfl (List.forall_append.2 ⟨?_, hextra⟩) nofun⟩
  exact ⟨vxIllegal_none hclean, vxFormats_none hformats, areaBad_none ha, areaBad_none hb, areaBad_none hd,
    blockBad_none hzero⟩

end Sys2Proof.Machine

open Sys2Proof Sys2Proof.Machine

/-- Settles O4: the checks of each conversion pass under its hypotheses, so its plan takes effect. -/
theorem vxConverts : Obligations.VxConverts := by
  unfold Obligations.VxConverts
  intro c ovl s k x w n a d
  refine ⟨?vcvt, ?vqnt, ?vtmk⟩
  case vcvt =>
    intro sz ra rd hclean hfa hfb hsz hra hrd hland hs
    exact ⟨_, rfl, State.engine_effect hs rfl rfl
      ⟨vxIllegal_none hclean, vcvt_formats_none _ hfa hfb hsz, areaBad_none hra, areaBad_none hrd,
        landing_groups_none (fun hm => (hland hm).1) _, landing_format_none (fun hm => (hland hm).2.1) _⟩
      (State.landingOk_of_mod fun hm => (hland hm).2.2)⟩
  case vqnt =>
    intro rows f rd hclean hfa hfb hf hn hra hrd hs
    exact ⟨_, rfl, State.engine_effect hs rfl rfl
      ⟨vxIllegal_none hclean, vqnt_formats_none _ hfa hfb hf hn, areaBad_none hra, areaBad_none hrd⟩ nofun⟩
  case vtmk =>
    intro p nb rd parents hclean hformats hra hrd hparents hp hs
    exact ⟨_, rfl, State.engine_effect hs rfl rfl
      ⟨vxIllegal_none hclean, vxFormats_none hformats, areaBad_none hra, areaBad_none hrd,
        vtmk_tree_none _ hparents hp⟩ nofun⟩

/-- Settles O5: the checks of both row sums pass under their hypotheses, so their plans take effect. -/
theorem vxSums : Obligations.VxSums := by
  unfold Obligations.VxSums
  intro c ovl s k x w n rows a b d
  refine ⟨fun hclean hformats hra hrb hrd hs => ?vsum, fun hclean hformats hra hrd hrecords hs => ?vrnd⟩
  case vsum =>
    rw [← vsum_reads] at hs
    exact ⟨_, rfl, State.engine_effect hs rfl rfl
      ⟨vxIllegal_none hclean, vsum_formats_none hformats, areaBad_none hra, vsum_secondArea_none hrb,
        areaBad_none hrd⟩ nofun⟩
  case vrnd =>
    rw [← f32Bytes_vrnd]
    exact ⟨_, rfl, State.engine_effect hs rfl rfl
      ⟨vxIllegal_none hclean, vxFormats_none hformats, areaBad_none hra, areaBad_none hrd,
        vrnd_records_none hrecords⟩ nofun⟩

/-- Settles O6: each elementwise instruction and each composite is the shared plan with its own function. -/
theorem vxElementwiseAndComposites : Obligations.VxElementwiseAndComposites := by
  unfold Obligations.VxElementwiseAndComposites
  refine ⟨⟨?vadd, ?vsub, ?vmul, ?vfma, ?vdiv, ?vsqrt, ?vmin, ?vmax, ?vfn⟩, ?vsmx, ?vrms, ?vln⟩
  case vadd => exact elementwise_of_planBinary rfl fun _ _ _ => rfl
  case vsub => exact elementwise_of_planBinary rfl fun _ _ _ => rfl
  case vmul => exact elementwise_of_planBinary rfl fun _ _ _ => rfl
  case vfma => exact elementwise_of_planBinary rfl fun _ _ _ => rfl
  case vdiv => exact elementwise_of_planBinary rfl fun _ _ _ => rfl
  case vsqrt => exact elementwise1_of_planUnary rfl fun _ _ _ => rfl
  case vmin => exact elementwise_of_planBinary rfl fun _ _ _ => rfl
  case vmax => exact elementwise_of_planBinary rfl fun _ _ _ => rfl
  case vfn =>
    rw [← vfnOp_eq]
    exact elementwise1_of_planUnary rfl fun _ _ _ => rfl
  case vsmx => exact composite_of_planRows (args := vsmxArgs) (row := vsmxRow) rfl fun _ _ _ => rfl
  case vrms => exact composite_of_planRows (args := vrmsArgs) (row := vrmsRow) rfl fun _ _ _ => rfl
  case vln => exact composite_of_planRows (args := vlnArgs) (row := vlnRow) rfl fun _ _ _ => rfl

end

section
/-! PROOFS. The MX instructions (03 R93 to R98, Table 6; 02 R54 to R62): a rectangle of accumulators element by element,
and each instruction by its plan. -/

namespace Sys2Proof.Machine

/-! ### The rectangle (03 R93) -/

section rectangle
variable {w top m abase ax : Nat} (h : Claims.mxLegal w top m abase ax)
include h

theorem mxIllegal_none : mxIllegal w top m abase ax = none := by
  obtain ⟨⟨hlow, htop, hmod⟩, hbase, hax, -⟩ := h
  simp [mxIllegal, faultIf_eq_none, hlow, htop, hmod, hbase, hax]

theorem rectBad_none : rectBad abase (iP w) (iNc w) = none := by
  obtain ⟨-, -, -, hlast⟩ := h
  exact if_neg (Nat.not_lt.2 hlast)

end rectangle

/-- What is read or written for each element of a rectangle, by the element's number. -/
theorem rectIdx_map {α : Type} (f : Nat × Nat → α) (abase p nc : Nat) :
    (rectIdx abase p nc).map f = (List.range (p * nc)).map fun i => f (i, Claims.place abase nc i) := by
  simp only [rectIdx, List.map_map]
  rfl

theorem rectIdx_flatMap {α : Type} (f : Nat × Nat → List α) (abase p nc : Nat) :
    (rectIdx abase p nc).flatMap f = (List.range (p * nc)).flatMap fun i => f (i, Claims.place abase nc i) := by
  simp only [List.flatMap_def, rectIdx_map]

/-! ### MMA (02 R54 to R57, 03 R94) -/

theorem mma_formats_none {w : Nat} (ha : iFa w ≤ 0xB) (hb : iFb w ≤ 0xB) (hd : iFd w = 0)
    (hrate : pairRate (iFa w) (iFb w) ≠ 0) (f : CF) :
    faultIf (anyBadFmt w || iFd w != 0 || pairRate (iFa w) (iFb w) == 0) f = none := by
  have ha' : ¬ 12 ≤ iFa w := by omega
  have hb' : ¬ 12 ≤ iFb w := by omega
  simp [faultIf_eq_none, anyBadFmt, badFmt, ha', hb', hd, hrate]

/-- The accumulators MMA writes: element `i` gains its row of A against its column of B. -/
theorem mmaAccs_eq (c : Core) (w a b : Nat) :
    mmaAccs c w a b = (List.range (iP w * iNc w)).map fun i =>
      (Claims.place (iD w) (iNc w) i, (c.acc (Claims.place (iD w) (iNc w) i)).dot
        ((c.panelRow (iFa w) a (iP w) (iKb w) (i / iNc w)).zip (mmaCol c w b (i % iNc w)))) := by
  simp only [mmaAccs, rectIdx_map]
  refine List.map_congr_left fun i hi => ?_
  have hrow : i / iNc w < iP w := Nat.div_lt_of_lt_mul (Nat.mul_comm _ _ ▸ List.mem_range.1 hi)
  have hcol : i % iNc w < iNc w := Nat.mod_lt _ (Nat.succ_pos _)
  simp [hrow, hcol]

/-! ### Results and records (02 R60 to R62, 03 R94, R95) -/

theorem arnd_formats_none {w : Nat} (ha : iFa w = 0) (hb : iFb w = 0) (hd : resultBytes (iFd w) ≠ 0) (f : CF) :
    faultIf (iFa w != 0 || iFb w != 0 || resultBytes (iFd w) == 0) f = none := by
  simp [faultIf_eq_none, ha, hb, hd]

theorem arnd_bytes (c : Core) (abase p nc : Nat) (f : Acc → List Byte) :
    ((rectIdx abase p nc).map fun x => c.acc x.2).flatMap f =
      (List.range (p * nc)).flatMap fun i => f (c.acc (Claims.place abase nc i)) := by
  rw [rectIdx_map, List.flatMap_map]

theorem arnd_ovf (c : Core) (abase p nc : Nat) :
    ovfAfter false ((rectIdx abase p nc).map fun x => c.acc x.2) =
      (List.range (p * nc)).any fun i => (c.acc (Claims.place abase nc i)).ovr := by
  simp only [ovfAfter, rectIdx_map, List.any_map, Bool.false_or]
  rfl

/-- The records AADD combines, each with the accumulator it goes to. -/
def aaddRecords (c : Core) (abase p nc a : Nat) : List (Nat × List Byte) :=
  (rectIdx abase p nc).map fun x => (x.2, c.scratch.read (a + 32 * x.1) 32)

theorem aaddRecords_eq (c : Core) (abase p nc a : Nat) :
    aaddRecords c abase p nc a =
      (List.range (p * nc)).map fun i => (Claims.place abase nc i, c.scratch.read (a + 32 * i) 32) :=
  rectIdx_map ..

theorem aadd_records_none {c : Core} {abase p nc a : Nat}
    (h : ∀ i ∈ List.range (p * nc),
      combinable (c.acc (Claims.place abase nc i)) (c.scratch.read (a + 32 * i) 32) = true) :
    (((aaddRecords c abase p nc a).find? fun x => !combinable (c.acc x.1) x.2).map fun x => CF.alsb x.1) = none := by
  rw [aaddRecords_eq]
  refine find_fault_none (List.forall_mem_map.2 fun i hi => ?_) _
  simp [h i hi]

theorem aadd_accs (c : Core) (abase p nc a : Nat) :
    ((aaddRecords c abase p nc a).map fun x => (x.1, (c.acc x.1).combine (accOfRecord x.2))) =
      (List.range (p * nc)).map fun i => (Claims.place abase nc i,
        (c.acc (Claims.place abase nc i)).combine (accOfRecord (c.scratch.read (a + 32 * i) 32))) := by
  rw [aaddRecords_eq, List.map_map]
  rfl

end Sys2Proof.Machine

open Sys2Proof Sys2Proof.Machine

/-- Settles O7: the checks of each instruction pass under its hypotheses, and its plan writes its rectangle element by
element. -/
theorem mxInstructions : Obligations.MxInstructions := by
  unfold Obligations.MxInstructions
  intro c ovl s k x w p nc kb a b d all sz
  refine ⟨fun hlegal hformats hs => ?aclr, ?mma, fun hlegal hfa hfb hsz hd hs => ?arnd,
    fun hlegal hformats hd hs => ?aexp, fun hlegal hformats ha hrecords hs => ?aadd⟩
  case aclr =>
    have haccs := rectIdx_map (fun y => (y.2, ({ alsb := BitVec.ofInt 10 (iAclrLsb w) } : Acc))) (iD w) p nc
    rw [← haccs]
    exact ⟨_, rfl, State.engine_effect hs rfl rfl
      ⟨mxIllegal_none hlegal, noFormats_none hformats, rectBad_none hlegal⟩ nofun⟩
  case mma =>
    intro ra rb hlegal hfa hfb hfd hrate hra hrb hland hs
    have haccs := mmaAccs_eq x w a b
    dsimp only [mmaCol] at haccs
    rw [← haccs]
    exact ⟨_, rfl, State.engine_effect hs rfl rfl
      ⟨mxIllegal_none hlegal, mma_formats_none hfa hfb hfd hrate _, rectBad_none hlegal, areaBad_none hra,
        areaBad_none hrb, landing_groups_none (fun hm => (hland hm).1) _,
        landing_format_none (fun hm => (hland hm).2.1) _⟩
      (State.landingOk_of_mod fun hm => (hland hm).2.2)⟩
  case arnd =>
    have hbytes := arnd_bytes x (iA w) p nc fun y => leBytes sz (y.round ((ffmt (iFd w)).getD f32))
    rw [← hbytes, ← arnd_ovf]
    exact ⟨_, rfl, State.engine_effect hs rfl rfl
      ⟨mxIllegal_none hlegal, arnd_formats_none hfa hfb hsz _, rectBad_none hlegal, areaBad_none hd⟩ nofun⟩
  case aexp =>
    have hbytes := rectIdx_flatMap (fun y => (x.acc y.2).record) (iA w) p nc
    rw [← hbytes]
    exact ⟨_, rfl, State.engine_effect hs rfl rfl
      ⟨mxIllegal_none hlegal, noFormats_none hformats, rectBad_none hlegal, areaBad_none hd⟩ nofun⟩
  case aadd =>
    rw [← aadd_accs]
    exact ⟨_, rfl, State.engine_effect hs rfl rfl
      ⟨mxIllegal_none hlegal, noFormats_none hformats, rectBad_none hlegal, areaBad_none ha,
        aadd_records_none hrecords⟩ nofun⟩

end

section
/-! PROOFS. The TX instructions (03 R103 to R106, Table 9; 05 R163, R164, R182): a transfer that is granted, its flits on
the LOCAL input of the core's router. -/

namespace Sys2Proof.Machine

/-! ### Checks that pass (03 R103, R104, 05 R163, R182) -/

section checks
variable {s : State} {k w : Nat} (h : Claims.txLegal s k w)
include h

theorem txIllegal_none : txIllegal w = none := by
  obtain ⟨hlow, hmid, htop, -⟩ := h
  simp [txIllegal, faultIf_eq_none, hlow, hmid, htop]

theorem txRange_none : txRange ((s.core k).channel w) w = none := by
  obtain ⟨-, -, -, hchannel, hrun, hlen, -⟩ := h
  refine firstSome_eq_none ⟨?_, ?_, ?_⟩ <;> simp [faultIf_eq_none, hchannel, hrun, hlen]

theorem txSlots_none : s.txSlots k w = none := by
  obtain ⟨-, -, -, -, -, -, hgranted⟩ := h
  simp [State.txSlots, hgranted]

end checks

theorem faultIf_below {n limit : Nat} (h : n < limit) (f : CF) : faultIf (decide (limit ≤ n)) f = none := by
  simpa [faultIf_eq_none] using h

/-! ### The effect of a transfer -/

/-- Counting busy cycles changes no die. -/
theorem State.countBusy_dies (s : State) (d : Nat) (ln : Option Nat) (e : Eng) (r n : Nat) :
    (s.countBusy d ln e r n).dies = s.dies := by
  unfold State.countBusy
  split <;> rfl

/-- An instruction's flits join those under way on the die of its core. -/
theorem State.commit_flights (s : State) (k : Nat) (e : Eng) (pc : BitVec 12) (p : Plan) :
    ((s.commit k e pc p).die (keyDie k)).flights = (s.die (keyDie k)).flights ++ p.flits := by
  unfold State.commit State.die
  rw [State.countBusy_dies]
  split
  · rename_i hnone
    rw [List.isEmpty_iff.1 hnone, List.append_nil]
    rfl
  · simp [State.updDie, State.setDie, State.die]

/-- Counting the flits injected leaves those under way. -/
theorem State.txInject_flights (s : State) (k w n d : Nat) : ((s.txInject k w n).die d).flights = (s.die d).flights := by
  unfold State.txInject State.inject
  by_cases hd : d = keyDie k
  · subst hd
    rw [State.die_updDie]
  · rw [State.die_updDie_ne _ _ _ hd]

/-- Counting the flits injected leaves all that the effect of a tile instruction speaks of. -/
theorem State.tookEffect_txInject {s t : State} {k w n : Nat} {data : List (Nat × List Byte)} {accs : List (Nat × Acc)}
    {ovf : Bool} (h : s.tookEffect t k data accs ovf) : s.tookEffect (t.txInject k w n) k data accs ovf := by
  have hlane (d l : Nat) : (t.txInject k w n).lane d l = t.lane d l := by
    unfold State.txInject State.inject
    exact State.lane_updDie (by intro; rfl) ..
  obtain ⟨hpc, hst, hovf, hscratch, haccs, hloops, hbases, hctrs, hprog, hchan, hfault, hcores, hlanes, htiers⟩ := h
  exact ⟨hpc, hst, hovf, hscratch, haccs, hloops, hbases, hctrs, hprog, hchan, hfault, hcores,
    fun d l => (hlane d l).trans (hlanes d l), htiers⟩

/-- A transfer whose checks pass commits as any engine instruction does, and its flits are counted as injected. -/
theorem State.transfer_commits {s : State} {k op : Nat} {ovl : List Eng} {plan : State → Nat → Nat → Except CF Plan}
    {p : Plan} (hs : s.starts k op .tx ovl p.reads p.writes) (hdef : opDefined op = true)
    (hplan : plan s k (s.insn k) = .ok p) (hland : p.land = none) :
    s.transfer k op ovl none plan =
      ((s.setCore k (s.core k).next).commit k .tx (s.core k).pc p).txInject k (s.insn k) p.flits.length := by
  have hcommit := State.engine_commits hs hdef hplan (by simp [hland])
  obtain ⟨hat, hbusy, -⟩ := hs
  have hidle : ¬ (s.core k).busy .tx = true := by simp [hbusy]
  rw [State.engine, State.issue_at hat hdef, if_neg hidle] at hcommit
  have hrun : ¬ ((((s.setCore k (s.core k).next).commit k .tx (s.core k).pc p).core k).st == .fault) = true := by
    obtain ⟨-, hst, -⟩ := State.commit_took s k .tx p
    rw [hst, beq_iff_eq]
    exact State.atOp_run hat
  rw [State.transfer, State.issue_at hat hdef, if_neg hidle]
  dsimp only
  rw [hcommit, hplan]
  exact if_neg hrun

/-- A transfer whose plan is a list of checks that all pass takes the effect of the plan, and its flits are sent. -/
theorem State.transfer_effect {s : State} {k op : Nat} {ovl : List Eng} {plan : State → Nat → Nat → Except CF Plan}
    {checks : List (Option CF)} {rd wr : List Range} {data : List (Nat × List Byte)} {accs : List (Nat × Acc)}
    {ovf : Bool} {cycles rate : Nat} {flits : List Flit} (hs : s.starts k op .tx ovl rd wr)
    (hdef : opDefined op = true)
    (hplan : plan s k (s.insn k) = checked checks ⟨rd, wr, data, accs, ovf, none, cycles, rate, flits⟩)
    (hchecks : checks.Forall (· = none)) :
    s.tookEffect (s.transfer k op ovl none plan) k data accs ovf ∧
      ((s.transfer k op ovl none plan).die (keyDie k)).flights = (s.die (keyDie k)).flights ++ flits := by
  have hcommits := State.transfer_commits hs hdef (hplan.trans (checked_ok hchecks _)) rfl
  rw [hcommits]
  exact ⟨State.tookEffect_txInject (State.commit_took ..),
    (State.txInject_flights ..).trans (State.commit_flights ..)⟩

end Sys2Proof.Machine

open Sys2Proof Sys2Proof.Machine

/-- Settles O8: a legal transfer whose own checks pass takes no effect on its core but the advance of the PC, and sends
the flits of its plan. -/
theorem txInstructions : Obligations.TxInstructions := by
  unfold Obligations.TxInstructions
  intro c ovl s k x w e la ra n r flit hlegal
  refine ⟨fun hla hra hs => ⟨_, rfl, State.transfer_effect hs rfl rfl ?tsnd⟩,
    fun hrun hla hra hs => ⟨_, rfl, State.transfer_effect hs rfl rfl ?tget⟩,
    fun hrun hlen hla hra hs => ⟨_, rfl, State.transfer_effect hs rfl rfl ?treq⟩⟩
  case tsnd =>
    exact ⟨txIllegal_none hlegal, txRange_none hlegal, areaBad_none hla, faultIf_below hra _, txSlots_none hlegal⟩
  case tget =>
    exact ⟨txIllegal_none hlegal, txRange_none hlegal, faultIf_eq_none.2 (by simpa using hrun), areaBad_none hla,
      faultIf_below hra _, txSlots_none hlegal⟩
  case treq =>
    exact ⟨txIllegal_none hlegal, txRange_none hlegal, faultIf_eq_none.2 (by simpa using hrun),
      faultIf_eq_none.2 (by simpa using hlen), areaBad_none hla, faultIf_eq_none.2 (by simpa using hra),
      txSlots_none hlegal⟩

end

section
/-! PROOFS. Barriers between modules and missed deadlines (04 R127, R129; 10 R346, R347): what a fault charged to a lane
leaves alone, and what an arrival and a deadline do. -/

namespace Sys2Proof.Machine

/-! ### Faults charged to a lane (09 R301, R308) -/

theorem State.raise_frame (s : State) (m : FaultMsg) : ∃ q l, s.raise m = { s with faultQ := q, faultLog := l } := by
  unfold State.raise
  split
  · exact ⟨_, _, rfl⟩
  · exact ⟨_, _, rfl⟩

theorem State.raise_faultQ {s : State} (h : s.inEntry = false) (m : FaultMsg) :
    (s.raise m).faultQ = s.faultQ ++ [m] := by
  rw [State.raise, if_neg (by simp [h])]

section fault
variable (s : State) (d l unit code : Nat) (st : Status) (ploc info addr : Nat)

theorem State.laneFault_frame :
    ∃ q g, s.laneFault d l unit code st ploc info addr = { s with faultQ := q, faultLog := g } := by
  unfold State.laneFault
  split
  · exact ⟨_, _, rfl⟩
  · exact State.raise_frame s _

@[simp] theorem State.lane_laneFault (e j : Nat) :
    (s.laneFault d l unit code st ploc info addr).lane e j = s.lane e j := by
  obtain ⟨q, g, h⟩ := s.laneFault_frame d l unit code st ploc info addr
  rw [h]; rfl

@[simp] theorem State.core_laneFault (i : Nat) :
    (s.laneFault d l unit code st ploc info addr).core i = s.core i := by
  obtain ⟨q, g, h⟩ := s.laneFault_frame d l unit code st ploc info addr
  rw [h]; rfl

theorem State.laneFault_charged : s.charged (s.laneFault d l unit code st ploc info addr) d l unit code st := by
  intro n hn hentry
  rw [State.laneFault, hn]
  exact ⟨_, State.raise_faultQ hentry _, rfl, rfl, rfl, rfl, rfl, rfl⟩

end fault

/-! ### The deadline (04 R129) -/

theorem exec_barrierTimeout_due {die lane : Fin 8} {s : State}
    (harrived : (s.lane die lane).dieArrived = true ∨ (s.lane die lane).arrived ≠ [])
    (hdue : barRfi (s.lane die lane).barrier + barDline (s.lane die lane).barrier ≤ (s.lane die lane).fi.toNat)
    (remote : Bool) :
    exec (.barrierTimeout die lane remote false) s = .next ((s.laneFault die lane 3 1
      (if remote = true ∨ (s.lane die lane).linkLost = true then .link else .slot) (plocOf die 0xF 0x1F 7 0)
      (s.lane die lane).barid.toNat 0).updLane die lane fun L => { L with timeout := true, st := .fault }) := by
  have hacts : (((s.lane die lane).dieArrived || !(s.lane die lane).arrived.isEmpty) && decide
      (barRfi (s.lane die lane).barrier + barDline (s.lane die lane).barrier ≤ (s.lane die lane).fi.toNat)) = true := by
    simpa [hdue] using harrived
  refine congrArg Host.Outcome.next ((if_pos hacts).trans ?_)
  simp

/-! ### Barriers between modules (04 R127, 10 R346, R347) -/

section across
variable {die lane : Fin 8} {s : State} {k : Nat} (hcomp : s.laneComp die lane = some k)
  (harrived : (s.compLane k).dieArrived = true) (hscope : barScope (s.compLane k).barrier = 2)
include hcomp

theorem exec_compositionArrival : exec (.compositionArrival die lane) s = .next (s.compArrival k) := by
  refine congrArg Host.Outcome.next ?_
  rw [hcomp]

include harrived hscope

theorem exec_compositionArrival_released (hrel : (s.compLane k).relArrived = true) :
    exec (.compositionArrival die lane) s = .next (s.releaseDown k) := by
  rw [exec_compositionArrival hcomp]
  simp [State.compArrival, Lane.waitsAcross, harrived, hscope, hrel]

section complete
variable (hrel : (s.compLane k).relArrived = false) (hup : (s.compLane k).sentUp = false)
  (hfull : s.maskFull (s.comp k) (s.comp k).rootDie = true) (hkids : ∀ v ∈ (s.comp k).kids, v ∈ (s.compLane k).children)
  {mark : Bool} (hmark : mark = ((s.compLane k).swapMark || ((s.compLane k).barid == 0xFF && (s.comp k).stage == 3)))
  {u : State} (hu : u = s.updLane (s.comp k).rootDie (s.comp k).lane fun x =>
    { x with swapMark := mark, sentUp := true, children := x.children.filter fun v => !(s.comp k).kids.contains v })
include hrel hup hfull hkids hmark hu

/-- Once every die and every child of the module has reported, a member reports to its parent. -/
theorem exec_compositionArrival_reports {v : Nat} (hparent : (s.comp k).parent = some v) :
    exec (.compositionArrival die lane) s =
      .next (u.sendUnits (u.portsTo (s.comp k) v) (2 * (s.comp k).lane) (u.barrierUnit k 1 mark)) := by
  have hall : (s.comp k).kids.all (s.compLane k).children.contains = true := by simpa using hkids
  subst hu hmark
  rw [exec_compositionArrival hcomp]
  simp [State.compArrival, Lane.waitsAcross, harrived, hscope, hrel, hup, hfull, hall, hparent]

/-- Once every die and every child of the module has reported, the root releases. -/
theorem exec_compositionArrival_releases (hroot : (s.comp k).parent = none) :
    exec (.compositionArrival die lane) s =
      .next ((u.updLanes (s.comp k).dies (s.comp k).lane fun x => { x with relArrived := true }).releaseDown k) := by
  have hall : (s.comp k).kids.all (s.compLane k).children.contains = true := by simpa using hkids
  subst hu hmark
  rw [exec_compositionArrival hcomp]
  simp [State.compArrival, Lane.waitsAcross, harrived, hscope, hrel, hup, hfull, hall, hroot]

end complete

end across

/-- A release goes to a child module as a unit of code 2 on the one port that leads there. -/
theorem State.port_releaseDown {s : State} {k v i : Nat} (hdown : (s.compLane k).sentDown = false)
    (hkids : (s.comp k).kids = [v]) (hport : s.portsTo (s.comp k) v = [i]) :
    (s.releaseDown k).port i =
      (s.port i).putUnit (2 * (s.comp k).lane) (s.barrierUnit k 2 (s.compLane k).swapMark) := by
  simp [State.releaseDown, hdown, hkids, hport, State.sendUnits]

end Sys2Proof.Machine

open Sys2Proof Sys2Proof.Machine

/-- Settles O20: a missed deadline raises the lane's fault and sets its state, and nothing more. -/
theorem barrierTimeouts : Obligations.BarrierTimeouts := by
  unfold Obligations.BarrierTimeouts
  intro die lane remote s d l L harrived hdue
  refine ⟨_, exec_barrierTimeout_due harrived hdue remote, ?_, ?_, fun e j hne => ?_, fun i => ?_⟩
  · rw [State.lane_updLane, State.lane_laneFault]
  · exact State.laneFault_charged s d l 3 1 _ _ _ _
  · rw [State.lane_updLane_ne _ _ _ _ hne, State.lane_laneFault]
  · rw [State.core_updLane, State.core_laneFault]

/-- Settles O19, by the branches of an arrival: a release at hand, a report to the parent, the root's release. -/
theorem compositionBarriers : Obligations.CompositionBarriers := by
  unfold Obligations.CompositionBarriers
  intro die lane s k m L hcomp harrived hscope
  refine ⟨exec_compositionArrival_released hcomp harrived hscope, fun hrel hup hfull hkids => ?_,
    fun hdown v hkids i hport w hw => hw.symm.trans (State.port_releaseDown hdown hkids hport)⟩
  exact ⟨_, _, rfl, rfl,
    fun v hparent => exec_compositionArrival_reports hcomp harrived hscope hrel hup hfull hkids rfl rfl hparent,
    fun hroot => exec_compositionArrival_releases hcomp harrived hscope hrel hup hfull hkids rfl rfl hroot⟩

end

section
/-! PROOFS. Frame starts and releases (04 R113, R114, R124, R128; 05 R156, R183; 03 R77): the lane's registers, the
cores that go on or begin a step, and what a frame start counts. -/

namespace Sys2Proof.Machine

/-! ### Cores changed one by one -/

/-- A fold whose steps change the core of their key by an idempotent change, and no other core. -/
theorem State.core_foldl {f : State → Nat → State} {g : Core → Core} (hself : ∀ s i, (f s i).core i = g (s.core i))
    (hother : ∀ s i j, j ≠ i → (f s i).core j = s.core j) (hg : ∀ c, g (g c) = g c) (l : List Nat) (s : State)
    (i : Nat) : (l.foldl f s).core i = if i ∈ l then g (s.core i) else s.core i := by
  induction l generalizing s with
  | nil => simp
  | cons j l ih =>
    rw [List.foldl_cons, ih]
    by_cases h : i = j
    · subst h; simp [hself, hg]
    · simp [hother s j i h, h]

/-- A fold whose steps change cores alone changes cores alone. -/
theorem State.foldl_cores_frame {f : State → Nat → State} (h : ∀ s i, ∃ x, f s i = { s with cores := x })
    (l : List Nat) (s : State) : ∃ x, l.foldl f s = { s with cores := x } := by
  refine List.foldlRecOn (motive := fun t => ∃ x, t = { s with cores := x }) l f ⟨s.cores, rfl⟩ ?_
  rintro _ ⟨x, rfl⟩ i -
  obtain ⟨y, hy⟩ := h { s with cores := x } i
  exact ⟨y, hy⟩

/-! ### The registers of a release (04 R113, R128) -/

theorem Lane.release_sentDown (L : Lane) (b : Bool) : ({ L with sentDown := b } : Lane).release = L.release := by
  have hbarrier : ({ L with sentDown := b } : Lane).barrier = L.barrier := rfl
  simp only [Lane.release, hbarrier]
  split
  · rfl
  · rfl

section release
variable (L : Lane)

theorem Lane.release_st : L.release.st = L.st := by
  unfold Lane.release; dsimp only; split <;> rfl

theorem Lane.release_step : L.release.step = L.step := by
  unfold Lane.release; dsimp only; split <;> rfl

theorem Lane.release_swapMark : L.release.swapMark = L.swapMark := by
  unfold Lane.release; dsimp only; split <;> rfl

theorem Lane.release_dieArrived : L.release.dieArrived = false := rfl

theorem Lane.release_arrived : L.release.arrived = [] := rfl

end release

theorem Lane.release_late (L : Lane) : L.release.late = true ↔ L.late = true ∨ barRfi L.barrier < L.fi.toNat := by
  by_cases h : barRfi L.barrier < L.fi.toNat
  all_goals simp [Lane.release, Lane.noteLate, h]

theorem barRfi_lt (e : Word64) : barRfi e < 2 ^ 32 := Nat.mod_lt _ (by decide)

theorem Lane.release_fi {L : Lane} (h : L.barid ≠ 0xFF) : L.release.fi.toNat = max L.fi.toNat (barRfi L.barrier) := by
  have hlt : max L.fi.toNat (barRfi L.barrier) < 2 ^ 32 := max_lt L.fi.isLt (barRfi_lt _)
  rw [Lane.release, if_neg h, BitVec.toNat_ofNat, Nat.mod_eq_of_lt hlt]

theorem Lane.release_start {L : Lane} (h : L.barid = 0xFF) : L.release.fi = 0 := by
  rw [Lane.release, if_pos h]

/-! ### The release on a die (04 R128) -/

theorem State.mayRelease_of {s : State} {m : Comp} {d l : Nat} (hl : m.lane = l)
    (harrived : (s.lane d l).dieArrived = true)
    (hst : (s.lane d l).st = .start ∨ (s.lane d l).st = .layers ∨ (s.lane d l).st = .commit)
    (hscope : barScope (s.lane d l).barrier = 0 ∨
      barScope (s.lane d l).barrier = 1 ∧ (∀ e ∈ m.dies, bit (s.lane d l).mask.toNat e = true) ∨
      barScope (s.lane d l).barrier = 2 ∧ (s.lane d l).relArrived = true) : s.mayRelease m d = true := by
  subst hl
  have hphase : ((s.lane d m.lane).st == .start || (s.lane d m.lane).st == .layers ||
      (s.lane d m.lane).st == .commit) = true := by simpa [or_assoc] using hst
  obtain hdie | ⟨hpackage, hmask⟩ | ⟨hacross, hrel⟩ := hscope
  · simp only [State.mayRelease, harrived, hphase, hdie]; rfl
  · have hfull : s.maskFull m d = true := List.all_eq_true.2 hmask
    simp only [State.mayRelease, harrived, hphase, hpackage, hfull]; rfl
  · simp only [State.mayRelease, harrived, hphase, hacross, hrel]; rfl

theorem exec_barrierRelease {die lane : Fin 8} {s : State} {k : Nat} (hcomp : s.laneComp die lane = some k)
    (hmay : s.mayRelease (s.comp k) die = true) : exec (.barrierRelease die lane) s = .next (s.releaseDie k die) := by
  refine congrArg Host.Outcome.next ?_
  rw [hcomp]
  exact if_pos hmay

theorem State.sendUnits_frame (s : State) (ports : List Nat) (pos : Nat) (u : LaneUnit) :
    ∃ p, s.sendUnits ports pos u = { s with ports := p } := by
  refine List.foldlRecOn (motive := fun t => ∃ p : Tab Port, t = { s with ports := p }) ports _ ⟨s.ports, rfl⟩ ?_
  rintro _ ⟨p, rfl⟩ i -
  exact ⟨_, rfl⟩

/-- A release passed on down changes ports and, of the lanes, nothing that a release of the lane keeps. -/
theorem State.releaseDown_frame (s : State) (k : Nat) : ∃ p x, s.releaseDown k = { s with ports := p, dies := x } ∧
    ∀ d l, ((s.releaseDown k).lane d l).release = (s.lane d l).release := by
  by_cases hdown : (s.compLane k).sentDown = true
  · rw [State.releaseDown, if_pos hdown]
    exact ⟨_, _, rfl, fun _ _ => rfl⟩
  · obtain ⟨p, hp⟩ : ∃ p, (s.comp k).kids.foldl (fun (t : State) v => t.sendUnits (t.portsTo (s.comp k) v)
        (2 * (s.comp k).lane) (t.barrierUnit k 2 (s.compLane k).swapMark)) s = { s with ports := p } := by
      refine List.foldlRecOn (motive := fun t => ∃ p : Tab Port, t = { s with ports := p }) _ _ ⟨s.ports, rfl⟩ ?_
      rintro _ ⟨p, rfl⟩ v -
      obtain ⟨q, hq⟩ := State.sendUnits_frame { s with ports := p } _ _ _
      exact ⟨q, hq⟩
    rw [State.releaseDown, if_neg hdown]
    dsimp only
    rw [hp]
    refine ⟨_, _, rfl, fun d l => ?_⟩
    by_cases h : d = (s.comp k).rootDie ∧ l = (s.comp k).lane
    · obtain ⟨rfl, rfl⟩ := h
      rw [State.lane_updLane]
      exact Lane.release_sentDown _ _
    · rw [State.lane_updLane_ne _ _ _ _ (not_and_or.1 h)]
      rfl

/-- The release of a barrier of the step program: the lane's registers, then the cores that wait there. -/
theorem State.releaseDie_step {s : State} {k d : Nat} (hb : (s.lane d (s.comp k).lane).barid.toNat < 0xFE) :
    ∃ u : State, (∃ p x, u = { s with ports := p, dies := x }) ∧ (∀ e j, (u.lane e j).release = (s.lane e j).release) ∧
      ∃ c, s.releaseDie k d = { (u.updLane d (s.comp k).lane Lane.release).resume (s.comp k) d
        (s.lane d (s.comp k).lane).barid with comps := c } := by
  have hstart : (s.lane d (s.comp k).lane).barid ≠ 0xFF := fun h => by rw [h] at hb; exact absurd hb (by decide)
  have hcommit : (s.lane d (s.comp k).lane).barid ≠ 0xFE := fun h => by rw [h] at hb; exact absurd hb (by decide)
  have hcomps (v : State) (c : Prop) [Decidable c] (f : Comp → Comp) :
      ∃ x, (if c then v.updComp k f else v) = { v with comps := x } := by
    split
    · exact ⟨_, rfl⟩
    · exact ⟨_, rfl⟩
  unfold State.releaseDie
  simp only [if_neg hstart, if_neg hcommit]
  split
  · obtain ⟨p, x, hframe, hlane⟩ := s.releaseDown_frame k
    exact ⟨_, ⟨p, x, hframe⟩, hlane, hcomps _ _ _⟩
  · exact ⟨s, ⟨_, _, rfl⟩, fun _ _ => rfl, hcomps _ _ _⟩

/-- A core that waits at barrier `b` goes on after its BAR. -/
def Core.goOn (b : BitVec 8) (c : Core) : Core := if c.barWait = some b then { c.next with barWait := none } else c

theorem State.resume_core (s : State) (m : Comp) (d : Nat) (b : BitVec 8) (i : Nat) :
    (s.resume m d b).core i = if i ∈ m.coresOn d then (s.core i).goOn b else s.core i := by
  refine State.core_foldl (g := Core.goOn b) (fun s i => ?_) (fun s i j hne => ?_) (fun c => ?_) _ s i
  · unfold Core.goOn
    dsimp only
    split
    · rw [State.core_setCore]
    · rfl
  · dsimp only
    split
    · rw [State.core_setCore_ne _ _ _ hne]
    · rfl
  · by_cases h : c.barWait = some b
    · simp [Core.goOn, h]
    · simp [Core.goOn, h]

theorem State.resume_frame (s : State) (m : Comp) (d : Nat) (b : BitVec 8) :
    ∃ x, s.resume m d b = { s with cores := x } := by
  refine State.foldl_cores_frame (fun s i => ?_) _ s
  dsimp only
  split
  · exact ⟨_, rfl⟩
  · exact ⟨_, rfl⟩

/-- What the release of a barrier of the step program leaves: the lane's registers, the cores that waited, and every
memory. -/
theorem State.releaseDie_step_effect {s : State} {k d l : Nat} (hl : (s.comp k).lane = l)
    (hb : (s.lane d l).barid.toNat < 0xFE) :
    (s.releaseDie k d).lane d l = (s.lane d l).release ∧
      (∀ i, (s.releaseDie k d).core i = if i ∈ (s.comp k).coresOn d
        then (s.core i).goOn (s.lane d l).barid else s.core i) ∧
      (s.releaseDie k d).tierH = s.tierH ∧ (s.releaseDie k d).tierM = s.tierM ∧
      (s.releaseDie k d).tierF = s.tierF := by
  subst hl
  obtain ⟨u, ⟨p, x, hu⟩, hlane, c, heq⟩ := State.releaseDie_step hb
  generalize hv : u.updLane d (s.comp k).lane Lane.release = v at heq
  have hcore (i : Nat) : v.core i = s.core i := by rw [← hv, hu]; rfl
  have hgo := v.resume_core (s.comp k) d (s.lane d (s.comp k).lane).barid
  simp only [hcore] at hgo
  obtain ⟨y, hy⟩ := v.resume_frame (s.comp k) d (s.lane d (s.comp k).lane).barid
  rw [heq]
  refine ⟨?_, hgo, ?_⟩
  · rw [hy, ← hv]
    exact (State.lane_updLane u d (s.comp k).lane Lane.release).trans (hlane d (s.comp k).lane)
  · rw [hy, ← hv, hu]
    exact ⟨rfl, rfl, rfl⟩

/-! ### The Lathe's own barriers (04 R114, R124, R128) -/

/-- A barrier that is not of composition scope releases without a word to another module. -/
theorem State.releaseDie_own {s : State} {k d l : Nat} (hl : (s.comp k).lane = l)
    (hscope : barScope (s.lane d l).barrier ≠ 2) :
    s.releaseDie k d =
      if (s.lane d l).barid = 0xFF then (s.updLane d l Lane.release).startRelease k d
      else if (s.lane d l).barid = 0xFE then (s.updLane d l Lane.release).commitRelease k d
      else (s.updLane d l Lane.release).resume (s.comp k) d (s.lane d l).barid := by
  subst hl
  simp [State.releaseDie, hscope]

/-- With no swap armed or carried and no caps to bring, the start barrier's release begins the layers and no more. -/
theorem State.startRelease_eq {s : State} {k d : Nat} (hloop : (s.comp k).loop.isSome = true)
    (harm : (s.die d).ctl.arm = false) (hstage : (s.comp k).stage = 0)
    (hmark : (s.lane (s.comp k).rootDie (s.comp k).lane).swapMark = false) (hcaps : (s.comp k).newCaps = none)
    (hbal : (s.comp k).balDue = false) : s.startRelease k d = s.startLayers k d := by
  have hswap : s.meshSwap d (s.comp k).lane = s := by simp [State.meshSwap, harm]
  simp [State.startRelease, hswap, hloop, hstage, hmark, hcaps, hbal]

theorem Core.startStep_idem (c : Core) : c.startStep.startStep = c.startStep := by
  by_cases h : c.st = .off ∨ c.st = .fenced ∨ c.st = .fault
  · simp [Core.startStep, h]
  · simp [Core.startStep, h]

theorem State.startLayers_core (s : State) (k d i : Nat) :
    (s.startLayers k d).core i = if i ∈ (s.comp k).coresOn d then (s.core i).startStep else s.core i :=
  State.core_foldl (fun s i => State.core_setCore s i _) (fun s i _ hne => State.core_setCore_ne s i _ hne)
    Core.startStep_idem _ _ i

theorem State.startLayers_lane (s : State) (k d : Nat) : ∃ sp, (s.startLayers k d).lane d (s.comp k).lane =
    { s.lane d (s.comp k).lane with st := .layers, spindles := sp } := by
  unfold State.startLayers
  refine ⟨_, (foldl_keeps (fun u : State => u.lane d (s.comp k).lane) _ (fun u i => ?_) _ _).trans
    (State.lane_updLane ..)⟩
  rfl

/-- A core that runs or is idle starts its step program. -/
theorem Core.startStep_starts {c : Core} (h : c.st = .run ∨ c.st = .idle) :
    c.startStep.st = .run ∧ c.startStep.pc = c.entry ∧ c.startStep.ctrs = [] ∧ c.startStep.loops = [] ∧
      c.startStep.bases = [] ∧ c.startStep.ovf = false ∧ c.startStep.scratch = c.scratch ∧
      c.startStep.accs = c.accs ∧ c.startStep.prog = c.prog := by
  have hstarts : ¬ (c.st = .off ∨ c.st = .fenced ∨ c.st = .fault) := by rcases h with h | h <;> simp [h]
  rw [Core.startStep, if_neg hstarts]
  exact ⟨rfl, rfl, rfl, rfl, rfl, rfl, rfl, rfl, rfl⟩

/-- A lane whose commit barrier is released goes to EVENT and counts the step. -/
def Lane.endStep (L : Lane) : Lane := { L with st := .event, step := L.step + 1 }

section released
variable {s : State} {k d l : Nat} (hl : (s.comp k).lane = l)
include hl

theorem State.startRelease_released (hloop : (s.comp k).loop.isSome = true) (harm : (s.die d).ctl.arm = false)
    (hstage : (s.comp k).stage = 0) (hmark : (s.lane d l).swapMark = false)
    (hroot : (s.lane (s.comp k).rootDie l).swapMark = false) (hcaps : (s.comp k).newCaps = none)
    (hbal : (s.comp k).balDue = false) :
    (s.updLane d l Lane.release).startRelease k d = (s.updLane d l Lane.release).startLayers k d := by
  have hmark' : ((s.updLane d l Lane.release).lane (s.comp k).rootDie l).swapMark = false := by
    by_cases hd : (s.comp k).rootDie = d
    · rw [hd, State.lane_updLane, Lane.release_swapMark, hmark]
    · rw [State.lane_updLane_ne _ _ _ _ (.inl hd), hroot]
  subst hl
  exact State.startRelease_eq hloop ((congrArg (·.ctl.arm) (State.die_updDie s d _)).trans harm) hstage hmark' hcaps
    hbal

theorem State.startLayers_released (hid : (s.lane d l).barid = 0xFF) :
    (((s.updLane d l Lane.release).startLayers k d).lane d l).st = .layers ∧
      (((s.updLane d l Lane.release).startLayers k d).lane d l).fi = 0 ∧
      (((s.updLane d l Lane.release).startLayers k d).lane d l).dieArrived = false ∧
      ∀ i, ((s.updLane d l Lane.release).startLayers k d).core i =
        if i ∈ (s.comp k).coresOn d then (s.core i).startStep else s.core i := by
  subst hl
  obtain ⟨sp, hlane⟩ := (s.updLane d (s.comp k).lane Lane.release).startLayers_lane k d
  rw [State.comp_updLane, State.lane_updLane] at hlane
  exact ⟨congrArg Lane.st hlane, (congrArg Lane.fi hlane).trans (Lane.release_start hid),
    congrArg Lane.dieArrived hlane,
    fun i => (s.updLane d (s.comp k).lane Lane.release).startLayers_core k d i⟩

theorem State.commitRelease_eq :
    (s.updLane d l Lane.release).commitRelease k d =
      if d = (s.comp k).rootDie then ((s.updLane d l Lane.release).updLane d l Lane.endStep).commitEffects k
      else (s.updLane d l Lane.release).updLane d l Lane.endStep := by
  subst hl
  rfl

end released

/-! ### Frame starts (04 R113; 05 R156, R183) -/

/-- What the counts of a frame start and the barrier words that cross leave alone: cores, memories, of a die all but its
lanes, and of a lane all but its arrived-die mask. -/
structure FrameView where
  cores : Nat → Core
  tiers : Memory × Memory × Memory
  dies : Nat → Die
  lanes : Nat → Nat → Lane

def State.frameView (s : State) : FrameView where
  cores := s.core
  tiers := (s.tierH, s.tierM, s.tierF)
  dies d := { s.die d with lanes := [] }
  lanes d l := { s.lane d l with mask := 0 }

section frameView
variable {s t : State} (h : t.frameView = s.frameView)
include h

theorem State.core_of_frameView (i : Nat) : t.core i = s.core i := congrFun (congrArg FrameView.cores h) i

theorem State.tiers_of_frameView : t.tierH = s.tierH ∧ t.tierM = s.tierM ∧ t.tierF = s.tierF :=
  ⟨congrArg (·.tiers.1) h, congrArg (·.tiers.2.1) h, congrArg (·.tiers.2.2) h⟩

theorem State.die_of_frameView (d : Nat) : ({ t.die d with lanes := [] } : Die) = { s.die d with lanes := [] } :=
  congrFun (congrArg FrameView.dies h) d

theorem State.lane_of_frameView (d l : Nat) : ({ t.lane d l with mask := 0 } : Lane) = { s.lane d l with mask := 0 } :=
  congrFun (congrFun (congrArg FrameView.lanes h) d) l

end frameView

theorem State.frameView_updMask (s : State) (d l : Nat) (b : Byte) :
    (s.updLane d l fun M => { M with mask := M.mask ||| b }).frameView = s.frameView := by
  have hdie (e : Nat) : ({ (s.updLane d l fun M => { M with mask := M.mask ||| b }).die e with lanes := [] } : Die) =
      { s.die e with lanes := [] } := by
    by_cases h : e = d
    · subst h; rw [State.updLane, State.die_updDie]
    · rw [State.updLane, State.die_updDie_ne _ _ _ h]
  have hlane (e j : Nat) :
      ({ (s.updLane d l fun M => { M with mask := M.mask ||| b }).lane e j with mask := 0 } : Lane) =
        { s.lane e j with mask := 0 } := by
    by_cases h : e = d ∧ j = l
    · obtain ⟨rfl, rfl⟩ := h; rw [State.lane_updLane]
    · rw [State.lane_updLane_ne _ _ _ _ (not_and_or.1 h)]
  unfold State.frameView
  simp only [hdie, hlane]
  rfl

theorem State.frameView_barrierWordTo (s : State) (d l e : Nat) : (s.barrierWordTo d l e).frameView = s.frameView := by
  unfold State.barrierWordTo
  dsimp only
  split
  · exact State.frameView_updMask ..
  · rfl

/-- The die a frame starts on, with its counters. -/
def Die.startFrame (x : Die) : Die :=
  { x with slotCtr := 0, frames := x.frames + 1
           origins := Tab.mapVals {} (fun _ (o : Origin) => { o with sent := [] }) x.origins
           lanes := Tab.mapVals {} (fun _ (L : Lane) => if L.enable then { L with fi := L.fi + 1 } else L) x.lanes }

theorem State.frameView_frameStart (s : State) (d : Nat) :
    (s.frameStart d).frameView = (s.updDie d Die.startFrame).frameView := by
  unfold State.frameStart
  dsimp only
  rw [foldl_keeps State.frameView]
  · rw [foldl_keeps State.frameView]
    · rfl
    · intro u a
      split <;> split <;> rfl
  · intro u l
    exact foldl_keeps State.frameView _ (fun u e => u.frameView_barrierWordTo d l e) _ _

/-- Dies that agree in all but their lanes. -/
theorem Die.eq_but_lanes {x y : Die} (h : ({ x with lanes := [] } : Die) = { y with lanes := [] }) :
    x = { y with lanes := x.lanes } :=
  congrArg (fun z : Die => { z with lanes := x.lanes }) h

/-- The die of a frame start, but for the masks of its lanes. -/
theorem State.frameStart_die (s : State) (d : Nat) :
    ∃ l, (s.frameStart d).die d = { (s.die d).startFrame with lanes := l } := by
  refine ⟨_, Die.eq_but_lanes ((State.die_of_frameView (s.frameView_frameStart d) d).trans ?_)⟩
  exact congrArg (fun x : Die => { x with lanes := [] }) (State.die_updDie s d Die.startFrame)

theorem Die.startFrame_lane (x : Die) (l : Nat) : Tab.look {} x.startFrame.lanes l =
    if (Tab.look {} x.lanes l).enable then { Tab.look {} x.lanes l with fi := (Tab.look {} x.lanes l).fi + 1 }
    else Tab.look {} x.lanes l := by
  rw [Die.startFrame, Tab.look_mapVals_eq rfl]

theorem Die.startFrame_sent (x : Die) (o : Nat) : (Tab.look {} x.startFrame.origins o : Origin).sent = [] :=
  Tab.mapVals_all (p := fun o : Origin => o.sent = []) rfl (fun _ _ => rfl) o

end Sys2Proof.Machine

open Sys2Proof Sys2Proof.Machine

/-- Settles O18, by the two barriers: the start barrier begins the layers, the commit barrier ends the step. -/
theorem latheBarriers : Obligations.LatheBarriers := by
  unfold Obligations.LatheBarriers
  intro die lane s k d l m L hcomp hl harrived hscope
  have hown := State.releaseDie_own (s := s) (k := k) (d := d) hl (by rw [hscope]; decide)
  refine ⟨fun hid hst hloop harm hstage hmark hroot hcaps hbal => ?_, fun hid hst => ?_⟩
  · have hexec := exec_barrierRelease hcomp (State.mayRelease_of hl harrived (.inl hst) (.inl hscope))
    rw [if_pos hid, State.startRelease_released hl hloop harm hstage hmark hroot hcaps hbal] at hown
    rw [hown] at hexec
    obtain ⟨hst', hfi, harrived', hcore⟩ := State.startLayers_released hl hid
    refine ⟨_, hexec, hst', hfi, harrived', fun i hi hstarts => ?_, fun i hi => ?_⟩
    · rw [hcore, if_pos (by exact hi)]
      exact Core.startStep_starts hstarts
    · rw [hcore, if_neg (by exact hi)]
  · have hexec := exec_barrierRelease hcomp (State.mayRelease_of hl harrived (.inr (.inr hst)) (.inl hscope))
    rw [if_neg (by rw [hid]; decide), if_pos hid, State.commitRelease_eq hl] at hown
    rw [hown] at hexec
    have hlane : ((s.updLane d l Lane.release).updLane d l Lane.endStep).lane d l = L.release.endStep := by
      rw [State.lane_updLane, State.lane_updLane]
    refine ⟨(s.updLane d l Lane.release).updLane d l Lane.endStep, congrArg Lane.st hlane,
      (congrArg Lane.step hlane).trans (congrArg (· + 1) L.release_step), congrArg Lane.dieArrived hlane,
      fun e j hne => ?_, rfl, fun i => rfl, hexec⟩
    · rw [State.lane_updLane_ne _ _ _ _ hne, State.lane_updLane_ne _ _ _ _ hne]

/-- Settles O17: a frame start by what its counts and the barrier words leave alone, a release by the lane's registers
and the cores that wait. -/
theorem frameStartsAndReleases : Obligations.FrameStartsAndReleases := by
  unfold Obligations.FrameStartsAndReleases
  refine ⟨?_, ?_⟩
  · intro die s d
    have hview := s.frameView_frameStart d
    have hlane := State.lane_of_frameView hview
    have htiers := State.tiers_of_frameView hview
    obtain ⟨ls, hdie⟩ := s.frameStart_die d
    refine ⟨s.frameStart d, rfl, ?_, ?_, fun l hl => ?_, fun o => ?_, fun e l hne => ?_, fun i => ?_, htiers⟩
    · rw [hdie]; rfl
    · rw [hdie]; rfl
    · refine (hlane d l).trans ?_
      rw [State.lane, State.die_updDie, Die.startFrame_lane, if_pos (by exact hl)]
      rfl
    · rw [hdie]
      exact Die.startFrame_sent _ o
    · refine (hlane e l).trans ?_
      rw [State.lane, State.die_updDie_ne _ _ _ hne]; rfl
    · rw [State.core_of_frameView hview]; rfl
  · intro die lane s k d l m L rfi hcomp hl harrived hst hb hscope
    have hexec := exec_barrierRelease hcomp (State.mayRelease_of hl harrived (.inr (.inl hst)) hscope)
    obtain ⟨hlane, hcore, hH, hM, hF⟩ := State.releaseDie_step_effect hl hb
    have hid : L.barid ≠ 0xFF := fun h => by rw [h] at hb; exact absurd hb (by decide)
    refine ⟨_, hexec, ?_, ?_, ?_, ?_, ?_, ?_, fun i hi hwait => ?_, fun i hi => ?_, hH, hM, hF⟩
    · rw [hlane]; exact Lane.release_fi hid
    · rw [hlane]; exact (Lane.release_st L).trans hst
    · rw [hlane]; exact Lane.release_dieArrived L
    · rw [hlane]; exact Lane.release_arrived L
    · rw [hlane]; exact Lane.release_step L
    · rw [hlane]; exact Lane.release_late L
    · rw [hcore, if_pos hi]
      exact if_pos hwait
    · rw [hcore]
      obtain hi | hi := hi
      · exact if_neg hi
      · split
        · exact if_neg hi
        · rfl

end

section
/-! PROOFS. The tile stream of a lane (04 R115 to R119; 06 R194, R196 to R200): the read a Spindle issues, the record a
window answers with, and the flits that carry it. -/

namespace Sys2Proof.Machine

/-! ### Spindles and stops -/

section reads
variable (s : State) (d l i : Nat)

@[simp] theorem State.spindle_updSpindle (f : Spindle → Spindle) :
    (s.updSpindle d l i f).spindle d l i = f (s.spindle d l i) := by
  simp [State.spindle, State.updSpindle]

theorem State.lane_updSpindle (f : Spindle → Spindle) :
    (s.updSpindle d l i f).lane d l = { s.lane d l with spindles := Tab.upd {} (s.lane d l).spindles i f } :=
  State.lane_updLane ..

@[simp] theorem State.memStop_updSpindle (f : Spindle → Spindle) (m : Bool) (e j : Nat) :
    (s.updSpindle d l i f).memStop m e j = s.memStop m e j := State.memStop_updLane ..

@[simp] theorem State.spindle_updMemStop (m : Bool) (e k : Nat) (f : MemStop → MemStop) :
    (s.updMemStop m e k f).spindle d l i = s.spindle d l i := by
  rw [State.spindle, State.lane_updMemStop]; rfl

variable {s} {t : State}

/-- The segments, slots and addresses of a stop rest on its tables alone. -/
theorem State.seg_congr (h : t.memStop false d i = s.memStop false d i) (slot : Nat) :
    t.seg d i slot = s.seg d i slot :=
  congrArg (fun x : MemStop => Tab.look ({} : Seg) x.segs slot) h

theorem State.tileSlotOwned_congr (h : t.memStop false d i = s.memStop false d i) (j : Nat) :
    t.tileSlotOwned d l i j = s.tileSlotOwned d l i j :=
  congrArg (fun x : MemStop => owValid (x.own j) && owOwner (x.own j) == l && owUse (x.own j) == 0) h

theorem State.addrOk_congr {m : Bool} (h : ∀ e j, t.memStop m e j = s.memStop m e j) (a : Nat) :
    t.addrOk m d i a = s.addrOk m d i a := by
  have hregion (r : Nat × Nat × Nat) : t.region m r = s.region m r :=
    congrArg (fun x : MemStop => Tab.look ({} : Region) x.regions r.2.2) (h r.1 r.2.1)
  simp only [State.addrOk, hregion]

end reads

/-- A tile slot of a lane is a window its stop grants it for reads of tiles (06 R196). -/
theorem State.grants_of_tileSlotOwned {s : State} {d l i j : Nat} (hj : j < 9)
    (h : s.tileSlotOwned d l i j = true) : (s.memStop false d i).grants l 0 = true :=
  List.any_eq_true.2 ⟨j, List.mem_range.2 hj, h⟩

/-- A request that names memory of the stop and is granted a window is queued (06 R191, R195). -/
theorem State.memArrive_granted {s : State} {m : Bool} {d i : Nat} {r : MemReq} (haddr : s.addrOk m d i r.addr = true)
    (hgrants : (s.memStop m d i).grants r.owner r.use = true) :
    s.memArrive m d i r = s.updMemStop m d i fun t => { t with queue := t.queue ++ [r] } := by
  unfold State.memArrive
  rw [if_neg (by simp [haddr])]
  exact if_neg (by simp only [Bool.not_eq_true', Bool.not_eq_false]; exact hgrants)

/-! ### The read of the next tile (04 R116, R118) -/

section read
variable (s : State) (d l i : Nat) (b : List Byte)

/-- The first tile of an entry whose slot lies before the frame in hand starts late. -/
abbrev State.tileLate : Prop :=
  (s.spindle d l i).q = 0 ∧ 9 * field b 8 4 + field b 12 1 + (s.spindle d l i).q < 9 * (s.lane d l).fi.toNat

/-- The global tile slot the read takes: the entry's, or the next not yet taken. -/
def State.tileSlot : Nat :=
  max (9 * field b 8 4 + field b 12 1 + (s.spindle d l i).q)
    (if s.tileLate d l i b then max (s.spindle d l i).nextG (9 * (s.lane d l).fi.toNat) else (s.spindle d l i).nextG)

/-- The request of the entry's next tile. -/
def State.tileRequest : MemReq :=
  let x := s.spindle d l i
  let tid := field b 0 8
  let seg := s.seg d i (bits tid 59 48)
  let t := bits tid 47 0 + x.q
  { owner := l, use := 0, addr := chunkAddr d i (seg.ech + (t - seg.first)), len := 4096, data := [],
    reply := .tile l (field b 13 1) (field b 16 2 + x.q % field b 18 1 * 276) (field b 19 1) (s.tileSlot d l i b)
      (BitVec.ofNat 64 (tid / 2 ^ 48 * 2 ^ 48 + t % 2 ^ 48)) }

/-- The state with a late start noted, if it is late. -/
def State.lateNoted : State := if s.tileLate d l i b then s.updLane d l Lane.noteLate else s

/-- A Spindle past the tile it reads at slot `g` from an entry of `n` tiles. -/
def Spindle.pass (n g : Nat) (x : Spindle) : Spindle :=
  { x with entry := if x.q + 1 = n then x.entry + 1 else x.entry
           q := if x.q + 1 = n then 0 else x.q + 1
           nextG := g + 1 }

theorem State.memStop_lateNoted (m : Bool) (e j : Nat) : (s.lateNoted d l i b).memStop m e j = s.memStop m e j := by
  unfold State.lateNoted
  split
  · exact State.memStop_updLane ..
  · rfl

theorem State.spindle_lateNoted : (s.lateNoted d l i b).spindle d l i = s.spindle d l i := by
  unfold State.lateNoted
  split
  · rw [State.spindle, State.lane_updLane]; rfl
  · rfl

theorem State.late_lateNoted :
    ((s.lateNoted d l i b).lane d l).late = true ↔ (s.lane d l).late = true ∨ s.tileLate d l i b := by
  by_cases h : s.tileLate d l i b
  · rw [State.lateNoted, if_pos h, State.lane_updLane]
    exact ⟨fun _ => .inr h, fun _ => rfl⟩
  · rw [State.lateNoted, if_neg h]
    simp only [h, or_false]

theorem State.tiers_lateNoted : (s.lateNoted d l i b).tierH = s.tierH ∧ (s.lateNoted d l i b).tierM = s.tierM := by
  unfold State.lateNoted
  split
  · exact ⟨rfl, rfl⟩
  · exact ⟨rfl, rfl⟩

end read

/-- A read that is in order, in a slot of its lane, is queued at the H stop. -/
theorem State.tileRead_queued {s : State} {d l i : Nat} {e : BitVec 256}
    (hentry : (s.spindle d l i).entries[(s.spindle d l i).entry]? = some e) (hst : (s.lane d l).st = .layers)
    (hroom : (s.spindle d l i).staging.length + (s.spindle d l i).issued < 32)
    (hok : s.entryOk d i (entryBytes e) = true)
    (hslot : s.tileSlotOwned d l i (s.tileSlot d l i (entryBytes e) % 9) = true)
    (haddr : s.addrOk false d i (s.tileRequest d l i (entryBytes e)).addr = true) :
    s.tileRead d l i = (((s.lateNoted d l i (entryBytes e)).updSpindle d l i
        (Spindle.pass (field (entryBytes e) 14 2) (s.tileSlot d l i (entryBytes e)))).updSpindle d l i
          fun x => { x with issued := x.issued + 1 }).updMemStop false d i
        fun t => { t with queue := t.queue ++ [s.tileRequest d l i (entryBytes e)] } := by
  generalize hb : entryBytes e = b at *
  have hgo : ((s.lane d l).st != .layers ||
      decide (32 ≤ (s.spindle d l i).staging.length + (s.spindle d l i).issued)) = false := by simp [hst, hroom]
  have hlate : ((s.spindle d l i).q == 0 && decide (9 * field b 8 4 + field b 12 1 + (s.spindle d l i).q <
      9 * (s.lane d l).fi.toNat)) = decide (s.tileLate d l i b) := by
    simp [State.tileLate, Bool.decide_and, beq_eq_decide]
  have hg : max (9 * field b 8 4 + field b 12 1 + (s.spindle d l i).q) (if s.tileLate d l i b then
      max (s.spindle d l i).nextG (9 * (s.lane d l).fi.toNat) else (s.spindle d l i).nextG) = s.tileSlot d l i b := rfl
  have hnoted : (if s.tileLate d l i b then s.updLane d l Lane.noteLate else s) = s.lateNoted d l i b := rfl
  have hpass (n g : Nat) : (fun x : Spindle => { x with
      entry := if x.q + 1 = n then x.entry + 1 else x.entry
      q := if x.q + 1 = n then 0 else x.q + 1, nextG := g + 1 }) = Spindle.pass n g := rfl
  generalize hu : (s.lateNoted d l i b).updSpindle d l i (Spindle.pass (field b 14 2) (s.tileSlot d l i b)) = u
  have hstop (m : Bool) (e j : Nat) : u.memStop m e j = s.memStop m e j := by
    rw [← hu, State.memStop_updSpindle, State.memStop_lateNoted]
  have hslot' : u.tileSlotOwned d l i (s.tileSlot d l i b % 9) = true :=
    (State.tileSlotOwned_congr d l i (hstop ..) _).trans hslot
  have hgrants := State.grants_of_tileSlotOwned (Nat.mod_lt _ (by decide)) hslot'
  have hseg := State.seg_congr d i (hstop false d i) (bits (field b 0 8) 59 48)
  generalize hv : (u.updSpindle d l i fun x => { x with issued := x.issued + 1 }) = v
  have hstop' (m : Bool) (e j : Nat) : v.memStop m e j = u.memStop m e j := by rw [← hv, State.memStop_updSpindle]
  have harrive := State.memArrive_granted (s := v) (r := s.tileRequest d l i b)
    ((State.addrOk_congr d i (fun e j => (hstop' false e j).trans (hstop false e j)) _).trans haddr)
    ((congrArg (MemStop.grants · l 0) (hstop' false d i)).trans hgrants)
  unfold State.tileRead
  simp only [hentry, hb, hgo, hok, hlate, decide_eq_true_eq, hg, hnoted, hpass, hu, hslot', hseg, hv, Bool.not_true,
    Bool.false_eq_true, if_false]
  exact harrive

/-- A queued read: the Spindle has passed its tile, and the lane is late if the read is. -/
theorem State.tileRead_effect {s u : State} {d l i n g : Nat} {b : List Byte} {r : MemReq}
    (hu : u = (((s.lateNoted d l i b).updSpindle d l i (Spindle.pass n g)).updSpindle d l i
      fun x => { x with issued := x.issued + 1 }).updMemStop false d i fun t => { t with queue := t.queue ++ [r] }) :
    u.spindle d l i = { (s.spindle d l i).pass n g with issued := (s.spindle d l i).issued + 1 } ∧
      (u.memStop false d i).queue = (s.memStop false d i).queue ++ [r] ∧
      ((u.lane d l).late = true ↔ (s.lane d l).late = true ∨ s.tileLate d l i b) ∧
      u.tierH = s.tierH ∧ u.tierM = s.tierM := by
  subst hu
  refine ⟨?_, ?_, ?_, s.tiers_lateNoted d l i b⟩
  · rw [State.spindle_updMemStop, State.spindle_updSpindle, State.spindle_updSpindle, State.spindle_lateNoted]
    rfl
  · rw [State.memStop_updMemStop, State.memStop_updSpindle, State.memStop_updSpindle, State.memStop_lateNoted]
  · rw [State.lane_updMemStop, State.lane_updSpindle, State.lane_updSpindle]
    exact s.late_lateNoted d l i b

/-! ### The flits of a landing record (04 R115, R117) -/

/-- The oldest staged record leaves in its tile slot. -/
theorem exec_landingRecordSend_sent {die lane sp : Fin 8} {s : State} {y : Staged} {rest : List Staged}
    (hstaged : (s.spindle die lane sp).staging = y :: rest) (hst : (s.lane die lane).st = .layers)
    (hdue : y.g / 9 ≤ (s.lane die lane).fi.toNat) (hslot : s.tileSlotOwned die lane sp (y.g % 9) = true) :
    ∃ u v : State, exec (.landingRecordSend die lane sp) s = .next u ∧ (u.spindle die lane sp).staging = rest ∧
      (u.die die).flights = (s.die die).flights ++ v.recordFlits die lane sp y := by
  have hgo : ((s.lane die lane).st != .layers || decide ((s.lane die lane).fi.toNat < y.g / 9)) = false := by
    simp [hst, hdue]
  generalize hv : (s.updSpindle die lane sp fun x => { x with staging := rest }) = v
  have hslot' : v.tileSlotOwned die lane sp (y.g % 9) = true := by
    rw [State.tileSlotOwned_congr (s := s) _ _ _ (by rw [← hv, State.memStop_updSpindle]), hslot]
  refine ⟨v.updDie die fun x => { x with flights := x.flights ++ v.recordFlits die lane sp y }, v,
    congrArg Host.Outcome.next ?_, ?_, ?_⟩
  · simp [hstaged, hgo, hv, hslot']
  · rw [State.spindle, State.lane_updDie, ← hv]
    case hf => intro x; rfl
    exact congrArg Spindle.staging (State.spindle_updSpindle ..)
  · rw [State.die_updDie, ← hv, State.updSpindle, State.updLane, State.die_updDie]

section flits
variable (s : State) (d l i : Nat) (y : Staged)

theorem State.recordFlits_length : (s.recordFlits d l i y).length = 69 := by simp [State.recordFlits]

theorem State.recordFlits_flit {j : Nat} {f : Flit} (h : (s.recordFlits d l i y)[j]? = some f) :
    f.owner = l ∧ f.cls = 0 ∧ f.last = (j == 68) ∧ f.ctr = y.ctr ∧ f.faddr = (y.laddr / 4 + j) % 2 ^ 18 ∧
      f.payload = bytesPayload (slice y.record (64 * j) 64) := by
  obtain ⟨n, hn, rfl⟩ : ∃ n, (List.range 69)[j]? = some n ∧ _ = f := by
    simpa only [State.recordFlits, List.getElem?_map, Option.map_eq_some_iff] using h
  obtain ⟨-, rfl⟩ := List.getElem?_eq_some_iff.1 hn
  simp

end flits

/-! ### The service of a tile read (04 R119, 06 R194, R200) -/

theorem State.window_serves {s u : State} {d i w : Nat} {arrivals : List MemReq} {ue : Bool} {r : MemReq}
    {rest : List MemReq} (hu : u = arrivals.foldl (fun s r => s.memArrive false d i r) s)
    (hst : (u.memStop false d i).st = .ready) (hen : (u.memStop false d i).enable = true)
    (hvalid : owValid ((u.memStop false d i).own w) = true)
    (hheld : u.laneHeld (owOwner ((u.memStop false d i).own w)) = false)
    (htake : takeReq (owOwner ((u.memStop false d i).own w)) (owUse ((u.memStop false d i).own w)) w
      (u.memStop false d i).queue = some (r, rest)) :
    s.window false d i w arrivals ue =
      (u.updMemStop false d i fun t => { t with queue := rest }).serve false d i w r ue := by
  unfold State.window
  simp [← hu, hst, hen, hvalid, hheld, htake]

/-- A stop's note of a read that met an uncorrectable error, if it did. -/
def State.ueNoted (s : State) (d i : Nat) (r : MemReq) (ue : Bool) : State :=
  if ue then s.updMemStop false d i fun t => t.noteUe r.addr r.owner else s

/-- The landing record with which window `w` answers a read of tile `tid`. -/
def State.landingRecord (s : State) (d i w : Nat) (tid : Word64) (ue : Bool) : List Byte :=
  s.tileRecord d i (s.seg d i (bits tid.toNat 59 48))
    (bits tid.toNat 47 0 - (s.seg d i (bits tid.toNat 59 48)).first) w tid.toNat ue

theorem State.landingRecord_congr {s t : State} {d i : Nat}
    (hread : ∀ a n, t.memRead false a n = s.memRead false a n)
    (hsegs : (t.memStop false d i).segs = (s.memStop false d i).segs) (w : Nat) (tid : Word64) (ue : Bool) :
    t.landingRecord d i w tid ue = s.landingRecord d i w tid ue := by
  have hseg (n : Nat) : t.seg d i n = s.seg d i n := congrArg (fun x => Tab.look ({} : Seg) x n) hsegs
  simp only [State.landingRecord, State.tileRecord, hread, hseg]

theorem MemStop.noteUe_keeps (t : MemStop) (a o : Nat) : (t.noteUe a o).regions = t.regions ∧
    (t.noteUe a o).queue = t.queue ∧ (t.noteUe a o).uncorr = t.uncorr + 1 := by
  unfold MemStop.noteUe
  dsimp only
  split
  · exact ⟨rfl, rfl, rfl⟩
  · exact ⟨rfl, rfl, rfl⟩

theorem State.ueNoted_effect (s : State) (d i : Nat) (r : MemReq) (ue : Bool) :
    (∀ e j, (s.ueNoted d i r ue).lane e j = s.lane e j) ∧
      (∀ a n, (s.ueNoted d i r ue).memRead false a n = s.memRead false a n) ∧
      ((s.ueNoted d i r ue).memStop false d i).queue = (s.memStop false d i).queue ∧
      ((s.ueNoted d i r ue).memStop false d i).uncorr =
        (if ue then (s.memStop false d i).uncorr + 1 else (s.memStop false d i).uncorr) ∧
      (s.ueNoted d i r ue).tierH = s.tierH ∧ (s.ueNoted d i r ue).tierM = s.tierM := by
  cases ue with
  | false => exact ⟨fun _ _ => rfl, fun _ _ => rfl, rfl, rfl, rfl, rfl⟩
  | true =>
    obtain ⟨-, hqueue, huncorr⟩ := (s.memStop false d i).noteUe_keeps r.addr r.owner
    have hregions (t : MemStop) : (t.noteUe r.addr r.owner).regions = t.regions := (t.noteUe_keeps _ _).1
    rw [State.ueNoted, if_pos rfl, State.memStop_updMemStop]
    exact ⟨fun e j => State.lane_updMemStop .., fun a n => State.memRead_updMemStop hregions .., hqueue, huncorr,
      rfl, rfl⟩

/-- A tile read served: its record is staged, and the error it met, if any, counted. -/
theorem State.serve_tile_effect {s : State} {d i w m ch laddr ctr g : Nat} {r : MemReq} {ue : Bool} {tid : Word64}
    (hr : r.reply = .tile m ch laddr ctr g tid) :
    ((s.serve false d i w r ue).memStop false d i).queue = (s.memStop false d i).queue ∧
      (s.serve false d i w r ue).spindle d m i = { s.spindle d m i with
        issued := (s.spindle d m i).issued - 1
        staging := (s.spindle d m i).staging ++
          [{ g, ch, laddr, ctr, record := s.landingRecord d i w tid ue }] } ∧
      ((s.serve false d i w r ue).memStop false d i).uncorr =
        (if ue then (s.memStop false d i).uncorr + 1 else (s.memStop false d i).uncorr) ∧
      (s.serve false d i w r ue).tierH = s.tierH ∧ (s.serve false d i w r ue).tierM = s.tierM := by
  obtain ⟨hlane, hread, hqueue, huncorr, htierH, htierM⟩ := s.ueNoted_effect d i r ue
  obtain ⟨c, hc⟩ := (s.ueNoted d i r ue).memBytes_frame false d r.owner 137
  have hspindle : (s.ueNoted d i r ue).spindle d m i = s.spindle d m i :=
    congrArg (fun L : Lane => Tab.look ({} : Spindle) L.spindles i) (hlane d m)
  have hrecord : (s.ueNoted d i r ue).tileRecord d i (s.seg d i (bits tid.toNat 59 48))
      (bits tid.toNat 47 0 - (s.seg d i (bits tid.toNat 59 48)).first) w tid.toNat ue =
        s.landingRecord d i w tid ue := by
    simp only [State.landingRecord, State.tileRecord, hread]
  have hserve : s.serve false d i w r ue = ((s.ueNoted d i r ue).memBytes false d r.owner 137).updSpindle d m i
      fun x => { x with issued := x.issued - 1, staging := x.staging ++
        [{ g, ch, laddr, ctr, record := s.landingRecord d i w tid ue }] } := by
    rw [← hrecord, State.serve, hr]
    rfl
  rw [hserve, hc, State.memStop_updSpindle, State.spindle_updSpindle]
  exact ⟨hqueue, by rw [← hspindle]; rfl, huncorr, htierH, htierM⟩

/-- A window answers the first read of its owner and use with a landing record in the Spindle's staging buffer. -/
theorem exec_hWindowService_tile {die stop : Fin 8} {win : Fin 9} {arrivals : List MemReq} {ue : Bool} {s u : State}
    {r : MemReq} {rest : List MemReq} {m ch laddr ctr g : Nat} {tid : Word64}
    (hu : u = arrivals.foldl (fun s r => s.memArrive false die stop r) s)
    (hst : (u.memStop false die stop).st = .ready) (hen : (u.memStop false die stop).enable = true)
    (hvalid : owValid ((u.memStop false die stop).own win) = true)
    (hheld : u.laneHeld (owOwner ((u.memStop false die stop).own win)) = false)
    (htake : takeReq (owOwner ((u.memStop false die stop).own win)) (owUse ((u.memStop false die stop).own win)) win
      (u.memStop false die stop).queue = some (r, rest)) (hr : r.reply = .tile m ch laddr ctr g tid) :
    ∃ v, exec (.hWindowService die stop win arrivals ue) s = .next v ∧ (v.memStop false die stop).queue = rest ∧
      v.spindle die m stop = { u.spindle die m stop with
        issued := (u.spindle die m stop).issued - 1
        staging := (u.spindle die m stop).staging ++
          [{ g, ch, laddr, ctr, record := u.landingRecord die stop win tid ue }] } ∧
      (v.memStop false die stop).uncorr =
        (if ue then (u.memStop false die stop).uncorr + 1 else (u.memStop false die stop).uncorr) ∧
      v.tierH = u.tierH ∧ v.tierM = u.tierM := by
  have hwindow := State.window_serves hu hst hen hvalid hheld htake (ue := ue)
  generalize hv : (u.updMemStop false die stop fun t => { t with queue := rest }) = v at hwindow
  have hstop : v.memStop false die stop = { u.memStop false die stop with queue := rest } := by
    rw [← hv, State.memStop_updMemStop]
  have hspindle : v.spindle die m stop = u.spindle die m stop := by rw [← hv, State.spindle_updMemStop]
  have hrecord := State.landingRecord_congr (s := u) (t := v) (d := die) (i := stop)
    (fun a n => by rw [← hv, State.memRead_updMemStop]; intro x; rfl) (by rw [hstop]) win tid ue
  have htiers : v.tierH = u.tierH ∧ v.tierM = u.tierM := by rw [← hv]; exact ⟨rfl, rfl⟩
  obtain ⟨hqueue, hserved, huncorr, htierH, htierM⟩ := State.serve_tile_effect (s := v) (d := die) (i := stop)
    (w := win) (ue := ue) hr
  rw [hstop] at hqueue huncorr
  rw [hspindle, hrecord] at hserved
  exact ⟨_, congrArg Host.Outcome.next hwindow, hqueue, hserved, huncorr, htierH.trans htiers.1,
    htierM.trans htiers.2⟩

end Sys2Proof.Machine

open Sys2Proof Sys2Proof.Machine

/-- Settles O11, by the three commands of a stream: the Spindle's read, the record's flits, the window's service. -/
theorem tileStreams : Obligations.TileStreams := by
  unfold Obligations.TileStreams
  intro die lane sp s d l i x
  refine ⟨fun e hentry hst hroom hok hslot haddr => ?_, fun y rest hstaged hst hdue hslot => ?_, ?_⟩
  · have hread := State.tileRead_queued hentry hst hroom hok hslot haddr
    exact ⟨_, rfl, State.tileRead_effect hread⟩
  · obtain ⟨u, v, hexec, hrest, hflights⟩ := exec_landingRecordSend_sent hstaged hst hdue hslot
    exact ⟨u, _, hexec, hrest, hflights, v.recordFlits_length d l i y, fun j f => v.recordFlits_flit d l i y⟩
  · intro win arrivals ue r rest m ch laddr ctr g tid u t e hst hen hvalid hheld htake hr
    exact exec_hWindowService_tile (u := u) rfl hst hen hvalid hheld htake hr

end

section
/-! PROOFS. Admission and steering of token loops (04 R130 to R138, R147 to R153; 08 R266, R279, R281; 17 R534): what
LOOP_START asks and sets, and what the other descriptors and the lane registers do. -/

namespace Sys2Proof.Machine

@[simp] theorem State.comp_append (s : State) (k kind : Nat) (body : List Byte) (i : Nat) :
    (s.append k kind body).comp i = s.comp i := rfl

@[simp] theorem State.lane_append (s : State) (k kind : Nat) (body : List Byte) (d l : Nat) :
    (s.append k kind body).lane d l = s.lane d l := rfl

/-- A composition's change rests on what it makes of the composition as it is. -/
theorem State.updComp_congr {s : State} {k : Nat} {f g : Comp → Comp} (h : f (s.comp k) = g (s.comp k)) :
    s.updComp k f = s.updComp k g := by
  unfold State.updComp Tab.upd
  rw [show f (Tab.look {} s.comps k) = g (Tab.look {} s.comps k) from h]

/-! ### LOOP_START (04 R148 to R150, 08 R266, R281) -/

/-- What keeps a loop from being admitted whatever it asks for: `STATE`. -/
def State.loopBarred (s : State) (k r ltab : Nat) : Prop :=
  (s.comp k).st ≠ .ready ∨ s.sb.role = true ∨ (s.comp k).loop ≠ none ∨ s.pwr.warn = true ∨ (s.ring r).live = false ∨
    s.ltabOk k ltab = false

theorem State.loopBarred_iff (s : State) (k r ltab : Nat) : ((s.comp k).st != .ready || s.sb.role ||
    (s.comp k).loop.isSome || s.pwr.warn || !(s.ring r).live || !s.ltabOk k ltab) = true ↔ s.loopBarred k r ltab := by
  simp [State.loopBarred, or_assoc, Option.isSome_iff_ne_none]

/-- A LOOP_START that passes the checks of its form and of the objects it names, with its parameters at hand. -/
structure State.LoopStart (s : State) (q : Nat) (b : List Byte) : Prop where
  begins : s.begins q 0x48 [(16, 4), (20, 1), (21, 1), (22, 2), (24, 8), (32, 4)] b
  breq_pos : 1 ≤ field b 16 4
  breq_le : field b 16 4 ≤ 65535
  dsrc_le : field b 20 1 ≤ 3
  kvreset_le : field b 21 1 ≤ 1
  aligned : field b 24 8 % 64 = 0
  ring : (s.ring (field b 22 2)).live = true → (s.ring (field b 22 2)).ctx = (s.queue q).ctx
  table : field b 32 4 = 0 ∨ s.foreign (s.queue q).ctx (field b 32 4) = false
  data : s.hasData q 64
  params : sparamsOk ((s.queue q).buf.take 64) = true

section loopStart
variable {q : Fin 4096} {s : State} {b : List Byte} (h : s.LoopStart q b)
include h

theorem State.LoopStart.descr (f : State → Start → State) :
    s.descr q 0x48 [(16, 4), (20, 1), (21, 1), (22, 2), (24, 8), (32, 4)]
      (fun b => decide (1 ≤ field b 16 4) && decide (field b 16 4 ≤ 65535) && decide (field b 20 1 ≤ 3)
        && decide (field b 21 1 ≤ 1) && al64 b 24)
      (fun s c b => ((s.ring (field b 22 2)).live && (s.ring (field b 22 2)).ctx != c)
        || (field b 32 4 != 0 && s.foreign c (field b 32 4))) f =
    f s { ctx := (s.queue q).ctx, comp := field b 12 2, b } := by
  refine State.descr_begins (fmtS := fun _ _ => true) h.begins ?_ ?_ rfl
  · simp [h.breq_pos, h.breq_le, h.dsrc_le, h.kvreset_le, al64, h.aligned]
  · have hring : ((s.ring (field b 22 2)).live && (s.ring (field b 22 2)).ctx != (s.queue q).ctx) = false := by
      cases hlive : (s.ring (field b 22 2)).live
      · rfl
      · simp [h.ring hlive]
    have htable : (field b 32 4 != 0 && s.foreign (s.queue q).ctx (field b 32 4)) = false := by
      rcases h.table with h0 | hown
      · simp [h0]
      · simp [hown]
    simp only [hring, htable, Bool.or_self]

theorem exec_loopStart_barred (hbarred : s.loopBarred (field b 12 2) (field b 22 2) (field b 32 4)) :
    exec (.loopStart q) s = .next (s.complete q .state) := by
  refine congrArg Host.Outcome.next ((h.descr _).trans ((State.withData_has h.data _ _).trans ?_))
  simp only [h.params, (State.loopBarred_iff ..).2 hbarred]
  rfl

variable (hfree : ¬ s.loopBarred (field b 12 2) (field b 22 2) (field b 32 4))
include hfree

theorem exec_loopStart_limit (hvariant : (s.comp (field b 12 2)).img.variant (s.comp (field b 12 2)).variant ≠ none)
    (hlimit : (s.tongs (s.ring (field b 22 2)).port).freeEvSlot (s.queue q).ctx = none ∨
      (s.recRing (field b 12 2)).freeBytes < recReserve) :
    exec (.loopStart q) s = .next (s.complete q .limit) := by
  have hbad := Bool.eq_false_iff.2 (mt (State.loopBarred_iff ..).1 hfree)
  obtain ⟨v, hv⟩ := Option.ne_none_iff_exists'.1 hvariant
  refine congrArg Host.Outcome.next ((h.descr _).trans ((State.withData_has h.data _ _).trans ?_))
  cases hslot : (s.tongs (s.ring (field b 22 2)).port).freeEvSlot (s.queue q).ctx with
  | none => simp [h.params, hbad, hslot]
  | some slot =>
    have hroom := hlimit.resolve_left (by simp [hslot])
    simp [h.params, hbad, hslot, hv, hroom]

section slots
variable {slot : Nat} {v : Variant}
  (hslot : (s.tongs (s.ring (field b 22 2)).port).freeEvSlot (s.queue q).ctx = some slot)
  (hvariant : (s.comp (field b 12 2)).img.variant (s.comp (field b 12 2)).variant = some v)
  (hroom : recReserve ≤ (s.recRing (field b 12 2)).freeBytes)
include hslot hvariant hroom

theorem exec_loopStart_bound
    (hbound : field b 16 4 < loopBound (loopFrames v (field b 20 1) (s.comp (field b 12 2)).movef) s.pwr.theta.toNat) :
    exec (.loopStart q) s = .next (s.complete q .bound) := by
  have hbad := Bool.eq_false_iff.2 (mt (State.loopBarred_iff ..).1 hfree)
  refine congrArg Host.Outcome.next ((h.descr _).trans ((State.withData_has h.data _ _).trans ?_))
  simp [h.params, hbad, hslot, hvariant, Nat.not_lt.2 hroom, hbound]

theorem exec_loopStart_admitted
    (hbound : loopBound (loopFrames v (field b 20 1) (s.comp (field b 12 2)).movef) s.pwr.theta.toNat ≤ field b 16 4) :
    exec (.loopStart q) s = .next (s.startLoop q (field b 12 2) b ((s.queue q).buf.take 64) v slot
      ((s.tongs (!(s.ring (field b 22 2)).port)).freeEvSlot (s.queue q).ctx)
      (loopFrames v (field b 20 1) (s.comp (field b 12 2)).movef)
      (loopBound (loopFrames v (field b 20 1) (s.comp (field b 12 2)).movef) s.pwr.theta.toNat)) := by
  have hbad := Bool.eq_false_iff.2 (mt (State.loopBarred_iff ..).1 hfree)
  have hle := hbound.trans h.breq_le
  refine congrArg Host.Outcome.next ((h.descr _).trans ((State.withData_has h.data _ _).trans ?_))
  simp [h.params, hbad, hslot, hvariant, Nat.not_lt.2 hroom, Nat.not_lt.2 hbound, Nat.not_lt.2 hle]

end slots

end loopStart

/-- The registers of a lane whose loop is admitted. -/
def Lane.enterLoop (dsrc f bound : Nat) (theta : BitVec 6) (L : Lane) : Lane :=
  { L.rest with st := .start, dsrc := BitVec.ofNat 2 dsrc, f := BitVec.ofNat 32 f, bound := BitVec.ofNat 16 bound,
                theta }

theorem Lane.enterLoop_idem (dsrc f bound : Nat) (theta : BitVec 6) (L : Lane) :
    (L.enterLoop dsrc f bound theta).enterLoop dsrc f bound theta = L.enterLoop dsrc f bound theta := rfl

/-- The admitted loop holds an event slot of a port. -/
def State.takeEvSlot (s : State) (k : Nat) (p : Bool) (e : Nat) : State :=
  s.updTongs p fun t => { t with evUse := Tab.put none t.evUse e (some k) }

/-- What an admission does before the lanes start: its event slots are taken and, if asked, the KV slots reset. -/
def State.readyLoop (s : State) (k : Nat) (p : Bool) (slot : Nat) (fail : Option Nat) (kv : Bool) : State :=
  let s := s.takeEvSlot k p slot
  let s := match fail with
    | some e => s.takeEvSlot k (!p) e
    | none => s
  if kv then s.kvReset k else s

/-- The lanes of an admitted loop start, and their user programs may run again. -/
def State.startLanes (s : State) (ds : List Nat) (l : Nat) (f : Lane → Lane) : State :=
  ds.foldl (fun (s : State) d => s.updDie d fun x =>
    { x with ucps := Tab.upd {} x.ucps l fun u => { u with ended := false } }) (s.updLanes ds l f)

/-- The record of an admitted loop. -/
def State.admitted (s : State) (b : List Byte) (v : Variant) (slot : Nat) (fail : Option Nat) (bound : Nat) : Loop :=
  { tring := field b 22 2, bound, evPort := (s.ring (field b 22 2)).port, evSlot := slot, failover := fail,
    produced := 0, stoppers := [], dropped := false, ltab := field b 32 4, breq := field b 16 4, dsrc := field b 20 1,
    draftAdm := Variant.draftOf v (field b 20 1) :: (List.range 4).map (Variant.draftOf v) }

@[simp] theorem State.kvReset_pwr (s : State) (k : Nat) : (s.kvReset k).pwr = s.pwr := by
  unfold State.kvReset
  dsimp only
  rw [foldl_keeps State.pwr]
  · rfl
  · intro u d; rfl

@[simp] theorem State.readyLoop_pwr (s : State) (k : Nat) (p : Bool) (slot : Nat) (fail : Option Nat) (kv : Bool) :
    (s.readyLoop k p slot fail kv).pwr = s.pwr := by
  unfold State.readyLoop State.takeEvSlot
  cases fail <;> cases kv <;> simp

theorem State.lane_startLanes {f : Lane → Lane} (hf : ∀ L, f (f L) = f L) (s : State) {ds : List Nat} (l : Nat)
    {d : Nat} (hd : d ∈ ds) : (s.startLanes ds l f).lane d l = f (s.lane d l) := by
  unfold State.startLanes
  rw [foldl_keeps (fun s : State => s.lane d l)]
  · exact State.updLanes_lane_mem hf s l hd
  · intro u e
    rw [State.lane_updDie]
    intro x; rfl

/-- The state of an admitted loop, before its records are appended. -/
def State.admitLoop (s : State) (k : Nat) (b params : List Byte) (v : Variant) (slot : Nat) (fail : Option Nat)
    (f bound : Nat) : State :=
  let m := s.comp k
  let s₁ := s.readyLoop k (s.ring (field b 22 2)).port slot fail (bit (field b 21 1) 0)
  (s₁.startLanes m.dies m.lane (Lane.enterLoop (field b 20 1) f bound s₁.pwr.theta)).updComp k fun m =>
    { m with loop := some (s.admitted b v slot fail bound), params := some params, newParams := none, holding := false }

/-- An admission: the loop's state, its two records (12 R417), the COMPLETION. -/
theorem State.startLoop_eq (s : State) (q k : Nat) (b params : List Byte) (v : Variant) (slot : Nat)
    (fail : Option Nat) (f bound : Nat) : ∃ body : List Byte,
    s.startLoop q k b params v slot fail f bound =
      (((s.admitLoop k b params v slot fail f bound).append k 3 params).append k 4 body).complete q .ok
        (BitVec.ofNat 256 (bound + 2 ^ 32 * f + 2 ^ 64 * slot + 2 ^ 72 * fail.getD 0xFF)) := by
  refine ⟨((s.admitLoop k b params v slot fail f bound).append k 3 params).loopBody k false (bit (field b 21 1) 0) 0
    (s.admitted b v slot fail bound), ?_⟩
  unfold State.startLoop State.admitLoop State.startLanes State.readyLoop State.takeEvSlot State.admitted Lane.enterLoop
  rfl

theorem State.lane_admitLoop (s : State) (k : Nat) (b params : List Byte) (v : Variant) (slot : Nat) (fail : Option Nat)
    (f bound : Nat) {d : Nat} (hd : d ∈ (s.comp k).dies) : ∃ L : Lane,
    (s.admitLoop k b params v slot fail f bound).lane d (s.comp k).lane =
      L.enterLoop (field b 20 1) f bound s.pwr.theta := by
  unfold State.admitLoop
  simp only [State.lane_updComp, State.readyLoop_pwr]
  exact ⟨_, State.lane_startLanes (fun L => Lane.enterLoop_idem _ _ _ _ L) _ _ hd⟩

/-- What an admitted loop sets: its record and its parameters, and the registers of every lane of the composition. -/
theorem State.startLoop_effect (s : State) (q k : Nat) (b params : List Byte) (v : Variant) (slot : Nat)
    (fail : Option Nat) (f bound : Nat) : ∃ u : State,
    s.startLoop q k b params v slot fail f bound = u.complete q .ok
      (BitVec.ofNat 256 (bound + 2 ^ 32 * f + 2 ^ 64 * slot + 2 ^ 72 * fail.getD 0xFF)) ∧
    (u.comp k).params = some params ∧ (u.comp k).loop = some (s.admitted b v slot fail bound) ∧
    ∀ d ∈ (s.comp k).dies, ∃ L : Lane, u.lane d (s.comp k).lane = L.enterLoop (field b 20 1) f bound s.pwr.theta := by
  obtain ⟨body, hstart⟩ := State.startLoop_eq s q k b params v slot fail f bound
  refine ⟨_, hstart, ?_, ?_, fun d hd => ?_⟩
  · simp only [State.comp_append, State.admitLoop, State.comp_updComp]
  · simp only [State.comp_append, State.admitLoop, State.comp_updComp]
  · simp only [State.lane_append]
    exact State.lane_admitLoop s k b params v slot fail f bound hd

/-! ### LOOP_STOP (04 R147, 08 R279) -/

section loopStop
variable {q : Fin 4096} {s : State} {b : List Byte} (h : s.begins q 0x49 [] b) (hstarted : (s.queue q).started = false)
include h hstarted

theorem exec_loopStop_without_loop (hloop : (s.comp (field b 12 2)).loop = none) :
    exec (.loopStop q) s = .next (s.complete q .state) := by
  refine congrArg Host.Outcome.next ((State.descr_plain h rfl).trans ?_)
  simp [hstarted, hloop]

/-- The loop's root lane is asked to stop, and the descriptor waits for the loop's end. -/
theorem exec_loopStop_asks {lp : Loop} (hloop : (s.comp (field b 12 2)).loop = some lp) :
    exec (.loopStop q) s = .next (((s.askStop (field b 12 2)).updComp (field b 12 2) fun m =>
      { m with loop := some { lp with stoppers := lp.stoppers ++ [q.val] } }).updQueue q fun x =>
        { x with started := true }) := by
  refine congrArg Host.Outcome.next ((State.descr_plain h rfl).trans ?_)
  simp [hstarted, hloop]

end loopStop

theorem State.askStop_stop (s : State) (k : Nat) :
    ((s.askStop k).lane (s.comp k).rootDie (s.comp k).lane).stop = true := by
  unfold State.askStop
  simp only [State.lane_updLane]

/-! ### SAMPLE_SET (04 R138, 08 R279) -/

section sampleSet
variable {q : Fin 4096} {s : State} {b : List Byte} (h : s.begins q 0x4A [(24, 8)] b) (haligned : field b 24 8 % 64 = 0)
  (hdata : s.hasData q 64) (hparams : sparamsOk ((s.queue q).buf.take 64) = true)
include h haligned hdata hparams

theorem exec_sampleSet_not_ready (hst : (s.comp (field b 12 2)).st ≠ .ready) :
    exec (.sampleSet q) s = .next (s.complete q .state) := by
  refine congrArg Host.Outcome.next ((State.descr_plain h (by simp [al64, haligned])).trans
    ((State.withData_has hdata _ _).trans ?_))
  simp [hparams, hst]

variable (hst : (s.comp (field b 12 2)).st = .ready)
include hst

/-- A running loop takes the parameters up at a commit, which records them. -/
theorem exec_sampleSet_of_loop (hloop : (s.comp (field b 12 2)).loop ≠ none) :
    exec (.sampleSet q) s = .next ((s.updComp (field b 12 2) fun m =>
      { m with newParams := some ((s.queue q).buf.take 64, false) }).complete q .ok) := by
  have hnone : (s.comp (field b 12 2)).loop.isNone = false :=
    Option.isNone_eq_false_iff.2 (Option.isSome_iff_ne_none.2 hloop)
  refine congrArg Host.Outcome.next ((State.descr_plain h (by simp [al64, haligned])).trans
    ((State.withData_has hdata _ _).trans ?_))
  simp only [hparams, hst, hnone]
  simp only [bne_self_eq_false, Bool.not_true, Bool.false_eq_true, Bool.false_and, if_false]
  refine congrArg (State.complete · q .ok) (State.updComp_congr ?_)
  simp only [hnone]

/-- Without a loop the parameters are recorded at once. -/
theorem exec_sampleSet_recorded (hloop : (s.comp (field b 12 2)).loop = none)
    (hroom : s.recRoom (field b 12 2) 128 = true) :
    exec (.sampleSet q) s = .next (((s.append (field b 12 2) 3 ((s.queue q).buf.take 64)).updComp (field b 12 2)
      fun m => { m with newParams := some ((s.queue q).buf.take 64, true) }).complete q .ok) := by
  have hnone : (s.comp (field b 12 2)).loop.isNone = true := by simpa using hloop
  refine congrArg Host.Outcome.next ((State.descr_plain h (by simp [al64, haligned])).trans
    ((State.withData_has hdata _ _).trans ?_))
  simp only [hparams, hst, hnone, hroom]
  simp only [bne_self_eq_false, Bool.not_true, Bool.false_eq_true, Bool.and_false, if_false, if_true]
  refine congrArg (State.complete · q .ok) (State.updComp_congr ?_)
  simp only [State.comp_append, hnone]

theorem exec_sampleSet_limit (hloop : (s.comp (field b 12 2)).loop = none)
    (hroom : s.recRoom (field b 12 2) 128 = false) :
    exec (.sampleSet q) s = .next (s.complete q .limit) := by
  refine congrArg Host.Outcome.next ((State.descr_plain h (by simp [al64, haligned])).trans
    ((State.withData_has hdata _ _).trans ?_))
  simp [hparams, hst, hloop, hroom]

end sampleSet

/-! ### DRAFT (04 R130, 08 R279) -/

section draft
variable {q : Fin 4096} {s : State} {b : List Byte} (h : s.begins q 0x4B [(16, 8)] b) (haligned : field b 16 8 % 64 = 0)
include h haligned

theorem exec_draft_refused (hbarred : (s.comp (field b 12 2)).st ≠ .ready ∨ (s.comp (field b 12 2)).vmod ≠ 0) :
    exec (.draft q) s = .next (s.complete q .state) := by
  refine congrArg Host.Outcome.next ((State.descr_plain h (by simp [al64, haligned])).trans (if_pos ?_))
  simpa using hbarred

theorem exec_draft_added (hst : (s.comp (field b 12 2)).st = .ready) (hvmod : (s.comp (field b 12 2)).vmod = 0)
    (hdata : s.hasData q 768) :
    exec (.draft q) s = .next ((s.updComp (field b 12 2) fun m =>
      { m with drafts := m.drafts ++ [{ bytes := (s.queue q).buf.take 768, host := true }] }).complete q .ok) := by
  refine congrArg Host.Outcome.next ((State.descr_plain h (by simp [al64, haligned])).trans
    ((if_neg ?_).trans (State.withData_has hdata _ _)))
  simp [hst, hvmod]

end draft

/-! ### STOP and DSRC of a lane (04 R153, 17 R534) -/

section laneRegs
variable {die lane : Fin 8} {s : State}

theorem exec_stop_without_loop (hloop : s.laneLoop die lane = none) : exec (.stop die lane) s = .next s :=
  congrArg Host.Outcome.next (if_neg (by simp [hloop]))

theorem exec_stop_of_loop {lp : Loop} (hloop : s.laneLoop die lane = some lp) :
    exec (.stop die lane) s = .next (s.updLane die lane fun L => { L with stop := true }) :=
  congrArg Host.Outcome.next (if_pos (by simp [hloop]))

variable {v : Fin 4}

theorem exec_dsrcWrite_without_loop (hloop : s.laneLoop die lane = none) :
    exec (.dsrcWrite die lane v) s = .next (s.updLane die lane fun L => { L with dsrc := BitVec.ofNat 2 v }) :=
  congrArg Host.Outcome.next (if_pos (by simp [hloop]))

variable {lp : Loop} (hloop : s.laneLoop die lane = some lp)
include hloop

theorem exec_dsrcWrite_counted (hle : (lp.draftAdm[v.val + 1]?).getD 0 ≤ lp.draftAdm.headD 0) :
    exec (.dsrcWrite die lane v) s = .next (s.updLane die lane fun L => { L with dsrc := BitVec.ofNat 2 v }) :=
  congrArg Host.Outcome.next (if_pos (by simp only [hloop, hle, decide_true]))

theorem exec_dsrcWrite_not_counted (hlt : lp.draftAdm.headD 0 < (lp.draftAdm[v.val + 1]?).getD 0) :
    exec (.dsrcWrite die lane v) s = .next s :=
  congrArg Host.Outcome.next (if_neg (by simp only [hloop, Nat.not_le.2 hlt, decide_false, Bool.false_eq_true,
    not_false_eq_true]))

end laneRegs

end Sys2Proof.Machine

open Sys2Proof Sys2Proof.Machine

/-- Settles O39: each descriptor's checks in their order, with the admission's effect from `State.startLoop_effect`. -/
theorem tokenLoops : Obligations.TokenLoops := by
  unfold Obligations.TokenLoops
  intro q die lane v s b k m c r bad
  refine ⟨fun hbegins hbreq hbreq' hdsrc hkv haligned hring htable hdata hparams => ?_, fun hbegins hstarted => ?_,
    fun hbegins haligned hdata hparams => ?_, fun hbegins haligned => ?_, fun hloop => ?_, fun lp hloop => ?_⟩
  · have h : s.LoopStart q b := ⟨hbegins, hbreq, hbreq', hdsrc, hkv, haligned, hring, htable, hdata, hparams⟩
    refine ⟨exec_loopStart_barred h, fun hfree hlimit hvariant => exec_loopStart_limit h hfree hvariant hlimit,
      fun hfree slot vr hslot hvariant hroom => ?_⟩
    refine ⟨exec_loopStart_bound h hfree hslot hvariant hroom, fun hbound => ?_⟩
    obtain ⟨u, hu, huparams, huloop, hulanes⟩ := State.startLoop_effect s q k b ((s.queue q).buf.take 64) vr slot
      ((s.tongs (!(s.ring r).port)).freeEvSlot c) (loopFrames vr (field b 20 1) m.movef)
      (loopBound (loopFrames vr (field b 20 1) m.movef) s.pwr.theta.toNat)
    refine ⟨u, (exec_loopStart_admitted h hfree hslot hvariant hroom hbound).trans (congrArg Host.Outcome.next hu),
      huparams, ⟨_, huloop, rfl, rfl, rfl, rfl, rfl, rfl, rfl⟩, fun d hd => ?_⟩
    obtain ⟨L, hL⟩ := hulanes d hd
    rw [hL]
    exact ⟨rfl, rfl, rfl, rfl, rfl⟩
  · refine ⟨exec_loopStop_without_loop hbegins hstarted, fun lp hloop =>
      ⟨_, exec_loopStop_asks hbegins hstarted hloop, ?_, ?_, ?_⟩⟩
    · rw [State.lane_updQueue, State.lane_updComp]
      exact State.askStop_stop s k
    · rw [State.comp_updQueue, State.comp_updComp]
    · rw [State.queue_updQueue]
  · exact ⟨exec_sampleSet_not_ready hbegins haligned hdata hparams, fun hst =>
      ⟨exec_sampleSet_of_loop hbegins haligned hdata hparams hst,
        exec_sampleSet_recorded hbegins haligned hdata hparams hst,
        exec_sampleSet_limit hbegins haligned hdata hparams hst⟩⟩
  · exact ⟨exec_draft_refused hbegins haligned, exec_draft_added hbegins haligned⟩
  · exact ⟨exec_stop_without_loop hloop, exec_dsrcWrite_without_loop hloop⟩
  · exact ⟨exec_stop_of_loop hloop, exec_dsrcWrite_counted hloop, exec_dsrcWrite_not_counted hloop⟩

end

section
/-! PROOFS. Table images (05 R168 to R171, R188): what GO and ARM do, and what a load leaves alone: the control
registers of every die and every active table. -/

namespace Sys2Proof.Machine

/-! ### GO and ARM (05 R168, R171, R188) -/

/-- Changes that agree on a die change the state alike. -/
theorem State.updDie_congr {s : State} {d : Nat} {f g : Die → Die} (h : f (s.die d) = g (s.die d)) :
    s.updDie d f = s.updDie d g := congrArg (s.setDie d) h

section requests
variable {die : Fin 8} {s : State}

theorem exec_meshLoadGo_starts (harm : (s.die die).ctl.arm = false) :
    exec (.meshLoadGo die) s = .next (s.updDie die fun x => { x with ctl := { x.ctl with busy := true } }) :=
  congrArg Host.Outcome.next (State.updDie_congr (if_neg (by simp [harm])))

theorem exec_meshLoadGo_ignored (harm : (s.die die).ctl.arm = true) :
    exec (.meshLoadGo die) s = .next (s.updDie die fun x => { x with ctl := { x.ctl with wign := true } }) :=
  congrArg Host.Outcome.next (State.updDie_congr (if_pos harm))

theorem exec_arm_arms (hbusy : (s.die die).ctl.busy = false) :
    exec (.arm die) s = .next (s.updDie die fun x => { x with ctl := { x.ctl with arm := true } }) :=
  congrArg Host.Outcome.next (State.updDie_congr (if_neg (by simp [hbusy])))

theorem exec_arm_ignored (hbusy : (s.die die).ctl.busy = true) :
    exec (.arm die) s = .next (s.updDie die fun x => { x with ctl := { x.ctl with wign := true } }) :=
  congrArg Host.Outcome.next (State.updDie_congr (if_pos hbusy))

end requests

/-! ### What a load leaves alone (05 R169, R170) -/

/-- What loading records leaves alone: the control registers of every die, every router's active table and every core's
active channel table. -/
structure LoadView where
  ctl : Nat → MeshCtl
  active : Nat → Nat → Tab (BitVec 16)
  chan : Nat → Tab Word64

def State.loadView (s : State) : LoadView where
  ctl d := (s.die d).ctl
  active d r := (s.router d r).active
  chan k := (s.core k).chan

section loadView
variable {s t : State} (h : t.loadView = s.loadView)
include h

theorem State.ctl_of_loadView (d : Nat) : (t.die d).ctl = (s.die d).ctl := congrFun (congrArg LoadView.ctl h) d

theorem State.active_of_loadView (d r : Nat) : (t.router d r).active = (s.router d r).active :=
  congrFun (congrFun (congrArg LoadView.active h) d) r

theorem State.chan_of_loadView (k : Nat) : (t.core k).chan = (s.core k).chan := congrFun (congrArg LoadView.chan h) k

end loadView

section keeps
variable (s : State)

theorem State.loadView_updDie {f : Die → Die} (hctl : ∀ x, (f x).ctl = x.ctl)
    (hactive : ∀ x r, (Tab.look ({} : Router) (f x).routers r).active = (Tab.look ({} : Router) x.routers r).active)
    (d : Nat) : (s.updDie d f).loadView = s.loadView := by
  have hdie (e : Nat) : ((s.updDie d f).die e).ctl = (s.die e).ctl ∧
      ∀ r, ((s.updDie d f).router e r).active = (s.router e r).active := by
    unfold State.router
    by_cases he : e = d
    · subst he
      rw [State.die_updDie]
      exact ⟨hctl _, hactive _⟩
    · rw [State.die_updDie_ne _ _ _ he]
      exact ⟨rfl, fun _ => rfl⟩
  unfold State.loadView
  simp only [(hdie _).1, (hdie _).2, State.core_updDie]

theorem State.loadView_updRouter {f : Router → Router} (hf : ∀ x, (f x).active = x.active) (d r : Nat) :
    (s.updRouter d r f).loadView = s.loadView := by
  refine s.loadView_updDie (fun _ => by rfl) (fun x i => ?_) d
  dsimp only
  by_cases hi : i = r
  · subst hi
    rw [Tab.look_upd_same, hf]
  · rw [Tab.look_upd_ne _ hi]

theorem State.loadView_setChanShadow (k : Nat) (l : Tab Word64) :
    (s.setCore k { s.core k with chanShadow := l }).loadView = s.loadView := by
  have hchan (i : Nat) : ((s.setCore k { s.core k with chanShadow := l }).core i).chan = (s.core i).chan := by
    by_cases hi : i = k
    · subst hi
      rw [State.core_setCore]
    · rw [State.core_setCore_ne _ _ _ hi]
  unfold State.loadView
  simp only [hchan]
  rfl

end keeps

/-- A load that goes on has passed the check. -/
theorem eq_ok_of_ite_error {ε α : Type} {c : Prop} [Decidable c] {e : ε} {x : Except ε α} {v : α}
    (h : (if c then .error e else x) = .ok v) : x = .ok v := by
  split at h
  · cases h
  · exact h

/-- A record is written to shadow tables alone, whatever its type. -/
theorem State.loadView_loadRecord {s t : State} {d lane a b : Nat} (h : s.loadRecord d lane a = .ok (t, b)) :
    t.loadView = s.loadView := by
  unfold State.loadRecord at h
  replace h := eq_ok_of_ite_error h
  dsimp only at h
  split at h
  case h_1 =>
    split at h
    · cases h
    · obtain ⟨rfl, -⟩ := Prod.mk.inj (Except.ok.inj h)
      exact s.loadView_updRouter (fun _ => by rfl) ..
  case h_2 =>
    split at h
    · cases h
    · obtain ⟨rfl, -⟩ := Prod.mk.inj (Except.ok.inj h)
      exact s.loadView_setChanShadow ..
  case h_3 =>
    obtain ⟨rfl, -⟩ := Prod.mk.inj (Except.ok.inj (eq_ok_of_ite_error h))
    exact s.loadView_updDie (fun _ => by rfl) (fun _ _ => by rfl) d
  case h_4 =>
    split at h
    · cases h
    · obtain ⟨rfl, -⟩ := Prod.mk.inj (Except.ok.inj h)
      exact s.loadView_updDie (fun _ => by rfl) (fun _ _ => by rfl) d
  case h_5 =>
    replace h := eq_ok_of_ite_error (eq_ok_of_ite_error (eq_ok_of_ite_error h))
    obtain ⟨rfl, -⟩ := Prod.mk.inj (Except.ok.inj h)
    rfl

theorem State.loadView_loadRecords (s : State) (d lane n i a : Nat) :
    (s.loadRecords d lane n i a).1.loadView = s.loadView := by
  induction n generalizing s i a with
  | zero => rfl
  | succ n ih =>
    unfold State.loadRecords
    split
    · rfl
    next h => rw [ih, State.loadView_loadRecord h]

theorem State.loadView_loadImage (s : State) (d : Nat) : (s.loadImage d).1.loadView = s.loadView := by
  unfold State.loadImage
  dsimp only
  split
  · rfl
  split
  next h => rw [← s.loadView_loadRecords, h]
  next h => rw [← s.loadView_loadRecords, h]

/-! ### The end of a load (05 R170) -/

/-- The control registers when a load ends: BUSY clear, the first error noted. -/
def MeshCtl.endLoad (m : MeshCtl) : Option (Nat × Nat) → MeshCtl
  | none => { m with busy := false }
  | some (c, i) => { m with busy := false, err := true, errcode := BitVec.ofNat 8 c, errrec := BitVec.ofNat 16 i }

theorem MeshCtl.endLoad_busy (m : MeshCtl) (e : Option (Nat × Nat)) : (m.endLoad e).busy = false := by
  cases e with
  | none => rfl
  | some p => rfl

theorem exec_meshLoadComplete {die : Fin 8} {s : State} (hbusy : (s.die die).ctl.busy = true) :
    exec (.meshLoadComplete die) s = .next ((s.loadImage die).1.updDie die fun x =>
      { x with ctl := x.ctl.endLoad (s.loadImage die).2 }) := by
  refine (if_pos hbusy).trans ?_
  rfl

/-- What the end of a load leaves: of its die the control registers, noting the error, and every active table. -/
theorem State.endLoad_effect (s : State) (d : Nat) (e : Option (Nat × Nat)) :
    let t := (s.loadImage d).1.updDie d fun x => { x with ctl := x.ctl.endLoad e }
    (t.die d).ctl = (s.die d).ctl.endLoad e ∧ (∀ i r, (t.router i r).active = (s.router i r).active) ∧
      ∀ k, (t.core k).chan = (s.core k).chan := by
  have hview := s.loadView_loadImage d
  refine ⟨?_, fun i r => ?_, fun k => ?_⟩
  · rw [State.die_updDie]
    exact congrArg (MeshCtl.endLoad · e) (State.ctl_of_loadView hview d)
  · rw [← State.active_of_loadView hview i r]
    unfold State.router
    by_cases hi : i = d
    · subst hi
      rw [State.die_updDie]
    · rw [State.die_updDie_ne _ _ _ hi]
  · rw [State.core_updDie]
    exact State.chan_of_loadView hview k

end Sys2Proof.Machine

open Sys2Proof Sys2Proof.Machine

/-- Settles O16: GO and ARM exclude each other, and a load writes shadow tables and the control registers alone. -/
theorem tableLoads : Obligations.TableLoads := by
  unfold Obligations.TableLoads
  intro die s d m
  refine ⟨exec_meshLoadGo_starts, exec_meshLoadGo_ignored, exec_arm_arms, exec_arm_ignored, fun hbusy => ?_⟩
  obtain ⟨hctl, hactive, hchan⟩ := s.endLoad_effect d (s.loadImage d).2
  refine ⟨_, exec_meshLoadComplete hbusy, ?_, fun c i herr => ?_, fun herr => ?_, hactive, hchan⟩
  · rw [hctl, MeshCtl.endLoad_busy]
  · rw [hctl, herr]
    exact ⟨rfl, rfl, rfl⟩
  · rw [hctl, herr]
    exact ⟨rfl, rfl⟩

end

section
/-! PROOFS. Flits on a die (05 R155, R157, R159, R164, R166, R178 to R180, R185; 03 R82, R105): what a mesh fault and a
flit that lands change, elastic queues, the failure of a router and the answer of a TGET request. -/

namespace Sys2Proof.Machine

/-! ### Mesh faults (05 R166, R167) -/

theorem MeshCtl.record_count (m : MeshCtl) (r port cycle owner cls code : Nat) :
    (m.record r port cycle owner cls code).count = m.count + 1 := by
  unfold MeshCtl.record
  dsimp only
  split
  · rfl
  · rfl

theorem Router.record_failed (x : Router) (port cycle owner code : Nat) :
    (x.record port cycle owner code).failed = x.failed := by
  unfold Router.record
  split
  · rfl
  · rfl

section meshFault
variable (s : State) (d r port cycle owner cls code : Nat) (st : Status) (unit : Nat)

theorem State.die_meshRecord : ∃ x, (s.meshRecord d r port cycle owner cls code).die d =
    { s.die d with routers := x, ctl := (s.die d).ctl.record r port cycle owner cls code } := by
  rw [State.meshRecord, State.die_updDie, State.updRouter, State.die_updDie]
  exact ⟨_, rfl⟩

theorem State.router_meshRecord : (s.meshRecord d r port cycle owner cls code).router d r =
    (s.router d r).record port cycle owner code := by
  rw [← State.router_updRouter s d r fun x => x.record port cycle owner code]
  unfold State.router State.meshRecord
  rw [State.die_updDie]

theorem State.meshFault_frame : ∃ q g, s.meshFault d r port cycle owner cls code st unit =
    { s.meshRecord d r port cycle owner cls code with faultQ := q, faultLog := g } := by
  unfold State.meshFault
  dsimp only
  split
  · exact State.laneFault_frame ..
  · exact ⟨_, _, rfl⟩

theorem State.core_meshFault (k : Nat) : (s.meshFault d r port cycle owner cls code st unit).core k = s.core k := by
  obtain ⟨q, g, h⟩ := s.meshFault_frame d r port cycle owner cls code st unit
  rw [h]
  rfl

/-- A mesh fault changes its die's routers and MESH_VIOL alone. -/
theorem State.die_meshFault : ∃ x, (s.meshFault d r port cycle owner cls code st unit).die d =
    { s.die d with routers := x, ctl := (s.die d).ctl.record r port cycle owner cls code } := by
  obtain ⟨q, g, h⟩ := s.meshFault_frame d r port cycle owner cls code st unit
  rw [h]
  exact s.die_meshRecord d r port cycle owner cls code

variable {owner} in
theorem State.meshFault_charged (howner : owner < 8) :
    s.charged (s.meshFault d r port cycle owner cls code st unit) d owner unit code st := by
  rw [State.meshFault, if_pos howner]
  exact State.laneFault_charged (s.meshRecord d r port cycle owner cls code) d owner unit code st _ 0 0

end meshFault

/-! ### The way of a flit (05 R157, R166) -/

/-- A flit that entered the mesh at a core is taken from those on their way and carried. -/
theorem exec_flitDelivery_flight {die : Fin 8} {s : State} {n : Nat} {f : Flit} (hf : (s.die die).flights[n]? = some f)
    (hcore : coreAt f.router = true) (cyc : Fin 256) (ovl : List Eng) (bad badMirror : List Nat) (ecc : Bool) :
    exec (.flitDelivery die n cyc ovl bad badMirror ecc) s =
      .next ((s.setDie die { s.die die with flights := (s.die die).flights.eraseIdx n }).carry die ovl bad badMirror
        ecc f) := by
  refine congrArg Host.Outcome.next ?_
  simp [State.deliver, hf, hcore]

/-- A flit whose way has one event. -/
theorem State.carry_one {s : State} {d : Nat} {bad badMirror : List Nat} {f : Flit} {e : MeshEv}
    (h : walkFlit (s.die d) bad badMirror f = [e]) (ovl : List Eng) :
    s.carry d ovl bad badMirror false f = s.meshEvent d ovl f e := by
  simp [State.carry, h]

/-- Such a flit whose way has one event. -/
theorem exec_flitDelivery_one {die : Fin 8} {s : State} {n : Nat} {f : Flit} {bad badMirror : List Nat} {e : MeshEv}
    (hf : (s.die die).flights[n]? = some f) (hcore : coreAt f.router = true)
    (hwalk : walkFlit { s.die die with flights := (s.die die).flights.eraseIdx n } bad badMirror f = [e])
    (cyc : Fin 256) (ovl : List Eng) : exec (.flitDelivery die n cyc ovl bad badMirror false) s =
      .next ((s.setDie die { s.die die with flights := (s.die die).flights.eraseIdx n }).meshEvent die ovl f e) := by
  rw [← State.die_setDie s die { s.die die with flights := (s.die die).flights.eraseIdx n }] at hwalk
  rw [exec_flitDelivery_flight hf hcore, State.carry_one hwalk]

/-- The core that takes a data flit: the bytes at FADDR, and the counter for the last flit of a transfer (03 R105). -/
def Core.takeFlit (c : Core) (f : Flit) : Core :=
  let c := c.put (f.faddr % 2 ^ 14 * 64) (payloadBytes f.payload)
  if f.last then c.arrive f.ctr else c

section takeFlit
variable (c : Core) (f : Flit)

theorem Core.takeFlit_scratch :
    (c.takeFlit f).scratch = c.scratch.write (f.faddr % 2 ^ 14 * 64) (payloadBytes f.payload) := by
  unfold Core.takeFlit
  dsimp only
  split
  · rfl
  · rfl

theorem Core.takeFlit_pc : (c.takeFlit f).pc = c.pc := by
  unfold Core.takeFlit
  dsimp only
  split
  · rfl
  · rfl

theorem Core.takeFlit_ctr (j : Nat) :
    (c.takeFlit f).ctr j = if f.last = true ∧ j = f.ctr then c.ctr j + 1 else c.ctr j := by
  unfold Core.takeFlit
  by_cases hlast : f.last = true
  · by_cases hj : j = f.ctr
    · subst hj
      simp only [hlast, and_self, if_true]
      exact Tab.look_put_same ..
    · simp only [hlast, hj, and_false, if_true, if_false]
      exact Tab.look_put_ne _ hj
  · simp only [hlast, false_and, if_false, Bool.false_eq_true]
    rfl

end takeFlit

/-- No execution overlaps the write and the flit is not poisoned. -/
theorem State.scratchWrite_clean {f : Flit} (hpoison : f.poison = false) (s : State) (k : Nat) :
    s.scratchWrite k [] f = s.setCore k ((s.core k).takeFlit f) := by
  have hhazard (w : Range) : s.inboundHazard k [] w = s := rfl
  simp [State.scratchWrite, hhazard, hpoison, Core.takeFlit]

theorem State.localDeliver_run {s : State} {d r cl k : Nat} {f : Flit} (hunit : unitAt r = .core cl k)
    (hst : (s.core (coreKey d cl k)).st = .run) (huse : f.use = .data) (ovl : List Eng) (cycle : Nat) :
    s.localDeliver d ovl f r cycle = s.scratchWrite (coreKey d cl k) ovl f := by
  simp [State.localDeliver, hunit, hst, huse]

/-! ### Elastic queues (05 R178 to R180) -/

section elastic
variable {die : Fin 8} {stop : Fin 300} {f : Flit} {s : State}

theorem exec_elasticQueueArrival_queued
    (hroom : (Tab.look [] (s.die die).elastic (16 * stop.val + f.owner)).length < elasticDepth f.owner) :
    exec (.elasticQueueArrival die stop f) s = .next (s.updDie die fun x =>
      { x with
        elastic := Tab.put [] x.elastic (16 * stop.val + f.owner)
          (Tab.look [] (s.die die).elastic (16 * stop.val + f.owner) ++ [f]) }) :=
  congrArg Host.Outcome.next (if_pos hroom)

theorem exec_elasticQueueArrival_overrun
    (hfull : elasticDepth f.owner ≤ (Tab.look [] (s.die die).elastic (16 * stop.val + f.owner)).length) :
    exec (.elasticQueueArrival die stop f) s = .next (s.meshFault die stop 0 0 f.owner f.cls 4 .slot) :=
  congrArg Host.Outcome.next (if_neg (Nat.not_lt.2 hfull))

end elastic

/-! ### The failure of a router (05 R174) -/

/-- One fault charged to each lane of a list. -/
def State.laneFaults (s : State) (d unit code : Nat) (st : Status) (ploc : Nat) (lanes : List Nat) : State :=
  lanes.foldl (fun s l => s.laneFault d l unit code st ploc 0 0) s

section laneFaults
variable (d unit code : Nat) (st : Status) (ploc : Nat) (lanes : List Nat)

theorem State.laneFaults_frame (s : State) :
    ∃ q g, s.laneFaults d unit code st ploc lanes = { s with faultQ := q, faultLog := g } := by
  refine List.foldlRecOn (motive := fun t : State => ∃ q g, t = { s with faultQ := q, faultLog := g }) lanes _
    ⟨s.faultQ, s.faultLog, rfl⟩ ?_
  rintro _ ⟨q, g, rfl⟩ l -
  obtain ⟨q', g', h⟩ := State.laneFault_frame { s with faultQ := q, faultLog := g } d l unit code st ploc 0 0
  exact ⟨q', g', h⟩

variable {s : State}

theorem State.mem_raise {m m' : FaultMsg} (hm : m ∈ s.faultQ) : m ∈ (s.raise m').faultQ := by
  unfold State.raise
  split
  · exact hm
  · exact List.mem_append_left _ hm

theorem State.mem_laneFault {m : FaultMsg} (hm : m ∈ s.faultQ) (l info addr : Nat) :
    m ∈ (s.laneFault d l unit code st ploc info addr).faultQ := by
  unfold State.laneFault
  split
  · exact hm
  · exact State.mem_raise hm

theorem State.mem_laneFaults {m : FaultMsg} (hm : m ∈ s.faultQ) :
    m ∈ (s.laneFaults d unit code st ploc lanes).faultQ :=
  List.foldlRecOn (motive := fun t : State => m ∈ t.faultQ) lanes _ hm
    fun _ ht l _ => State.mem_laneFault d unit code st ploc ht l 0 0

variable {lanes}

/-- Every lane of the list that a composition holds is charged. -/
theorem State.laneFaults_charged {l k : Nat} (hl : l ∈ lanes) (hcomp : s.laneComp d l = some k)
    (hentry : s.inEntry = false) :
    ∃ m ∈ (s.laneFaults d unit code st ploc lanes).faultQ,
      m.ctx = (s.comp k).ctx ∧ m.lane = l ∧ m.unit = unit ∧ m.code = code ∧ m.status = st := by
  induction lanes generalizing s with
  | nil => cases hl
  | cons j lanes ih =>
    rcases List.mem_cons.1 hl with rfl | hl
    · obtain ⟨m, hq, hctx, hunit, hcode, hst, -, hlane⟩ :=
        s.laneFault_charged d l unit code st ploc 0 0 k hcomp hentry
      exact ⟨m, State.mem_laneFaults d unit code st ploc lanes (by simp [hq]), hctx, hlane, hunit, hcode, hst⟩
    · obtain ⟨q, g, hframe⟩ := s.laneFault_frame d j unit code st ploc 0 0
      have hfirst : s.laneFaults d unit code st ploc (j :: lanes) =
          ({ s with faultQ := q, faultLog := g } : State).laneFaults d unit code st ploc lanes := by
        rw [← hframe]
        rfl
      rw [hfirst]
      exact ih (s := { s with faultQ := q, faultLog := g }) hl hcomp hentry

end laneFaults

/-- The lanes that own a VALID entry of a router. -/
def Router.laneOwners (x : Router) : List Nat :=
  (List.range 8).filter fun l => x.active.any fun e => slValid e.2 && slOwner e.2 == l

theorem Router.mem_laneOwners {x : Router} {e : Nat × BitVec 16} {l : Nat} (hl : l < 8) (he : e ∈ x.active)
    (hvalid : slValid e.2 = true) (howner : slOwner e.2 = l) : l ∈ x.laneOwners :=
  List.mem_filter.2 ⟨List.mem_range.2 hl, List.any_eq_true.2 ⟨e, he, by simp [hvalid, howner]⟩⟩

section routerFail
variable {s : State} {d r : Nat} (hgood : (s.router d r).failed = false)
include hgood

/-- A router that fails is noted on its die, and its lanes are charged. -/
theorem State.routerFail_eq : ∃ x, (({ s with dies := x } : State).router d r).failed = true ∧
    s.routerFail d r = ({ s with dies := x } : State).laneFaults d 2 3 .link (meshPloc d r 7 0)
      (s.router d r).laneOwners := by
  have hact : s.routerFail d r = _ := if_neg (by simp [hgood])
  rw [hact]
  generalize hu : s.updRouter d r (fun x => { x with failed := true }) = u
  have hfailed : (u.router d r).failed = true := by rw [← hu, State.router_updRouter]
  have hframe : u = { s with dies := u.dies } := by rw [← hu]; rfl
  cases howners : (s.router d r).laneOwners with
  | nil =>
    have hrec : ((u.updRouter d r fun x => x.record 7 0 0xF 3).router d r).failed = true := by
      rw [State.router_updRouter, Router.record_failed, hfailed]
    rw [Router.laneOwners] at howners
    rw [howners]
    rw [hframe] at hrec ⊢
    exact ⟨_, hrec, rfl⟩
  | cons l ls =>
    have hrec : ((u.meshRecord d r 7 0 l 0 3).router d r).failed = true := by
      rw [State.router_meshRecord, Router.record_failed, hfailed]
    rw [Router.laneOwners] at howners
    rw [howners]
    rw [hframe] at hrec ⊢
    exact ⟨_, hrec, rfl⟩

theorem State.routerFail_failed : ((s.routerFail d r).router d r).failed = true := by
  obtain ⟨x, hfailed, heq⟩ := State.routerFail_eq hgood
  obtain ⟨q, g, hframe⟩ := State.laneFaults_frame d 2 3 .link (meshPloc d r 7 0) (s.router d r).laneOwners
    { s with dies := x }
  rw [heq, hframe]
  exact hfailed

theorem State.routerFail_charged {l k : Nat} (hl : l ∈ (s.router d r).laneOwners) (hcomp : s.laneComp d l = some k)
    (hentry : s.inEntry = false) : ∃ m ∈ (s.routerFail d r).faultQ,
      m.ctx = (s.comp k).ctx ∧ m.lane = l ∧ m.unit = 2 ∧ m.code = 3 ∧ m.status = .link := by
  obtain ⟨x, -, heq⟩ := State.routerFail_eq hgood
  rw [heq]
  exact State.laneFaults_charged (s := { s with dies := x }) d 2 3 .link (meshPloc d r 7 0) hl hcomp hentry

end routerFail

/-- At a cluster-memory stop the failure disables the cluster besides, which no router or fault shows. -/
theorem exec_routerFail (die : Fin 8) (router : Fin 300) (s : State) :
    ∃ t, exec (.routerFail die router) s = .next t ∧
      t.router die router = (s.routerFail die router).router die router ∧
      t.faultQ = (s.routerFail die router).faultQ := by
  refine ⟨_, rfl, ?_⟩
  split
  · unfold State.router
    rw [State.die_updDie]
    exact ⟨rfl, rfl⟩
  · exact ⟨rfl, rfl⟩

/-! ### TGET replies (05 R164) -/

theorem exec_tgetReply_answered {die : Fin 8} {router : Fin 300} {s : State} {f : Flit} {rest : List Flit}
    (hgets : Tab.look [] (s.die die).gets router.val = f :: rest) :
    exec (.tgetReply die router) s = .next (s.setDie die { s.die die with
      gets := Tab.put [] (s.die die).gets router.val rest,
      flights := (s.die die).flights ++ s.getFlits die router f }) := by
  refine congrArg Host.Outcome.next ?_
  rw [hgets]

section getFlits
variable {s : State} {d r : Nat} {f : Flit} {ra len la ctr core rslot rrun : Nat}
  (huse : f.use = .getReq ra len la ctr core rslot rrun)
include huse

theorem State.getFlits_length : (s.getFlits d r f).length = len := by
  simp [State.getFlits, huse]

theorem State.getFlits_getElem {j : Nat} {g : Flit} (hg : (s.getFlits d r f)[j]? = some g) :
    g = { owner := f.owner, cls := f.cls, last := j + 1 == len, ctr, faddr := (la / 4 + j) % 2 ^ 18, poison := false,
          payload := s.getData d r ra j, use := .data, router := r, port := 0,
          cycle := (rslot + j % (rrun + 1)) % 256 } := by
  rw [State.getFlits, huse] at hg
  dsimp only at hg
  rw [List.getElem?_map] at hg
  obtain ⟨i, hi, hg⟩ := Option.map_eq_some_iff.1 hg
  obtain ⟨_, rfl⟩ := List.getElem?_eq_some_iff.1 hi
  rw [← hg, List.getElem_range]

end getFlits

end Sys2Proof.Machine

open Sys2Proof Sys2Proof.Machine

/-- Settles O15, by the events of a flit's way (a core takes it, or it is charged as STRAY, code 2), the room in an
elastic queue, the owners of a failed router and the flits of a TGET answer. -/
theorem meshFlits : Obligations.MeshFlits := by
  unfold Obligations.MeshFlits
  intro die s d x
  refine ⟨fun n cyc f hf hcore => ⟨fun r c cl k hwalk hunit huse hpoison hst => ?_, fun r p c hwalk => ?_⟩,
    fun stop f => ⟨fun hroom => ?_, fun hfull => ?_⟩, fun router hgood => ?_,
    fun router f rest ra len la ctr core rslot rrun hgets huse => ?_⟩
  · refine ⟨_, exec_flitDelivery_one hf hcore hwalk cyc [], ?_⟩
    rw [State.meshEvent, State.localDeliver_run (s := s.setDie d _) hunit hst huse, State.scratchWrite_clean hpoison,
      State.core_setCore]
    refine ⟨?_, Core.takeFlit_scratch _ f, Core.takeFlit_ctr _ f, Core.takeFlit_pc _ f,
      fun j hj => State.core_setCore_ne _ _ _ hj, rfl, rfl⟩
    exact congrArg Die.flights (State.die_setDie ..)
  · refine ⟨_, exec_flitDelivery_one hf hcore hwalk cyc [], ?_⟩
    rw [State.meshEvent]
    obtain ⟨y, hy⟩ := (s.setDie d { x with flights := x.flights.eraseIdx n }).die_meshFault d r p c f.owner f.cls 2
      .slot 2
    rw [hy, State.die_setDie]
    exact ⟨rfl, MeshCtl.record_count .., State.meshFault_charged (s.setDie d _) d r p c f.cls 2 .slot 2,
      State.core_meshFault _ d r p c f.owner f.cls 2 .slot 2⟩
  · refine ⟨_, exec_elasticQueueArrival_queued hroom, ?_⟩
    dsimp only
    rw [State.die_updDie]
    exact Tab.look_put_same ..
  · obtain ⟨y, hy⟩ := s.die_meshFault d stop 0 0 f.owner f.cls 4 .slot 2
    refine ⟨_, exec_elasticQueueArrival_overrun hfull, ?_, s.meshFault_charged d stop 0 0 f.cls 4 .slot 2⟩
    dsimp only
    rw [hy]
  · obtain ⟨t, ht, hrouter, hq⟩ := exec_routerFail die router s
    refine ⟨t, ht, hrouter ▸ State.routerFail_failed hgood, fun l k e hl he hvalid howner hcomp hentry => ?_⟩
    rw [hq]
    exact State.routerFail_charged hgood (Router.mem_laneOwners hl he hvalid howner) hcomp hentry
  · refine ⟨_, s.getFlits d router f, exec_tgetReply_answered hgets, ?_, ?_, State.getFlits_length huse,
      fun j g hg => ?_⟩
    · rw [State.die_setDie, Tab.look_put_same]
    · rw [State.die_setDie]
    · rw [State.getFlits_getElem huse hg]
      exact ⟨rfl, rfl, rfl, rfl, rfl, rfl, rfl⟩

end

section
/-! PROOFS. A request that reaches a memory stop (06 R191, R195): what the stop answers, and that a window or block
without a valid owner serves nothing. -/

namespace Sys2Proof.Machine

/-! ### Faults of a stop (06 R191, R195; 09 R308) -/

section stopFault
variable (s : State) (m : Bool) (d i code : Nat) (st : Status) (owner addr : Nat)

/-- A fault of a stop changes the fault queue and the fault log alone. -/
theorem State.stopFault_frame :
    ∃ q g, s.stopFault m d i code st owner addr = { s with faultQ := q, faultLog := g } := by
  unfold State.stopFault
  split
  · exact State.laneFault_frame ..
  · exact ⟨_, _, rfl⟩

@[simp] theorem State.memStop_stopFault (n : Bool) (e j : Nat) :
    (s.stopFault m d i code st owner addr).memStop n e j = s.memStop n e j := by
  obtain ⟨q, g, h⟩ := s.stopFault_frame m d i code st owner addr
  rw [h]
  rfl

variable {owner} in
theorem State.stopFault_charged (howner : owner < 8) :
    s.charged (s.stopFault m d i code st owner addr) d owner 5 code st := by
  rw [State.stopFault, if_pos howner]
  exact State.laneFault_charged s d owner 5 code st _ 0 addr

end stopFault

/-! ### A request that arrives -/

section arrival
variable {s : State} {m : Bool} {d i : Nat} {r : MemReq}

theorem State.memArrive_outside (haddr : s.addrOk m d i r.addr = false) :
    s.memArrive m d i r = s.stopFault m d i 1 .format r.owner r.addr :=
  if_pos (by simp [haddr])

theorem State.memArrive_ungranted (haddr : s.addrOk m d i r.addr = true)
    (hgrants : (s.memStop m d i).grants r.owner r.use = false) :
    s.memArrive m d i r = s.stopFault m d i 3 .slot r.owner r.addr := by
  have hrefused : (!(s.memStop m d i).grants r.owner r.use) = true := by simp [hgrants]
  unfold State.memArrive
  exact (if_neg (by simp [haddr])).trans (if_pos hrefused)

variable (s m d i r) in
/-- What the stop does with the request is the answer of 06 R191 and R195. -/
theorem State.memAnswer_memArrive : s.memAnswer (s.memArrive m d i r) m d i r := by
  refine ⟨fun haddr => ?_, fun haddr hgrants => ?_, fun haddr hgrants => ?_⟩
  · rw [State.memArrive_outside haddr]
    exact ⟨congrArg MemStop.queue (State.memStop_stopFault ..), State.stopFault_charged s m d i 1 .format r.addr⟩
  · rw [State.memArrive_ungranted haddr hgrants]
    exact ⟨congrArg MemStop.queue (State.memStop_stopFault ..), State.stopFault_charged s m d i 3 .slot r.addr⟩
  · rw [State.memArrive_granted haddr hgrants]
    exact congrArg MemStop.queue (State.memStop_updMemStop ..)

variable (s m d i r) in
/-- No request changes the owner table of the stop it reaches. -/
theorem State.own_memArrive (w : Nat) :
    ((s.memArrive m d i r).memStop m d i).own w = (s.memStop m d i).own w := by
  cases haddr : s.addrOk m d i r.addr with
  | false => rw [State.memArrive_outside haddr, State.memStop_stopFault]
  | true =>
    cases hgrants : (s.memStop m d i).grants r.owner r.use with
    | false => rw [State.memArrive_ungranted haddr hgrants, State.memStop_stopFault]
    | true =>
      rw [State.memArrive_granted haddr hgrants, State.memStop_updMemStop]
      rfl

/-- A window or block without a valid owner takes the request that arrives and serves none. -/
theorem State.window_unowned {w : Nat} (hvalid : owValid ((s.memStop m d i).own w) = false) (ue : Bool) :
    s.window m d i w [r] ue = s.memArrive m d i r := by
  have hclosed : owValid (((s.memArrive m d i r).memStop m d i).own w) = false := by
    rw [State.own_memArrive, hvalid]
  unfold State.window
  simp [hclosed]

end arrival

end Sys2Proof.Machine

open Sys2Proof Sys2Proof.Machine

/-- Settles O13, by the three ends of a request's arrival; a window without a valid owner adds nothing to them. -/
theorem memoryRefusals : Obligations.MemoryRefusals := by
  unfold Obligations.MemoryRefusals
  intro die s r d
  refine ⟨fun stop win hvalid => ?_, fun stop block hvalid => ?_⟩
  · exact ⟨_, congrArg Host.Outcome.next (State.window_unowned hvalid false), s.memAnswer_memArrive false d stop r⟩
  · exact ⟨_, congrArg Host.Outcome.next (State.window_unowned hvalid false), s.memAnswer_memArrive true d stop r⟩

end

section
/-! PROOFS. The upkeep of a memory stop (06 R193, R201, R221 to R226): its commands as changes of the stop, the end of
its training, and the advance of a region's epoch. -/

namespace Sys2Proof.Machine

/-- Changes that agree on a stop change the state alike. -/
theorem State.updStop_congr {s : State} {i : StopId} {f g : MemStop → MemStop} (h : f (s.stop i) = g (s.stop i)) :
    s.updStop i f = s.updStop i g := by
  refine State.updDie_congr ?_
  unfold State.stop at h
  unfold Die.updStop Tab.upd
  cases hcls : i.cls <;> simp only [hcls] at h <;> simp only [h]

/-! ### Refresh, scrub and timing (06 R193, R201, R222) -/

section ready
variable {stop : StopId} {s : State} (hst : (s.stop stop).st = .ready)
include hst

theorem exec_refresh_ready : exec (.refresh stop) s =
    .next (s.updStop stop fun t => { t with refreshed := t.refreshed + 1 }) :=
  congrArg Host.Outcome.next (if_pos (by simp [hst]))

theorem exec_timingUpkeep_drifting : exec (.timingUpkeep stop true) s =
    .next (s.updStop stop fun t => { t with margin := true }) :=
  congrArg Host.Outcome.next (if_pos (by simp [hst]))

theorem exec_patrolScrub_corrected (hscrub : (s.stop stop).scrub = true) (addr n : Nat) :
    exec (.patrolScrub stop addr n false) s =
      .next (s.updStop stop fun t => { t with corr := t.corr + BitVec.ofNat 32 n }) :=
  congrArg Host.Outcome.next (if_pos (by simp [hst, hscrub]))

/-- A first uncorrectable error that a scrub meets is noted as firmware's, owner 0xE. -/
theorem exec_patrolScrub_uncorrectable (hscrub : (s.stop stop).scrub = true) (huev : (s.stop stop).uev = false)
    (addr n : Nat) : exec (.patrolScrub stop addr n true) s = .next (s.updStop stop fun _ =>
      { s.stop stop with
        corr := (s.stop stop).corr + BitVec.ofNat 32 n, uncorr := (s.stop stop).uncorr + 1, uev := true
        ueaddr := BitVec.ofNat 41 addr, ueowner := 0xE }) := by
  refine congrArg Host.Outcome.next ((if_pos (by simp [hst, hscrub])).trans (State.updStop_congr ?_))
  simp [MemStop.noteUe, wrapAdd, huev]

end ready

/-! ### TRAIN and the owner registers (06 R223, R226) -/

section registers
variable {stop : StopId} {s : State}

theorem exec_train_starts (hok : StopOk stop = true) (hst : (s.stop stop).st ≠ .ready) :
    exec (.train stop) s = .next (s.updStop stop fun _ => { s.stop stop with st := .training }) :=
  congrArg Host.Outcome.next ((if_pos hok).trans (State.updStop_congr (if_neg (by simp [hst]))))

theorem exec_train_ignored (hok : StopOk stop = true) (hst : (s.stop stop).st = .ready)
    (howner : (s.stop stop).anyOwner = true) :
    exec (.train stop) s = .next (s.updStop stop fun _ => { s.stop stop with wign := true }) :=
  congrArg Host.Outcome.next ((if_pos hok).trans (State.updStop_congr (if_pos (by simp [hst, howner]))))

theorem exec_stopOwnWrite (hcls : stop.cls ≠ .f) (hok : StopOk stop = true) (second : Bool) (v : Word64) :
    exec (.stopOwnWrite stop second v) s =
      .next (s.updStop stop fun t => t.writeOwn (s.die stop.die.val).ctl.arm second v) :=
  congrArg Host.Outcome.next (if_neg (by simp [hcls, hok]))

end registers

/-! ### The end of training (06 R221, R224) -/

theorem State.restoreLinks_frame (s : State) :
    ∃ r v p, s.restoreLinks = { s with route := r, rst := v, ports := p } := by
  unfold State.restoreLinks
  split
  · exact ⟨_, _, _, rfl⟩
  · refine List.foldlRecOn (motive := fun t : State => ∃ r v p, t = { s with route := r, rst := v, ports := p }) _ _
      ⟨_, _, _, rfl⟩ ?_
    rintro _ ⟨r, v, p, rfl⟩ e -
    exact ⟨_, _, _, rfl⟩

theorem State.startCopy_frame (s : State) : ∃ x b, s.startCopy = { s with sec := x, sb := b } := by
  unfold State.startCopy
  split
  · split
    · exact ⟨_, _, rfl⟩
    · split
      · exact ⟨_, _, rfl⟩
      · exact ⟨_, _, rfl⟩
  · exact ⟨_, _, rfl⟩

/-- The state with the step of the start-up that the trainings of tiers H and M have reached. -/
def State.tierStage (s : State) : State :=
  if s.tierReady .h then { s with sb := s.sb.stage 5 }
  else if s.tierReady .m then { s with sb := s.sb.stage 2 } else s

theorem State.tierStage_frame (s : State) : ∃ b, s.tierStage = { s with sb := b } := by
  unfold State.tierStage
  split
  · exact ⟨_, rfl⟩
  · split
    · exact ⟨_, rfl⟩
    · exact ⟨_, rfl⟩

/-- What follows the end of a stop's training leaves the dies and the repair log. -/
theorem State.afterStop_frame (s : State) (c : StopClass) (d i : Nat) (good : Bool) :
    ∃ b r v p x l o, s.afterStop c d i good =
      { s with sb := b, route := r, rst := v, ports := p, sec := x, recs := l, pool := o } := by
  obtain ⟨b, hu⟩ := s.tierStage_frame
  unfold State.afterStop
  rw [← State.tierStage, hu]
  dsimp only
  split
  · cases good with
    | true =>
      obtain ⟨r, v, p, h⟩ := ({ s with sb := b } : State).restoreLinks_frame
      exact ⟨_, _, _, _, _, _, _, h⟩
    | false => exact ⟨_, _, _, _, _, _, _, rfl⟩
  · split
    · cases good with
      | true =>
        obtain ⟨x, y, h⟩ := ({ s with sb := b } : State).startCopy_frame
        exact ⟨_, _, _, _, _, _, _, h⟩
      | false =>
        cases s.sec.fwRunning with
        | true => exact ⟨_, _, _, _, _, _, _, rfl⟩
        | false => exact ⟨_, _, _, _, _, _, _, rfl⟩
    · exact ⟨_, _, _, _, _, _, _, rfl⟩

@[simp] theorem State.stop_afterStop (s : State) (c : StopClass) (d i : Nat) (good : Bool) (stop : StopId) :
    (s.afterStop c d i good).stop stop = s.stop stop := by
  obtain ⟨_, _, _, _, _, _, _, h⟩ := s.afterStop_frame c d i good
  rw [h]
  rfl

@[simp] theorem State.repairLog_afterStop (s : State) (c : StopClass) (d i : Nat) (good : Bool) :
    (s.afterStop c d i good).repairLog = s.repairLog := by
  obtain ⟨_, _, _, _, _, _, _, h⟩ := s.afterStop_frame c d i good
  rw [h]

section training
variable {stop : StopId} {s : State} (hst : (s.stop stop).st = .training)
include hst

theorem exec_stopReady_repaired (lanes rows : Nat) : ∃ t, exec (.stopReady stop lanes rows true) s = .next t ∧
    t.stop stop = { s.stop stop with
      st := .ready, enable := true, lanes := BitVec.ofNat 8 lanes, rows := BitVec.ofNat 8 rows, own0 := 0, own1 := 0
      own0Shadow := 0, own1Shadow := 0, queue := [] } ∧
    Tab.look (0, 0) t.repairLog (stopLogKey stop) = (lanes, rows) := by
  refine ⟨_, congrArg Host.Outcome.next (if_pos (by simp [hst])), ?_, ?_⟩
  · rw [State.stop_afterStop]
    exact State.stop_updStop ..
  · rw [State.repairLog_afterStop]
    exact Tab.look_put_same ..

theorem exec_stopReady_unrepaired (lanes rows : Nat) :
    ∃ t, exec (.stopReady stop lanes rows false) s = .next t ∧ (t.stop stop).st = .failed := by
  refine ⟨_, congrArg Host.Outcome.next (if_pos (by simp [hst])), ?_⟩
  rw [State.stop_afterStop]
  exact congrArg MemStop.st (State.stop_updStop ..)

theorem exec_stopTrainingTimeout_fails :
    ∃ t, exec (.stopTrainingTimeout stop) s = .next t ∧ (t.stop stop).st = .failed := by
  refine ⟨_, congrArg Host.Outcome.next (if_pos (by simp [hst])), ?_⟩
  rw [State.stop_afterStop]
  exact congrArg MemStop.st (State.stop_updStop ..)

end training

/-! ### Epochs (06 R216, R217) -/

section epoch
variable (s : State) (m : Bool) (r : Nat × Nat × Nat) (f : Region → Region)

theorem State.memsec_updRegion (e : Nat) : ((s.updRegion m r f).die e).memsec = (s.die e).memsec :=
  State.memsec_updMemStop ..

/-- A count of withdrawn regions leaves the regions. -/
theorem State.region_updDie_memsec (d : Nat) (g : Die → MemSec) :
    (s.updDie d fun x => { x with memsec := g x }).region m r = s.region m r := by
  unfold State.region
  by_cases hd : r.1 = d
  · rw [hd, State.die_updDie]
  · rw [State.die_updDie_ne _ _ _ hd]

variable {s m r}

/-- A region's advance, and the count of one that reaches its last epoch. -/
theorem State.advanceRegion_effect (hlive : (s.region m r).withdrawn = false) :
    (s.advanceRegion m r).region m r = { s.region m r with
      epoch := (s.region m r).epoch + 1, advance := false
      withdrawn := (s.region m r).epoch + 1 == 0xFFFFFFFF } ∧
    ((s.advanceRegion m r).die r.1).memsec.withdrawn =
      (if (s.region m r).epoch + 1 = 0xFFFFFFFF then satAdd (s.die r.1).memsec.withdrawn 1
       else (s.die r.1).memsec.withdrawn) := by
  unfold State.advanceRegion
  rw [if_neg (by simp [hlive])]
  by_cases hlast : (s.region m r).epoch + 1 = 0xFFFFFFFF
  · simp only [if_pos hlast]
    rw [State.region_updDie_memsec, State.region_updRegion, if_pos ⟨rfl, rfl⟩, State.die_updDie,
      State.memsec_updRegion]
    exact ⟨rfl, rfl⟩
  · simp only [if_neg hlast]
    rw [State.region_updRegion, if_pos ⟨rfl, rfl⟩, State.memsec_updRegion]
    exact ⟨rfl, rfl⟩

end epoch

theorem exec_epochAdvance_untouched {stop : StopId} {region : Nat} {s : State} (hcls : stop.cls ≠ .f)
    (hadvance : (s.region (stop.cls == .m) (stop.die, stop.idx, region)).advance = true)
    (hqueue : ∀ q ∈ (s.stop stop).queue, s.touches (stop.cls == .m) (stop.die, stop.idx, region) q = false) :
    exec (.epochAdvance stop region) s =
      .next (s.advanceRegion (stop.cls == .m) (stop.die, stop.idx, region)) := by
  have hnone : (s.stop stop).queue.any (s.touches (stop.cls == .m) (stop.die, stop.idx, region)) = false := by
    simpa using hqueue
  exact congrArg Host.Outcome.next (if_neg (by simp [hcls, hadvance, hnone]))

end Sys2Proof.Machine

open Sys2Proof Sys2Proof.Machine

/-- Settles O14, by what each command makes of its stop; the end of a training and an epoch's advance change more of the
state, whose stop and region are read off it. -/
theorem stopUpkeep : Obligations.StopUpkeep := by
  unfold Obligations.StopUpkeep
  intro stop s m
  refine ⟨exec_refresh_ready, fun addr n hst hscrub => exec_patrolScrub_corrected hst hscrub addr n,
    fun addr n hst hscrub huev => exec_patrolScrub_uncorrectable hst hscrub huev addr n, exec_train_starts,
    exec_train_ignored, fun lanes rows hst => exec_stopReady_repaired hst lanes rows,
    fun lanes rows hst => exec_stopReady_unrepaired hst lanes rows, exec_stopTrainingTimeout_fails,
    exec_timingUpkeep_drifting, fun v hcls hok harm => ⟨?_, ?_⟩, fun second v hcls hok harm => ?_, ?_⟩
  · rw [exec_stopOwnWrite hcls hok, harm]
    rfl
  · rw [exec_stopOwnWrite hcls hok, harm]
    rfl
  · rw [exec_stopOwnWrite hcls hok, harm]
    rfl
  · intro region h r hcls hadvance hlive hqueue
    exact ⟨_, exec_epochAdvance_untouched hcls hadvance hqueue, State.advanceRegion_effect hlive⟩

end

section
/-! PROOFS. Tier F (06 R210, R219; 07 R229, R234, R236; 14 R465 to R467): how MODEL_STORE ends, and how the front command
of a die's queue runs or waits for its hold-up check. -/

namespace Sys2Proof.Machine

/-! ### MODEL_STORE (07 R229, R234, R236) -/

section store
variable {s : State} {q : Fin 4096} {b img : List Byte}

/-- A STORE whose turn it is, with its image at hand, is decided by the checks of the image alone. -/
theorem exec_modelStore_checked (h : s.begins q 0x20 [(16, 32), (48, 8), (56, 8)] b) (haligned : al64 b 48 = true)
    (hstarted : (s.queue q).started = false) (hturn : s.hearthTurn q = true) (hdata : s.hasData q (field b 56 8))
    (himg : img = (s.queue q).buf.take (field b 56 8)) (hform : imageForm img = true)
    (hnew : s.model (descDigest b) = none) (hroom : s.models.length < 16384) :
    exec (.modelStore q) s = .next (if s.fFree < img.length then s.complete q .nomem
      else if imageCheck img (descDigest b) then (s.begin q).pushF true img.length q img
      else s.complete q .check) := by
  refine congrArg Host.Outcome.next ((State.descr_plain h (by simp [haligned])).trans ?_)
  dsimp only
  rw [if_neg (by simp [hstarted, hturn]), State.withData_has hdata, ← himg]
  cases imageCheck img (descDigest b) <;> simp [hform, hnew, Nat.not_le.2 hroom]

end store

/-! ### The front command of a die's queue (06 R210, R219; 14 R465) -/

theorem exec_fCommand {s : State} (hentry : s.inEntry = false) (die : Fin 8) (ue : Bool) :
    exec (.fCommand die ue) s = .next (s.fRun die ue) :=
  congrArg Host.Outcome.next (if_neg (by simp [hentry]))

/-- A new root leaves the dies, the library and the host's queues. -/
theorem State.newRoot_keeps (s : State) :
    s.newRoot.dies = s.dies ∧ s.newRoot.models = s.models ∧ s.newRoot.queues = s.queues := by
  unfold State.newRoot
  split
  · exact ⟨rfl, rfl, rfl⟩
  · exact ⟨rfl, rfl, rfl⟩

/-- A write of tier F ends well if its form is right. -/
theorem FCmd.status_write {c : FCmd} (hwrite : c.write = true) (hform : c.wellFormed = true) (sealed ue : Bool) :
    c.status sealed ue = .ok := by
  simp [FCmd.status, hwrite, hform]

/-- A write of tier F carried out: it has left the queue, with a new root chained, and its data stand in tier F. -/
def State.fWritten (s : State) (d : Nat) (c : FCmd) (rest : List FCmd) : State :=
  { (s.updDie d fun x => { x with fqueue := rest }).newRoot with tierF := s.tierF.write (4096 * c.sector) c.data }

theorem State.fWritten_effect (s : State) (d : Nat) (c : FCmd) (rest : List FCmd) :
    (s.fWritten d c rest).tierF = s.tierF.write (4096 * c.sector) c.data ∧
      ((s.fWritten d c rest).die d).fqueue = rest ∧ (s.fWritten d c rest).models = s.models ∧
      (s.fWritten d c rest).queues = s.queues := by
  obtain ⟨hdies, hmodels, hqueues⟩ := (s.updDie d fun x => { x with fqueue := rest }).newRoot_keeps
  have hdie : (s.fWritten d c rest).die d = (s.updDie d fun x => { x with fqueue := rest }).die d :=
    congrArg (fun x : Tab Die => Tab.look ({} : Die) x d) hdies
  rw [hdie, State.die_updDie]
  exact ⟨rfl, rfl, hmodels, hqueues⟩

section run
variable {s : State} {d : Nat} {c : FCmd} {rest : List FCmd} (hfront : (s.die d).fqueue = c :: rest)
  (hdefer : (s.die d).fdefer = false)
include hfront hdefer

/-- A write whose hold-up check fails waits and is counted. -/
theorem State.fRun_waits (hwrite : c.write = true) (hcommit : s.pwr.commitOk c.bytes c.channels = false) (ue : Bool) :
    s.fRun d ue = { s.updDie d fun x => { x with fdefer := true } with
      pwr := { s.pwr with defer := satAdd s.pwr.defer 1 } } := by
  simp [State.fRun, hfront, hdefer, hwrite, hcommit]

section write
variable (hwrite : c.write = true) (hcommit : s.pwr.commitOk c.bytes c.channels = true) (hform : c.wellFormed = true)
include hwrite hcommit hform

theorem State.fRun_writes (hq : c.q = none) (ue : Bool) : s.fRun d ue = s.fWritten d c rest := by
  simp [State.fRun, hfront, hdefer, hwrite, hcommit, hq, FCmd.status_write hwrite hform, State.fWritten]

theorem State.fRun_writes_for {q : Nat} (hq : c.q = some q) (ue : Bool) :
    s.fRun d ue = (s.fWritten d c rest).hearthEnd q .ok := by
  simp [State.fRun, hfront, hdefer, hwrite, hcommit, hq, FCmd.status_write hwrite hform, State.fWritten]

end write

theorem State.fRun_reads (hread : c.write = false) (hq : c.q = none) (ue : Bool) :
    s.fRun d ue = s.updDie d fun x => { x with fqueue := rest } := by
  simp [State.fRun, hfront, hdefer, hread, hq]

end run

/-- At the end of a STORE's write the model enters the library, and the result is the root. -/
theorem State.hearthEnd_store {s : State} {q : Nat} {a : Accepted} (hfront : (s.queue q).front = some a)
    (hop : a.op = 0x20) (hstarted : (s.queue q).started = true) (hfin : (s.queue q).fin = none)
    (hnew : s.model (descDigest a.bytes) = none) (st : Status) :
    s.hearthEnd q st = ({ s with models := s.models ++
      [{ digest := descDigest a.bytes, manifest := ((s.queue q).buf.take (field a.bytes 56 8)).take 4096
         body := ((s.queue q).buf.take (field a.bytes 56 8)).drop 4096 }] } : State).complete q .ok s.sec.fRoot := by
  have hbegun : (s.queue q).hearthBegun a = true := by simp [Queue.hearthBegun, hstarted, hop]
  simp [State.hearthEnd, hfront, hbegun, hfin, hop, hnew, State.rootResult]

/-! ### The check repeated (14 R465) -/

section recheck
variable {s : State} {die : Fin 8} {c : FCmd} {rest : List FCmd} (hfront : (s.die die).fqueue = c :: rest)
  (hdefer : (s.die die).fdefer = true)
include hfront hdefer

theorem exec_fCommitRecheck_passes (hcommit : s.pwr.commitOk c.bytes c.channels = true) :
    exec (.fCommitRecheck die) s = .next (s.updDie die fun x => { x with fdefer := false }) := by
  refine congrArg Host.Outcome.next ?_
  simp [hfront, hdefer, hcommit]

theorem exec_fCommitRecheck_waits (hcommit : s.pwr.commitOk c.bytes c.channels = false) :
    exec (.fCommitRecheck die) s = .next { s with pwr := { s.pwr with defer := satAdd s.pwr.defer 1 } } := by
  refine congrArg Host.Outcome.next ?_
  simp [hfront, hdefer, hcommit]

end recheck

end Sys2Proof.Machine

open Sys2Proof Sys2Proof.Machine

/-- Settles O23, by the checks of a STORE's image and the ways in which the front command of a queue runs. -/
theorem tierF : Obligations.TierF := by
  unfold Obligations.TierF
  intro s
  refine ⟨?_, fun die ue c rest hfront hentry hdefer => ⟨fun hwrite hcommit => ?_, fun hwrite hcommit hform => ?_,
    fun hread hq => ?_⟩, fun die c rest hfront hdefer => ⟨exec_fCommitRecheck_passes hfront hdefer,
    exec_fCommitRecheck_waits hfront hdefer⟩⟩
  · exact fun q b img => exec_modelStore_checked
  · rw [exec_fCommand hentry, State.fRun_waits hfront hdefer hwrite hcommit]
  · obtain ⟨htier, hqueue, hmodels, hqueues⟩ := s.fWritten_effect die c rest
    refine ⟨s.fWritten die c rest, htier, hqueue, hmodels, hqueues, fun hq => ?_,
      fun q a hq hdescr hop hstarted hfin hnew => ?_⟩
    · rw [exec_fCommand hentry, State.fRun_writes hfront hdefer hwrite hcommit hform hq]
    · have hsame : (s.fWritten die c rest).queue q = s.queue q :=
        congrArg (fun x : Tab Queue => Tab.look ({} : Queue) x q) hqueues
      have hnew' : (s.fWritten die c rest).model (descDigest a.bytes) = none := by
        rw [← hnew]
        unfold State.model
        rw [hmodels]
      rw [exec_fCommand hentry, State.fRun_writes_for hfront hdefer hwrite hcommit hform hq,
        State.hearthEnd_store (by rw [hsame, hdescr]) hop (by rw [hsame, hstarted]) (by rw [hsame, hfin]) hnew', hsame]
  · rw [exec_fCommand hentry, State.fRun_reads hfront hdefer hread hq]

end

section
/-! PROOFS. Objects of the host (07 R248, R249, R253 to R256; 08 R280; 12 R424): what an allocation makes of its
partition, and how each object descriptor ends once the common checks are passed. -/

namespace Sys2Proof.Machine

/-! ### Partitions of arenas (07 R245, R246) -/

section arenas
variable (s : State)

@[simp] theorem State.arena_updArena (k : Nat) (f : Arena → Arena) : (s.updArena k f).arena k = f (s.arena k) :=
  Tab.look_upd_same ..

theorem State.arena_updArena_ne {k c : Nat} (hc : c ≠ k) (f : Arena → Arena) : (s.updArena k f).arena c = s.arena c :=
  Tab.look_upd_ne _ hc

@[simp] theorem State.part_updPart (k p : Nat) (f : Part → Part) : (s.updPart k p f).part k p = f (s.part k p) := by
  unfold State.part State.updPart
  rw [State.arena_updArena, Tab.look_upd_same]

theorem State.arena_updPart_ne {k c : Nat} (hc : c ≠ k) (p : Nat) (f : Part → Part) :
    (s.updPart k p f).arena c = s.arena c :=
  s.arena_updArena_ne hc _

@[simp] theorem State.part_append (j kind : Nat) (body : List Byte) (k p : Nat) :
    (s.append j kind body).part k p = s.part k p := rfl

@[simp] theorem State.arena_append (j kind : Nat) (body : List Byte) (k : Nat) :
    (s.append j kind body).arena k = s.arena k := rfl

end arenas

/-! ### Allocation in a partition (07 R248) -/

/-- A partition after object record `o` took its index and its granules. -/
def Part.grant (x : Part) (i : Nat) (o : Obj) : Part :=
  { x with usedG := (List.range o.n).foldl (fun l j => insNat (o.base + j) l) x.usedG
           objs := Tab.put {} x.objs i o }

theorem Part.look_grant (x : Part) (i : Nat) (o : Obj) : Tab.look {} (x.grant i o).objs i = o := Tab.look_put_same ..

section alloc
variable {s : State} {ctx k vd tier p size : Nat}
  (hidx : lowestFree 0 (s.liveIdx ctx (arenaKey k vd tier) p) ≤ 2047)
include hidx

/-- With a free index and a run of free granules, the lowest of each is granted. -/
theorem State.alloc_granted {g : Nat} (hrun : lowestRun (s.part (arenaKey k vd tier) p).usedG
      (s.part (arenaKey k vd tier) p).g ((size + 0xFFFF) / 2 ^ 16) = some g) :
    s.alloc ctx k vd tier p size =
      (s.updPart (arenaKey k vd tier) p fun x => x.grant (lowestFree 0 (s.liveIdx ctx (arenaKey k vd tier) p))
          { live := true, base := g, n := (size + 0xFFFF) / 2 ^ 16, refs := 1, tier, vdie := vd, comp := k },
        ⟨.ok, handleOf ctx p (lowestFree 0 (s.liveIdx ctx (arenaKey k vd tier) p)),
          (s.part (arenaKey k vd tier) p).start * 2 ^ 16 + g * 2 ^ 16, (size + 0xFFFF) / 2 ^ 16 * 2 ^ 16⟩) := by
  unfold State.alloc
  dsimp only
  rw [if_neg (Nat.not_lt.2 hidx), hrun]
  rfl

theorem State.alloc_nomem (hrun : lowestRun (s.part (arenaKey k vd tier) p).usedG
      (s.part (arenaKey k vd tier) p).g ((size + 0xFFFF) / 2 ^ 16) = none) :
    s.alloc ctx k vd tier p size = (s, { st := .nomem }) := by
  unfold State.alloc
  dsimp only
  rw [if_neg (Nat.not_lt.2 hidx), hrun]

end alloc

/-- A host allocation outside a loop is recorded at once, and its descriptor ends as the allocation did. -/
theorem State.hostAlloc_eq {s t : State} {q k vd tier size : Nat} {r : AllocReply}
    (h : s.alloc (s.comp k).ctx k vd tier hostPart size = (t, r)) :
    s.hostAlloc false q k vd tier size =
      (t.append k 6 (hostopBody 0x30 r.st false false vd tier 0 r.handle r.voff r.size 0)).complete q r.st
        (BitVec.ofNat 256 (r.handle + 2 ^ 64 * r.voff + 2 ^ 128 * r.size)) := by
  unfold State.hostAlloc
  rw [h]
  rfl

/-! ### OBJ_ALLOC (07 R248, R249) -/

section objAlloc
variable {q : Fin 4096} {s : State} {b : List Byte} (h : s.begins q 0x30 [(16, 1), (17, 1), (24, 8)] b)
  (hvdie : field b 16 1 < field (s.comp (field b 12 2)).shape 6 1) (htier : field b 17 1 ≤ 1)
  (hpos : 1 ≤ field b 24 8) (hle : field b 24 8 ≤ 2 ^ 40) (hstarted : (s.queue q).started = false)
include h hvdie htier hpos hle hstarted

theorem exec_objAlloc_waits (hloop : s.looping (field b 12 2) = true) :
    exec (.objAlloc q) s = .next ((s.updComp (field b 12 2) fun m => { m with
      pend := m.pend ++ [.alloc q (field b 16 1) (field b 17 1) (field b 24 8)] }).updQueue q fun x =>
        { x with started := true }) := by
  refine congrArg Host.Outcome.next ((State.descr_begins h (by simpa [htier, hpos] using hle) rfl
    (by simp [hvdie])).trans ?_)
  simp [hstarted, hloop]

theorem exec_objAlloc_now (hloop : s.looping (field b 12 2) = false) (hroom : s.recRoom (field b 12 2) 128 = true) :
    exec (.objAlloc q) s =
      .next (s.hostAlloc false q (field b 12 2) (field b 16 1) (field b 17 1) (field b 24 8)) := by
  refine congrArg Host.Outcome.next ((State.descr_begins h (by simpa [htier, hpos] using hle) rfl
    (by simp [hvdie])).trans ?_)
  simp [hstarted, hloop, hroom]

end objAlloc

/-! ### Descriptors that name an object (07 R255) -/

section owned
variable {q : Fin 4096} {s : State} {b : List Byte} {a : Nat}
  (hown : hCtx (field b 16 4) = (s.queue q).ctx) (hfound : s.findObj (field b 16 4) = some a)
include hown hfound

/-- A descriptor whose object is the context's own and live, and whose form is right, has its effect. -/
theorem State.objDescr_owned {op : Nat} {used : List (Nat × Nat)} (h : s.begins q op ((16, 4) :: used) b)
    {fmt : List Byte → Bool} {f : State → Start → Nat → Nat → State} {fmtS : State → List Byte → Bool}
    (hform : fmt b = true) (hformS : fmtS s b = true) :
    s.objDescr q op used fmt f fmtS =
      f s { ctx := (s.queue q).ctx, comp := field b 12 2, b } a (field b 16 4) := by
  refine (State.descr_begins h hform (by simp [State.foreign, hown]) hformS).trans ?_
  simp [hfound, hown]

/-! ### OBJ_FREE (07 R249, R253, R256) -/

section objFree
variable (h : s.begins q 0x31 [(16, 4)] b) (hstarted : (s.queue q).started = false)
include h hstarted

theorem exec_objFree_freed (hfreed : (s.objAt a (field b 16 4)).freed = true) :
    exec (.objFree q) s = .next (s.complete q .state) := by
  refine congrArg Host.Outcome.next ((State.objDescr_owned hown hfound h rfl rfl).trans ?_)
  simp [hstarted, hfreed]

variable (hfreed : (s.objAt a (field b 16 4)).freed = false)
include hfreed

theorem exec_objFree_waits (hloop : s.looping (a / 32) = true) :
    exec (.objFree q) s = .next (((s.updObj a (field b 16 4) fun o => { o with freed := true }).updComp (a / 32) fun m =>
      { m with pend := m.pend ++ [.free (field b 16 4) (some q)] }).updQueue q fun x => { x with started := true }) := by
  refine congrArg Host.Outcome.next ((State.objDescr_owned hown hfound h rfl rfl).trans ?_)
  simp [hstarted, hfreed, hloop]

theorem exec_objFree_now (hloop : s.looping (a / 32) = false) (hroom : s.recRoom (a / 32) 128 = true) :
    exec (.objFree q) s = .next (s.freeNow false false (some q) a (field b 16 4)) := by
  refine congrArg Host.Outcome.next ((State.objDescr_owned hown hfound h rfl rfl).trans ?_)
  simp [hstarted, hfreed, hloop, hroom]

end objFree

/-! ### OBJ_MAP and OBJ_UNMAP (07 R255, R256) -/

theorem exec_objMap_counted (h : s.begins q 0x32 [(16, 4)] b) : exec (.objMap q) s =
    .next ((s.updObj a (field b 16 4) fun o => { o with refs := o.refs + 1, maps := o.maps + 1 }).complete q .ok
      (BitVec.ofNat 256 (Config.windowBase (field b 16 4) % 2 ^ 64))) :=
  congrArg Host.Outcome.next (State.objDescr_owned hown hfound h rfl rfl)

theorem exec_objUnmap_unmapped (h : s.begins q 0x33 [(16, 4)] b) (hmaps : (s.objAt a (field b 16 4)).maps = 0) :
    exec (.objUnmap q) s = .next (s.complete q .state) :=
  congrArg Host.Outcome.next ((State.objDescr_owned hown hfound h rfl rfl).trans (if_pos (by simp [hmaps])))

theorem exec_objUnmap_mapped (h : s.begins q 0x33 [(16, 4)] b) (hmaps : (s.objAt a (field b 16 4)).maps ≠ 0) :
    exec (.objUnmap q) s = .next (((s.updObj a (field b 16 4) fun o =>
      { o with refs := o.refs - 1, maps := o.maps - 1 }).dropIfDead a (field b 16 4) false).complete q .ok) :=
  congrArg Host.Outcome.next ((State.objDescr_owned hown hfound h rfl rfl).trans (if_neg (by simp [hmaps])))

end owned

/-! ### OBJ_COPY (07 R255, 12 R424) -/

/-- A copy to the host only appends its record before its bytes go out. -/
theorem State.copyEnd_reads (s : State) (q a h off len : Nat) (l : List Byte) (out : Nat) :
    ∃ u : State, s.copyEnd q a h off len true l out = u.sendOut q out l .ok (BitVec.ofNat 256 len) ∧
      u.tierH = s.tierH ∧ u.tierM = s.tierM ∧ u.arenas = s.arenas :=
  ⟨_, rfl, rfl, rfl, rfl⟩

/-- A copy from the host only appends its record before its bytes are written. -/
theorem State.copyEnd_writes (s : State) (q a h off len : Nat) (l : List Byte) (out : Nat) :
    ∃ u : State, s.copyEnd q a h off len false l out = (u.objWrite a h off l).complete q .ok (BitVec.ofNat 256 len) ∧
      u.tierH = s.tierH ∧ u.tierM = s.tierM ∧ u.arenas = s.arenas :=
  ⟨_, rfl, rfl, rfl, rfl⟩

/-- An OBJ_COPY that passes the checks of its form and of the object it names, DIR left open: the object is the
context's own, the alignments and the length are right, the range lies in the object, and its record has room. -/
structure State.ObjCopy (s : State) (q : Nat) (b : List Byte) (a : Nat) : Prop where
  begins : s.begins q 0x34 [(16, 4), (20, 1), (24, 8), (32, 8), (40, 8)] b
  own : hCtx (field b 16 4) = (s.queue q).ctx
  found : s.findObj (field b 16 4) = some a
  off_aligned : field b 24 8 % 64 = 0
  addr_aligned : field b 32 8 % 64 = 0
  len_aligned : field b 40 8 % 64 = 0
  len_pos : 64 ≤ field b 40 8
  len_le : field b 40 8 ≤ 2 ^ 40
  inside : field b 24 8 + field b 40 8 ≤ 2 ^ 16 * (s.objAt a (field b 16 4)).n
  room : s.looping (a / 32) = true ∨ s.recRoom (a / 32) 128 = true

section objCopy
variable {q : Fin 4096} {s : State} {b : List Byte} {a : Nat} (h : s.ObjCopy q b a)
include h

theorem State.ObjCopy.form (hdir : field b 20 1 ≤ 1) : (decide (field b 20 1 ≤ 1) && field b 24 8 % 64 == 0
    && al64 b 32 && field b 40 8 % 64 == 0 && decide (64 ≤ field b 40 8) && decide (field b 40 8 ≤ 2 ^ 40)) = true := by
  have hle := h.len_le
  simpa [hdir, al64, h.off_aligned, h.addr_aligned, h.len_aligned, h.len_pos] using hle

theorem exec_objCopy_reads (hdir : field b 20 1 = 1) : ∃ u : State, exec (.objCopy q) s =
      .next (u.sendOut q (field b 32 8) (s.objRead a (field b 16 4) (field b 24 8) (field b 40 8)) .ok
        (BitVec.ofNat 256 (field b 40 8))) ∧
    u.tierH = s.tierH ∧ u.tierM = s.tierM ∧ u.arenas = s.arenas := by
  obtain ⟨u, hend, hkept⟩ := s.copyEnd_reads q a (field b 16 4) (field b 24 8) (field b 40 8)
    (s.objRead a (field b 16 4) (field b 24 8) (field b 40 8)) (field b 32 8)
  refine ⟨u, congrArg Host.Outcome.next ((State.objDescr_owned h.own h.found h.begins
    (by exact h.form (by omega)) (by simpa [h.found] using h.inside)).trans (Eq.trans ?_ hend)), hkept⟩
  rcases h.room with hroom | hroom <;> simp [hroom, hdir]

theorem exec_objCopy_writes (hdir : field b 20 1 = 0) (hdata : s.hasData q (field b 40 8)) : ∃ u : State,
    exec (.objCopy q) s = .next ((u.objWrite a (field b 16 4) (field b 24 8)
      ((s.queue q).buf.take (field b 40 8))).complete q .ok (BitVec.ofNat 256 (field b 40 8))) ∧
    u.tierH = s.tierH ∧ u.tierM = s.tierM ∧ u.arenas = s.arenas := by
  obtain ⟨u, hend, hkept⟩ := s.copyEnd_writes q a (field b 16 4) (field b 24 8) (field b 40 8)
    ((s.queue q).buf.take (field b 40 8)) 0
  refine ⟨u, congrArg Host.Outcome.next ((State.objDescr_owned h.own h.found h.begins
    (by exact h.form (by omega)) (by simpa [h.found] using h.inside)).trans (Eq.trans ?_ hend)), hkept⟩
  rcases h.room with hroom | hroom <;> simp [hroom, hdir, hdata.1, State.withData_has hdata]

end objCopy

end Sys2Proof.Machine

open Sys2Proof Sys2Proof.Machine

/-- Settles O24, by the checks of each descriptor; an allocation's effect on its partition is `State.alloc_granted`. -/
theorem hostObjects : Obligations.HostObjects := by
  unfold Obligations.HostObjects
  intro q s b k h
  refine ⟨fun hbegins hvdie htier hpos hle hstarted =>
    ⟨exec_objAlloc_waits hbegins hvdie htier hpos hle hstarted, fun hloop hroom => ?_⟩,
    fun used op a hop hbegins hown hfound => ?_⟩
  · rw [exec_objAlloc_now hbegins hvdie htier hpos hle hstarted hloop hroom]
    refine ⟨fun g hidx hrun => ?_, fun hidx hrun => ?_⟩
    · rw [State.hostAlloc_eq (State.alloc_granted hidx hrun)]
      refine ⟨_, rfl, ?_, ?_, fun c hc => ?_⟩
      · rw [State.part_append, State.part_updPart]
        rfl
      · rw [State.part_append, State.part_updPart]
        exact Part.look_grant ..
      · rw [State.arena_append, State.arena_updPart_ne _ hc]
    · rw [State.hostAlloc_eq (State.alloc_nomem hidx hrun)]
      exact ⟨_, rfl, rfl⟩
  · rcases hop with ⟨rfl, rfl⟩ | ⟨rfl, rfl⟩ | ⟨rfl, rfl⟩ | ⟨rfl, rfl⟩
    case inl =>
      exact ⟨fun _ => exec_objFree_freed hown hfound hbegins, fun _ => exec_objFree_waits hown hfound hbegins,
        fun _ => exec_objFree_now hown hfound hbegins, nofun, nofun, nofun, nofun⟩
    case inr.inl =>
      exact ⟨nofun, nofun, nofun, fun _ => exec_objMap_counted hown hfound hbegins, nofun, nofun, nofun⟩
    case inr.inr.inl =>
      exact ⟨nofun, nofun, nofun, nofun, fun _ => exec_objUnmap_unmapped hown hfound hbegins,
        fun _ => exec_objUnmap_mapped hown hfound hbegins, nofun⟩
    case inr.inr.inr =>
      refine ⟨nofun, nofun, nofun, nofun, nofun, nofun, fun _ hoff haddr hlen hmin hmax hin hroom => ?_⟩
      have hcopy : s.ObjCopy q b a := ⟨hbegins, hown, hfound, hoff, haddr, hlen, hmin, hmax, hin, hroom⟩
      exact ⟨exec_objCopy_reads hcopy, exec_objCopy_writes hcopy⟩

end

section
/-! PROOFS. The allocator of the tile programs and the object window (07 R251 to R254, R259, R260; 08 Table 1; 11 R404):
requests on their way to steward 1, what its service answers, and accesses to mapped objects. -/

namespace Sys2Proof.Machine

/-! ### Requests at a cluster's ring (07 R251) -/

section arrival
variable {s : State} {d cl : Nat} {r : AllocReq}

theorem State.ringArrive_joins (hfew : (s.die d).unanswered r.core < 4) :
    s.ringArrive d cl r = s.updDie d fun x => { x with reqRings := Tab.upd [] x.reqRings cl (· ++ [r]) } :=
  if_pos hfew

theorem State.ringArrive_overrun {l : Nat} (hmany : 4 ≤ (s.die d).unanswered r.core)
    (hlane : (s.core r.core).lane = some l) :
    s.ringArrive d cl r = s.laneFault d l 6 1 .limit (corePloc r.core) 0 0 := by
  unfold State.ringArrive
  rw [if_neg (Nat.not_lt.2 hmany), hlane]

end arrival

@[simp] theorem State.die_laneFault (s : State) (d l unit code : Nat) (st : Status) (ploc info addr e : Nat) :
    (s.laneFault d l unit code st ploc info addr).die e = s.die e := by
  obtain ⟨q, g, h⟩ := s.laneFault_frame d l unit code st ploc info addr
  rw [h]
  rfl

/-! ### ALLOCATOR_SERVICE (07 R254, R259) -/

/-- The requests waiting for a lane of a die once its rings are sorted, in the order of service. -/
def State.laneRequests (s : State) (d l : Nat) : List AllocReq :=
  (Tab.look [] (s.die d).sortRings.laneQ l).mergeSort fun a b => decide (a.vcluster ≤ b.vcluster)

/-- What the service of a die's lane does, once the revoked flag of the lane's context is read. -/
theorem exec_allocatorService {die : Fin 8} {s : State} {k : Nat}
    (hcomp : s.laneComp die ((s.die die).frames % 8) = some k) :
    exec (.allocatorService die) s = .next (
      if (s.ctx (s.comp k).ctx).allocRevoked then (s.updDie die Die.sortRings).dropContext (s.comp k).ctx
      else ((s.laneRequests die ((s.die die).frames % 8)).take 4).foldl (fun x r => x.answerReq k r)
        ((s.updDie die Die.sortRings).updDie die fun x =>
          { x with laneQ := Tab.put [] x.laneQ ((s.die die).frames % 8)
                              ((s.laneRequests die ((s.die die).frames % 8)).drop 4) })) := by
  have hcomp' : (s.updDie die Die.sortRings).laneComp die ((s.die die).sortRings.frames % 8) = some k := hcomp
  refine congrArg Host.Outcome.next ?_
  dsimp only
  rw [State.die_updDie, hcomp']
  rfl

/-! ### The answer of an allocation (07 R252, R253) -/

/-- The reply is written to the scratch of the core that asked. -/
theorem State.answerReq_scratch {s t : State} {k : Nat} {r : AllocReq} {a : AllocReply} (h : s.serveReq k r = (t, a)) :
    ((s.answerReq k r).core r.core).scratch = (t.core r.core).scratch.write
      (r.raddr / 4 % 2 ^ 18 % 2 ^ 14 * 64) (payloadBytes (allocReply (payloadBytes r.req) a)) := by
  unfold State.answerReq
  rw [h]
  dsimp only
  rw [State.scratchWrite_clean rfl, State.core_setCore, Core.takeFlit_scratch]

/-- A well-formed allocation of a core with an allocator index is recorded and answered as its partition grants it. -/
theorem State.serveReq_alloc {s t : State} {k p : Nat} {r : AllocReq} {a : AllocReply}
    (hform : reqOk (payloadBytes r.req) = true) (hop : field (payloadBytes r.req) 0 1 = 1)
    (hindex : (s.comp k).allocIndex (s.core r.core).vd (s.core r.core).vc (s.core r.core).vk = some p)
    (halloc : s.alloc (s.comp k).ctx k (s.core r.core).vd (field (payloadBytes r.req) 1 1) p
      (field (payloadBytes r.req) 8 8) = (t, a)) :
    s.serveReq k r = (t.append k 6 (hostopBody 0x30 a.st false false (s.core r.core).vd
      (field (payloadBytes r.req) 1 1) 0 a.handle a.voff a.size 0), a) := by
  unfold State.serveReq
  simp only [hform, hop, hindex, halloc]
  rfl

/-! ### The object window (08 Table 1, 11 R404) -/

section window
variable {s : State} {off : Nat}

theorem exec_objRd_mapped {len : Nat} {e : Nat × Nat × Nat} (hobj : s.windowObj off len = some e)
    (hok : s.windowOk e = true) (tag : Nat) :
    exec (.objRd tag off len) s = .next (s.emit (.objData tag false (s.objRead e.1 e.2.1 e.2.2 len))) := by
  refine congrArg Host.Outcome.next ?_
  simp [State.winRead, hobj, hok]

theorem exec_objRd_unmapped {len : Nat} (hobj : s.windowObj off len = none) (tag : Nat) :
    exec (.objRd tag off len) s = .next (s.emit (.objData tag true [])) := by
  refine congrArg Host.Outcome.next ?_
  simp [State.winRead, hobj]

theorem exec_objWr_mapped {bytes : List Byte} {e : Nat × Nat × Nat} (hobj : s.windowObj off bytes.length = some e)
    (hok : s.windowOk e = true) : exec (.objWr off bytes) s = .next (s.objWrite e.1 e.2.1 e.2.2 bytes) := by
  refine congrArg Host.Outcome.next ?_
  simp [State.winWrite, hobj, hok]

theorem exec_objWr_unmapped {bytes : List Byte} (hobj : s.windowObj off bytes.length = none) :
    exec (.objWr off bytes) s = .next s := by
  refine congrArg Host.Outcome.next ?_
  simp [State.winWrite, hobj]

end window

end Sys2Proof.Machine

open Sys2Proof Sys2Proof.Machine

/-- Settles O25: a request's way from its ring to its reply, and the window's accesses by the object they meet. -/
theorem allocatorAndWindow : Obligations.AllocatorAndWindow := by
  unfold Obligations.AllocatorAndWindow
  intro s
  refine ⟨fun die cluster r => ⟨fun hfew => ⟨_, congrArg Host.Outcome.next (State.ringArrive_joins hfew), ?_⟩,
      fun l hmany hlane => ⟨_, congrArg Host.Outcome.next (State.ringArrive_overrun hmany hlane), ?_,
        State.laneFault_charged s die l 6 1 .limit _ _ _⟩⟩,
    fun die k => ?_, ?_, fun tag off len e hobj hok => exec_objRd_mapped hobj hok tag,
    fun tag off len hobj => exec_objRd_unmapped hobj tag, fun off bytes e => exec_objWr_mapped,
    fun off bytes => exec_objWr_unmapped⟩
  · dsimp only
    rw [State.die_updDie, Tab.look_upd_same]
  · dsimp only
    rw [State.die_laneFault]
  · dsimp only
    rw [State.die_updDie]
    refine fun hcomp => ⟨fun hliving => ?_, fun hrevoked => ?_⟩
    · rw [exec_allocatorService hcomp, if_neg (by simp [hliving])]
      rfl
    · rw [exec_allocatorService hcomp, if_pos hrevoked]
  · rintro k r hform hop _ rfl p hindex _ rfl _ _ rfl rfl _ rfl _ g rfl hidx hrun
    rw [State.answerReq_scratch (State.serveReq_alloc hform hop hindex (State.alloc_granted hidx hrun))]
    rfl

end

section
/-! PROOFS. Doorbells (08 R269, R274, R275, R286, R290; 09 R310): which messages are malformed, which reach the queue or
ring they name, and what a pointer does there by its bounds. -/

namespace Sys2Proof.Machine

@[simp] theorem State.out_emit (s : State) (o : Out) : (s.emit o).out = s.out ++ [o] := rfl

/-! ### Interrupts of an armed ring (08 R290) -/

section irq
variable {s : State} {r : Nat} (p : Bool)

theorem State.irqCheck_disarmed (h : (s.ring r).armed = none) : s.irqCheck r p = s := by
  simp [State.irqCheck, h]

theorem State.irqCheck_waits {a : BitVec 32} (h : (s.ring r).armed = some a) (htail : (s.ring r).tail = a) :
    s.irqCheck r p = s := by
  simp [State.irqCheck, h, htail]

theorem State.irqCheck_fires {a : BitVec 32} (h : (s.ring r).armed = some a) (htail : (s.ring r).tail ≠ a) :
    s.irqCheck r p = (s.updRing r fun x => { x with armed := none }).emit (.irq p (s.ring r).vector) := by
  simp [State.irqCheck, h, htail]

end irq

/-! ### The message of a doorbell (08 R274, R275) -/

section doorbell
variable {s : State} {c : Nat} {w : Word64}

theorem State.doorbell_malformed {zero : Bool} (h : zero = false ∨ bits w.toNat 1 0 = 3) :
    s.doorbell c w zero = s.badForm := by
  refine if_pos ?_
  rcases h with h | h <;> simp [h]

variable (hlow : bits w.toNat 15 14 = 0) (hhigh : bits w.toNat 63 48 = 0)
include hlow hhigh

theorem State.doorbell_foreign (hkind : bits w.toNat 1 0 = 0) (hlive : (s.queue (bits w.toNat 13 2)).st ≠ .free)
    (howner : (s.queue (bits w.toNat 13 2)).ctx ≠ c) : s.doorbell c w true = s.badOwner := by
  simp [State.doorbell, hlow, hhigh, hkind, hlive, howner]

variable (hopen : (s.ctx c).st ≠ .closed) (hclosing : (s.ctx c).closing = false)
include hopen hclosing

theorem State.doorbell_tail (hkind : bits w.toNat 1 0 = 0) (hlive : (s.queue (bits w.toNat 13 2)).st ≠ .free)
    (howner : (s.queue (bits w.toNat 13 2)).ctx = c) :
    s.doorbell c w true = s.tailBell (bits w.toNat 13 2) (BitVec.ofNat 32 (bits w.toNat 47 16)) := by
  simp [State.doorbell, State.closing, hlow, hhigh, hkind, hlive, howner, hopen, hclosing]

variable (hidx : bits w.toNat 13 2 ≤ 511) (hlive : (s.ring (bits w.toNat 13 2)).live = true)
  (howner : (s.ring (bits w.toNat 13 2)).ctx = c)
include hidx hlive howner

theorem State.doorbell_head (hkind : bits w.toNat 1 0 = 1) :
    s.doorbell c w true = s.headBell (bits w.toNat 13 2) (BitVec.ofNat 32 (bits w.toNat 47 16)) := by
  simp [State.doorbell, State.closing, hlow, hhigh, hkind, hidx, hlive, howner, hopen, hclosing]

theorem State.doorbell_arm (hkind : bits w.toNat 1 0 = 2) :
    s.doorbell c w true = s.armBell (bits w.toNat 13 2) (BitVec.ofNat 32 (bits w.toNat 47 16)) := by
  simp [State.doorbell, State.closing, hlow, hhigh, hkind, hidx, hlive, howner, hopen, hclosing]

end doorbell

/-! ### The pointer of a doorbell (08 R269, R286, R290) -/

section pointer
variable {s : State} {i : Nat} {p : BitVec 32}

theorem State.tailBell_moves (hsize : (p - (s.queue i).head).toNat ≤ 2 ^ (s.queue i).log2n)
    (hahead : (p - (s.queue i).tail).toNat ≤ (p - (s.queue i).head).toNat) :
    s.tailBell i p = s.updQueue i fun y => { y with tail := p } :=
  if_pos (by rw [decide_eq_true hsize, decide_eq_true hahead]; rfl)

theorem State.tailBell_discarded (h : 2 ^ (s.queue i).log2n < (p - (s.queue i).head).toNat ∨
    (p - (s.queue i).head).toNat < (p - (s.queue i).tail).toNat) : s.tailBell i p = s.badTail :=
  if_neg (by rw [Bool.and_eq_true, decide_eq_true_eq, decide_eq_true_eq]; omega)

theorem State.headBell_moves (h : ((s.ring i).tail - p).toNat ≤ ((s.ring i).tail - (s.ring i).head).toNat) :
    s.headBell i p = s.updRing i fun y => { y with head := p } :=
  if_pos h

theorem State.headBell_discarded (h : ((s.ring i).tail - (s.ring i).head).toNat < ((s.ring i).tail - p).toNat) :
    s.headBell i p = s.badTail :=
  if_neg (Nat.not_le.2 h)

theorem State.armBell_arms (h : (s.ring i).tail = p) :
    s.armBell i p = s.updRing i fun y => { y with armed := some p } :=
  State.irqCheck_waits _ (by rw [State.ring_updRing]) (by rw [State.ring_updRing]; exact h)

theorem State.armBell_interrupts (h : (s.ring i).tail ≠ p) :
    ((s.armBell i p).ring i).armed = none ∧ ∃ q, (s.armBell i p).out = s.out ++ [.irq q (s.ring i).vector] := by
  unfold State.armBell
  rw [State.irqCheck_fires _ (a := p) (by rw [State.ring_updRing]) (by rw [State.ring_updRing]; exact h)]
  refine ⟨?_, (s.carrier (s.ring i).port).getD (s.ring i).port, ?_⟩
  · rw [State.ring_emit, State.ring_updRing]
  · rw [State.out_emit, State.ring_updRing]
    rfl

end pointer

end Sys2Proof.Machine

open Sys2Proof Sys2Proof.Machine

/-- Settles O26: a well-formed doorbell of the owner's page reaches its queue or ring, whose bounds decide; the other
messages are counted. -/
theorem doorbells : Obligations.Doorbells := by
  unfold Obligations.Doorbells
  intro port ctx word s
  dsimp only
  refine fun hlow hhigh => ⟨fun zero h => congrArg Host.Outcome.next (State.doorbell_malformed h),
    fun hopen hclosing => ⟨fun hkind hlive howner => ?_, fun hkind hidx hlive howner => ?_,
      fun hkind hidx hlive howner => ?_⟩,
    fun hkind hlive howner => congrArg Host.Outcome.next (State.doorbell_foreign hlow hhigh hkind hlive howner)⟩
  · have hbell := State.doorbell_tail hlow hhigh hopen hclosing hkind hlive howner
    exact ⟨fun hsize hahead => congrArg Host.Outcome.next (hbell.trans (State.tailBell_moves hsize hahead)),
      fun hout => congrArg Host.Outcome.next (hbell.trans (State.tailBell_discarded hout))⟩
  · have hbell := State.doorbell_head hlow hhigh hopen hclosing hidx hlive howner hkind
    exact ⟨fun hin => congrArg Host.Outcome.next (hbell.trans (State.headBell_moves hin)),
      fun hout => congrArg Host.Outcome.next (hbell.trans (State.headBell_discarded hout))⟩
  · have hbell := State.doorbell_arm hlow hhigh hopen hclosing hidx hlive howner hkind
    refine ⟨fun heq => congrArg Host.Outcome.next (hbell.trans (State.armBell_arms heq)), fun hne => ?_⟩
    obtain ⟨hdisarmed, q, hirq⟩ := State.armBell_interrupts hne
    exact ⟨_, q, congrArg Host.Outcome.next hbell, hdisarmed, hirq⟩

end

section
/-! PROOFS. A step with a command waiting. -/

open Sys2Proof Sys2Proof.Machine

/-- Settles O1: with a command waiting, a step is that command on the rest of the queue. -/
theorem stepIsExec : Obligations.StepIsExec := by
  unfold Obligations.StepIsExec
  intro c rest s hpending
  unfold step
  rw [hpending]

end

section
/-! PROOFS. Tongs (08 R262 to R265, R270, R273, R282 to R284): the write of a record, the transaction a service slot
sends, the end of a read and the acceptance of a fetched descriptor. -/

namespace Sys2Proof.Machine

/-! ### Bytes counted for a context (09 Table 7) -/

section hostBytes
variable (s : State) (c n : Nat)

@[simp] theorem State.ring_hostBytes (i : Nat) : (s.hostBytes c n).ring i = s.ring i := rfl
@[simp] theorem State.queue_hostBytes (i : Nat) : (s.hostBytes c n).queue i = s.queue i := rfl
@[simp] theorem State.tongs_hostBytes (p : Bool) : (s.hostBytes c n).tongs p = s.tongs p := rfl
@[simp] theorem State.out_hostBytes : (s.hostBytes c n).out = s.out := rfl

end hostBytes

/-! ### Pending work of a context -/

section pushWork
variable (s : State) (p : Bool) (c : Nat) (w : Work)

@[simp] theorem State.queue_pushWork (i : Nat) : (s.pushWork p c w).queue i = s.queue i := State.queue_updTongs ..
@[simp] theorem State.ring_pushWork (i : Nat) : (s.pushWork p c w).ring i = s.ring i := State.ring_updTongs ..
@[simp] theorem State.out_pushWork : (s.pushWork p c w).out = s.out := State.updTongs_out ..

theorem State.work_pushWork : Tab.look [] ((s.pushWork p c w).tongs p).work c =
    Tab.look [] (s.tongs p).work c ++ [w] := by
  unfold State.pushWork
  rw [State.tongs_updTongs, Tab.look_upd_same]

end pushWork

/-! ### Records (08 R282, R283) -/

section record
variable {s : State} {r : Nat} (hdisarmed : (s.ring r).armed = none) (rcd : Payload) (p : Bool)
include hdisarmed

/-- Bytes 8 to 63 of a record are written first, then bytes 0 to 7, and TAIL advances. -/
theorem State.writeRecord_disarmed : s.writeRecord r rcd p =
    (((s.emit (.hostWrite p (s.ctx (s.ring r).ctx).pasid.toNat
        ((s.ring r).base.toNat + 64 * ((s.ring r).tail.toNat % (s.ring r).size) + 8) (((s.ring r).fill rcd).drop 8))).emit
      (.hostWrite p (s.ctx (s.ring r).ctx).pasid.toNat
        ((s.ring r).base.toNat + 64 * ((s.ring r).tail.toNat % (s.ring r).size)) (((s.ring r).fill rcd).take 8))).updRing r
      fun x => { x with tail := x.tail + 1, drops := 0 }).hostBytes (s.ring r).ctx 64 :=
  State.irqCheck_disarmed _ (by simp [hdisarmed])

variable {rcd} (hkind : field (payloadBytes rcd) 0 1 ≠ 1)
include hkind

/-- A record other than a completion that has a reservation uses it and is written; nothing else follows. -/
theorem State.recordOut_event :
    (s.recordOut r rcd true p).ring r =
      { s.ring r with resv := (s.ring r).resv - 1, tail := (s.ring r).tail + 1, drops := 0 } ∧
    (∀ i, (s.recordOut r rcd true p).tongs i = s.tongs i) ∧
    (s.recordOut r rcd true p).out = s.out ++
      [.hostWrite p (s.ctx (s.ring r).ctx).pasid.toNat
        ((s.ring r).base.toNat + 64 * ((s.ring r).tail.toNat % 2 ^ (s.ring r).log2n) + 8)
        (({ s.ring r with resv := (s.ring r).resv - 1 }.fill rcd).drop 8),
      .hostWrite p (s.ctx (s.ring r).ctx).pasid.toNat
        ((s.ring r).base.toNat + 64 * ((s.ring r).tail.toNat % 2 ^ (s.ring r).log2n))
        (({ s.ring r with resv := (s.ring r).resv - 1 }.fill rcd).take 8)] := by
  have hwritten := State.writeRecord_disarmed (s := s.updRing r fun x => { x with resv := x.resv - 1 }) (r := r)
    (by simpa using hdisarmed) rcd p
  have hout : s.recordOut r rcd true p = _ := (if_neg hkind).trans hwritten
  rw [hout]
  exact ⟨by simp, fun i => by simp, by simp [EvRing.size]⟩

end record

/-! ### The first transaction of a context (08 R265) -/

section work
variable {s : State} {t p : Bool} {c n : Nat}

/-- The work of a context in a Tongs is replaced. -/
def State.setWork (s : State) (t : Bool) (c : Nat) (l : List Work) : State :=
  s.updTongs t fun x => { x with work := Tab.put [] x.work c l }

section setWork
variable (s : State) (t : Bool) (c : Nat) (l : List Work)

theorem State.work_setWork : Tab.look [] ((s.setWork t c l).tongs t).work c = l := by
  unfold State.setWork
  rw [State.tongs_updTongs, Tab.look_put_same]

theorem State.slot_setWork : ((s.setWork t c l).tongs t).slot = (s.tongs t).slot := by
  unfold State.setWork
  rw [State.tongs_updTongs]

@[simp] theorem State.ring_setWork (i : Nat) : (s.setWork t c l).ring i = s.ring i := State.ring_updTongs ..
@[simp] theorem State.ctx_setWork (i : Nat) : (s.setWork t c l).ctx i = s.ctx i := State.ctx_updTongs ..
@[simp] theorem State.out_setWork : (s.setWork t c l).out = s.out := State.updTongs_out ..

end setWork

theorem State.workOut_none (h : Tab.look [] (s.tongs t).work c = []) : s.workOut t p c = none := by
  simp [State.workOut, h, State.nextWork]

theorem State.workOut_headwb {v : BitVec 32} {l : List Work} (h : Tab.look [] (s.tongs t).work c = .headwb n v :: l) :
    s.workOut t p c = some (((s.setWork t c l).hostBytes c 8).emit
      (.hostWrite p (s.ctx c).pasid.toNat (s.queue n).headwb.toNat (leBytes 8 v.toNat))) := by
  simp [State.workOut, h, State.nextWork, State.held, State.setWork]

theorem State.held_event {rcd : Payload} (hkind : field (payloadBytes rcd) 0 1 ≠ 1) (b : Bool) :
    s.held (.record n rcd b) = false := by
  simp [State.held, hkind]

theorem takeBatch_singleton {i : Nat} (h : i < 64) (m : Nat) (rcd : Payload) (b : Bool) :
    takeBatch n (m + 1) i [.record n rcd b] = ([(rcd, b)], []) := by
  cases m <;> simp [takeBatch, h]

theorem State.workOut_event {rcd : Payload} (hkind : field (payloadBytes rcd) 0 1 ≠ 1)
    (h : Tab.look [] (s.tongs t).work c = [.record n rcd true]) :
    s.workOut t p c = some ((s.setWork t c []).recordOut n rcd true p) := by
  simp [State.workOut, h, State.nextWork, State.held_event hkind, takeBatch_singleton (Nat.mod_lt _ (by decide : 64 > 0)),
    State.setWork]

end work

/-! ### Fetches (08 R265, R270) -/

section fetch
variable (s : State) (p : Bool) (c q : Nat)

/-- How many descriptors a fetch brings: at most 16 of those submitted, within the ring and one page. -/
def Queue.fetchCount (x : Queue) : Nat :=
  min (min 16 (x.tail - x.head).toNat)
    (min (2 ^ x.log2n - x.head.toNat % 2 ^ x.log2n) (64 - x.head.toNat % 2 ^ x.log2n % 64))

theorem State.fetch_reads : (s.fetch p c q).reads = s.reads ++
    [{ tag := s.nextTag, ctx := c, q := q, count := (s.queue q).fetchCount, len := 64 * (s.queue q).fetchCount,
       port := p }] := rfl

theorem State.fetch_out : (s.fetch p c q).out = s.out ++ [.hostRead p s.nextTag (s.ctx c).pasid.toNat
    ((s.queue q).base.toNat + 64 * ((s.queue q).head.toNat % 2 ^ (s.queue q).log2n)) (64 * (s.queue q).fetchCount)] := rfl

end fetch

/-! ### A service slot (08 R263 to R266) -/

/-- The context that the service slot at hand belongs to. -/
def State.slotCtx (s : State) (p : Bool) : Nat :=
  if (s.tongs p).slot.toNat < 16 then 0 else Tab.look 0 (s.tongs p).grants (s.tongs p).slot.toNat

/-- The service slot at hand is used up. -/
def State.nextSlot (s : State) (p : Bool) : State := s.updTongs p fun t => { t with slot := t.slot + 1 }

section slot
variable {s : State} {p : Bool}

@[simp] theorem State.ring_nextSlot (i : Nat) : (s.nextSlot p).ring i = s.ring i := State.ring_updTongs ..
@[simp] theorem State.ctx_nextSlot (i : Nat) : (s.nextSlot p).ctx i = s.ctx i := State.ctx_updTongs ..
@[simp] theorem State.queue_nextSlot (i : Nat) : (s.nextSlot p).queue i = s.queue i := State.queue_updTongs ..
@[simp] theorem State.out_nextSlot : (s.nextSlot p).out = s.out := State.updTongs_out ..
@[simp] theorem State.reads_nextSlot : (s.nextSlot p).reads = s.reads := State.updTongs_reads ..
@[simp] theorem State.nextTag_nextSlot : (s.nextSlot p).nextTag = s.nextTag := State.updTongs_nextTag ..

theorem State.tongs_nextSlot : (s.nextSlot p).tongs p = { s.tongs p with slot := (s.tongs p).slot + 1 } :=
  State.tongs_updTongs ..

@[simp] theorem State.portUp_updTongs (f : Tongs → Tongs) (i : Bool) : (s.updTongs p f).portUp i = s.portUp i := by
  simp [State.portUp]

theorem State.fetchable_updTongs (f : Tongs → Tongs) (i : Bool) (c : Nat) :
    (s.updTongs p f).fetchable i c = s.fetchable i c := by
  cases p <;> rfl

variable (hup : s.portUp p = true) (henable : s.hif.enable = true)
include hup henable

theorem State.serviceSlot_work {t : State} (h : (s.nextSlot p).workOut p p (s.slotCtx p) = some t) :
    s.serviceSlot p = t := by
  unfold State.nextSlot State.slotCtx at h
  unfold State.serviceSlot
  dsimp only
  rw [if_neg (by simp [hup, henable]), h]

theorem State.serviceSlot_fetch {q : Nat} (hother : s.portUp (!p) = true)
    (hidle : Tab.look [] (s.tongs p).work (s.slotCtx p) = []) (hq : s.fetchable p (s.slotCtx p) = some q) :
    s.serviceSlot p = (s.nextSlot p).fetch p (s.slotCtx p) q := by
  have hnone : (s.nextSlot p).workOut p p (s.slotCtx p) = none :=
    State.workOut_none (by rw [State.tongs_nextSlot]; exact hidle)
  have hfetch : (s.nextSlot p).fetchable p (s.slotCtx p) = some q := (State.fetchable_updTongs ..).trans hq
  unfold State.nextSlot State.slotCtx at hnone hfetch
  unfold State.serviceSlot
  dsimp only
  rw [if_neg (by simp [hup, henable]), hnone, if_pos (by simpa using hother)]
  dsimp only
  rw [hfetch]
  rfl

end slot

/-! ### The end of a read (08 R262, R270) -/

/-- The read with a tag is over. -/
def State.endRead (s : State) (tag : Nat) : State := { s with reads := s.reads.filter fun x => x.tag != tag }

@[simp] theorem State.queue_endRead (s : State) (tag i : Nat) : (s.endRead tag).queue i = s.queue i := rfl

/-- The queue of a read is live and still its context's, which is not being closed. -/
theorem State.read_wanted {s : State} {q c : Nat} (hlive : (s.queue q).st ≠ .free) (hctx : (s.queue q).ctx = c)
    (hclosing : (s.ctx c).closing = false) :
    ¬ ((s.queue q).st == .free || (s.queue q).ctx != c || s.closing c) = true := by
  simp [State.closing, hlive, hctx, hclosing]

section read
variable {s : State} {tag : Nat} {r : TRead} (hfind : s.reads.find? (fun x => x.tag == tag) = some r)
  (hlive : (s.queue r.q).st ≠ .free) (hctx : (s.queue r.q).ctx = r.ctx) (hclosing : (s.ctx r.ctx).closing = false)
include hfind hlive hctx hclosing

theorem State.dataIn_data (hcount : r.count = 0) (bytes : List Byte) : s.dataIn tag false bytes =
    ((s.endRead tag).hostBytes r.ctx r.len).updQueue r.q fun x => { x with buf := x.buf ++ slice bytes 0 r.len } := by
  unfold State.dataIn
  rw [hfind]
  exact (if_neg (State.read_wanted hlive hctx hclosing)).trans ((if_neg Bool.false_ne_true).trans (if_pos hcount))

theorem State.dataIn_failed (hcount : r.count = 0) (bytes : List Byte) : s.dataIn tag true bytes =
    (s.endRead tag).updQueue r.q fun x => { x with readFailed := true } := by
  unfold State.dataIn
  rw [hfind]
  exact (if_neg (State.read_wanted hlive hctx hclosing)).trans ((if_pos rfl).trans (if_pos hcount))

/-- Where descriptors that were fetched are accepted behind others, the new head is to be written back. -/
theorem State.dataIn_fetched (hcount : r.count ≠ 0) (hbusy : (s.queue r.q).acc ≠ []) (bytes : List Byte) {t : State}
    (haccept : ((s.endRead tag).hostBytes r.ctx r.len).accept r.q r.port (descsOf bytes r.count) = t)
    (hhead : (t.queue r.q).head ≠ (s.queue r.q).head) : s.dataIn tag false bytes =
      t.pushWork (t.ring (s.queue r.q).evring).port r.ctx (.headwb r.q (t.queue r.q).head) := by
  have hfront : ¬ (s.queue r.q).acc.isEmpty = true := by simpa using hbusy
  subst haccept
  unfold State.dataIn
  rw [hfind]
  exact (if_neg (State.read_wanted hlive hctx hclosing)).trans ((if_neg Bool.false_ne_true).trans ((if_neg hcount).trans
    ((if_neg hfront).trans (if_pos (bne_iff_ne.2 hhead)))))

end read

/-! ### Acceptance (08 R270, R284) -/

/-- The next descriptor accepted comes one later in the order of acceptance. -/
def State.countAccepted (s : State) : State := { s with nextAcc := s.nextAcc + 1 }

@[simp] theorem State.queue_countAccepted (s : State) (i : Nat) : s.countAccepted.queue i = s.queue i := rfl
@[simp] theorem State.ring_countAccepted (s : State) (i : Nat) : s.countAccepted.ring i = s.ring i := rfl

section accept
variable {s : State} {q : Nat} {d : Desc} (p : Bool)
  (hroom : 0 < (s.ring (s.queue q).evring).freeRecs) (href : s.refOf (s.queue q).ctx d = none)
include hroom href

/-- A descriptor that names no object is accepted with a reservation of its ring. -/
theorem State.accept_one : (s.accept q p [d]).queue q = { s.queue q with
      head := (s.queue q).head + 1
      acc := (s.queue q).acc ++ [{ pos := (s.queue q).head, d, port := p, seq := s.nextAcc, ref := none }] } ∧
    (s.accept q p [d]).ring (s.queue q).evring =
      { s.ring (s.queue q).evring with resv := (s.ring (s.queue q).evring).resv + 1 } := by
  have haccept : s.accept q p [d] =
      ((s.updRing (s.queue q).evring fun y => { y with resv := y.resv + 1 }).updQueue q fun x =>
        { x with
          head := x.head + 1
          acc := x.acc ++ [{ pos := x.head, d, port := p, seq := s.nextAcc, ref := none }] }).countAccepted := by
    simp [State.accept, href, Nat.pos_iff_ne_zero.1 hroom, State.countAccepted]
  rw [haccept]
  simp

end accept

end Sys2Proof.Machine

open Sys2Proof Sys2Proof.Machine

/-- Settles O27: a slot sends the first work of its context or, with none, a fetch; a read ends as its count says. -/
theorem tongsSlots : Obligations.TongsSlots := by
  unfold Obligations.TongsSlots
  intro port s
  dsimp only
  refine ⟨fun hup henable => ⟨fun n h l hwork => ?_, fun n rcd hwork hkind hdisarmed => ?_,
    fun q hidle hother hq => ?_⟩, fun tag r hfind hlive hctx hclosing => ⟨fun hcount bytes => ?_,
      fun hcount bytes u hu => ?_, fun hcount hroom hbusy bytes href => ?_⟩⟩
  · have hout := State.workOut_headwb (s := s.nextSlot port) (p := port) (c := s.slotCtx port)
      (by rw [State.tongs_nextSlot]; exact hwork)
    refine ⟨_, congrArg Host.Outcome.next (State.serviceSlot_work hup henable hout), ?_, ?_, ?_⟩
    · simp [State.slot_setWork, State.tongs_nextSlot]
    · rw [State.tongs_emit, State.tongs_hostBytes]
      exact State.work_setWork ..
    · simp
      rfl
  · have hout := State.workOut_event (s := s.nextSlot port) (p := port) (c := s.slotCtx port) hkind
      (by rw [State.tongs_nextSlot]; exact hwork)
    obtain ⟨hring, htongs, hwrites⟩ := State.recordOut_event
      (s := (s.nextSlot port).setWork port (s.slotCtx port) []) (r := n) (by simpa using hdisarmed) port hkind
    refine ⟨_, congrArg Host.Outcome.next (State.serviceSlot_work hup henable hout), ?_, ?_, ?_, ?_⟩
    · rw [htongs, State.slot_setWork, State.tongs_nextSlot]
    · rw [htongs]
      exact State.work_setWork ..
    · simpa using hring
    · simpa using hwrites
  · refine ⟨_, congrArg Host.Outcome.next (State.serviceSlot_fetch hup henable hother hidle hq), ?_, ?_⟩
    · rw [State.fetch_reads, State.reads_nextSlot, State.nextTag_nextSlot, State.queue_nextSlot]
      rfl
    · rw [State.fetch_out, State.out_nextSlot, State.nextTag_nextSlot, State.queue_nextSlot, State.ctx_nextSlot]
      rfl
  · exact ⟨_, congrArg Host.Outcome.next (State.dataIn_data hfind hlive hctx hclosing hcount bytes),
      State.queue_updQueue .., rfl⟩
  · subst hu
    exact ⟨congrArg Host.Outcome.next (State.dataIn_failed hfind hlive hctx hclosing hcount bytes),
      congrArg Host.Outcome.next (State.dataIn_failed hfind hlive hctx hclosing hcount [])⟩
  · have hdesc : descsOf bytes r.count = [bytesPayload (slice bytes 0 64)] := by rw [hcount]; rfl
    obtain ⟨hqueue, hring⟩ := State.accept_one (s := (s.endRead tag).hostBytes r.ctx r.len) (q := r.q)
      (d := bytesPayload (slice bytes 0 64)) r.port hroom (by rw [← hctx] at href; exact href)
    refine ⟨_, congrArg Host.Outcome.next (State.dataIn_fetched hfind hlive hctx hclosing (by omega) hbusy bytes
      (congrArg _ hdesc) ?_), ?_, ?_⟩
    · rw [hqueue]
      simp
    · rw [State.queue_pushWork, hqueue]
      rfl
    · rw [State.ring_pushWork]
      exact congrArg EvRing.resv hring

end

section
/-! PROOFS. Completion (08 R272, R276, R284, R291): how the front descriptor of a queue leaves it or waits for its record,
and how NOP and QUERY end. -/

namespace Sys2Proof.Machine

/-- What no step of a sequence changes is unchanged at its end. -/
theorem foldl_view {α β : Type} {view : State → β} {f : State → α → State} (h : ∀ u a, view (f u a) = view u)
    (l : List α) (s : State) : view (l.foldl f s) = view s := by
  induction l generalizing s with
  | nil => rfl
  | cons a l ih => rw [List.foldl_cons, ih, h]

/-! ### References to objects leave the queues alone (07 R255, R256) -/

section unref
variable (s : State)

theorem State.queues_returnG (k p : Nat) (gs : List Nat) : (s.returnG k p gs).queues = s.queues := by
  unfold State.returnG
  refine foldl_view (fun u i => ?_) _ _
  (repeat' split) <;> rfl

theorem State.queues_dropIfDead (k h : Nat) (b : Bool) : (s.dropIfDead k h b).queues = s.queues := by
  unfold State.dropIfDead
  dsimp only
  split
  · split
    · exact State.queues_returnG ..
    · rfl
  · rfl

theorem State.queues_unref (h : Nat) : (s.unref h).queues = s.queues := by
  unfold State.unref
  split
  · exact State.queues_dropIfDead ..
  · rfl

theorem State.queue_dropFront (q : Nat) : (s.dropFront q).queue q = (s.queue q).pop := by
  have hpop : (s.updQueue q Queue.pop).queue q = (s.queue q).pop := State.queue_updQueue ..
  unfold State.dropFront
  dsimp only
  split
  · rw [← hpop]
    exact congrArg (Tab.look {} · q) (State.queues_unref ..)
  · exact hpop

end unref

/-! ### The front descriptor completes (08 R272, R284) -/

theorem bit_zero (v : Nat) : bit v 0 = decide (bits v 0 0 = 1) := by
  simp [bit, bits, Nat.testBit_zero]

section complete
variable {s : State} {q : Nat} {a : Accepted} (hfront : (s.queue q).front = some a)
  (hopen : (s.ctx (s.queue q).ctx).closing = false) (result : BitVec 256)
include hfront hopen

/-- A QUIET descriptor that ends with OK gives its reservation back and leaves its queue. -/
theorem State.complete_quiet (hquiet : bits (field a.bytes 1 1) 0 0 = 1) : s.complete q .ok result =
    ((s.updRing (s.queue q).evring fun y => { y with resv := y.resv - 1 }).dropFront q).settle q := by
  have hfinish : s.finish q .ok result =
      (s.updRing (s.queue q).evring fun y => { y with resv := y.resv - 1 }).dropFront q := by
    simp [State.finish, hfront, State.closing, hopen, bit_zero, hquiet]
  unfold State.complete
  dsimp only
  rw [hfinish, State.queue_dropFront]
  exact if_pos rfl

/-- Another one that has nothing to write to the host stays at the front until its record is written. -/
theorem State.complete_recorded (hquiet : bits (field a.bytes 1 1) 0 0 = 0) (hout : (s.queue q).outBuf = []) :
    s.complete q .ok result =
      (s.updQueue q fun x => { x with fin := some (.ok, result) }).pushCompletion q a .ok result := by
  have hfinish : s.finish q .ok result =
      (s.updQueue q fun x => { x with fin := some (.ok, result) }).pushCompletion q a .ok result := by
    simp [State.finish, hfront, State.closing, hopen, bit_zero, hquiet, hout]
  unfold State.complete
  dsimp only
  rw [hfinish]
  exact if_neg (by simp [State.pushCompletion])

end complete

/-! ### NOP and QUERY (08 R291) -/

theorem exec_descriptorNop {q : Fin 4096} {s : State} {b : List Byte} (h : s.begins q 0x10 [] b) :
    exec (.descriptorNop q) s = .next (s.complete q .ok) :=
  congrArg Host.Outcome.next (State.descr_plain h rfl)

theorem exec_query {q : Fin 4096} {s : State} {b : List Byte} (h : s.begins q 0x11 [(16, 8), (24, 4)] b)
    (haddr : field b 16 8 % 64 = 0) (hlen : field b 24 4 % 16 = 0) (hmin : 16 ≤ field b 24 4) (hmax : field b 24 4 ≤ 4096) :
    exec (.query q) s = .next (s.sendOut q (field b 16 8) (s.capBytes.take (field b 24 4)) .ok
      (BitVec.ofNat 256 (s.capBytes.take (field b 24 4)).length)) :=
  congrArg Host.Outcome.next (State.descr_plain h (by simp [al64, haddr, hlen, hmin, hmax]))

end Sys2Proof.Machine

open Sys2Proof Sys2Proof.Machine

/-- Settles O28: a completed descriptor that is not QUIET puts its record among the work of its ring's Tongs, and QUERY is a
completion once its bytes are written. -/
theorem completion : Obligations.Completion := by
  unfold Obligations.Completion
  intro q s b a
  dsimp only
  rintro hfront rfl hopen
  refine ⟨fun hbegins => ⟨fun hloud hout => ?_, fun hquiet => ?_⟩, fun hbegins haddr hlen hmin hmax l hl => ?_⟩
  · have hcomplete := (exec_descriptorNop hbegins).trans
      (congrArg Host.Outcome.next (State.complete_recorded hfront hopen 0 hloud hout))
    unfold State.pushCompletion at hcomplete
    refine ⟨_, hcomplete, ?_, ?_, ?_⟩
    · rw [State.queue_pushWork, State.queue_updQueue]
    · simp only [State.ring_updQueue, State.queue_updQueue]
      rw [State.work_pushWork]
      rfl
    · exact State.out_pushWork ..
  · rw [exec_descriptorNop hbegins, State.complete_quiet hfront hopen 0 hquiet]
  · subst hl
    exact exec_query hbegins haddr hlen hmin hmax

end

section
/-! PROOFS. Contexts, queues and event rings (08 R264, R268, R281, R282, R285; 09 R298, R310): the index a descriptor names,
and how each descriptor that opens or closes one of them ends. -/

namespace Sys2Proof.Machine

/-! ### The index a descriptor names (08 R281) -/

/-- Index `i` is named by `n`, a number from `lo` to below `hi` that is `free`, or is the lowest free one, which 0xFFFF asks
for. -/
def NamedOrLowest (lo hi n i : Nat) (free : Nat → Bool) : Prop :=
  lo ≤ n ∧ n < hi ∧ free n = true ∧ i = n ∨ n = 0xFFFF ∧ lowestIn lo hi free = some i

section named
variable {lo hi n i : Nat} {free : Nat → Bool} (h : NamedOrLowest lo hi n i free)
include h

theorem NamedOrLowest.form : (n == 0xFFFF || (decide (lo ≤ n) && decide (n < hi))) = true := by
  rcases h with ⟨hlo, hhi, -, -⟩ | ⟨hall, -⟩
  · simp [hlo, hhi]
  · simp [hall]

variable (hhi : hi ≤ 0xFFFF)
include hhi

theorem NamedOrLowest.target : (if n = 0xFFFF then lowestIn lo hi free else some n) = some i := by
  rcases h with ⟨-, hlt, -, rfl⟩ | ⟨hall, hlow⟩
  · exact if_neg (by omega)
  · exact (if_pos hall).trans hlow

omit hhi in
theorem NamedOrLowest.not_taken : (n != 0xFFFF && !free n) = false := by
  rcases h with ⟨-, -, hfree, -⟩ | ⟨hall, -⟩
  · simp [hfree]
  · simp [hall]

end named

/-! ### CTX_OPEN (08 R264, R281; 09 R298) -/

/-- Context `i` is open with the PASID of descriptor `b`, the event slots `ev` and the service slots of the maps `g`. -/
def State.opened (s : State) (i : Nat) (b g : List Byte) : State :=
  (((s.updCtx i fun _ => { st := .opened, pasid := BitVec.ofNat 20 (field b 16 4), evslot := BitVec.ofNat 8 (field b 22 1) }
    ).grant false i (grantSlots g 0)).grant true i (grantSlots g 32)).grantEv i (field b 22 1)

theorem look_foldl_put {α : Type} [DecidableEq α] {d : α} (v : α) (l : List Nat) (t : Tab α) (j : Nat) :
    Tab.look d (l.foldl (fun t i => Tab.put d t i v) t) j = if j ∈ l then v else Tab.look d t j := by
  induction l generalizing t with
  | nil => rfl
  | cons i l ih =>
    rw [List.foldl_cons, ih, Tab.look_put]
    by_cases hl : j ∈ l
    · simp [hl]
    · by_cases hi : i = j
      · simp [hi]
      · simp [hl, hi, Ne.symm hi]

section opened
variable (s : State)

@[simp] theorem State.ctx_grant (p : Bool) (c : Nat) (l : List Nat) (j : Nat) : (s.grant p c l).ctx j = s.ctx j :=
  State.ctx_updTongs ..

theorem State.grants_grant (p : Bool) (c : Nat) (l : List Nat) (j : Nat) :
    Tab.look 0 ((s.grant p c l).tongs p).grants j = if j ∈ l then c else Tab.look 0 (s.tongs p).grants j := by
  unfold State.grant
  rw [State.tongs_updTongs]
  exact look_foldl_put ..

theorem State.tongs_grant_ne {p t : Bool} (h : t ≠ p) (c : Nat) (l : List Nat) : (s.grant p c l).tongs t = s.tongs t :=
  State.tongs_updTongs_ne _ _ _ _ h

@[simp] theorem State.ctx_grantEv (c ev j : Nat) : (s.grantEv c ev).ctx j = s.ctx j := by
  refine foldl_view (view := fun u : State => u.ctx j) (fun u i => ?_) _ _
  split
  · exact State.ctx_updTongs ..
  · rfl

@[simp] theorem State.grants_grantEv (c ev : Nat) (p : Bool) : ((s.grantEv c ev).tongs p).grants = (s.tongs p).grants := by
  refine foldl_view (view := fun u : State => (u.tongs p).grants) (fun u i => ?_) _ _
  split
  · by_cases hp : p = decide (4 ≤ i)
    · subst hp
      rw [State.tongs_updTongs]
    · rw [State.tongs_updTongs_ne _ _ _ _ hp]
  · rfl

variable (i : Nat) (b g : List Byte)

theorem State.ctx_opened : (s.opened i b g).ctx i =
    { st := .opened, pasid := BitVec.ofNat 20 (field b 16 4), evslot := BitVec.ofNat 8 (field b 22 1) } := by
  simp [State.opened]

theorem State.ctx_opened_ne {j : Nat} (h : j ≠ i) : (s.opened i b g).ctx j = s.ctx j := by
  simp [State.opened, State.ctx_updCtx_ne _ _ _ h]

theorem State.grants0_opened (j : Nat) : Tab.look 0 ((s.opened i b g).tongs false).grants j =
    if j ∈ grantSlots g 0 then i else Tab.look 0 (s.tongs false).grants j := by
  unfold State.opened
  rw [State.grants_grantEv, State.tongs_grant_ne _ (by decide), State.grants_grant, State.tongs_updCtx]

theorem State.grants8_opened (j : Nat) : Tab.look 0 ((s.opened i b g).tongs true).grants j =
    if j ∈ grantSlots g 32 then i else Tab.look 0 (s.tongs true).grants j := by
  unfold State.opened
  rw [State.grants_grantEv, State.grants_grant, State.tongs_grant_ne _ (by decide), State.tongs_updCtx]

end opened

section descriptors
variable {q : Fin 4096} {s : State} {b : List Byte} {i : Nat}

theorem exec_ctxOpen_opens (h : s.begins q 0x01 [(16, 4), (20, 2), (22, 1), (24, 8)] b) (hpasid : field b 16 4 < 2 ^ 20)
    (haddr : field b 24 8 % 64 = 0) (hdata : s.hasData q 64) {g : List Byte} (hg : g = (s.queue q).buf.take 64)
    (hlow0 : field g 0 2 = 0) (hlow8 : field g 32 2 = 0) (htenancy : s.sec.tenancy ≠ 0)
    (hheld : s.grantHeld g (field b 22 1) = false)
    (hi : NamedOrLowest 1 1024 (field b 20 2) i fun i => (s.ctx i).st == .closed) :
    exec (.ctxOpen q) s = .next ((s.opened i b g).complete q .ok (BitVec.ofNat 256 i)) := by
  subst hg
  have hform := hi.form
  have hfree : (field b 20 2 != 0xFFFF && (s.ctx (field b 20 2)).st != .closed) = false := hi.not_taken
  have htarget : s.openTarget (field b 20 2) = some i := hi.target (by decide)
  refine congrArg Host.Outcome.next ((State.descr_plain h ?_).trans ((State.withData_has hdata _ _).trans ?_))
  · simpa [al64, haddr, hform] using hpasid
  · simp [State.ctxOpen, hlow0, hlow8, htenancy, hheld, hfree, htarget, State.opened]

/-! ### CLOSE (09 R310) -/

section close
variable (h : s.begins q 0x02 [(16, 2)] b) (hc : field b 16 2 < 1024) (hstarted : (s.queue q).started = false)
include h hc hstarted

theorem exec_close_accepted (hne : field b 16 2 ≠ 0) (hst : (s.ctx (field b 16 2)).st ≠ .closed)
    (hclosing : (s.ctx (field b 16 2)).closing = false) : exec (.close q) s =
      .next ((s.closeAccept (field b 16 2)).updQueue q fun x => { x with started := true }) := by
  refine congrArg Host.Outcome.next ((State.descr_plain h (decide_eq_true hc)).trans ?_)
  simp [hstarted, hne, hst, State.closing, hclosing]

theorem exec_close_refused (hbarred : field b 16 2 = 0 ∨ (s.ctx (field b 16 2)).st = .closed) :
    exec (.close q) s = .next (s.complete q .state) := by
  refine congrArg Host.Outcome.next ((State.descr_plain h (decide_eq_true hc)).trans ?_)
  rcases hbarred with hbarred | hbarred <;> simp [hstarted, hbarred]

end close

/-! ### QUEUE_CREATE and QUEUE_DESTROY (08 R268, R281) -/

theorem State.targetBad_eq_false {c : Nat} (hclosed : (s.ctx c).st ≠ .closed) (hlost : (s.ctx c).st ≠ .lost) :
    s.targetBad c = false := by
  simp [State.targetBad, hclosed, hlost]

/-- The queue that QUEUE_CREATE makes. -/
def createdQueue (b : List Byte) : Queue :=
  { st := .live, ctx := field b 16 2, log2n := field b 20 1, port := field b 21 1 == 1, evring := field b 22 2,
    base := BitVec.ofNat 64 (field b 24 8), headwb := BitVec.ofNat 64 (field b 32 8) }

theorem exec_queueCreate_created (h : s.begins q 0x03 [(16, 2), (18, 2), (20, 1), (21, 1), (22, 2), (24, 8), (32, 8)] b)
    (hc : field b 16 2 < 1024) (hmin : 4 ≤ field b 20 1) (hmax : field b 20 1 ≤ 16) (hport : field b 21 1 ≤ 1)
    (hbase : field b 24 8 % 4096 = 0) (hwb : field b 32 8 % 8 = 0) (hring : (s.ring (field b 22 2)).live = true)
    (howner : (s.ring (field b 22 2)).ctx = field b 16 2) (hclosed : (s.ctx (field b 16 2)).st ≠ .closed)
    (hlost : (s.ctx (field b 16 2)).st ≠ .lost)
    (hi : NamedOrLowest 1 4096 (field b 18 2) i fun i => (s.queue i).st == .free) :
    exec (.queueCreate q) s =
      .next ((s.updQueue i fun _ => createdQueue b).complete q .ok (BitVec.ofNat 256 i)) := by
  have hform := hi.form
  have hfree : (field b 18 2 != 0xFFFF && (s.queue (field b 18 2)).st != .free) = false := hi.not_taken
  refine congrArg Host.Outcome.next ((State.descr_begins h ?_ ?_ rfl).trans ?_)
  · simp [hc, hform, hmin, hmax, hport, hbase, hwb]
  · simp [howner]
  · simp [State.targetBad_eq_false hclosed hlost, hring, hfree, hi.target (by decide), createdQueue]

section queueDestroy
variable (h : s.begins q 0x04 [(16, 2)] b) (hmin : 1 ≤ field b 16 2) (hmax : field b 16 2 < 4096)
include h hmin hmax

theorem exec_queueDestroy_destroyed (hst : (s.queue (field b 16 2)).st ≠ .free)
    (htail : (s.queue (field b 16 2)).tail = (s.queue (field b 16 2)).head) (hacc : (s.queue (field b 16 2)).acc = []) :
    exec (.queueDestroy q) s =
      .next (({ s with queues := s.queues.filter fun e => e.1 != field b 16 2 } : State).complete q .ok) := by
  refine congrArg Host.Outcome.next ((State.descr_plain h (by simp [hmin, hmax])).trans ?_)
  simp [hst, htail, hacc]

theorem exec_queueDestroy_refused (hbarred : (s.queue (field b 16 2)).st = .free ∨ (s.queue (field b 16 2)).acc ≠ []) :
    exec (.queueDestroy q) s = .next (s.complete q .state) := by
  refine congrArg Host.Outcome.next ((State.descr_plain h (by simp [hmin, hmax])).trans ?_)
  rcases hbarred with hbarred | hbarred <;> simp [hbarred]

end queueDestroy

/-! ### EVRING_CREATE and EVRING_DESTROY (08 R281, R282, R285) -/

/-- The event ring that EVRING_CREATE makes: a fault ring keeps one record reserved. -/
def createdRing (b : List Byte) : EvRing :=
  { live := true, ctx := field b 16 2, log2n := field b 20 1, port := bit (field b 21 1) 0, faults := bit (field b 21 1) 1,
    vector := field b 22 2, base := BitVec.ofNat 64 (field b 24 8), resv := b2n (bit (field b 21 1) 1) }

theorem exec_evringCreate_created (h : s.begins q 0x05 [(16, 2), (18, 2), (20, 1), (21, 1), (22, 2), (24, 8)] b)
    (hc : field b 16 2 < 1024) (hmin : 6 ≤ field b 20 1) (hmax : field b 20 1 ≤ 16) (hflags : field b 21 1 ≤ 3)
    (hvector : field b 22 2 < 2048) (hbase : field b 24 8 % 4096 = 0) (hclosed : (s.ctx (field b 16 2)).st ≠ .closed)
    (hlost : (s.ctx (field b 16 2)).st ≠ .lost)
    (hfaults : bit (field b 21 1) 1 = true → s.faultRing (field b 16 2) = none)
    (hi : NamedOrLowest 1 512 (field b 18 2) i fun i => !(s.ring i).live) :
    exec (.evringCreate q) s =
      .next ((s.updRing i fun _ => createdRing b).complete q .ok (BitVec.ofNat 256 i)) := by
  have hform := hi.form
  have hfree : (field b 18 2 != 0xFFFF && (s.ring (field b 18 2)).live) = false := by simpa using hi.not_taken
  have hfault : (bit (field b 21 1) 1 && (s.faultRing (field b 16 2)).isSome) = false := by
    cases hbit : bit (field b 21 1) 1
    · rfl
    · simp [hfaults hbit]
  refine congrArg Host.Outcome.next ((State.descr_plain h ?_).trans ?_)
  · simp [hc, hform, hmin, hmax, hflags, hvector, hbase]
  · simp [State.targetBad_eq_false hclosed hlost, hfree, hfault, hi.target (by decide), createdRing]

section evringDestroy
variable (h : s.begins q 0x06 [(16, 2)] b) (hmin : 1 ≤ field b 16 2) (hmax : field b 16 2 < 512)
include h hmin hmax

theorem exec_evringDestroy_destroyed (hlive : (s.ring (field b 16 2)).live = true)
    (hunnamed : s.ringNamed (field b 16 2) = false) : exec (.evringDestroy q) s =
      .next (({ s with rings := s.rings.filter fun e => e.1 != field b 16 2 } : State).complete q .ok) := by
  refine congrArg Host.Outcome.next ((State.descr_plain h (by simp [hmin, hmax])).trans ?_)
  simp [hlive, hunnamed]

theorem exec_evringDestroy_refused (hbarred : (s.ring (field b 16 2)).live = false ∨ s.ringNamed (field b 16 2) = true) :
    exec (.evringDestroy q) s = .next (s.complete q .state) := by
  refine congrArg Host.Outcome.next ((State.descr_plain h (by simp [hmin, hmax])).trans ?_)
  rcases hbarred with hbarred | hbarred <;> simp [hbarred]

end evringDestroy

end descriptors

/-! ### CLOSE_COMPLETE (09 R310) -/

theorem State.ctx_closeFree (s : State) (c : Nat) :
    ((s.closeFree c).ctx c).st = .closed ∧ ((s.closeFree c).ctx c).closing = false := by
  unfold State.closeFree
  dsimp only
  rw [State.ctx_updCtx]
  exact ⟨rfl, rfl⟩

section closeComplete
variable {ctx : Fin 1024} {s : State} (hclosing : (s.ctx ctx).closing = true) (hrevoked : (s.ctx ctx).revoked = true)
  (hhearth : s.hearthRuns ctx = false)
include hclosing hrevoked hhearth

theorem exec_closeComplete_completes {a : Accepted} (hfront : (((s.account ctx).closeFree ctx).queue 0).front = some a)
    (hop : a.op = 0x02) (hctx : field a.bytes 16 2 = ctx) (hfin : (((s.account ctx).closeFree ctx).queue 0).fin = none) :
    exec (.closeComplete ctx) s = .next (((s.account ctx).closeFree ctx).complete 0 .ok) := by
  refine congrArg Host.Outcome.next ((if_pos (by simp [State.closing, hclosing, hrevoked, hhearth])).trans ?_)
  simp [hfront, hop, hctx, hfin]

theorem exec_closeComplete_alone (hfront : (((s.account ctx).closeFree ctx).queue 0).front = none) :
    exec (.closeComplete ctx) s = .next ((s.account ctx).closeFree ctx) := by
  refine congrArg Host.Outcome.next ((if_pos (by simp [State.closing, hclosing, hrevoked, hhearth])).trans ?_)
  simp [hfront]

end closeComplete

end Sys2Proof.Machine

open Sys2Proof Sys2Proof.Machine

/-- Settles O29, by the checks of each descriptor; what CTX_OPEN makes of the contexts and slots is `State.opened`. -/
theorem contextsAndRings : Obligations.ContextsAndRings := by
  unfold Obligations.ContextsAndRings
  intro q s b
  refine ⟨fun hbegins hpasid haddr hdata g hg hlow0 hlow8 htenancy hheld i hi => ?_, fun hbegins hc hstarted => ?_,
    fun ctx a hclosing hrevoked hhearth => ?_, fun hbegins hc hmin hmax hport hbase hwb hring howner hclosed hlost i hi => ?_,
    fun hbegins hmin hmax => ?_, fun hbegins hc hmin hmax hflags hvector hbase hclosed hlost hfaults i hi => ?_,
    fun hbegins hmin hmax => ?_⟩
  · refine ⟨_, exec_ctxOpen_opens hbegins hpasid haddr hdata hg hlow0 hlow8 htenancy hheld ?_, State.ctx_opened ..,
      fun j hj => State.ctx_opened_ne _ _ _ _ hj, State.grants0_opened _ _ _ _, State.grants8_opened _ _ _ _⟩
    simpa only [NamedOrLowest, beq_iff_eq] using hi
  · exact ⟨exec_close_accepted hbegins hc hstarted, exec_close_refused hbegins hc hstarted⟩
  · obtain ⟨hst, hopen⟩ := State.ctx_closeFree (s.account ctx) ctx
    exact ⟨_, hst, hopen, rfl, exec_closeComplete_completes hclosing hrevoked hhearth,
      exec_closeComplete_alone hclosing hrevoked hhearth⟩
  · exact exec_queueCreate_created hbegins hc hmin hmax hport hbase hwb hring howner hclosed hlost
      (by simpa only [NamedOrLowest, beq_iff_eq] using hi)
  · exact ⟨exec_queueDestroy_destroyed hbegins hmin hmax, exec_queueDestroy_refused hbegins hmin hmax⟩
  · exact exec_evringCreate_created hbegins hc hmin hmax hflags hvector hbase hclosed hlost hfaults
      (by simpa only [NamedOrLowest, Bool.not_eq_true'] using hi)
  · exact ⟨exec_evringDestroy_destroyed hbegins hmin hmax, exec_evringDestroy_refused hbegins hmin hmax⟩

end

section
/-! PROOFS. Fences (09 R312 to R320): how each of the five descriptors ends. -/

namespace Sys2Proof.Machine

section fences
variable {q : Fin 4096} {s : State} {b : List Byte}

/-! ### FENCE_CREATE (09 R312) -/

/-- The fence that FENCE_CREATE makes for context `c`. -/
def createdFence (c : Nat) (b : List Byte) : Fence :=
  { st := .live, owner := c, share := bit (field b 18 1) 0, value := BitVec.ofNat 64 (field b 24 8),
    nring := field b 20 2, wb := BitVec.ofNat 64 (field b 32 8) }

theorem exec_fenceCreate_created (h : s.begins q 0x50 [(16, 2), (18, 1), (20, 2), (24, 8), (32, 8)] b)
    (hshare : field b 18 1 ≤ 1) (hwb : field b 32 8 % 8 = 0)
    (hring : field b 20 2 = 0xFFFF ∨ (s.ring (field b 20 2)).live = true ∧ (s.ring (field b 20 2)).ctx = (s.queue q).ctx)
    {i : Nat} (hi : field b 16 2 ≠ 0xFFFF ∧ (s.fence (field b 16 2)).st = .free ∧ i = field b 16 2 ∨
      field b 16 2 = 0xFFFF ∧ lowestIn 0 65536 (fun i => (s.fence i).st == .free) = some i) :
    exec (.fenceCreate q) s =
      .next ((s.updFence i fun _ => createdFence (s.queue q).ctx b).complete q .ok (BitVec.ofNat 256 i)) := by
  have hforeign : (field b 20 2 != 0xFFFF && (s.ring (field b 20 2)).live &&
      (s.ring (field b 20 2)).ctx != (s.queue q).ctx) = false := by
    rcases hring with hnone | ⟨-, howner⟩
    · simp [hnone]
    · simp [howner]
  have hdead : (field b 20 2 != 0xFFFF && !(s.ring (field b 20 2)).live) = false := by
    rcases hring with hnone | ⟨hlive, -⟩
    · simp [hnone]
    · simp [hlive]
  refine congrArg Host.Outcome.next ((State.descr_begins h (by simp [hshare, hwb]) hforeign rfl).trans ?_)
  rcases hi with ⟨hnamed, hfree, rfl⟩ | ⟨hall, hlow⟩
  · simp [hdead, hnamed, hfree, createdFence]
  · simp [hdead, hall, hlow, createdFence]

/-! ### FENCE_ATTACH (09 R315) -/

section attach
variable (h : s.begins q 0x51 [(16, 2), (18, 2)] b) (hlive : (s.fence (field b 16 2)).st = .live)
  (hshare : (s.fence (field b 16 2)).share = true)
include h hlive hshare

theorem exec_fenceAttach_attached (hfrom : (s.fence (field b 16 2)).owner = field b 18 2)
    (howner : (s.fence (field b 16 2)).owner ≠ (s.queue q).ctx)
    (hnew : (s.queue q).ctx ∉ (s.fence (field b 16 2)).attached) : exec (.fenceAttach q) s =
      .next ((s.updFence (field b 16 2) fun f => { f with attached := insNat (s.queue q).ctx f.attached }).complete q .ok) := by
  refine congrArg Host.Outcome.next ((State.descr_begins h rfl (by simp [hshare]) rfl).trans (if_neg ?_))
  simpa [hlive, hfrom, hnew] using hfrom ▸ howner

omit hlive in
theorem exec_fenceAttach_refused (hbarred : (s.fence (field b 16 2)).owner = (s.queue q).ctx ∨
    (s.queue q).ctx ∈ (s.fence (field b 16 2)).attached) : exec (.fenceAttach q) s = .next (s.complete q .state) := by
  refine congrArg Host.Outcome.next ((State.descr_begins h rfl (by simp [hshare]) rfl).trans (if_pos ?_))
  rcases hbarred with hbarred | hbarred <;> simp [hbarred]

end attach

/-! ### FENCE_DETACH (09 R315, R318, R320) -/

section detach
variable (h : s.begins q 0x52 [(16, 2)] b) (hst : (s.fence (field b 16 2)).st ≠ .free)
include h hst

theorem exec_fenceDetach_attached (hatt : (s.queue q).ctx ∈ (s.fence (field b 16 2)).attached) :
    exec (.fenceDetach q) s = .next (((s.updFence (field b 16 2) fun f =>
      { f with attached := f.attached.filter (· != (s.queue q).ctx) }).freeFence (field b 16 2)).complete q .ok) := by
  refine congrArg Host.Outcome.next ((State.descr_plain h rfl).trans ((if_neg ?_).trans (if_pos ?_)))
  · simpa using hst
  · simpa using hatt

theorem exec_fenceDetach_owner (hatt : (s.queue q).ctx ∉ (s.fence (field b 16 2)).attached)
    (howner : (s.fence (field b 16 2)).owner = (s.queue q).ctx) : exec (.fenceDetach q) s =
      .next ((((if (s.fence (field b 16 2)).attached = [] then s else s.poison (field b 16 2)).updFence (field b 16 2)
        fun f => { f with ownerGone := true }).freeFence (field b 16 2)).complete q .ok) := by
  refine congrArg Host.Outcome.next ((State.descr_plain h rfl).trans ?_)
  simp [hst, hatt, howner]

end detach

/-! ### FENCE_SIGNAL (09 R313, R314, R317) -/

theorem State.raiseFence_raised {n : Nat} {v : Word64} (hring : (s.fence n).nring = 0xFFFF) (hwb : (s.fence n).wb = 0)
    (hpos : 0 < (v - (s.fence n).value).toNat) (hahead : (v - (s.fence n).value).toNat < 2 ^ 63) (p : Bool) (c : Nat) :
    s.raiseFence n v p c = s.updFence n fun f => { f with value := v } := by
  unfold State.raiseFence
  dsimp only
  rw [if_neg hpos.ne', if_pos hahead, if_pos hwb, if_pos hring]

theorem State.raiseFence_low {n : Nat} {v : Word64} (hbehind : 2 ^ 63 ≤ (v - (s.fence n).value).toNat) (p : Bool) (c : Nat) :
    s.raiseFence n v p c = s.updCtx c fun x => { x with lowsig := satAdd x.lowsig 1 } := by
  unfold State.raiseFence
  dsimp only
  rw [if_neg (by omega), if_neg (by omega)]

section signal
variable (h : s.begins q 0x53 [(16, 2), (24, 8)] b) (howner : (s.fence (field b 16 2)).owner = (s.queue q).ctx)
include h howner

/-- A signal of a LIVE fence completes with the fence's value. -/
theorem exec_fenceSignal_live {t : State} (hlive : (s.fence (field b 16 2)).st = .live)
    (hraise : ∀ p, s.raiseFence (field b 16 2) (BitVec.ofNat 64 (field b 24 8)) p (s.queue q).ctx = t) :
    exec (.fenceSignal q) s = .next ((t.complete q .ok
      (BitVec.ofNat 256 (t.fence (field b 16 2)).value.toNat)).afterSignal (field b 16 2)) := by
  refine congrArg Host.Outcome.next ((State.descr_begins h rfl (by simp [hlive, howner]) rfl).trans ((if_neg ?_).trans ?_))
  · simp [hlive]
  · dsimp only
    rw [hraise]

theorem exec_fenceSignal_poisoned (hst : (s.fence (field b 16 2)).st = .poisoned) :
    exec (.fenceSignal q) s = .next (s.complete q .fence) := by
  refine congrArg Host.Outcome.next ((State.descr_begins h rfl (by simp [hst, howner]) rfl).trans (if_pos ?_))
  simp [hst]

end signal

/-! ### FENCE_WAIT (09 R313, R315, R316) -/

section wait
variable (h : s.begins q 0x54 [(16, 2), (24, 8)] b)
  (hmay : (s.fence (field b 16 2)).owner = (s.queue q).ctx ∨ (s.queue q).ctx ∈ (s.fence (field b 16 2)).attached)
  (hstarted : (s.queue q).started = false)
include h hmay hstarted

/-- A wait on a fence that is not free: POISONED ends it, the value decides it, and else it parks its queue. -/
theorem exec_fenceWait (hst : (s.fence (field b 16 2)).st ≠ .free) : exec (.fenceWait q) s =
    .next (if (s.fence (field b 16 2)).st = .poisoned then s.complete q .fence
      else if ((s.fence (field b 16 2)).value - BitVec.ofNat 64 (field b 24 8)).toNat < 2 ^ 63 then s.complete q .ok
      else s.updQueue q fun x => { x with started := true }) := by
  refine congrArg Host.Outcome.next ((State.descr_begins h rfl ?_ rfl).trans ?_)
  · rcases hmay with hmay | hmay <;> simp [hst, hmay]
  · simp [hstarted, reached]

end wait

end fences

end Sys2Proof.Machine

open Sys2Proof Sys2Proof.Machine

/-- Settles O30, by the checks of each descriptor; `State.raiseFence` says what a signal does to a LIVE fence. -/
theorem fences : Obligations.Fences := by
  unfold Obligations.Fences
  intro q s b
  refine ⟨fun hbegins hshare hwb hring i hi => exec_fenceCreate_created hbegins hshare hwb hring hi,
    fun hbegins hlive hshare => ⟨exec_fenceAttach_attached hbegins hlive hshare, exec_fenceAttach_refused hbegins hshare⟩,
    fun hbegins hst => ⟨fun hatt _ => exec_fenceDetach_attached hbegins hst hatt, exec_fenceDetach_owner hbegins hst⟩,
    fun hbegins howner => ⟨fun hlive hring hwb hpos hahead => ?_, fun hlive hbehind => ?_,
      exec_fenceSignal_poisoned hbegins howner⟩,
    fun hbegins hmay hstarted => ⟨fun hlive hreached => ?_, fun hlive hunreached => ?_, fun hpoisoned => ?_⟩⟩
  · rw [exec_fenceSignal_live hbegins howner hlive (State.raiseFence_raised hring hwb hpos hahead · _),
      State.fence_updFence]
  · exact exec_fenceSignal_live hbegins howner hlive (State.raiseFence_low hbehind · _)
  · rw [exec_fenceWait hbegins hmay hstarted (by simp [hlive]), if_neg (by simp [hlive]), if_pos hreached]
  · rw [exec_fenceWait hbegins hmay hstarted (by simp [hlive]), if_neg (by simp [hlive]), if_neg (Nat.not_lt.2 hunreached)]
  · rw [exec_fenceWait hbegins hmay hstarted (by simp [hpoisoned]), if_pos hpoisoned]

end

section
/-! PROOFS. Faults of a context (09 R301, R304, R307): the window after the earliest of them, the one of the window that
is recorded, and what the recording does to the contexts. -/

/-! ### The fault a window's record describes (09 R307) -/

namespace Sys2Proof

/-- A fault is not after another in the order of 09 R307: unit, then die, then PLOC. -/
def FaultMsg.notAfter (m x : FaultMsg) : Prop :=
  m.unit < x.unit ∨ m.unit = x.unit ∧ (m.die < x.die ∨ m.die = x.die ∧ m.ploc ≤ x.ploc)

theorem FaultMsg.notAfter_refl (m : FaultMsg) : m.notAfter m := by
  simp [FaultMsg.notAfter]

theorem FaultMsg.notAfter_trans {a b c : FaultMsg} (hab : a.notAfter b) (hbc : b.notAfter c) : a.notAfter c := by
  unfold FaultMsg.notAfter at *
  omega

end Sys2Proof

namespace Sys2Proof.Machine

theorem worst_eq_or (a b : FaultMsg) : worst a b = a ∨ worst a b = b := by
  unfold worst
  split
  · exact .inr rfl
  · exact .inl rfl

theorem worst_notAfter (a b : FaultMsg) : (worst a b).notAfter a ∧ (worst a b).notAfter b := by
  unfold worst FaultMsg.notAfter
  split <;> omega

theorem foldl_worst_mem (l : List FaultMsg) (f : FaultMsg) : l.foldl worst f ∈ f :: l := by
  induction l generalizing f with
  | nil => exact List.mem_singleton_self f
  | cons x l ih =>
    rw [List.foldl_cons]
    rcases List.mem_cons.1 (ih (worst f x)) with heq | hmem
    · rw [heq]
      rcases worst_eq_or f x with h | h <;> simp [h]
    · exact List.mem_cons_of_mem _ (List.mem_cons_of_mem _ hmem)

theorem foldl_worst_notAfter (l : List FaultMsg) (f : FaultMsg) : ∀ x ∈ f :: l, (l.foldl worst f).notAfter x := by
  induction l generalizing f with
  | nil => exact List.forall_mem_singleton.2 f.notAfter_refl
  | cons y l ih =>
    obtain ⟨hpick, hrest⟩ := List.forall_mem_cons.1 (ih (worst f y))
    obtain ⟨hf, hy⟩ := worst_notAfter f y
    exact List.forall_mem_cons.2 ⟨FaultMsg.notAfter_trans hpick hf,
      List.forall_mem_cons.2 ⟨FaultMsg.notAfter_trans hpick hy, hrest⟩⟩

/-! ### The window (09 R307) -/

/-- The stamp of the earliest of some faults. -/
def earliest : List FaultMsg → Nat
  | [] => 0
  | m :: l => l.foldl (fun t x => min t x.stamp) m.stamp

/-- The faults that arrived within the window `w` after the earliest. -/
def inWindow (w : Nat) (l : List FaultMsg) : List FaultMsg := l.filter fun x => decide (x.stamp ≤ earliest l + w)

/-- The earliest stamp is one of the stamps, and none is below it. -/
theorem earliest_spec {l : List FaultMsg} (h : l ≠ []) :
    earliest l ∈ l.map FaultMsg.stamp ∧ ∀ x ∈ l, earliest l ≤ x.stamp := by
  obtain ⟨m, l, rfl⟩ := List.exists_cons_of_ne_nil h
  have hmin : ((m :: l).map FaultMsg.stamp).min? = some (earliest (m :: l)) := by
    rw [List.map_cons, List.min?_cons', List.foldl_map]
    rfl
  obtain ⟨hmem, hle⟩ := List.min?_eq_some_iff.1 hmin
  exact ⟨hmem, List.forall_mem_map.1 hle⟩

theorem mem_inWindow {w : Nat} {l : List FaultMsg} {m : FaultMsg} :
    m ∈ inWindow w l ↔ m ∈ l ∧ ∀ x ∈ l, m.stamp ≤ x.stamp + w := by
  simp only [inWindow, List.mem_filter, decide_eq_true_eq]
  refine and_congr_right fun hm => ?_
  obtain ⟨hmem, hle⟩ := earliest_spec (List.ne_nil_of_mem hm)
  obtain ⟨e, he, hstamp⟩ := List.mem_map.1 hmem
  exact ⟨fun h x hx => h.trans (Nat.add_le_add_right (hle x hx) w), fun h => hstamp ▸ h e he⟩

theorem inWindow_ne_nil {w : Nat} {l : List FaultMsg} (h : l ≠ []) : inWindow w l ≠ [] := by
  obtain ⟨hmem, hle⟩ := earliest_spec h
  obtain ⟨e, he, hstamp⟩ := List.mem_map.1 hmem
  refine List.ne_nil_of_mem (mem_inWindow.2 ⟨he, fun x hx => ?_⟩)
  have hx := hle x hx
  omega

/-! ### FAULT_RECORDING (09 R301, R304) -/

/-- The faults of a context that have reached the X0 agents. -/
def State.faultsOf (s : State) (c : Nat) : List FaultMsg := s.faultQ.filter fun m => m.ctx == c

/-- The faults of a context go to the fault log, and are counted. -/
def State.takeFaults (s : State) (c : Nat) : State :=
  ({ s with faultQ := s.faultQ.filter fun m => m.ctx != c, faultLog := s.faultLog ++ s.faultsOf c } : State).updCtx c
    fun x => { x with fCount := satAdd x.fCount (s.faultsOf c).length }

theorem State.fCount_takeFaults (s : State) (c : Nat) :
    ((s.takeFaults c).ctx c).fCount = satAdd (s.ctx c).fCount (s.faultsOf c).length := by
  unfold State.takeFaults
  rw [State.ctx_updCtx]
  rfl

theorem State.alive_takeFaults (s : State) (c : Nat) : (s.takeFaults c).alive c = s.alive c := by
  unfold State.takeFaults State.alive
  rw [State.ctx_updCtx]
  rfl

theorem State.ctx_takeFaults_ne (s : State) {c i : Nat} (h : i ≠ c) : (s.takeFaults c).ctx i = s.ctx i :=
  State.ctx_updCtx_ne _ _ _ h

section recording
variable {ctx : Fin 1024} {w : Nat} {s : State}

theorem exec_faultRecording_none (h : s.faultsOf ctx = []) : exec (.faultRecording ctx w) s = .next s := by
  unfold State.faultsOf at h
  refine congrArg Host.Outcome.next ?_
  rw [h]

variable (hne : s.faultsOf ctx ≠ [])
include hne

/-- The faults of a context that is not closed are taken; in one that is alive, and not context 0, the worst of the window
is recorded. -/
theorem exec_faultRecording_open (hclosed : (s.ctx ctx).st ≠ .closed) :
    ∃ f l, inWindow w (s.faultsOf ctx) = f :: l ∧ exec (.faultRecording ctx w) s =
      .next (if s.alive ctx && ctx.val != 0 then (s.takeFaults ctx).recordFault ctx (l.foldl worst f) (!l.isEmpty)
        else s.takeFaults ctx) := by
  obtain ⟨f, l, hwindow⟩ := List.exists_cons_of_ne_nil (inWindow_ne_nil (w := w) hne)
  obtain ⟨m, rest, hmine⟩ := List.exists_cons_of_ne_nil hne
  refine ⟨f, l, hwindow, congrArg Host.Outcome.next ?_⟩
  rw [← State.alive_takeFaults]
  unfold State.takeFaults
  rw [hmine] at hwindow ⊢
  unfold State.faultsOf at hmine
  unfold inWindow earliest at hwindow
  rw [hmine]
  dsimp only
  rw [hwindow]
  exact if_neg fun h => hclosed (beq_iff_eq.1 h)

theorem exec_faultRecording_lost (hlost : (s.ctx ctx).st = .lost) :
    exec (.faultRecording ctx w) s = .next (s.takeFaults ctx) := by
  obtain ⟨f, l, -, hexec⟩ := exec_faultRecording_open (w := w) hne (by simp [hlost])
  simpa [State.alive, hlost] using hexec

/-- In a context that is alive a fault of the window is recorded that is not after any other of the window. -/
theorem exec_faultRecording_alive (halive : s.alive ctx = true) (hzero : ctx.val ≠ 0) :
    ∃ m more, m ∈ inWindow w (s.faultsOf ctx) ∧ (∀ x ∈ inWindow w (s.faultsOf ctx), m.notAfter x) ∧
      exec (.faultRecording ctx w) s = .next ((s.takeFaults ctx).recordFault ctx m more) := by
  have hclosed : (s.ctx ctx).st ≠ .closed := by
    intro h
    simp [State.alive, h] at halive
  obtain ⟨f, l, hwindow, hexec⟩ := exec_faultRecording_open (w := w) hne hclosed
  refine ⟨l.foldl worst f, !l.isEmpty, hwindow ▸ foldl_worst_mem l f, hwindow ▸ foldl_worst_notAfter l f, ?_⟩
  simpa [halive, hzero] using hexec

end recording

end Sys2Proof.Machine

open Sys2Proof Sys2Proof.Machine

/-- Settles O32: the faults are taken and counted, and in a context that is alive the first of the window, in the order
of 09 R307, is recorded. -/
theorem faultRecording : Obligations.FaultRecording := by
  unfold Obligations.FaultRecording
  intro ctx w s
  dsimp only
  refine ⟨exec_faultRecording_none, exec_faultRecording_lost, fun hne halive hzero => ?_⟩
  obtain ⟨m, more, hmem, hfirst, hexec⟩ := exec_faultRecording_alive (w := w) hne halive hzero
  obtain ⟨hmine, hwindow⟩ := mem_inWindow.1 hmem
  obtain ⟨hst, hvalid, hunit, hcode, hstatus, hcount, hothers⟩ := (s.takeFaults ctx).recordFault_ctx ctx m more
  exact ⟨_, hexec, hst, hvalid, hcount.trans (State.fCount_takeFaults ..),
    fun i hi => (hothers i hi).trans (State.ctx_takeFaults_ne _ hi),
    m, hmine, hwindow, hunit, hcode, hstatus, fun x hx hin => hfirst x (mem_inWindow.2 ⟨hx, hin⟩)⟩

end

section
/-! PROOFS. What a pool member does with an entry (10 R352, R353, R356, Table 10; 15 R506; 17 R536): the laws of a
session's record, when an entry on an owned session is refused, and what each entry makes of the session. -/

namespace Sys2Proof.Machine

/-! ### A session's record -/

section session
variable (s : State)

@[simp] theorem State.session_updSession (sid : Word64) (f : Session → Session) :
    (s.updSession sid f).session sid = f (s.session sid) := Tab.look_upd_same ..

/-- A session's change rests on what it makes of the session as it is. -/
theorem State.updSession_congr {s : State} {sid : Word64} {f g : Session → Session}
    (h : f (s.session sid) = g (s.session sid)) : s.updSession sid f = s.updSession sid g := by
  unfold State.updSession Tab.upd
  rw [show f (Tab.look {} s.pool.sessions sid.toNat) = g (Tab.look {} s.pool.sessions sid.toNat) from h]

@[simp] theorem State.pool_sendGeneral (dest : Nat) (g : GenMsg) : (s.sendGeneral dest g).pool = s.pool := by
  unfold State.sendGeneral
  split <;> rfl

@[simp] theorem State.session_sendGeneral (dest : Nat) (g : GenMsg) (sid : Word64) :
    (s.sendGeneral dest g).session sid = s.session sid := by
  unfold State.session
  rw [State.pool_sendGeneral]

end session

/-! ### A module that serves as a member, and a session that is gone -/

section asMember
variable {s : State} {att : Nat} {sid : Word64}

theorem State.asMember_idle (h : s.member = false) (f : State → State) : s.asMember att sid f = s :=
  if_pos (by simp [h])

theorem State.asMember_gone (h : s.member = true) (hgone : s.goneSid sid = true) (f : State → State) :
    s.asMember att sid f = s.sendGeneral att (.gone s.devId) :=
  (if_neg (by simp [h])).trans (if_pos hgone)

theorem State.asMember_serves (h : s.member = true) (hgone : s.goneSid sid = false) (f : State → State) :
    s.asMember att sid f = f s :=
  (if_neg (by simp [h])).trans (if_neg (by simp [hgone]))

end asMember

/-! ### CREATE (10 R356) -/

section create
variable {s : State} {sid : Word64} {mgen : BitVec 32} {bytes : List Byte}

/-- The discarded SIDs no longer hold a session that is made anew (15 R506). -/
def State.readmit (s : State) (sid : Word64) : State :=
  { s with pool := { s.pool with discarded := s.pool.discarded.filter (· != sid.toNat) } }

@[simp] theorem State.session_readmit (s : State) (sid : Word64) : (s.readmit sid).session sid = s.session sid := rfl

theorem State.not_mem_discarded_readmit (s : State) (sid : Word64) : sid.toNat ∉ (s.readmit sid).pool.discarded := by
  simp [State.readmit]

theorem State.memCreate_made (hgen : (s.session sid).mgen.toNat ≤ mgen.toNat)
    (hown : (s.session sid).own = .none ∨ ∃ e, (s.session sid).own = .dropped e)
    (hspace : s.poolSpace bytes.length = true) :
    s.memCreate sid mgen bytes = (s.updSession sid fun _ => { mgen, own := .own 1, bytes }, 0) := by
  unfold State.memCreate
  rcases hown with hown | ⟨e, hown⟩ <;> simp [Nat.not_lt.2 hgen, hown, hspace]

theorem State.memCreate_held (hown : (∃ e, (s.session sid).own = .own e) ∨ ∃ e a, (s.session sid).own = .prep e a) :
    (s.memCreate sid mgen bytes).2 ≠ 0 := by
  unfold State.memCreate
  rcases hown with ⟨e, hown⟩ | ⟨e, a, hown⟩ <;> simp only [hown] <;> split <;> simp

variable (hmember : s.member = true) (att : Nat)
include hmember

theorem exec_create_made (hgen : (s.session sid).mgen.toNat ≤ mgen.toNat)
    (hown : (s.session sid).own = .none ∨ ∃ e, (s.session sid).own = .dropped e)
    (hspace : s.poolSpace bytes.length = true) : exec (.create att sid mgen bytes) s =
      .next ((s.updSession sid fun _ => { mgen, own := .own 1, bytes }).readmit sid) := by
  refine congrArg Host.Outcome.next ((if_pos hmember).trans ?_)
  dsimp only
  rw [State.memCreate_made hgen hown hspace]
  rfl

theorem exec_create_held (hown : (∃ e, (s.session sid).own = .own e) ∨ ∃ e a, (s.session sid).own = .prep e a) :
    exec (.create att sid mgen bytes) s = .next s :=
  congrArg Host.Outcome.next ((if_pos hmember).trans (if_neg (State.memCreate_held hown)))

end create

/-! ### An entry on a session that must be owned (10 R353, Table 10) -/

theorem Session.refuses_eq_zero_iff (x : Session) (mgen epoch : BitVec 32) :
    x.refuses mgen epoch = 0 ↔ x.mgen.toNat ≤ mgen.toNat ∧ x.own = .own epoch := by
  unfold Session.refuses
  by_cases hgen : mgen.toNat < x.mgen.toNat
  · simp [hgen]
  · cases hown : x.own <;> simp [hgen, Nat.not_lt.1 hgen]

section owned
variable {s : State} {sid : Word64} {mgen epoch : BitVec 32}

section refused
variable (hrefuses : (s.session sid).refuses mgen epoch ≠ 0)
include hrefuses

theorem State.memAttach_refused (att len lease : Nat) : (s.memAttach att sid mgen epoch len lease).2 ≠ 0 := by
  rw [State.memAttach, if_pos hrefuses]
  exact hrefuses

theorem State.memSync_refused (att : Nat) (bytes : List Byte) (lease : Option Nat) :
    (s.memSync att sid mgen epoch bytes lease).1 = s := by
  rw [State.memSync, if_pos hrefuses]

theorem State.memDrop_refused : (s.memDrop sid mgen epoch).1 = s := by
  rw [State.memDrop, if_pos hrefuses]

theorem State.memHandoff_refused (target : Nat) : (s.memHandoff sid mgen epoch target).1 = s := by
  rw [State.memHandoff, if_pos hrefuses]

/-- A wrong epoch, an older MGEN or a session not owned here leaves the session as it was. -/
theorem exec_entry_refused (hmember : s.member = true) (hgone : s.goneSid sid = false) (att target len lease : Nat)
    (bytes : List Byte) :
    ∀ i ∈ [Instr.attach att sid mgen epoch len lease, .sync att sid mgen epoch lease bytes,
      .detach att sid mgen epoch bytes, .drop sid mgen epoch, .handoff sid mgen epoch target], exec i s = .next s := by
  simp only [List.forall_mem_cons, List.not_mem_nil, false_implies, implies_true, and_true]
  refine ⟨?_, ?_, ?_, ?_, ?_⟩ <;> apply congrArg Host.Outcome.next
  · exact (State.asMember_serves hmember hgone _).trans (if_neg (State.memAttach_refused hrefuses _ _ _))
  · exact (State.asMember_serves hmember hgone _).trans (State.memSync_refused hrefuses ..)
  · exact (State.asMember_serves hmember hgone _).trans (State.memSync_refused hrefuses ..)
  · exact (if_pos hmember).trans (State.memDrop_refused hrefuses)
  · exact (if_pos hmember).trans (State.memHandoff_refused hrefuses target)

end refused

variable (hmember : s.member = true) (hgone : s.goneSid sid = false)
  (haccepts : (s.session sid).refuses mgen epoch = 0)
include hmember hgone haccepts

theorem exec_attach_taken {att len : Nat} (lease : Nat)
    (hatt : (s.session sid).attacher = none ∨ (s.session sid).attacher = some att)
    (hlen : len ≤ (s.session sid).bytes.length) : exec (.attach att sid mgen epoch len lease) s =
      .next ((s.updSession sid fun x => { x with mgen := mgen, attacher := some att, leaseMs := lease }).sendPool att sid
        epoch ((s.session sid).bytes.take len)) := by
  have hfree : ((s.session sid).attacher.isSome && (s.session sid).attacher != some att) = false := by
    rcases hatt with h | h <;> simp [h]
  refine congrArg Host.Outcome.next ((State.asMember_serves hmember hgone _).trans ?_)
  simp only [State.memAttach, haccepts, hfree, Nat.not_lt.2 hlen, ne_eq, not_true_eq_false, Bool.false_eq_true, if_false,
    if_true, State.session_updSession]

section sync
variable {att : Nat} {bytes : List Byte}

theorem exec_sync_detach_foreign (lease : Nat) (hatt : (s.session sid).attacher ≠ some att) :
    exec (.sync att sid mgen epoch lease bytes) s = .next s ∧ exec (.detach att sid mgen epoch bytes) s = .next s := by
  have hstays (l : Option Nat) : (s.memSync att sid mgen epoch bytes l).1 = s := by
    simp [State.memSync, haccepts, hatt]
  constructor <;> exact congrArg Host.Outcome.next ((State.asMember_serves hmember hgone _).trans (hstays _))

variable (hatt : (s.session sid).attacher = some att)
  (hspace : s.poolSpace (bytes.length - (s.session sid).bytes.length) = true)
include hatt hspace

theorem exec_sync_taken (lease : Nat) : exec (.sync att sid mgen epoch lease bytes) s =
    .next ((s.updSession sid fun x => { x with mgen, bytes := patchBytes x.bytes bytes }).updSession sid fun x =>
      { x with leaseMs := lease }) := by
  refine congrArg Host.Outcome.next ((State.asMember_serves hmember hgone _).trans ?_)
  simp [State.memSync, haccepts, hatt, hspace]

theorem exec_detach_taken : exec (.detach att sid mgen epoch bytes) s =
    .next ((s.updSession sid fun x => { x with mgen, bytes := patchBytes x.bytes bytes }).updSession sid fun x =>
      { x with attacher := none, leaseMs := 0 }) := by
  refine congrArg Host.Outcome.next ((State.asMember_serves hmember hgone _).trans ?_)
  simp [State.memSync, haccepts, hatt, hspace]

end sync

omit hgone

theorem exec_drop_handoff_busy (target : Nat) (hbusy : (s.session sid).attacher ≠ none ∨ (s.session sid).target ≠ none) :
    exec (.drop sid mgen epoch) s = .next s ∧ exec (.handoff sid mgen epoch target) s = .next s := by
  have hheld : ((s.session sid).attacher.isSome || (s.session sid).target.isSome) = true := by
    simpa [Option.isSome_iff_ne_none] using hbusy
  constructor <;> refine congrArg Host.Outcome.next ((if_pos hmember).trans ?_)
  · simp only [State.memDrop, haccepts, hheld, ne_eq, not_true_eq_false, if_false, if_true]
  · simp only [State.memHandoff, haccepts, hheld, ne_eq, not_true_eq_false, if_false, if_true]

variable (hatt : (s.session sid).attacher = none) (htarget : (s.session sid).target = none)
include hatt htarget

theorem exec_drop_dropped : exec (.drop sid mgen epoch) s =
    .next (s.updSession sid fun x => { x with mgen := mgen, own := .dropped epoch, bytes := [] }) := by
  refine congrArg Host.Outcome.next ((if_pos hmember).trans ?_)
  simp [State.memDrop, haccepts, hatt, htarget]

/-- A hand-off begins: the offer and the session's bytes go to the target (10 Table 11 step 1). -/
theorem exec_handoff_offers (target : Nat) : exec (.handoff sid mgen epoch target) s =
    .next (((s.updSession sid fun x =>
      { x with mgen := mgen, target := some target, commits := 0, resolving := false }).sendGeneral target
        (.offer sid (epoch + 1) mgen (s.session sid).bytes.length)).sendPool target sid (epoch + 1)
          (s.session sid).bytes) := by
  refine congrArg Host.Outcome.next ((if_pos hmember).trans ?_)
  simp [State.memHandoff, haccepts, hatt, htarget]

end owned

/-! ### RESOLVE (10 R360, R361) -/

theorem exec_resolve_asks {s : State} {sid : Word64} {mgen e : BitVec 32} {a : Nat} (peer : Nat)
    (hmember : s.member = true) (hgen : (s.session sid).mgen.toNat ≤ mgen.toNat)
    (hopen : (s.session sid).own = .prep e a ∨ (s.session sid).own = .given e a ∧ (s.session sid).target ≠ none) :
    exec (.resolve sid mgen peer) s = .next ((s.updSession sid fun x =>
      { x with mgen := mgen, resolving := true }).sendGeneral peer (.resolve sid e)) := by
  refine congrArg Host.Outcome.next ((if_pos hmember).trans ?_)
  rcases hopen with hown | ⟨hown, htarget⟩
  · simp [State.memResolve, Session.epoch, Nat.not_lt.2 hgen, hown]
  · simp [State.memResolve, Session.epoch, Nat.not_lt.2 hgen, hown, Option.isSome_iff_ne_none.2 htarget]

theorem exec_entry_idle {s : State} (h : s.member = false) (att target peer len lease : Nat) (sid : Word64)
    (mgen epoch : BitVec 32) (bytes : List Byte) :
    ∀ i ∈ [Instr.create att sid mgen bytes, .attach att sid mgen epoch len lease, .sync att sid mgen epoch lease bytes,
      .detach att sid mgen epoch bytes, .drop sid mgen epoch, .handoff sid mgen epoch target, .resolve sid mgen peer],
      exec i s = .next s := by
  have hidle : ¬ s.member = true := by simp [h]
  simp only [List.forall_mem_cons, List.not_mem_nil, false_implies, implies_true, and_true]
  refine ⟨?_, ?_, ?_, ?_, ?_, ?_, ?_⟩ <;> apply congrArg Host.Outcome.next
  · exact if_neg hidle
  · exact State.asMember_idle h _
  · exact State.asMember_idle h _
  · exact State.asMember_idle h _
  · exact if_neg hidle
  · exact if_neg hidle
  · exact if_neg hidle

theorem exec_entry_gone {s : State} {sid : Word64} (hmember : s.member = true) (hgone : s.goneSid sid = true)
    (att len lease : Nat) (mgen epoch : BitVec 32) (bytes : List Byte) :
    ∀ i ∈ [Instr.attach att sid mgen epoch len lease, .sync att sid mgen epoch lease bytes,
      .detach att sid mgen epoch bytes], exec i s = .next (s.sendGeneral att (.gone s.devId)) := by
  simp only [List.forall_mem_cons, List.not_mem_nil, false_implies, implies_true, and_true]
  refine ⟨?_, ?_, ?_⟩ <;> exact congrArg Host.Outcome.next (State.asMember_gone hmember hgone _)

end Sys2Proof.Machine

open Sys2Proof Sys2Proof.Machine

/-- Settles O43: an entry is refused or taken as `Session.refuses` says, and each that is taken changes its session's
record. -/
theorem poolEntries : Obligations.PoolEntries := by
  unfold Obligations.PoolEntries
  intro s att target peer len lease sid mgen epoch bytes x
  refine ⟨fun h => exec_entry_idle h _ _ _ _ _ _ _ _ _, fun hmember hgone => exec_entry_gone hmember hgone _ _ _ _ _ _,
    fun hmember hgen hown hspace => ⟨_, exec_create_made hmember att hgen hown hspace, ?_, ?_⟩, fun hmember hown => ?_,
    fun hmember hgone hrefused => ?_, fun hmember hgone hgen hown => ?_,
    fun hmember hgen e a hopen => exec_resolve_asks peer hmember hgen hopen⟩
  · rw [State.session_readmit, State.session_updSession]
  · exact State.not_mem_discarded_readmit _ _
  · exact exec_create_held hmember att (hown.imp (fun h => ⟨_, h⟩) fun ⟨a, h⟩ => ⟨_, a, h⟩)
  · refine exec_entry_refused (fun h => ?_) hmember hgone _ _ _ _ _
    obtain ⟨hgen, hown⟩ := (Session.refuses_eq_zero_iff ..).1 h
    exact hrefused.elim (Nat.not_lt.2 hgen) fun hne => hne hown
  · have haccepts := (Session.refuses_eq_zero_iff x mgen epoch).2 ⟨hgen, hown⟩
    refine ⟨exec_attach_taken hmember hgone haccepts lease, fun hatt hspace => ⟨⟨_,
      exec_sync_taken hmember hgone haccepts hatt hspace lease, ?_⟩, ⟨_,
      exec_detach_taken hmember hgone haccepts hatt hspace, ?_⟩⟩, exec_sync_detach_foreign hmember hgone haccepts lease,
      fun hatt htarget => ⟨exec_drop_dropped hmember haccepts hatt htarget,
        exec_handoff_offers hmember haccepts hatt htarget target⟩, exec_drop_handoff_busy hmember haccepts target⟩
    all_goals rw [State.session_updSession, State.session_updSession, patchBytes]

end

section
/-! PROOFS. The hand-off of a session (10 R358, Tables 10 and 11): what each message of the two parties and each timer
makes of the session's record. -/

namespace Sys2Proof.Machine

/-! ### The receiver: OFFER and the blocks (10 Table 11 steps 1 and 2) -/

section offer
variable {s : State} {sid : Word64} (hmember : s.member = true) (src len : Nat) (epoch mgen : BitVec 32)
include hmember

theorem exec_offer_gone (hgone : s.goneSid sid = true) :
    exec (.offer src sid epoch mgen len) s = .next (s.sendGeneral src (.gone s.devId)) :=
  congrArg Host.Outcome.next ((if_neg (by simp [hmember])).trans (if_pos hgone))

section older
variable (hgone : s.goneSid sid = false) (hown : (s.session sid).own = .none ∨
  (s.session sid).own ≠ .own (s.session sid).epoch ∧ (s.session sid).epoch.toNat < epoch.toNat)
include hgone hown

/-- Neither no record nor an older one that is not OWN ends the offer. -/
theorem State.takeOffer_older : s.takeOffer src sid epoch mgen len =
    if mgen.toNat < (s.session sid).mgen.toNat || !s.poolSpace len then s.sendGeneral src (.abort sid epoch)
    else
      let t := s.updSession sid fun x => { x with mgen, offered := some (src, epoch.toNat, len), bytes := [] }
      if len = 0 then t.prepared sid src epoch else t := by
  unfold State.takeOffer
  rcases hown with hown | ⟨hown, hepoch⟩
  · simp [hmember, hgone, hown]
  · rw [Session.epoch] at hown hepoch
    cases hx : (s.session sid).own <;> simp only [hx] at hown hepoch
    case own e => exact absurd rfl hown
    all_goals simp [hmember, hgone, Session.epoch, hx, Nat.not_le.2 hepoch]

theorem exec_offer_stale (hgen : mgen.toNat < (s.session sid).mgen.toNat) :
    exec (.offer src sid epoch mgen len) s = .next (s.sendGeneral src (.abort sid epoch)) :=
  congrArg Host.Outcome.next ((State.takeOffer_older hmember src len epoch mgen hgone hown).trans
    (if_pos (by simp [hgen])))

theorem exec_offer_taken (hgen : (s.session sid).mgen.toNat ≤ mgen.toNat) (hlen : len ≠ 0) :
    exec (.offer src sid epoch mgen len) s = .next (if s.poolSpace len
      then s.updSession sid fun x => { x with mgen := mgen, offered := some (src, epoch.toNat, len), bytes := [] }
      else s.sendGeneral src (.abort sid epoch)) := by
  refine congrArg Host.Outcome.next ((State.takeOffer_older hmember src len epoch mgen hgone hown).trans ?_)
  cases hspace : s.poolSpace len <;> simp [Nat.not_lt.2 hgen, hlen]

end older

end offer

theorem State.session_prepared (s : State) (sid : Word64) (src : Nat) (epoch : BitVec 32) :
    (s.prepared sid src epoch).session sid =
      { s.session sid with own := .prep epoch src, offered := none, resolving := false } := by
  rw [State.prepared, State.session_sendGeneral, State.session_updSession]

section block
variable {s : State} {src n : Nat} {p : PoolData} (hmember : s.member = true) (hgone : s.goneSid p.sid = false)
  (hoffered : (s.session p.sid).offered = some (src, p.epoch.toNat, n))
include hmember hgone hoffered

theorem State.takePool_offered (hfits : p.off + p.data.length ≤ n) :
    s.takePool src p =
      if p.off + p.data.length = n then (s.updSession p.sid fun x =>
        { x with bytes := placeBytes (s.session p.sid).bytes p.off p.data }).prepared p.sid src p.epoch
      else s.updSession p.sid fun x => { x with bytes := placeBytes (s.session p.sid).bytes p.off p.data } := by
  have hplaced : (s.updSession p.sid fun x => { x with bytes := placeBytes x.bytes p.off p.data }) =
      s.updSession p.sid fun x => { x with bytes := placeBytes (s.session p.sid).bytes p.off p.data } :=
    State.updSession_congr rfl
  simp [State.takePool, hmember, hgone, hoffered, hfits, hplaced]

theorem exec_poolBlock_placed (hshort : p.off + p.data.length < n) : exec (.poolBlock src p) s =
    .next (s.updSession p.sid fun x => { x with bytes := placeBytes (s.session p.sid).bytes p.off p.data }) :=
  congrArg Host.Outcome.next ((State.takePool_offered hmember hgone hoffered hshort.le).trans (if_neg hshort.ne))

theorem exec_poolBlock_prepares (hlast : p.off + p.data.length = n) : exec (.poolBlock src p) s =
    .next ((s.updSession p.sid fun x =>
      { x with bytes := placeBytes (s.session p.sid).bytes p.off p.data }).prepared p.sid src p.epoch) :=
  congrArg Host.Outcome.next ((State.takePool_offered hmember hgone hoffered hlast.le).trans (if_pos hlast))

end block

/-! ### PREP_ACK, COMMIT and COMMIT_ACK (10 Table 11 steps 3 to 6) -/

/-- A finished hand-off is counted (10 Table 21). -/
def State.countHandoff (s : State) : State :=
  { s with pool := { s.pool with handoffs := satAdd s.pool.handoffs 1 } }

@[simp] theorem State.session_countHandoff (s : State) (sid : Word64) :
    s.countHandoff.session sid = s.session sid := rfl

/-- The offerer's part of a finished hand-off, before the POOL_MAPs that wait for it go on. -/
def State.givenAway (s : State) (sid : Word64) : State :=
  (s.updSession sid fun x => { x with bytes := [], target := none, commits := 0, resolving := false }).countHandoff

theorem State.handedOff_eq (s : State) (sid : Word64) : s.handedOff sid = (s.givenAway sid).settleJob sid 0 := rfl

theorem State.session_givenAway (s : State) (sid : Word64) : (s.givenAway sid).session sid =
    { s.session sid with bytes := [], target := none, commits := 0, resolving := false } := by
  rw [State.givenAway, State.session_countHandoff, State.session_updSession]

theorem State.handoffs_givenAway (s : State) (sid : Word64) :
    (s.givenAway sid).pool.handoffs = satAdd s.pool.handoffs 1 := rfl

section acks
variable {s : State} {src : Nat} {sid : Word64} {epoch : BitVec 32}

theorem exec_prepAck_other (h : (s.session sid).target ≠ some src ∨ (s.session sid).own ≠ .own (epoch - 1)) :
    exec (.prepAck src sid epoch) s = .next s :=
  congrArg Host.Outcome.next (if_neg (by simpa [imp_iff_not_or, or_assoc] using .inr h))

theorem exec_commit_other (hprep : (s.session sid).own ≠ .prep epoch src) (hown : (s.session sid).own ≠ .own epoch) :
    exec (.commit src sid epoch) s = .next s :=
  congrArg Host.Outcome.next (if_neg (by simp [hprep, hown]))

theorem exec_commitAck_other (h : (s.session sid).own ≠ .given epoch src) :
    exec (.commitAck src sid epoch) s = .next s :=
  congrArg Host.Outcome.next (if_neg (by simp [h]))

variable (hmember : s.member = true)
include hmember

theorem exec_prepAck_given (htarget : (s.session sid).target = some src)
    (hown : (s.session sid).own = .own (epoch - 1)) :
    exec (.prepAck src sid epoch) s = .next ((s.updSession sid fun x =>
      { x with own := .given epoch src, commits := 1 }).sendGeneral src (.commit sid epoch)) :=
  congrArg Host.Outcome.next (if_pos (by simp [hmember, htarget, hown]))

theorem exec_commit_owned (h : (s.session sid).own = .prep epoch src ∨ (s.session sid).own = .own epoch) :
    exec (.commit src sid epoch) s = .next ((s.updSession sid fun x =>
      { x with own := .own epoch, resolving := false }).sendGeneral src (.commitAck sid epoch)) :=
  congrArg Host.Outcome.next (if_pos (by simpa [hmember] using h))

theorem exec_commitAck_handedOff (htarget : (s.session sid).target = some src)
    (hown : (s.session sid).own = .given epoch src) :
    exec (.commitAck src sid epoch) s = .next ((s.givenAway sid).settleJob sid 0) :=
  congrArg Host.Outcome.next ((if_pos (by simp [hmember, htarget, hown])).trans (s.handedOff_eq sid))

end acks

/-! ### ABORT and the timers (10 R358) -/

section abort
variable {s : State} {sid : Word64} (hmember : s.member = true)
include hmember

theorem exec_abort_prep {src : Nat} {epoch : BitVec 32} (hown : (s.session sid).own = .prep epoch src) :
    exec (.abort src sid epoch) s =
      .next (s.updSession sid fun x => { x with own := .none, bytes := [], resolving := false }) :=
  congrArg Host.Outcome.next ((if_neg (by simp [hmember])).trans (if_pos (by simp [hown])))

theorem exec_abort_offered {src n : Nat} {epoch : BitVec 32} (hown : (s.session sid).own ≠ .prep epoch src)
    (hoffered : (s.session sid).offered = some (src, epoch.toNat, n)) :
    exec (.abort src sid epoch) s = .next (s.updSession sid fun x => { x with offered := none, bytes := [] }) :=
  congrArg Host.Outcome.next ((if_neg (by simp [hmember])).trans ((if_neg (by simp [hown])).trans
    (if_pos (by simp [hoffered]))))

theorem exec_prepAckTimeout_gives_up {e : BitVec 32} {d : Nat} (hown : (s.session sid).own = .own e)
    (htarget : (s.session sid).target = some d) : exec (.prepAckTimeout sid) s =
      .next (((s.updSession sid fun x =>
        { x with target := none }).sendGeneral d (.abort sid (e + 1))).settleJob sid 8) := by
  refine congrArg Host.Outcome.next ((if_pos hmember).trans ?_)
  simp only [State.giveUp, hown, htarget]

theorem exec_commitResend_again {e : BitVec 32} {d : Nat} (hown : (s.session sid).own = .given e d)
    (htarget : (s.session sid).target ≠ none) (hresolving : (s.session sid).resolving = false) :
    exec (.commitResend sid) s = .next (if (s.session sid).commits < 4
      then (s.updSession sid fun x => { x with commits := x.commits + 1 }).sendGeneral d (.commit sid e)
      else (s.updSession sid fun x => { x with resolving := true }).sendGeneral d (.resolve sid e)) := by
  obtain ⟨b, hb⟩ := Option.ne_none_iff_exists'.1 htarget
  refine congrArg Host.Outcome.next ?_
  simp [hown, hb, hmember, hresolving]

end abort

theorem exec_handoff_idle {s : State} (h : s.member = false) (src len : Nat) (sid : Word64) (epoch mgen : BitVec 32)
    (p : PoolData) :
    ∀ i ∈ [Instr.offer src sid epoch mgen len, .poolBlock src p, .prepAck src sid epoch, .commit src sid epoch,
      .commitAck src sid epoch, .abort src sid epoch, .prepAckTimeout sid, .commitResend sid], exec i s = .next s := by
  simp only [List.forall_mem_cons, List.not_mem_nil, false_implies, implies_true, and_true]
  refine ⟨?_, ?_, ?_, ?_, ?_, ?_, ?_, ?_⟩ <;> apply congrArg Host.Outcome.next
  · exact if_pos (by simp [h])
  · exact if_pos (by simp [h])
  · exact if_neg (by simp [h])
  · exact if_neg (by simp [h])
  · exact if_neg (by simp [h])
  · exact if_pos (by simp [h])
  · exact if_neg (by simp [h])
  · split
    · exact if_pos (by simp [h])
    · rfl

end Sys2Proof.Machine

open Sys2Proof Sys2Proof.Machine

/-- Settles O44, by the messages of the hand-off in the order of 10 Table 11, and its ends. -/
theorem handoffMessages : Obligations.HandoffMessages := by
  unfold Obligations.HandoffMessages
  intro s src len sid epoch mgen p x
  refine ⟨fun h => exec_handoff_idle h _ _ _ _ _ _, fun hmember => ⟨exec_offer_gone hmember src len epoch mgen,
    fun hgone hown => ⟨exec_offer_stale hmember src len epoch mgen hgone hown,
      exec_offer_taken hmember src len epoch mgen hgone hown⟩,
    fun n hgone hoffered => ⟨exec_poolBlock_placed hmember hgone hoffered,
      fun hlast => ⟨_, exec_poolBlock_prepares hmember hgone hoffered hlast, ?_⟩⟩,
    exec_prepAck_given hmember, exec_prepAck_other, exec_commit_owned hmember, exec_commit_other, fun htarget hown => ⟨s.givenAway sid,
      exec_commitAck_handedOff hmember htarget hown, s.session_givenAway sid, s.handoffs_givenAway sid⟩,
    exec_commitAck_other, exec_abort_prep hmember, fun n => exec_abort_offered hmember,
    fun e d => exec_prepAckTimeout_gives_up hmember, fun e d => exec_commitResend_again hmember⟩⟩
  rw [State.session_prepared, State.session_updSession]
  rfl

end

section
/-! PROOFS. Disputed sessions, leases and lost members (10 R357, R359 to R362): the acknowledged record as a party
answers it, how an answer decides a PREP or settles a GIVEN, and the ends of disputes and leases. -/

namespace Sys2Proof.Machine

/-! ### RESOLVE and its answer (10 R359, R360) -/

section resolveMessage
variable {s : State} {sid : Word64} (hmember : s.member = true) (src : Nat) (epoch : BitVec 32)
include hmember

theorem exec_resolveMessage_gone (hgone : s.goneSid sid = true) :
    exec (.resolveMessage src sid epoch) s = .next (s.sendGeneral src (.gone s.devId)) :=
  congrArg Host.Outcome.next ((if_neg (by simp [hmember])).trans (if_pos hgone))

theorem exec_resolveMessage_answers (hgone : s.goneSid sid = false) {a : Nat × BitVec 32 × Nat}
    (hanswer : (s.session sid).own.answer = a) :
    exec (.resolveMessage src sid epoch) s = .next (s.sendGeneral src (.resolveAns sid a.1 a.2.1 a.2.2)) := by
  subst hanswer
  exact congrArg Host.Outcome.next ((if_neg (by simp [hmember])).trans (if_neg (by simp [hgone])))

end resolveMessage

@[simp] theorem State.session_countResolve (s : State) (sid : Word64) :
    s.countResolve.session sid = s.session sid := rfl

theorem State.resolves_countResolve (s : State) :
    s.countResolve.pool.resolves = satAdd s.pool.resolves 1 := rfl

section answer
variable {s : State} {src kind dev : Nat} {sid : Word64} {e epoch : BitVec 32} (hmember : s.member = true)
include hmember

section prep
variable (hkind : kind ≠ 0) (hown : (s.session sid).own = .prep e src)
include hkind hown

/-- The deciding record gives a PREP's epoch to this module: the session is owned here. -/
theorem exec_resolveAns_owned (hgives : kind = 2 ∧ epoch = e ∧ dev = s.devId) :
    exec (.resolveAns src sid kind epoch dev) s = .next ((((s.updSession sid fun x =>
      { x with own := .own e, resolving := false }).sendGeneral src (.commitAck sid e)).countResolve).settleJob
        sid 0) := by
  refine congrArg Host.Outcome.next ((if_neg (by simp [hmember, hkind])).trans ?_)
  simp only [hown, ne_eq, not_true_eq_false, if_false, if_pos hgives]

theorem exec_resolveAns_discarded (hgives : ¬ (kind = 2 ∧ epoch = e ∧ dev = s.devId)) :
    exec (.resolveAns src sid kind epoch dev) s = .next (((s.updSession sid fun x =>
      { x with own := .none, bytes := [], resolving := false }).countResolve).settleJob sid 0) := by
  refine congrArg Host.Outcome.next ((if_neg (by simp [hmember, hkind])).trans ?_)
  simp only [hown, ne_eq, not_true_eq_false, if_false, if_neg hgives]

end prep

section given
variable (hown : (s.session sid).own = .given e src)
include hown

theorem exec_resolveAns_settles (htarget : (s.session sid).target = some src) (hkind : kind = 1) (hepoch : epoch = e) :
    exec (.resolveAns src sid kind epoch dev) s = .next ((s.countResolve.givenAway sid).settleJob sid 0) := by
  refine congrArg Host.Outcome.next ((if_neg (by simp [hmember, hkind])).trans ?_)
  simp [hown, htarget, hkind, hepoch, State.handedOff_eq]

omit hmember in
theorem exec_resolveAns_ignored (h : kind ≠ 1 ∨ epoch ≠ e) :
    exec (.resolveAns src sid kind epoch dev) s = .next s := by
  refine congrArg Host.Outcome.next ?_
  unfold State.takeAnswer
  simp only [hown]
  split
  · rfl
  · exact if_neg fun ⟨_, _, hkind, hepoch⟩ => h.elim (· hkind) (· hepoch)

end given

end answer

/-! ### The timers of a dispute (10 R360, R361) -/

section timers
variable {s : State} {sid : Word64} {e : BitVec 32} {d : Nat} (hmember : s.member = true)
include hmember

theorem exec_resolveTimer_prep (hown : (s.session sid).own = .prep e d) : exec (.resolveTimer sid) s =
    .next ((s.updSession sid fun x => { x with resolving := true }).sendGeneral d (.resolve sid e)) := by
  refine congrArg Host.Outcome.next ((if_pos hmember).trans ?_)
  simp only [State.askAgain, hown]

theorem exec_resolveTimer_given (hown : (s.session sid).own = .given e d) (hresolving : (s.session sid).resolving = true)
    (htarget : (s.session sid).target ≠ none) :
    exec (.resolveTimer sid) s = .next (s.sendGeneral d (.resolve sid e)) := by
  refine congrArg Host.Outcome.next ((if_pos hmember).trans ?_)
  simp [State.askAgain, hown, hresolving, Option.isSome_iff_ne_none.2 htarget]

end timers

/-- A lost session is counted (10 Table 21). -/
def State.countLost (s : State) : State := { s with pool := { s.pool with losts := satAdd s.pool.losts 1 } }

@[simp] theorem State.session_countLost (s : State) (sid : Word64) : s.countLost.session sid = s.session sid := rfl

/-- The party of a dispute that is not decided in time writes LOST (10 R361). -/
def State.writeLost (s : State) (sid : Word64) (e : BitVec 32) : State :=
  (s.updSession sid fun x =>
    { x with own := .lost e, bytes := [], target := none, resolving := false }).countLost

theorem State.losts_writeLost (s : State) (sid : Word64) (e : BitVec 32) :
    (s.writeLost sid e).pool.losts = satAdd s.pool.losts 1 := rfl

theorem State.session_writeLost (s : State) (sid : Word64) (e : BitVec 32) : (s.writeLost sid e).session sid =
    { s.session sid with own := .lost e, bytes := [], target := none, resolving := false } := by
  rw [State.writeLost, State.session_countLost, State.session_updSession]

theorem exec_resolveDeadline_lost {s : State} {sid : Word64} {e : BitVec 32} {d : Nat} (hmember : s.member = true)
    (hopen : (s.session sid).own = .prep e d ∨ (s.session sid).own = .given e d ∧ (s.session sid).target ≠ none)
    (hresolving : (s.session sid).resolving = true) :
    exec (.resolveDeadline sid) s = .next ((s.writeLost sid e).settleJob sid 9) := by
  have hlost (hepoch : (s.session sid).epoch = e) : (s.updSession sid fun x =>
      { x with own := .lost x.epoch, bytes := [], target := none, resolving := false }) =
        s.updSession sid fun x => { x with own := .lost e, bytes := [], target := none, resolving := false } :=
    State.updSession_congr (by rw [hepoch])
  refine congrArg Host.Outcome.next ((if_pos ?_).trans ?_)
  · rcases hopen with hown | ⟨hown, htarget⟩
    · simp [hmember, hresolving, hown]
    · simp [hmember, hresolving, hown, Option.isSome_iff_ne_none.2 htarget]
  · rw [State.writeLost, ← hlost (by rcases hopen with hown | ⟨hown, -⟩ <;> rw [Session.epoch, hown])]
    rfl

/-! ### Leases and lost members (10 R357, R362) -/

theorem exec_leaseEnd {s : State} (hmember : s.member = true) (sid : Word64) :
    exec (.leaseEnd sid) s = .next (s.updSession sid fun x => { x with attacher := none, leaseMs := 0 }) :=
  congrArg Host.Outcome.next (if_pos hmember)

/-- A composition without its attachment to a session. -/
def Comp.detached (m : Comp) (sid : Word64) : Comp := { m with attached := m.attached.filter fun x => x.1 != sid }

theorem exec_attachingModuleLeaseEnd (s : State) (sid : Word64) : exec (.attachingModuleLeaseEnd sid) s =
    .next { s with comps := Tab.mapVals {} (fun _ m => m.detached sid) s.comps } := rfl

theorem Comp.not_attached_detached (m : Comp) (sid : Word64) : ∀ a ∈ (m.detached sid).attached, a.1 ≠ sid := by
  intro a ha
  simpa using (List.mem_filter.1 ha).2

theorem exec_member_lost (s : State) (dev : Nat) : ∀ i ∈ [Instr.gone dev, .memberUnreachable dev],
    exec i s = .next ((s.poolUsers dev).foldl (fun (u : State) k => u.poolFault k 1 dev 0) s) := by
  simp only [List.forall_mem_cons, List.not_mem_nil, false_implies, implies_true, and_true]
  exact ⟨rfl, rfl⟩

theorem exec_dispute_idle {s : State} (h : s.member = false) (src kind dev : Nat) (sid : Word64) (epoch : BitVec 32) :
    ∀ i ∈ [Instr.resolveMessage src sid epoch, .resolveAns src sid kind epoch dev, .resolveTimer sid,
      .resolveDeadline sid, .leaseEnd sid], exec i s = .next s := by
  simp only [List.forall_mem_cons, List.not_mem_nil, false_implies, implies_true, and_true]
  refine ⟨?_, ?_, ?_, ?_, ?_⟩ <;> apply congrArg Host.Outcome.next
  · exact if_pos (by simp [h])
  · exact if_pos (by simp [h])
  · exact if_neg (by simp [h])
  · exact if_neg (by simp [h])
  · exact if_neg (by simp [h])

end Sys2Proof.Machine

open Sys2Proof Sys2Proof.Machine

/-- Settles O45, by the record that decides a dispute, the timers of its parties, and the ends of attachments. -/
theorem disputesAndLeases : Obligations.DisputesAndLeases := by
  unfold Obligations.DisputesAndLeases
  intro s src dev kind gdev sid epoch x
  refine ⟨fun hmember => ⟨exec_resolveMessage_gone hmember src epoch, fun hgone => ⟨fun e hown => ?_, fun e d hown => ?_,
    fun e d hown => ?_⟩, fun e hkind hown => ?_, fun e hown htarget => ⟨s.countResolve.givenAway sid, ?_,
      exec_resolveAns_ignored hown⟩, fun e d => exec_resolveTimer_prep hmember,
    fun e d => exec_resolveTimer_given hmember, fun e d hopen hresolving => ⟨s.writeLost sid e,
      exec_resolveDeadline_lost hmember hopen hresolving, s.losts_writeLost sid e, s.session_writeLost sid e⟩,
    exec_leaseEnd hmember sid⟩, fun h => exec_dispute_idle h _ _ _ _ _,
    ⟨_, exec_attachingModuleLeaseEnd s sid, fun k => ?_⟩, exec_member_lost s gdev⟩
  · exact exec_resolveMessage_answers hmember src epoch hgone (congrArg Own.answer hown)
  · exact exec_resolveMessage_answers hmember src epoch hgone (congrArg Own.answer hown)
  · exact exec_resolveMessage_answers hmember src epoch hgone (congrArg Own.answer hown)
  · by_cases hgives : kind = 2 ∧ epoch = e ∧ dev = s.devId
    · refine ⟨_, exec_resolveAns_owned hmember hkind hown hgives, fun _ => ?_, fun hnot => absurd hgives hnot, ?_⟩
      · rw [State.session_countResolve, State.session_sendGeneral, State.session_updSession]
      · rw [State.resolves_countResolve, State.pool_sendGeneral]
        rfl
    · refine ⟨_, exec_resolveAns_discarded hmember hkind hown hgives, fun hyes => absurd hyes hgives, fun _ => ?_, rfl⟩
      rw [State.session_countResolve, State.session_updSession]
  · intro hkind hepoch
    refine ⟨exec_resolveAns_settles hmember hown htarget hkind hepoch, ?_⟩
    rw [State.session_givenAway, State.session_countResolve]
    exact ⟨hown, rfl, rfl⟩
  · exact Tab.mapVals_all (p := fun m : Comp => ∀ a ∈ m.attached, a.1 ≠ sid) (by simp)
      (fun _ m => m.not_attached_detached sid) k

end

section
/-! PROOFS. POOL_MAP (10 R333, R352, R354 to R356; 12 R418): its checks in their order, and the entries carried out one
after another up to the first that its member refuses. -/

namespace Sys2Proof.Machine

/-! ### The entries of a compute module (10 R356) -/

/-- Accepted entries take effect one after another; each comes with its member's answer. -/
def State.entriesDone (s : State) (k : Nat) (l : List (List Byte × PoolReason × List Byte)) : State :=
  l.foldl (fun (u : State) e => u.entryDone k e.1 e.2.2) s

theorem State.poolRun_accepted (q k : Nat) (es : List (List Byte)) : ∀ (ans : List (PoolReason × List Byte)) (i : Nat)
    (s : State), ans.length = es.length → (∀ a ∈ ans, a.1 = 0) →
    State.poolRun q k es ans i s = (s.entriesDone k (es.zip ans)).complete q .ok := by
  induction es with
  | nil => intro ans i s hlen hall; rfl
  | cons e es ih =>
    intro ans i s hlen hall
    cases ans with
    | nil => cases hlen
    | cons a ans =>
      obtain ⟨ha, hrest⟩ := List.forall_mem_cons.1 hall
      exact (if_neg (not_not.2 ha)).trans (ih ans (i + 1) (s.entryDone k e a.2) (Nat.succ.inj hlen) hrest)

/-- The first entry that is refused, the `j`th, ends the POOL_MAP: the ones before it have taken effect. -/
theorem State.poolRun_refused (q k : Nat) {e : List Byte} {a : PoolReason × List Byte} (hrefused : a.1 ≠ 0)
    (es : List (List Byte)) : ∀ (ans : List (PoolReason × List Byte)) (j i : Nat) (s : State), es[j]? = some e →
    ans[j]? = some a → (∀ x ∈ ans.take j, x.1 = 0) →
    State.poolRun q k es ans i s = (s.entriesDone k ((es.take j).zip ans)).poolFail q (some k) e (i + j) a.1 := by
  induction es with
  | nil => intro ans j i s he; cases he
  | cons e' es ih =>
    intro ans j i s he ha hbefore
    cases ans with
    | nil => cases ha
    | cons a' ans =>
      cases j with
      | zero =>
        cases he
        cases ha
        exact if_pos hrefused
      | succ j =>
        obtain ⟨ha', hrest⟩ := List.forall_mem_cons.1 hbefore
        rw [← Nat.add_assoc, Nat.add_right_comm]
        exact (if_neg (not_not.2 ha')).trans (ih ans j (i + 1) (s.entryDone k e' a'.2) he ha hrest)

/-! ### The checks (10 R333, R354, R355; 12 R418) -/

/-- A POOL_MAP at the front of a queue, of a form that its module's role accepts, with its entries at hand. -/
structure State.PoolMapBegins (s : State) (q : Nat) (b : List Byte) : Prop where
  begins : s.begins q 0x4D [(16, 8), (24, 4)] b
  aligned : field b 16 8 % 64 = 0
  count_pos : 1 ≤ field b 24 4
  count_le : field b 24 4 ≤ 256
  fresh : (s.queue q).started = false
  data : s.hasData q (64 * field b 24 4)
  role : s.sb.role = false ∨ field b 12 2 = 0xFFFF ∧ field b 8 4 = 0

/-- The entries of the POOL_MAP at the front of a queue. -/
def State.mapEntries (s : State) (q : Nat) (b : List Byte) : List (List Byte) :=
  (List.range (field b 24 4)).map fun i => poolEntry ((s.queue q).buf.take (64 * field b 24 4)) i

/-- The composition of a POOL_MAP is not READY, or has a loop. -/
def State.mapBusy (s : State) (k : Nat) : Bool :=
  decide (k < 256) && ((s.comp k).st != .ready || (s.comp k).loop.isSome)

theorem State.mapBusy_iff {s : State} {k : Nat} (hk : k < 256) :
    s.mapBusy k = true ↔ (s.comp k).st ≠ .ready ∨ (s.comp k).loop ≠ none := by
  simp [State.mapBusy, hk, Option.isSome_iff_ne_none]

/-- Every entry is well formed and lies in its object. -/
def State.entriesOk (s : State) (k : Nat) (es : List (List Byte)) : Bool :=
  es.all fun e => Sys2Proof.Machine.entryOk s.sb.role s.devId e && s.entryRange k e

theorem State.entriesOk_iff {s : State} {k : Nat} {es : List (List Byte)} :
    s.entriesOk k es = true ↔
      ∀ e ∈ es, Sys2Proof.Machine.entryOk s.sb.role s.devId e = true ∧ s.entryRange k e = true := by
  simp [State.entriesOk]

theorem State.entriesOk_eq_false_iff {s : State} {k : Nat} {es : List (List Byte)} :
    s.entriesOk k es = false ↔
      ∃ e ∈ es, Sys2Proof.Machine.entryOk s.sb.role s.devId e = false ∨ s.entryRange k e = false := by
  simp [State.entriesOk, imp_iff_not_or]

section checks
variable {q : Fin 4096} {s : State} {b : List Byte} (h : s.PoolMapBegins q b) (ans : List (PoolReason × List Byte))
include h

/-- The checks of a POOL_MAP in their order, then its entries. -/
theorem exec_poolMap : exec (.poolMap q ans) s = .next (
    let k := field b 12 2
    let es := s.mapEntries q b
    if !s.entriesOk k es then s.complete q .format
    else if s.sb.role then State.memberRun q es 0 s
    else if s.mapBusy k || !(es.all fun e => s.entryLive k e) then s.complete q .state
    else if !s.recRoom k (128 * field b 24 4) then s.complete q .limit
    else State.poolRun q k es ans 0 s) := by
  refine congrArg Host.Outcome.next ((State.descr_begins h.begins ?_ rfl ?_).trans ((if_neg ?_).trans
    (State.withData_has h.data _ _)))
  · simp [al64, h.aligned, h.count_pos, h.count_le]
  · simpa [Bool.or_eq_true] using h.role
  · simp [h.fresh]

theorem exec_poolMap_format (hbad : s.entriesOk (field b 12 2) (s.mapEntries q b) = false) :
    exec (.poolMap q ans) s = .next (s.complete q .format) := by
  rw [exec_poolMap h]
  exact congrArg Host.Outcome.next (if_pos (by simp [hbad]))

variable (hok : s.entriesOk (field b 12 2) (s.mapEntries q b) = true)
include hok

theorem exec_poolMap_member (hrole : s.sb.role = true) :
    exec (.poolMap q ans) s = .next (State.memberRun q (s.mapEntries q b) 0 s) := by
  rw [exec_poolMap h]
  exact congrArg Host.Outcome.next ((if_neg (by simp [hok])).trans (if_pos hrole))

variable (hrole : s.sb.role = false)
include hrole

theorem exec_poolMap_state (hbarred : s.mapBusy (field b 12 2) = true ∨
    ∃ e ∈ s.mapEntries q b, s.entryLive (field b 12 2) e = false) :
    exec (.poolMap q ans) s = .next (s.complete q .state) := by
  rw [exec_poolMap h]
  exact congrArg Host.Outcome.next ((if_neg (by simp [hok])).trans ((if_neg (by simp [hrole])).trans
    (if_pos (by simpa using hbarred))))

variable (hfree : s.mapBusy (field b 12 2) = false)
  (hlive : ∀ e ∈ s.mapEntries q b, s.entryLive (field b 12 2) e = true)
include hfree hlive

theorem exec_poolMap_limit (hroom : s.recRoom (field b 12 2) (128 * field b 24 4) = false) :
    exec (.poolMap q ans) s = .next (s.complete q .limit) := by
  rw [exec_poolMap h]
  exact congrArg Host.Outcome.next ((if_neg (by simp [hok])).trans ((if_neg (by simp [hrole])).trans
    ((if_neg (by simpa [hfree] using hlive)).trans (if_pos (by simp [hroom])))))

theorem exec_poolMap_runs (hroom : s.recRoom (field b 12 2) (128 * field b 24 4) = true) :
    exec (.poolMap q ans) s = .next (State.poolRun q (field b 12 2) (s.mapEntries q b) ans 0 s) := by
  rw [exec_poolMap h]
  exact congrArg Host.Outcome.next ((if_neg (by simp [hok])).trans ((if_neg (by simp [hrole])).trans
    ((if_neg (by simpa [hfree] using hlive)).trans (if_neg (by simp [hroom])))))

end checks

end Sys2Proof.Machine

open Sys2Proof Sys2Proof.Machine

/-- Settles O42: the checks of a POOL_MAP in their order, and the run of its entries by their members' answers. -/
theorem poolMaps : Obligations.PoolMaps := by
  unfold Obligations.PoolMaps
  intro q ans s b k n es hbegins haligned hpos hle hfresh hdata hrole
  have h : s.PoolMapBegins q b := ⟨hbegins, haligned, hpos, hle, hfresh, hdata, hrole⟩
  refine ⟨fun hbad => exec_poolMap_format h ans (State.entriesOk_eq_false_iff.2 hbad), fun hgood => ?_⟩
  have hok := State.entriesOk_iff.2 hgood
  refine ⟨exec_poolMap_member h ans hok, fun hcompute hk => ⟨fun hbarred => ?_, fun hready hloop hlive => ?_⟩⟩
  · refine exec_poolMap_state h ans hok hcompute ?_
    rw [State.mapBusy_iff hk, or_assoc]
    exact hbarred
  · have hfree : s.mapBusy k = false := Bool.eq_false_iff.2 fun hbusy =>
      ((State.mapBusy_iff hk).1 hbusy).elim (· hready) (· hloop)
    refine ⟨exec_poolMap_limit h ans hok hcompute hfree hlive, fun hroom => ⟨fun hlen hall => ?_,
      fun i e a he ha hrefused hbefore => ?_⟩⟩ <;> rw [exec_poolMap_runs h ans hok hcompute hfree hlive hroom]
    · refine congrArg Host.Outcome.next (State.poolRun_accepted q k es ans 0 s ?_ hall)
      simpa [es] using hlen
    · have hrun := State.poolRun_refused q k hrefused es ans i 0 s he ha hbefore
      rw [Nat.zero_add] at hrun
      exact congrArg Host.Outcome.next hrun

end

section
/-! PROOFS. Joining and the balance of power (10 R344, R345, R349, R351): the messages of a composition's tree and the
two deadlines of a join. -/

namespace Sys2Proof.Machine

theorem State.comp_joinFail (s : State) (k v : Nat) : ∃ m : Comp,
    (s.joinFail k v).comp k = { m with st := .failed, joinerr := true, refusedJoin := true } :=
  ⟨_, State.comp_updComp ..⟩

/-! ### Messages of a CID without a composition -/

section unknown
variable {s : State} {cid : Word64} (hcid : s.compByCid cid = none)
include hcid

/-- A JOIN that comes before its composition is held (10 R345). -/
theorem exec_join_held (vmod : Nat) (digest : Digest) :
    exec (.join cid vmod digest) s = .next { s with joins := s.joins ++ [(cid, vmod, digest)] } := by
  refine congrArg Host.Outcome.next ?_
  simp only [State.takeJoin, hcid]

theorem exec_message_unknown (vmod waited : Nat) (gen step : BitVec 32) (sh : Bool) (caps : List Nat) :
    exec (.ready cid gen sh) s = .next s ∧ exec (.refuse cid vmod) s = .next s ∧
      exec (.bal cid vmod step waited) s = .next s ∧ exec (.caps cid step caps) s = .next s := by
  refine ⟨?_, ?_, ?_, ?_⟩ <;> refine congrArg Host.Outcome.next ?_
  · simp only [State.takeReady, hcid]
  · simp only [State.takeRefuse, hcid]
  · simp only [State.takeBal, hcid]
  · simp only [State.takeCaps, hcid]

end unknown

section message
variable {s : State} {cid : Word64} {i : Nat} (hcid : s.compByCid cid = some i)
include hcid

/-! ### JOIN and REFUSE (10 R345) -/

theorem exec_join (vmod : Nat) (digest : Digest) : exec (.join cid vmod digest) s = .next (s.joinAt i vmod digest) := by
  refine congrArg Host.Outcome.next ?_
  simp only [State.takeJoin, hcid]

theorem exec_refuse_fails (hst : (s.comp i).st = .joining) (vmod : Nat) :
    exec (.refuse cid vmod) s = .next (s.joinFail i vmod) := by
  refine congrArg Host.Outcome.next ?_
  simp [State.takeRefuse, hcid, hst]

theorem exec_join_refuse_late (hst : (s.comp i).st ≠ .joining) (vmod : Nat) (digest : Digest) :
    exec (.join cid vmod digest) s = .next s ∧ exec (.refuse cid vmod) s = .next s := by
  constructor
  · rw [exec_join hcid]
    exact congrArg Host.Outcome.next (if_pos (by simp [hst]))
  · refine congrArg Host.Outcome.next ?_
    simp [State.takeRefuse, hcid, hst]

/-! ### READY (10 R345, R349) -/

theorem exec_ready_stale {gen : BitVec 32} (hgen : (s.comp i).gen ≠ gen) (sh : Bool) : exec (.ready cid gen sh) s =
    .next (s.updComp i fun m => { m with stales := satAdd m.stales 1 }) := by
  refine congrArg Host.Outcome.next ?_
  simp [State.takeReady, hcid, hgen]

theorem exec_ready_taken {gen : BitVec 32} (hgen : (s.comp i).gen = gen) (hst : (s.comp i).st = .joining)
    (hvmod : (s.comp i).vmod ≠ 0) (sh : Bool) : exec (.ready cid gen sh) s =
    .next ((s.sendKids i (.ready cid gen)).updComp i fun m =>
      { m with st := .ready, balShift := sh && s.pwr.shift }) := by
  refine congrArg Host.Outcome.next ?_
  simp [State.takeReady, hcid, hgen, hst, hvmod]

/-! ### BAL and CAPS (10 R351) -/

theorem exec_bal_caps_unshifted (hshift : (s.comp i).balShift = false) (vmod waited : Nat) (step : BitVec 32)
    (caps : List Nat) : exec (.bal cid vmod step waited) s = .next s ∧ exec (.caps cid step caps) s = .next s := by
  constructor <;> refine congrArg Host.Outcome.next ?_
  · simp [State.takeBal, hcid, hshift]
  · simp [State.takeCaps, hcid, hshift]

variable (hshift : (s.comp i).balShift = true)
include hshift

theorem exec_bal_kept {vmod : Nat} (hroot : (s.comp i).vmod = 0) (hmember : vmod < (s.comp i).nmod) (waited : Nat)
    (step : BitVec 32) : exec (.bal cid vmod step waited) s = .next (s.updComp i fun m =>
      { m with waits := Tab.upd [] m.waits vmod fun l => (waited :: l).take 16,
               balDue := m.balDue || step.toNat % 16 == 0 }) := by
  refine congrArg Host.Outcome.next ?_
  simp [State.takeBal, hcid, hshift, hroot, Nat.not_le.2 hmember]

theorem exec_caps_taken (step : BitVec 32) (caps : List Nat) :
    exec (.caps cid step caps) s = .next (s.updComp i fun m => { m with newCaps := some caps }) := by
  refine congrArg Host.Outcome.next ?_
  simp [State.takeCaps, hcid, hshift]

end message

/-! ### A JOIN at a joining composition (10 R345) -/

section joinAt
variable {s : State} {i : Nat} (hst : (s.comp i).st = .joining) {vmod : Nat} {digest : Digest}
include hst

theorem State.joinAt_passed {v : Nat} (hparent : (s.comp i).parent = some v) :
    s.joinAt i vmod digest = s.sendGeneral ((s.comp i).devOf v) (.join (s.comp i).cid vmod digest) := by
  simp [State.joinAt, hst, hparent]

variable (hparent : (s.comp i).parent = none)
include hparent

theorem State.joinAt_differs (hdigest : digest ≠ shapeDigest (s.comp i).shape) :
    s.joinAt i vmod digest = s.joinFail i vmod := by
  simp [State.joinAt, hst, hparent, hdigest]

/-- The root counts a new member, and sends READY with the last. -/
theorem State.joinAt_counted (hdigest : digest = shapeDigest (s.comp i).shape) (hmember : vmod < (s.comp i).nmod)
    (hnew : ∀ e ∈ (s.comp i).joined, e.1 ≠ vmod) :
    s.joinAt i vmod digest =
      let u := s.updComp i fun m => { m with joined := m.joined ++ [(vmod, digest)] }
      if (s.comp i).joined.length + 1 = (s.comp i).nmod
        then (u.sendKids i (.ready (s.comp i).cid (s.comp i).gen)).rootReady i else u := by
  have hknown : ((s.comp i).joined.any fun e => e.1 == vmod) = false := by simpa using hnew
  simp [State.joinAt, hst, hparent, hdigest, Nat.not_le.2 hmember, hknown]

end joinAt

/-! ### The deadlines of a join (10 R345) -/

section deadline
variable {s : State} {k : Fin 256}

theorem exec_deadline_late (hst : (s.comp k).st ≠ .joining) :
    exec (.memberJoinDeadline k) s = .next s ∧ exec (.joinDeadline k) s = .next s :=
  ⟨congrArg Host.Outcome.next (if_neg (by simp [hst])), congrArg Host.Outcome.next (if_neg (by simp [hst]))⟩

variable (hst : (s.comp k).st = .joining)
include hst

theorem exec_memberJoinDeadline_fails : exec (.memberJoinDeadline k) s =
    .next (s.updComp k fun m => { m with st := .failed, joinerr := true }) :=
  congrArg Host.Outcome.next (if_pos (by simp [hst]))

theorem exec_joinDeadline_fails (hroot : (s.comp k).vmod = 0) (hmissing : (s.comp k).joined.length ≠ (s.comp k).nmod) :
    exec (.joinDeadline k) s = .next (s.joinFail k 0xFF) :=
  congrArg Host.Outcome.next (if_pos (by simp [hst, hroot, hmissing]))

end deadline

end Sys2Proof.Machine

open Sys2Proof Sys2Proof.Machine

/-- Settles O38: each message by the state of the composition that its CID names, and the two deadlines. -/
theorem joining : Obligations.Joining := by
  unfold Obligations.Joining
  intro s cid vmod waited digest gen step sh caps k
  refine ⟨fun hcid => ⟨exec_join_held hcid vmod digest, exec_message_unknown hcid vmod waited gen step sh caps⟩,
    fun i hcid => ⟨fun hst => exec_join_refuse_late hcid hst vmod digest, fun hst => ⟨fun v hparent => ?_,
      fun hparent hdigest => ?_, fun hparent hdigest hmember hnew => ?_, exec_refuse_fails hcid hst vmod,
      fun hgen hvmod => ⟨_, exec_ready_taken hcid hgen hst hvmod sh, ?_, ?_⟩⟩,
      fun hgen => exec_ready_stale hcid hgen sh, fun hshift hroot hmember =>
        exec_bal_kept hcid hshift hroot hmember waited step, fun hshift => exec_caps_taken hcid hshift step caps,
      fun hshift => exec_bal_caps_unshifted hcid hshift vmod waited step caps⟩,
    fun hst => ⟨⟨_, exec_memberJoinDeadline_fails hst, ?_, ?_⟩, fun hroot hmissing =>
      ⟨_, exec_joinDeadline_fails hst hroot hmissing, ?_⟩⟩, exec_deadline_late⟩
  · rw [exec_join hcid, State.joinAt_passed hst hparent]
  · rw [exec_join hcid, State.joinAt_differs hst hparent hdigest]
  · rw [exec_join hcid, State.joinAt_counted hst hparent hdigest hmember hnew]
  · rw [State.comp_updComp]
  · rw [State.comp_updComp]
  · rw [State.comp_updComp]
  · rw [State.comp_updComp]
  · obtain ⟨m, hm⟩ := s.comp_joinFail k 0xFF
    rw [hm]
    exact ⟨rfl, rfl⟩

end

section
/-! PROOFS. Compositions (10 R327 to R333, R336 to R343, Table 5): what taking, loading and giving back a composition's
resources leaves of the table of compositions, and the checks of its descriptors in their order. -/

namespace Sys2Proof.Machine

/-! ### Operations that leave the table of compositions alone -/

section comps
variable (s : State)

@[simp] theorem State.append_comps (k kind : Nat) (body : List Byte) : (s.append k kind body).comps = s.comps := rfl

@[simp] theorem State.appendClose_comps (k reason : Nat) : (s.appendClose k reason).comps = s.comps := by
  unfold State.appendClose
  dsimp only
  split <;> rfl

@[simp] theorem State.recap_comps : s.recap.comps = s.comps := rfl

@[simp] theorem State.ctxActive_comps (c : Nat) : (s.ctxActive c).comps = s.comps := rfl

@[simp] theorem State.updLanes_comps (ds : List Nat) (l : Nat) (f : Lane → Lane) :
    (s.updLanes ds l f).comps = s.comps :=
  foldl_keeps State.comps _ (fun _ _ => by rfl) _ _

@[simp] theorem State.takeCores_comps (l : Nat) (ks : List Nat) : (s.takeCores l ks).comps = s.comps :=
  foldl_keeps State.comps _ (fun _ _ => by rfl) _ _

@[simp] theorem State.takeClusters_comps (l : Nat) (cs : List (Nat × Nat)) : (s.takeClusters l cs).comps = s.comps :=
  foldl_keeps State.comps _ (fun _ _ => by rfl) _ _

@[simp] theorem State.loadCores_comps (v : Variant) (l : Nat) (b : Binding) : (s.loadCores v l b).comps = s.comps :=
  foldl_keeps (fun a : State × Tab Nat => a.1.comps) _ (fun _ _ => by rfl) _ _

@[simp] theorem State.laneImages_comps (map : List (Nat × Nat)) (l : Nat) (v : Variant) (rfw : Nat) :
    (s.laneImages map l v rfw).comps = s.comps := by
  refine foldl_keeps State.comps _ (fun u e => ?_) _ _
  split <;> rfl

@[simp] theorem State.updArena_comps (k : Nat) (f : Arena → Arena) : (s.updArena k f).comps = s.comps := rfl

@[simp] theorem State.takeArena_comps (k ctx : Nat) (shape : List Byte) (v : Variant) (vd d tier : Nat) :
    (s.takeArena k ctx shape v vd d tier).comps = s.comps := by
  unfold State.takeArena
  split
  · rfl
  · dsimp only
    rw [State.updArena_comps]
    exact foldl_keeps State.comps _ (fun _ _ => by rfl) _ _

@[simp] theorem State.unbindCores_comps (l : Nat) (cores : List Nat) (clusters : List (Nat × Nat)) :
    (s.unbindCores l cores clusters).comps = s.comps := by
  unfold State.unbindCores
  dsimp only
  rw [foldl_keeps State.comps]
  · refine foldl_keeps State.comps _ (fun u i => ?_) _ _
    split <;> rfl
  · intro _ _; rfl

@[simp] theorem State.freeArenas_comps (k : Nat) : (s.freeArenas k).comps = s.comps := by
  unfold State.freeArenas
  dsimp only
  refine foldl_keeps State.comps _ (fun u e => foldl_keeps State.comps _ (fun u i => ?_) _ _) _ _
  split
  · split <;> rfl
  · rfl

@[simp] theorem State.revokeLane_comps (d l : Nat) : (s.revokeLane d l).comps = s.comps := by
  unfold State.revokeLane
  dsimp only
  split
  · rw [State.updTongs_comps]; rfl
  · rfl

@[simp] theorem State.pushWork_comps (p : Bool) (c : Nat) (w : Work) : (s.pushWork p c w).comps = s.comps :=
  congrArg Aside.comps (s.pushWork_aside p c w)

@[simp] theorem State.noticeOn_comps (p : Bool) (r : Nat) (l : List Payload) : (s.noticeOn p r l).1.comps = s.comps :=
  congrArg Aside.comps (s.noticeOn_aside p r l)

@[simp] theorem State.raiseFence_comps (n : Nat) (v : Word64) (p : Bool) (c : Nat) :
    (s.raiseFence n v p c).comps = s.comps := by
  unfold State.raiseFence
  dsimp only
  split
  · rfl
  · split
    · (repeat' split) <;> simp
    · rfl

@[simp] theorem State.afterSignal_comps (n : Nat) : (s.afterSignal n).comps = s.comps := by
  unfold State.afterSignal
  split
  · exact congrArg Aside.comps (s.releaseWaits_aside n)
  · rfl

end comps


/-! ### What binding and freeing make of the table -/

section table
variable (s : State) (k : Nat)

theorem State.comp_eq {s t : State} (h : s.comps = t.comps) (i : Nat) : s.comp i = t.comp i := by
  rw [State.comp, h, State.comp]

theorem State.kvReset_comps : (s.kvReset k).comps = (s.updComp k fun m => { m with history := [] }).comps :=
  foldl_keeps State.comps _ (fun _ _ => by rfl) _ _

/-- A composition as COMP_CREATE binds it. -/
def State.boundComp (s : State) (ctx : Nat) (shape : List Byte) (img : Image) (v : Variant) (map : List (Nat × Nat))
    (l : Nat) (b : Binding) : Comp :=
  { compOf ctx shape img v.idx with
    st := if shNmod shape = 1 then .ready else .joining
    lane := l, gen := 1, diemap := map, clusters := b, capw := s.pwr.cap.toNat }

/-- In one module the bound composition does not join, and stands in the table as it was bound. -/
theorem State.comp_create {shape : List Byte} (hone : shNmod shape = 1) (ctx : Nat) (img : Image) (v : Variant)
    (map : List (Nat × Nat)) (l : Nat) (b : Binding) :
    (s.create k ctx shape img v map l b).comp k = { s.boundComp ctx shape img v map l b with history := [] } := by
  have hbound : ∃ t : State, (s.create k ctx shape img v map l b).comps = (t.kvReset k).comps ∧
      t.comps = (s.updComp k fun _ => s.boundComp ctx shape img v map l b).comps := by
    unfold State.create
    dsimp only
    rw [if_neg (by simp [hone])]
    simp only [State.ctxActive_comps, State.append_comps, State.updRec_comps, State.updCtx_comps]
    rw [foldl_keeps State.comps]
    · refine ⟨_, rfl, ?_⟩
      rw [State.laneImages_comps, foldl_keeps State.comps]
      · simp only [State.loadCores_comps, State.takeClusters_comps, State.takeCores_comps]
        rfl
      · intro _ _; rfl
    · intro u e
      simp only [State.updDie_comps, State.takeArena_comps]
  obtain ⟨t, hcreate, ht⟩ := hbound
  rw [State.comp_eq (hcreate.trans (t.kvReset_comps k)), State.comp_updComp, State.comp_eq ht, State.comp_updComp]

/-- What COMP_CREATE sets in a composition of one module (10 R331). -/
theorem State.comp_create_ready {shape : List Byte} (hone : shNmod shape = 1) (ctx : Nat) (img : Image) (v : Variant)
    (map : List (Nat × Nat)) (l : Nat) (b : Binding) :
    let m := (s.create k ctx shape img v map l b).comp k
    m.st = .ready ∧ m.gen = 1 ∧ m.ctx = ctx ∧ m.lane = l ∧ m.diemap = map ∧ m.clusters = b ∧ m.shape = shape := by
  rw [State.comp_create s k hone]
  exact ⟨if_pos hone, rfl, rfl, rfl, rfl, rfl, rfl⟩

theorem State.comp_capsBack_ne {j : Nat} (h : j ≠ k) : (s.capsBack k).comp j = s.comp j := by
  unfold State.capsBack
  split
  · exact (State.comp_eq (State.recap_comps _) j).trans (State.comp_updComp_ne _ _ _ h)
  · rfl

theorem State.comp_freeResources_ne {j : Nat} (h : j ≠ k) : (s.freeResources k).comp j = s.comp j := by
  unfold State.freeResources
  rw [State.comp_updComp_ne _ _ _ h]
  exact State.comp_eq (by rw [State.freeArenas_comps, State.unbindCores_comps]) j

/-- Freeing a composition ends with an empty entry of the table. -/
theorem State.freeComp_comps : ∃ t : State, (s.freeComp k).comps = (t.updComp k fun _ => {}).comps ∧
    ∀ j, j ≠ k → t.comp j = s.comp j := by
  unfold State.freeComp
  dsimp only
  refine ⟨_, State.recap_comps _, fun j hj => ?_⟩
  rw [State.comp_updRec, foldl_keeps fun t : State => t.comp j]
  · rw [State.comp_eq (State.updLanes_comps ..), State.comp_freeResources_ne _ k hj]
    rfl
  · intro _ _; rfl

theorem State.comp_freeComp : (s.freeComp k).comp k = {} := by
  obtain ⟨t, hfree, -⟩ := s.freeComp_comps k
  rw [State.comp_eq hfree, State.comp_updComp]

theorem State.comp_freeComp_ne {j : Nat} (h : j ≠ k) : (s.freeComp k).comp j = s.comp j := by
  obtain ⟨t, hfree, hothers⟩ := s.freeComp_comps k
  rw [State.comp_eq hfree, State.comp_updComp_ne _ _ _ h, hothers j h]

theorem State.comp_freeHeld : ∃ m : Comp, (s.freeHeld k).comp k =
    { m with heldCores := [], heldClusters := [], heldShapes := [], draining := false } :=
  ⟨_, State.comp_updComp ..⟩

end table

end Sys2Proof.Machine
end

section
/-! PROOFS. The descriptors of a composition (10 R327 to R333, R336 to R343, Table 5): COMP_CREATE, COMP_REBIND and
COMP_DESTROY by their checks in order, and DRAIN_RELEASE by its conditions. -/

namespace Sys2Proof.Machine

/-! ### COMP_CREATE (10 R327 to R336, Table 5) -/

/-- A COMP_CREATE at the front of a queue, of a right form, with its shape and image at hand. -/
structure State.CreateBegins (s : State) (q : Nat) (b : List Byte) : Prop where
  begins : s.begins q 0x40 [(16, 8), (24, 4), (32, 8), (40, 8)] b
  shape_aligned : field b 16 8 % 64 = 0
  image_aligned : field b 32 8 % 64 = 0
  data : s.hasData q (field b 24 4 + field b 40 8)

/-- The shape that a COMP_CREATE has read. -/
def State.createShape (s : State) (q : Nat) (b : List Byte) : List Byte :=
  ((s.queue q).buf.take (field b 24 4 + field b 40 8)).take (field b 24 4)

/-- The image that a COMP_CREATE has read: its digest is that of the bytes after the shape. -/
def State.createImage (s : State) (q : Nat) (b : List Byte) (img : Image) : Image :=
  { img with digest := sha256 (((s.queue q).buf.take (field b 24 4 + field b 40 8)).drop (field b 24 4)) }

/-- What is left of a COMP_CREATE whose shape fits its image: role and context, a free index, the binding. -/
def State.tryCreate (s : State) (q : Nat) (shape : List Byte) (img : Image) (v : Variant) : State :=
  if (s.queue q).ctx = 0 || s.sb.role then s.complete q .state
  else
    match s.freeIndex with
    | none => s.complete q .limit
    | some k =>
      match s.bindChecks k none [] [] (compOf (s.queue q).ctx shape img v.idx) shape v true with
      | .error e => s.complete q e
      | .ok (map, l, bind) =>
        (s.create k (s.queue q).ctx shape img v map l bind).complete q .ok (BitVec.ofNat 256 (k + 2 ^ 32))

section create
variable {q : Fin 4096} {s : State} {b : List Byte} {img : Image} (h : s.CreateBegins q b)
include h

theorem exec_compCreate_format (hvariant : (s.createImage q b img).variant (shVariant (s.createShape q b)) = none) :
    exec (.compCreate q img) s = .next (s.complete q .format) := by
  unfold State.createImage State.createShape at hvariant
  refine congrArg Host.Outcome.next ((State.descr_plain h.begins ?_).trans ((State.withData_has h.data _ _).trans ?_))
  · simp [al64, h.shape_aligned, h.image_aligned]
  · simp only [hvariant]

theorem exec_compCreate_fits {v : Variant}
    (hvariant : (s.createImage q b img).variant (shVariant (s.createShape q b)) = some v)
    (hshape : shapeOk (s.createShape q b) (field b 24 4) = true)
    (hfits : s.shapeFits (s.queue q).ctx (s.createShape q b) (s.createImage q b img) = true) :
    exec (.compCreate q img) s = .next (s.tryCreate q (s.createShape q b) (s.createImage q b img) v) := by
  unfold State.createImage State.createShape at *
  refine congrArg Host.Outcome.next ((State.descr_plain h.begins ?_).trans ((State.withData_has h.data _ _).trans ?_))
  · simp [al64, h.shape_aligned, h.image_aligned]
  · simp only [hvariant]
    exact if_neg (by simp [hshape, hfits])

end create

section tryCreate
variable {s : State} {q : Nat} {shape : List Byte} {img : Image} {v : Variant}

theorem State.tryCreate_member (hrole : s.sb.role = true) : s.tryCreate q shape img v = s.complete q .state :=
  if_pos (by simp [hrole])

variable (hrole : s.sb.role = false) (hctx : (s.queue q).ctx ≠ 0)
include hrole hctx

theorem State.tryCreate_limit (hindex : s.freeIndex = none) : s.tryCreate q shape img v = s.complete q .limit := by
  simp [State.tryCreate, hrole, hctx, hindex]

variable {i : Nat} (hindex : s.freeIndex = some i)
include hindex

theorem State.tryCreate_refused {e : Status}
    (hbind : s.bindChecks i none [] [] (compOf (s.queue q).ctx shape img v.idx) shape v true = .error e) :
    s.tryCreate q shape img v = s.complete q e := by
  simp [State.tryCreate, hrole, hctx, hindex, hbind]

theorem State.tryCreate_created {map : List (Nat × Nat)} {l : Nat} {bind : Binding}
    (hbind : s.bindChecks i none [] [] (compOf (s.queue q).ctx shape img v.idx) shape v true = .ok (map, l, bind)) :
    s.tryCreate q shape img v =
      (s.create i (s.queue q).ctx shape img v map l bind).complete q .ok (BitVec.ofNat 256 (i + 2 ^ 32)) := by
  simp [State.tryCreate, hrole, hctx, hindex, hbind]

end tryCreate

/-! ### COMP_REBIND (10 R329, R336 to R342) -/

/-- A COMP_REBIND at the front of a queue whose shape has been read, is well formed, fits the composition's image and
keeps what a rebind may not change (10 R337). -/
structure State.RebindBegins (s : State) (q : Nat) (b : List Byte) (v : Variant) : Prop where
  begins : s.begins q 0x41 [(16, 8), (24, 4)] b
  aligned : field b 16 8 % 64 = 0
  fresh : (s.queue q).started = false
  data : s.hasData q (field b 24 4)
  variant : (s.comp (field b 12 2)).img.variant (shVariant ((s.queue q).buf.take (field b 24 4))) = some v
  shape_ok : shapeOk ((s.queue q).buf.take (field b 24 4)) (field b 24 4) = true
  fits : s.shapeFits (s.queue q).ctx ((s.queue q).buf.take (field b 24 4)) (s.comp (field b 12 2)).img = true
  keeps : shapeKeeps (s.comp (field b 12 2)).shape ((s.queue q).buf.take (field b 24 4)) = true

/-- What is left of a COMP_REBIND whose shape may be taken: the composition's state, the record ring's room, the
binding, and the bound of a running loop. -/
def State.tryRebind (s : State) (q k : Nat) (shape : List Byte) (v : Variant) : State :=
  let m := s.comp k
  if m.st != .ready then s.complete q .state
  else if m.loop.isNone && !s.recRoom k (bindingSize m.shape shape) then s.complete q .limit
  else
    match s.bindChecks k (some m.lane) m.cores m.boundClusters m shape v false with
    | .error e => s.complete q e
    | .ok (map, _, bind) =>
      let kind := rebindKind m.shape shape m.clusters bind
      let plan := planFrames (carryOf kind v m.clusters bind)
      if map != m.diemap then s.complete q .nomem
      else if m.loop.isSome && decide (m.movef < plan) then s.complete q .bound
      else s.rebind q k shape v bind kind plan

theorem exec_compRebind {q : Fin 4096} {s : State} {b : List Byte} {v : Variant} (h : s.RebindBegins q b v) :
    exec (.compRebind q) s =
      .next (s.tryRebind q (field b 12 2) ((s.queue q).buf.take (field b 24 4)) v) := by
  refine congrArg Host.Outcome.next ((State.descr_plain h.begins ?_).trans ((if_neg ?_).trans
    ((State.withData_has h.data _ _).trans ?_)))
  · simp [al64, h.aligned]
  · simp [h.fresh]
  · simp only [h.variant]
    exact if_neg (by simp [h.shape_ok, h.fits, h.keeps])

section tryRebind
variable {s : State} {q k : Nat} {shape : List Byte} {v : Variant}

theorem State.tryRebind_not_ready (hst : (s.comp k).st ≠ .ready) : s.tryRebind q k shape v = s.complete q .state :=
  if_pos (by simpa using hst)

variable (hst : (s.comp k).st = .ready)
  (hroom : (s.comp k).loop ≠ none ∨ s.recRoom k (bindingSize (s.comp k).shape shape) = true)
include hst hroom

theorem State.tryRebind_refused {e : Status} (hbind : s.bindChecks k (some (s.comp k).lane) (s.comp k).cores
    (s.comp k).boundClusters (s.comp k) shape v false = .error e) : s.tryRebind q k shape v = s.complete q e := by
  unfold State.tryRebind
  dsimp only
  rw [if_neg (by simp [hst]), if_neg (by rcases hroom with hloop | hroom <;> simp [*]), hbind]

section bound
variable {l : Nat} {bind : Binding} (hbind : s.bindChecks k (some (s.comp k).lane) (s.comp k).cores
  (s.comp k).boundClusters (s.comp k) shape v false = .ok ((s.comp k).diemap, l, bind))
include hbind

/-- With the dies kept, the bound of a running loop decides. -/
theorem State.tryRebind_bound : s.tryRebind q k shape v =
    let kind := rebindKind (s.comp k).shape shape (s.comp k).clusters bind
    let plan := planFrames (carryOf kind v (s.comp k).clusters bind)
    if (s.comp k).loop.isSome && decide ((s.comp k).movef < plan) then s.complete q .bound
    else s.rebind q k shape v bind kind plan := by
  unfold State.tryRebind
  dsimp only
  rw [if_neg (by simp [hst]), if_neg (by rcases hroom with hloop | hroom <;> simp [*]), hbind]
  exact if_neg (by simp)

theorem State.tryRebind_too_long (hloop : (s.comp k).loop ≠ none) (hlong : (s.comp k).movef < planFrames (carryOf
    (rebindKind (s.comp k).shape shape (s.comp k).clusters bind) v (s.comp k).clusters bind)) :
    s.tryRebind q k shape v = s.complete q .bound :=
  (State.tryRebind_bound hst hroom hbind).trans (if_pos (by simp [Option.isSome_iff_ne_none.2 hloop, hlong]))

theorem State.tryRebind_taken (hshort : (s.comp k).loop = none ∨ planFrames (carryOf
    (rebindKind (s.comp k).shape shape (s.comp k).clusters bind) v (s.comp k).clusters bind) ≤ (s.comp k).movef) :
    s.tryRebind q k shape v = s.rebind q k shape v bind (rebindKind (s.comp k).shape shape (s.comp k).clusters bind)
      (planFrames (carryOf (rebindKind (s.comp k).shape shape (s.comp k).clusters bind) v (s.comp k).clusters bind)) := by
  refine (State.tryRebind_bound hst hroom hbind).trans (if_neg ?_)
  rcases hshort with hloop | hshort
  · simp [hloop]
  · simp [Nat.not_lt.2 hshort]

end bound

end tryRebind

/-! ### COMP_DESTROY (10 R330, R333) -/

/-- A composition with a loop, a rebind or an attached session is not destroyed. -/
def Comp.inUse (m : Comp) : Prop := m.loop ≠ none ∨ m.st = .rebind ∨ m.attached ≠ []

theorem Comp.inUse_iff (m : Comp) :
    (m.loop.isSome || m.st == .rebind || !m.attached.isEmpty) = true ↔ m.inUse := by
  simp [Comp.inUse, Option.isSome_iff_ne_none, or_assoc]

/-- Index `k` and its resources become free, in the order of 10 R330. -/
def State.destroyed (s : State) (k ctx : Nat) : State :=
  (((s.comp k).dies.foldl (fun (t : State) d => t.revokeLane d (s.comp k).lane)
    ((s.appendClose k 0).capsBack k)).freeComp k).ctxActive ctx

section destroyed
variable (s : State) (k ctx : Nat)

theorem State.comp_destroyed : (s.destroyed k ctx).comp k = {} :=
  (State.comp_eq (State.ctxActive_comps ..) k).trans (State.comp_freeComp _ k)

theorem State.comp_destroyed_ne {j : Nat} (h : j ≠ k) : (s.destroyed k ctx).comp j = s.comp j := by
  unfold State.destroyed
  rw [State.comp_eq (State.ctxActive_comps ..), State.comp_freeComp_ne _ k h, foldl_keeps fun t : State => t.comp j,
    State.comp_capsBack_ne _ k h]
  · exact State.comp_eq (State.appendClose_comps ..) j
  · exact fun t d => State.comp_eq (State.revokeLane_comps ..) j

end destroyed

section destroy
variable {q : Fin 4096} {s : State} {b : List Byte} (h : s.begins q 0x42 [] b)
include h

theorem exec_compDestroy_refused (huse : (s.comp (field b 12 2)).inUse) :
    exec (.compDestroy q) s = .next (s.complete q .state) :=
  congrArg Host.Outcome.next ((State.descr_plain h rfl).trans (if_pos ((Comp.inUse_iff _).2 huse)))

theorem exec_compDestroy_destroyed (huse : ¬ (s.comp (field b 12 2)).inUse) : exec (.compDestroy q) s =
    .next ((s.destroyed (field b 12 2) (s.queue q).ctx).complete q .ok) :=
  congrArg Host.Outcome.next ((State.descr_plain h rfl).trans (if_neg (mt (Comp.inUse_iff _).1 huse)))

end destroy

/-! ### DRAIN_RELEASE (10 R343) -/

/-- Old work, flits and, among several modules, the barrier of the generation are all done with. -/
def State.drained (s : State) (k : Nat) : Bool :=
  let m := s.comp k
  m.draining && !s.oldWork k && s.heldDrained m && (m.nmod == 1 || m.genBarrier)

theorem State.drained_iff {s : State} {k : Nat} : s.drained k = true ↔ (s.comp k).draining = true ∧
    s.oldWork k = false ∧ s.heldDrained (s.comp k) = true ∧ ((s.comp k).nmod = 1 ∨ (s.comp k).genBarrier = true) := by
  simp [State.drained, and_assoc]

theorem State.drained_eq_false_iff {s : State} {k : Nat} : s.drained k = false ↔ (s.comp k).draining = false ∨
    s.oldWork k = true ∨ s.heldDrained (s.comp k) = false ∨ ((s.comp k).nmod ≠ 1 ∧ (s.comp k).genBarrier = false) := by
  simp [State.drained, imp_iff_not_or, or_assoc]

section drain
variable {s : State} {k : Fin 256}

theorem exec_drainRelease_waits (h : s.drained k = false) : exec (.drainRelease k) s = .next s :=
  congrArg Host.Outcome.next (if_neg (Bool.eq_false_iff.1 h))

/-- The held resources are freed; the drain fence's signal changes no composition. -/
theorem exec_drainRelease_frees (h : s.drained k = true) :
    ∃ t, exec (.drainRelease k) s = .next t ∧ t.comps = (s.freeHeld k).comps := by
  refine ⟨_, congrArg Host.Outcome.next (if_pos h), ?_⟩
  dsimp only
  split
  · rfl
  · split
    · rw [State.afterSignal_comps, State.raiseFence_comps]
    · rfl

end drain

end Sys2Proof.Machine

open Sys2Proof Sys2Proof.Machine

/-- Settles O37: each descriptor by its checks in order; what creating, destroying and draining make of the table of
compositions is `State.comp_create_ready`, `State.comp_destroyed` and `State.comp_freeHeld`. -/
theorem compositions : Obligations.Compositions := by
  unfold Obligations.Compositions
  intro q k img s b c
  refine ⟨?_, fun hbegins haligned hfresh hdata => ?_, fun hbegins => ?_, ?_⟩
  · intro hbegins hshape himage len hdata data shape img'
    have h : s.CreateBegins q b := ⟨hbegins, hshape, himage, hdata⟩
    refine ⟨exec_compCreate_format h, fun v hvariant hok hfits => ?_⟩
    rw [show exec (.compCreate q img) s = _ from exec_compCreate_fits h hvariant hok hfits]
    refine ⟨fun hrole => congrArg _ (State.tryCreate_member hrole), fun hrole hctx hindex =>
      congrArg _ (State.tryCreate_limit hrole hctx hindex), fun hrole hctx i hindex => ⟨fun e hbind =>
        congrArg _ (State.tryCreate_refused hrole hctx hindex hbind), fun map l bind hbind =>
          ⟨_, congrArg _ (State.tryCreate_created hrole hctx hindex hbind), fun hone =>
            State.comp_create_ready s i hone ..⟩⟩⟩
  · intro i m shape v hvariant hok hfits hkeeps
    have h : s.RebindBegins q b v := ⟨hbegins, haligned, hfresh, hdata, hvariant, hok, hfits, hkeeps⟩
    rw [exec_compRebind h]
    refine ⟨fun hst => congrArg _ (State.tryRebind_not_ready hst), fun hst hroom => ⟨fun e hbind =>
      congrArg _ (State.tryRebind_refused hst hroom hbind), fun l bind hbind => ?_⟩⟩
    exact ⟨fun hloop hlong => congrArg _ (State.tryRebind_too_long hst hroom hbind hloop hlong), fun hshort =>
      congrArg _ (State.tryRebind_taken hst hroom hbind hshort)⟩
  · refine ⟨fun hloop hst hattached => ⟨_, exec_compDestroy_destroyed hbegins ?_, s.comp_destroyed .., fun j hj =>
      s.comp_destroyed_ne _ _ hj⟩, exec_compDestroy_refused hbegins⟩
    exact fun huse => huse.elim (· hloop) fun huse => huse.elim hst (· hattached)
  · refine ⟨fun hdraining hold hheld hmod => ?_, fun hnot =>
      exec_drainRelease_waits (State.drained_eq_false_iff.2 hnot)⟩
    obtain ⟨t, hexec, hcomps⟩ := exec_drainRelease_frees (State.drained_iff.2 ⟨hdraining, hold, hheld, hmod⟩)
    obtain ⟨m, hm⟩ := s.comp_freeHeld k
    refine ⟨t, hexec, ?_⟩
    rw [State.comp_eq hcomps, hm]
    exact ⟨rfl, rfl, rfl⟩

end

section
/-! PROOFS. Training of a link port (11 R366, R368 to R371, R384, R392, R400 to R403), with what a port keeps when it
enters DOWN and when a message is queued on it. -/

namespace Sys2Proof

/-- A property that a change gives to every entry holds of each entry changed. -/
theorem Tab.updAll_holds {α : Type} [DecidableEq α] {d : α} {f : α → α} {P : α → Prop} (hf : ∀ v, P (f v))
    {ks : List Nat} {k : Nat} (hk : k ∈ ks) (t : Tab α) : P (Tab.look d (Tab.updAll d t ks f) k) := by
  have keeps : ∀ (ks : List Nat) (t : Tab α), P (Tab.look d t k) → P (Tab.look d (Tab.updAll d t ks f) k) := by
    intro ks
    induction ks with
    | nil => exact fun t h => h
    | cons j ks ih =>
      intro t h
      refine ih _ ?_
      by_cases hjk : k = j
      · subst hjk
        rw [Tab.look_upd_same]
        exact hf _
      · rwa [Tab.look_upd_ne _ hjk]
  induction ks generalizing t with
  | nil => cases hk
  | cons j ks ih =>
    rcases List.mem_cons.1 hk with rfl | hk
    · exact keeps ks _ (by rw [Tab.look_upd_same]; exact hf _)
    · exact ih hk _

end Sys2Proof

namespace Sys2Proof.Machine

/-! ### A port that enters DOWN (11 R402) -/

@[simp] theorem State.port_portDown (s : State) (i rsn : Nat) : (s.portDown i rsn).port i = (s.port i).enterDown rsn := by
  have hlook : ∀ ports, Tab.look {} ports i = (s.port i).enterDown rsn → Tab.look {} (Tab.mapVals {} (fun _ (q : Port) =>
      { q with transit := q.transit.filter fun e => e.1 != i }) ports) i = (s.port i).enterDown rsn := by
    intro ports h
    rw [Tab.look_mapVals_eq rfl, h]
    rfl
  exact hlook _ (State.port_updPort s i fun p => p.enterDown rsn)

/-- The lanes with a run on a port that enters DOWN are link-lost. -/
theorem State.linkLost_portDown {s : State} {i l : Nat} (hruns : (s.port i).runsLane l = true) (hl : l < 8) (rsn : Nat) :
    ((s.portDown i rsn).lane (i / 2) l).linkLost = true := by
  unfold State.lane State.portDown
  rw [State.die_updDie]
  exact Tab.updAll_holds (P := fun L : Lane => L.linkLost = true) (fun _ => rfl)
    (List.mem_filter.2 ⟨List.mem_range.2 hl, hruns⟩) _

/-- A command leaves port `i` DOWN with a reason and with nothing queued. -/
def goesDown (o : Host.Outcome State Fault Refusal) (i rsn : Nat) : Prop :=
  ∃ u : State, o = .next u ∧ (u.port i).st = .down ∧ (u.port i).downrsn = BitVec.ofNat 4 rsn ∧
    (u.port i).egress = [] ∧ (u.port i).blocks = [] ∧ (u.port i).general = []

theorem goesDown_of_portDown {o : Host.Outcome State Fault Refusal} {s : State} {i rsn : Nat}
    (h : o = .next (s.portDown i rsn)) : goesDown o i rsn :=
  ⟨_, h, by rw [State.port_portDown]; exact ⟨rfl, rfl, rfl, rfl, rfl⟩⟩

/-- A command that takes a port DOWN leaves its state and the reason. -/
theorem downWith_of_portDown {o : Host.Outcome State Fault Refusal} {s : State} {i rsn : Nat}
    (h : o = .next (s.portDown i rsn)) :
    ∃ u : State, o = .next u ∧ (u.port i).st = .down ∧ (u.port i).downrsn = BitVec.ofNat 4 rsn := by
  obtain ⟨u, hu, hst, hrsn, -⟩ := goesDown_of_portDown h
  exact ⟨u, hu, hst, hrsn⟩

/-! ### A message queued on a port (11 R390) -/

/-- Queueing a message changes the queue, its sequence and the count of discarded messages alone. -/
theorem Port.queueGeneral_eq (p : Port) (dest src : Nat) (m : GenMsg) : ∃ drops queued seq,
    p.queueGeneral dest src m = { p with ctldrop := drops, general := queued, txSeq := seq } := by
  unfold Port.queueGeneral
  split
  · exact ⟨_, _, _, rfl⟩
  · exact ⟨_, _, _, rfl⟩

theorem State.port_sendPeer (s : State) (i : Nat) (m : GenMsg) :
    (s.sendPeer i m).port i = (s.port i).queueGeneral (s.port i).peerId.toNat s.route.devid.toNat m :=
  State.port_updPort ..

/-! ### The lane test (11 R366) -/

/-- The lanes of 0 to 3 that failed the lane test. -/
def failedLanes (pass : BitVec 5) : List Nat := (List.range 4).filter fun n => !pass.toNat.testBit n

/-- Two lanes failed, or one failed and the spare too. -/
def tooFewLanes (pass : BitVec 5) : Prop :=
  2 ≤ (failedLanes pass).length ∨ failedLanes pass ≠ [] ∧ pass.toNat.testBit 4 = false

theorem laneChoice_eq (pass : BitVec 5) : laneChoice pass = match failedLanes pass with
    | [] => some (7, false)
    | [n] => if pass.toNat.testBit 4 then some (n, true) else none
    | _ => none := rfl

theorem laneChoice_none {pass : BitVec 5} (h : tooFewLanes pass) : laneChoice pass = none := by
  unfold tooFewLanes at h
  rw [laneChoice_eq]
  cases hfailed : failedLanes pass with
  | nil => simp [hfailed] at h
  | cons n l =>
    cases l with
    | nil => simpa [hfailed] using h
    | cons _ _ => rfl

/-- With enough lanes the failed one is excluded, and the spare takes its place. -/
theorem laneChoice_some {pass : BitVec 5} (h : ¬ tooFewLanes pass) :
    laneChoice pass = some ((failedLanes pass).headD 7, decide (failedLanes pass ≠ [])) := by
  unfold tooFewLanes at h
  rw [laneChoice_eq]
  cases hfailed : failedLanes pass with
  | nil => rfl
  | cons n l =>
    cases l with
    | nil => simpa [hfailed] using h
    | cons _ _ => simp [hfailed] at h

/-! ### A peer's HELLO (11 R370) -/

/-- What the rules of HELLO ask of a peer's device ID and role on port `i`. -/
def State.peerFits (s : State) (i dev role : Nat) : Prop :=
  dev ≠ s.route.devid.toNat ∧ (role = 2 → i = 0 ∨ i = 8) ∧ (role ≠ 2 → dev ≠ 0x3FFFF)

theorem State.helloOk_iff (s : State) (i dev role : Nat) : s.helloOk i dev role = true ↔ s.peerFits i dev role := by
  unfold State.helloOk State.peerFits
  by_cases hrole : role = 2
  · simp [hrole]
  · simp [hrole]

theorem State.helloOk_eq_false {s : State} {i dev role : Nat} (h : ¬ s.peerFits i dev role) :
    s.helloOk i dev role = false :=
  Bool.eq_false_iff.2 fun hok => h ((s.helloOk_iff i dev role).1 hok)

/-! ### LINK_TRAINING (11 R366, R368 to R371, R392) -/

/-- A training port after the lane test and its peer's HELLO. -/
def State.met (s : State) (i : Nat) (t : LinkTrain) : State :=
  let u := s.updPort i fun p => p.tested t.pass
  u.fresh.2.updPort i fun p =>
    { p.meet t.peerId t.peerPort t.peerRole t.peerNonce with nonce := BitVec.ofNat 256 u.fresh.1 }

theorem State.peerId_met (s : State) (i : Nat) (t : LinkTrain) :
    ((s.met i t).port i).peerId = BitVec.ofNat 18 t.peerId :=
  congrArg Port.peerId (State.port_updPort ..)

/-- A port that has passed training comes UP, tells the peer of its lanes, and a host's port ends its step. -/
def State.linkUp (s : State) (i excl : Nat) (spare : Bool) (flight : Nat) : State :=
  let s := s.updPort i fun p => p.comeUp excl spare flight
  let s := s.sendPeer i (s.port i).lanesMsg
  if (i = 0 ∨ i = 8) ∧ s.sb.step.toNat < 3 then { s with sb := { s.sb with step := 3 } } else s

theorem State.port_linkUp (s : State) (i excl : Nat) (spare : Bool) (flight : Nat) : ∃ dest src m,
    (s.linkUp i excl spare flight).port i = ((s.port i).comeUp excl spare flight).queueGeneral dest src m := by
  have hport : (s.linkUp i excl spare flight).port i = ((s.updPort i fun p => p.comeUp excl spare flight).sendPeer i
      ((s.updPort i fun p => p.comeUp excl spare flight).port i).lanesMsg).port i := by
    unfold State.linkUp
    dsimp only
    split <;> rfl
  rw [hport, State.port_sendPeer, State.port_updPort]
  exact ⟨_, _, _, rfl⟩

/-- A port is UP with the lanes chosen and its peer, both directions at epoch 1 and frame counter 0 (11 R392). -/
def Port.startsUp (p : Port) (excl : Nat) (spare : Bool) (peer : BitVec 18) : Prop :=
  p.st = .up ∧ p.excl = BitVec.ofNat 3 excl ∧ p.spare = spare ∧ p.txEpoch = 1 ∧ p.rxEpoch = 1 ∧ p.txfc = 0 ∧ p.rxfc = 0 ∧
    p.peerId = peer

theorem Port.comeUp_startsUp (p : Port) (excl : Nat) (spare : Bool) (flight : Nat) :
    (p.comeUp excl spare flight).startsUp excl spare p.peerId := by
  unfold Port.comeUp
  dsimp only
  split <;> exact ⟨rfl, rfl, rfl, rfl, rfl, rfl, rfl, rfl⟩

theorem State.linkUp_startsUp (s : State) (i excl : Nat) (spare : Bool) (flight : Nat) :
    ((s.linkUp i excl spare flight).port i).startsUp excl spare (s.port i).peerId := by
  obtain ⟨dest, src, m, hport⟩ := State.port_linkUp s i excl spare flight
  obtain ⟨_, _, _, hqueued⟩ := Port.queueGeneral_eq ((s.port i).comeUp excl spare flight) dest src m
  rw [hport, hqueued]
  exact Port.comeUp_startsUp ..

theorem exec_linkTraining_idle {port : Fin 16} {s : State} (t : LinkTrain)
    (h : (s.port port.val).st ≠ .training ∨ s.inRun = false) : exec (.linkTraining port t) s = .next s :=
  congrArg Host.Outcome.next (if_pos (by simpa using h))

section training
variable {port : Fin 16} {t : LinkTrain} {s : State} (hst : (s.port port.val).st = .training)

section lanes
variable (hrun : s.inRun = true)
include hst hrun

theorem exec_linkTraining_lanes (hlanes : tooFewLanes t.pass) : goesDown (exec (.linkTraining port t) s) port.val 2 := by
  refine goesDown_of_portDown (s := s.updPort port.val fun p => p.tested t.pass)
    (congrArg Host.Outcome.next ((if_neg (by simp [hst, hrun])).trans ?_))
  simp only [laneChoice_none hlanes]

variable (hlanes : ¬ tooFewLanes t.pass)
include hlanes

/-- With lanes enough, the checks of the peer, of its key and of the flight time decide in this order. -/
theorem exec_linkTraining_checks : exec (.linkTraining port t) s = .next (
    let u := s.met port.val t
    if !s.helloOk port.val t.peerId t.peerRole then u.portDown port.val 3
    else if !t.keyOk || s.sec.fs.isNone then u.portDown port.val 4
    else if 30 < t.flight then u.portDown port.val 5
    else u.linkUp port.val ((failedLanes t.pass).headD 7) (decide (failedLanes t.pass ≠ [])) t.flight) := by
  refine congrArg Host.Outcome.next ((if_neg (by simp [hst, hrun])).trans ?_)
  simp only [laneChoice_some hlanes]
  rfl

theorem exec_linkTraining_peer (hpeer : ¬ s.peerFits port.val t.peerId t.peerRole) :
    goesDown (exec (.linkTraining port t) s) port.val 3 := by
  exact goesDown_of_portDown ((exec_linkTraining_checks hst hrun hlanes).trans (congrArg Host.Outcome.next
    (if_pos (by simp [State.helloOk_eq_false hpeer]))))

variable (hpeer : s.peerFits port.val t.peerId t.peerRole)
include hpeer

theorem exec_linkTraining_key (hkey : t.keyOk = false ∨ s.sec.fs = none) :
    goesDown (exec (.linkTraining port t) s) port.val 4 := by
  have hhello := (State.helloOk_iff ..).2 hpeer
  exact goesDown_of_portDown ((exec_linkTraining_checks hst hrun hlanes).trans (congrArg Host.Outcome.next
    ((if_neg (by simp [hhello])).trans (if_pos (by simpa using hkey)))))

variable (hkey : t.keyOk = true) (hfs : s.sec.fs ≠ none)
include hkey hfs

theorem exec_linkTraining_flight (hflight : 30 < t.flight) : goesDown (exec (.linkTraining port t) s) port.val 5 := by
  have hhello := (State.helloOk_iff ..).2 hpeer
  exact goesDown_of_portDown ((exec_linkTraining_checks hst hrun hlanes).trans (congrArg Host.Outcome.next
    ((if_neg (by simp [hhello])).trans ((if_neg (by simp [hkey, hfs])).trans (if_pos hflight)))))

theorem exec_linkTraining_up (hflight : t.flight ≤ 30) : exec (.linkTraining port t) s = .next
    ((s.met port.val t).linkUp port.val ((failedLanes t.pass).headD 7) (decide (failedLanes t.pass ≠ [])) t.flight) := by
  have hhello := (State.helloOk_iff ..).2 hpeer
  exact (exec_linkTraining_checks hst hrun hlanes).trans (congrArg Host.Outcome.next
    ((if_neg (by simp [hhello])).trans ((if_neg (by simp [hkey, hfs])).trans (if_neg (by omega)))))

end lanes

/-! ### The deadline, and the messages of training (11 R368, R370, R371) -/

include hst

theorem exec_linkTrainingTimeout_training : goesDown (exec (.linkTrainingTimeout port) s) port.val 1 :=
  goesDown_of_portDown (congrArg Host.Outcome.next (if_pos (by simp [hst])))

theorem exec_hello_refused {dev role : Nat} (hpeer : ¬ s.peerFits port.val dev role) (peerPort : Nat) (nonce : Digest) :
    goesDown (exec (.hello port dev peerPort role nonce) s) port.val 3 :=
  goesDown_of_portDown (congrArg Host.Outcome.next ((if_neg (by simp [hst])).trans
    (if_pos (by simp [State.helloOk_eq_false hpeer]))))

theorem exec_hello_kept {dev role : Nat} (hpeer : s.peerFits port.val dev role) (peerPort : Nat) (nonce : Digest) :
    exec (.hello port dev peerPort role nonce) s = .next (s.updPort port.val fun p => p.meet dev peerPort role nonce) :=
  congrArg Host.Outcome.next ((if_neg (by simp [hst])).trans (if_neg (by simpa [State.helloOk_iff] using hpeer)))

theorem exec_echoAns_late {flight : Nat} (hflight : 30 < flight) (token hold : Nat) :
    goesDown (exec (.echoAns port token hold flight) s) port.val 5 :=
  goesDown_of_portDown (congrArg Host.Outcome.next ((if_neg (by simp [hst])).trans (if_pos hflight)))

theorem exec_echoAns_kept {flight : Nat} (hflight : flight ≤ 30) (token hold : Nat) :
    exec (.echoAns port token hold flight) s =
      .next (s.updPort port.val fun p => { p with flight := BitVec.ofNat 8 flight }) :=
  congrArg Host.Outcome.next ((if_neg (by simp [hst])).trans (if_neg (by omega)))

end training

/-- A port that does not train takes no deadline and no message of training. -/
theorem exec_not_training {port : Fin 16} {s : State} (hst : (s.port port.val).st ≠ .training)
    (dev peerPort role token hold flight : Nat) (nonce : Digest) :
    exec (.linkTrainingTimeout port) s = .next s ∧ exec (.hello port dev peerPort role nonce) s = .next s ∧
      exec (.echoAns port token hold flight) s = .next s :=
  ⟨congrArg Host.Outcome.next (if_neg (by simpa using hst)), congrArg Host.Outcome.next (if_pos (by simpa using hst)),
    congrArg Host.Outcome.next (if_pos (by simpa using hst))⟩

/-! ### Retraining and enabling (11 R403, Table 12) -/

section control
variable {port : Fin 16} {s : State}

theorem exec_retrainDelay_trains (hrun : s.inRun = true) (henable : (s.port port.val).enable = true)
    (hst : (s.port port.val).st = .down) : exec (.retrainDelay port) s = .next (s.updPort port.val Port.train) :=
  congrArg Host.Outcome.next (if_pos (by simp [hrun, henable, hst]))

theorem exec_retrainDelay_idle (h : s.inRun = false ∨ (s.port port.val).enable = false ∨ (s.port port.val).st ≠ .down) :
    exec (.retrainDelay port) s = .next s :=
  congrArg Host.Outcome.next (if_neg (by simpa [imp_iff_not_or, or_assoc] using h))

theorem exec_retrain_training (hst : (s.port port.val).st = .training) :
    exec (.retrain port) s = .next (s.portDown port.val 10) := by
  refine congrArg Host.Outcome.next ?_
  simp only [State.retrain, hst]

/-- An UP port tells its peer before it goes DOWN. -/
theorem exec_retrain_up (hst : (s.port port.val).st = .up) :
    exec (.retrain port) s = .next ((s.sendDown port.val 10).portDown port.val 10) := by
  refine congrArg Host.Outcome.next ?_
  simp only [State.retrain, hst]

theorem exec_retrain_idle (hup : (s.port port.val).st ≠ .up) (htraining : (s.port port.val).st ≠ .training) :
    exec (.retrain port) s = .next s := by
  refine congrArg Host.Outcome.next ?_
  unfold State.retrain
  split
  · exact absurd ‹_› hup
  · exact absurd ‹_› htraining
  · rfl

theorem State.linkEnable_off (s : State) (i : Nat) : s.linkEnable i false =
    let u := s.updPort i fun p => { p with enable := false }
    if (s.port i).st != .down then u.portDown i 10 else u := rfl

theorem State.linkEnable_on (s : State) (i : Nat) : s.linkEnable i true =
    let u := s.updPort i fun p => { p with enable := true }
    if !(s.port i).enable && ((s.port i).st == .down || (s.port i).st == .off) && s.inRun then u.updPort i Port.train
    else u := rfl

theorem exec_linkDisable (hst : (s.port port.val).st ≠ .down) :
    goesDown (exec (.linkEnableWrite port false) s) port.val 10 :=
  goesDown_of_portDown (congrArg Host.Outcome.next ((State.linkEnable_off ..).trans (if_pos (by simpa using hst))))

theorem exec_linkDisable_down (hst : (s.port port.val).st = .down) :
    exec (.linkEnableWrite port false) s = .next (s.updPort port.val fun p => { p with enable := false }) :=
  congrArg Host.Outcome.next ((State.linkEnable_off ..).trans (if_neg (by simp [hst])))

theorem exec_linkEnable_trains (henable : (s.port port.val).enable = false)
    (hst : (s.port port.val).st = .down ∨ (s.port port.val).st = .off) (hrun : s.inRun = true) :
    exec (.linkEnableWrite port true) s =
      .next ((s.updPort port.val fun p => { p with enable := true }).updPort port.val Port.train) :=
  congrArg Host.Outcome.next ((State.linkEnable_on ..).trans (if_pos (by simpa [henable, hrun] using hst)))

theorem exec_linkEnable_enabled (henable : (s.port port.val).enable = true) :
    exec (.linkEnableWrite port true) s = .next (s.updPort port.val fun p => { p with enable := true }) :=
  congrArg Host.Outcome.next ((State.linkEnable_on ..).trans (if_neg (by simp [henable])))

end control

end Sys2Proof.Machine

open Sys2Proof Sys2Proof.Machine

/-- Settles O46: the checks of training in their order, then the messages and control writes by the port's state. -/
theorem linkTraining : Obligations.LinkTraining := by
  unfold Obligations.LinkTraining
  intro port t s dev peerPort role token hold flight nonce i p down failed bad ok
  refine ⟨exec_linkTraining_idle t, fun hst hrun => ⟨exec_linkTraining_lanes hst hrun, fun hlanes =>
      ⟨exec_linkTraining_peer hst hrun hlanes, fun hpeer => ⟨exec_linkTraining_key hst hrun hlanes hpeer,
        exec_linkTraining_flight hst hrun hlanes hpeer, fun hkey hfs hflight => ?_⟩⟩⟩,
    exec_linkTrainingTimeout_training, fun hst => exec_not_training hst dev peerPort role token hold flight nonce,
    exec_retrainDelay_trains, exec_retrainDelay_idle, fun hst => ⟨fun hpeer => exec_hello_refused hst hpeer peerPort nonce,
      fun hpeer => exec_hello_kept hst hpeer peerPort nonce, fun hflight => exec_echoAns_late hst hflight token hold,
      fun hflight => exec_echoAns_kept hst hflight token hold, goesDown_of_portDown (exec_retrain_training hst)⟩,
    fun hst => ⟨goesDown_of_portDown (exec_retrain_up hst), _, exec_retrain_up hst, State.portDown_out ..⟩,
    exec_retrain_idle, exec_linkDisable, exec_linkDisable_down, fun henable hst hrun =>
      ⟨_, exec_linkEnable_trains henable hst hrun, ?_⟩, exec_linkEnable_enabled⟩
  · refine ⟨_, exec_linkTraining_up hst hrun hlanes hpeer hkey hfs hflight, ?_⟩
    rw [← State.peerId_met s i t]
    exact State.linkUp_startsUp ..
  · rw [State.port_updPort, State.port_updPort]
    exact ⟨rfl, rfl⟩

end

section
/-! PROOFS. Messages and rekeying on a link port (11 R391 to R395, R400, R401, Table 9). -/

namespace Sys2Proof.Machine

/-! ### A port that is not UP -/

/-- Rekeying, a port's own messages but ECHO, and loss do nothing to a port that is not UP. -/
theorem exec_message_not_up {port : Fin 16} {s : State} (hst : (s.port port.val).st ≠ .up) (rsn : Fin 16)
    (excl degr fcsw : Nat) (epoch : BitVec 32) :
    ∀ j ∈ [Instr.lanes port excl degr, .rekey port epoch fcsw, .rekeyStart port, .fcThreshold port, .counterExhausted port,
      .down port rsn, .controlSilence port, .lockLoss port], exec j s = .next s := by
  have hstart : s.startRekey port.val = s := if_neg (by simp [hst])
  simp only [List.forall_mem_cons, List.not_mem_nil, false_imp_iff, implies_true, and_true]
  refine ⟨?lanes, ?rekey, ?rekeyStart, ?fcThreshold, ?counterExhausted, ?down, ?controlSilence, ?lockLoss⟩ <;>
    refine congrArg Host.Outcome.next ?_
  case rekeyStart => exact hstart
  case fcThreshold => rw [hstart, ite_self]
  all_goals exact if_neg (by simp [hst])

section ports
variable {port : Fin 16} {s : State}

/-! ### Echoes (11 R391) -/

theorem exec_echo_answered (hst : (s.port port.val).st = .training ∨ (s.port port.val).st = .up) (token hold : Nat) :
    exec (.echo port token hold) s = .next (s.sendPeer port.val (.echoAns token hold)) :=
  congrArg Host.Outcome.next (if_pos (by simpa using hst))

theorem exec_echo_idle (htraining : (s.port port.val).st ≠ .training) (hup : (s.port port.val).st ≠ .up)
    (token hold : Nat) : exec (.echo port token hold) s = .next s :=
  congrArg Host.Outcome.next (if_neg (by simp [htraining, hup]))

/-! ### Rekeys that are not taken or not due (11 R392 to R394) -/

theorem exec_rekey_ignored {epoch : BitVec 32} {fcsw : Nat} (h : epoch ≠ (s.port port.val).rxEpoch + 1 ∨
    fcsw < (s.port port.val).rxfc.toNat + 16 ∨ (s.port port.val).rxfc.toNat + 2 ^ 20 < fcsw) :
    exec (.rekey port epoch fcsw) s = .next s := by
  refine congrArg Host.Outcome.next (if_neg ?_)
  simp only [Bool.and_eq_true, beq_iff_eq, decide_eq_true_eq]
  rintro ⟨⟨⟨-, hepoch⟩, hnear⟩, hfar⟩
  rcases h with h | h | h
  · exact h hepoch
  · omega
  · omega

theorem State.startRekey_pending (hpending : (s.port port.val).txRekey ≠ none) : s.startRekey port.val = s :=
  if_neg (by simp [hpending])

theorem exec_fcThreshold_reached (h : 2 ^ 47 ≤ (s.port port.val).txfc.toNat) :
    exec (.fcThreshold port) s = .next (s.startRekey port.val) :=
  congrArg Host.Outcome.next (if_pos h)

theorem exec_fcThreshold_below (h : (s.port port.val).txfc.toNat < 2 ^ 47) : exec (.fcThreshold port) s = .next s :=
  congrArg Host.Outcome.next (if_neg (Nat.not_le.2 h))

/-- A pending rekey that takes effect before 2^48 saves the port. -/
theorem exec_counterExhausted_saved {f : Nat} (hpending : (s.port port.val).txRekey = some f) (hf : f < 2 ^ 48) :
    exec (.counterExhausted port) s = .next s :=
  congrArg Host.Outcome.next (if_neg (by
    simp only [hpending, hf, decide_true, Bool.not_true, Bool.and_false, Bool.false_eq_true, not_false_eq_true]))

theorem exec_counterExhausted_early (h : (s.port port.val).txfc.toNat + 16 < 2 ^ 48) :
    exec (.counterExhausted port) s = .next s :=
  congrArg Host.Outcome.next (if_neg (by
    simp only [decide_eq_false (Nat.not_le.2 h), Bool.and_false, Bool.false_and, Bool.false_eq_true, not_false_eq_true]))

section up
variable (hst : (s.port port.val).st = .up)
include hst

theorem exec_lanes_kept (excl degr : Nat) : exec (.lanes port excl degr) s =
    .next (s.updPort port.val fun p => { p with peerExcl := excl % 8, peerDegr := degr % 32 }) :=
  congrArg Host.Outcome.next (if_pos (by simp [hst]))

/-! ### Rekeying (11 R392 to R394) -/

theorem exec_rekey_taken {epoch : BitVec 32} {fcsw : Nat} (hepoch : epoch = (s.port port.val).rxEpoch + 1)
    (hnear : (s.port port.val).rxfc.toNat + 16 ≤ fcsw) (hfar : fcsw ≤ (s.port port.val).rxfc.toNat + 2 ^ 20) :
    exec (.rekey port epoch fcsw) s = .next (s.updPort port.val fun p => { p with rxRekey := some fcsw }) :=
  congrArg Host.Outcome.next (if_pos (by
    simp only [hst, hepoch, hnear, hfar, beq_self_eq_true, decide_true, Bool.and_self]))

/-- A transmitter without a pending rekey names the next epoch and a switch 64 frames ahead. -/
theorem State.startRekey_starts (hnone : (s.port port.val).txRekey = none) : s.startRekey port.val =
    let sw := 16 * ((s.port port.val).txfc.toNat / 16 + 64)
    (s.updPort port.val fun p => { p with txRekey := some sw }).sendPeer port.val
      (.rekey ((s.port port.val).txEpoch + 1) sw) :=
  if_pos (by simp [hst, hnone])

theorem exec_counterExhausted_down (h : 2 ^ 48 ≤ (s.port port.val).txfc.toNat + 16)
    (hnone : (s.port port.val).txRekey = none) : exec (.counterExhausted port) s = .next (s.portDown port.val 9) :=
  congrArg Host.Outcome.next (if_pos (by
    simp only [hst, hnone, h, beq_self_eq_true, decide_true, Bool.not_false, Bool.and_self]))

/-! ### Loss (11 R400 to R402) -/

theorem exec_down_up (rsn : Fin 16) : exec (.down port rsn) s = .next (s.portDown port.val 7) :=
  congrArg Host.Outcome.next (if_pos (by simp [hst]))

theorem exec_controlSilence_up : exec (.controlSilence port) s = .next (s.portDown port.val 8) :=
  congrArg Host.Outcome.next (if_pos (by simp [hst]))

theorem exec_lockLoss_up : exec (.lockLoss port) s = .next (s.fresh.2.portDown port.val s.fresh.1) :=
  congrArg Host.Outcome.next (if_pos (by simp [hst]))

/-- A port that loses its lock goes DOWN, counts a loss, and the lanes with a run on it are link-lost. -/
theorem lockLoss_effect : ∃ u, exec (.lockLoss port) s = .next u ∧ (u.port port.val).st = .down ∧
    (u.port port.val).losses = satAdd (s.port port.val).losses 1 ∧
    ∀ l, (s.port port.val).runsLane l = true → l < 8 → (u.lane (port.val / 2) l).linkLost = true := by
  refine ⟨_, exec_lockLoss_up hst, ?_, ?_, fun l hruns hl => State.linkLost_portDown (s := s.fresh.2) hruns hl _⟩
  · rw [State.port_portDown]
    rfl
  · rw [State.port_portDown]
    rfl

end up

end ports

end Sys2Proof.Machine

open Sys2Proof Sys2Proof.Machine

/-- Settles O47, by what each message, rekey and loss does to a port that is UP and to one that is not. -/
theorem linkMessages : Obligations.LinkMessages := by
  unfold Obligations.LinkMessages
  intro port rsn s token hold excl degr fcsw epoch i p sw rekeys
  refine ⟨fun hst => exec_echo_answered hst token hold,
    fun htraining hup => exec_echo_idle htraining hup token hold,
    fun hst => exec_message_not_up hst rsn excl degr fcsw epoch,
    fun hst => ⟨exec_lanes_kept hst excl degr, exec_rekey_taken hst, exec_rekey_ignored,
      fun hnone => ?starts, fun hpending => congrArg Host.Outcome.next (State.startRekey_pending hpending),
      exec_fcThreshold_below, fun f _ => exec_counterExhausted_saved, exec_counterExhausted_early,
      fun hlate hnone => downWith_of_portDown (exec_counterExhausted_down hst hlate hnone),
      downWith_of_portDown (exec_down_up hst rsn), downWith_of_portDown (exec_controlSilence_up hst), lockLoss_effect hst⟩⟩
  case starts =>
    have hstart : s.startRekey port.val = rekeys := State.startRekey_starts hst hnone
    exact ⟨congrArg Host.Outcome.next hstart,
      fun hreached => (exec_fcThreshold_reached hreached).trans (congrArg Host.Outcome.next hstart)⟩

end

section
/-! PROOFS. Traffic of an UP port (11 R372, R377, R379, R382, R383, R385 to R391, R395, R397, R405): the runs it sends,
the blocks it receives, and the messages of a control block. -/

namespace Sys2Proof.Machine

/-! ### What the counts of a port leave alone -/

/-- Advancing to a slot's codeword changes the transmit epoch, frame counter and pending rekey alone. -/
theorem Port.atSlot_eq {p q : Port} {slot : Nat} (h : p.atSlot slot = some q) : ∃ epoch fc pending,
    q = { p with txEpoch := epoch, txfc := fc, txRekey := pending } := by
  have hcases : ∀ {switches : Bool} {ends : Prop} [Decidable ends] {a b : Port},
      (if switches then some a else if ends then none else some b) = some q → q = a ∨ q = b := by
    intro switches ends _ a b h
    split at h
    · exact .inl (Option.some.inj h).symm
    · split at h
      · cases h
      · exact .inr (Option.some.inj h).symm
  rcases hcases h with h | h
  · exact ⟨_, _, _, h⟩
  · exact ⟨_, _, _, h⟩

/-- A verified sequence changes the receive epoch, frame counter and pending rekey alone. -/
theorem Port.verified_eq (p : Port) (slot k : Nat) : ∃ epoch fc pending,
    p.verified slot k = { p with rxEpoch := epoch, rxfc := fc, rxRekey := pending } :=
  iteInduction (motive := fun q : Port => ∃ epoch fc pending,
    q = { p with rxEpoch := epoch, rxfc := fc, rxRekey := pending }) (fun _ => ⟨_, _, _, rfl⟩) (fun _ => ⟨_, _, _, rfl⟩)

/-! ### The messages of a control block sent (11 R389) -/

/-- The messages that are taken fit in the units at hand. -/
theorem fitMsgs_units_le (n : Nat) (l : List GenHdr) : ((fitMsgs n l).map fun h => h.msg.units).sum ≤ n := by
  induction l generalizing n with
  | nil => exact Nat.zero_le n
  | cons h l ih =>
    unfold fitMsgs
    split
    · have := ih (n - h.msg.units)
      simp only [List.map_cons, List.sum_cons]
      omega
    · exact Nat.zero_le n

/-- The messages of a port's next control block: those to be repeated, then new ones. -/
def Port.controlMsgs (p : Port) : List GenHdr :=
  fitMsgs 20 p.repeated ++ fitMsgs (20 - ((fitMsgs 20 p.repeated).map fun h => h.msg.units).sum) p.general

theorem Port.controlMsgs_units_le (p : Port) : (p.controlMsgs.map fun h => h.msg.units).sum ≤ 20 := by
  have hrepeated := fitMsgs_units_le 20 p.repeated
  have hnew := fitMsgs_units_le (20 - ((fitMsgs 20 p.repeated).map fun h => h.msg.units).sum) p.general
  rw [Port.controlMsgs, List.map_append, List.sum_append]
  omega

theorem State.out_sendControl (s : State) (i : Nat) : (s.sendControl i).out = s.out ++
    [.control i ((List.range 16).map fun n => (Tab.look (noUnit, 0) (s.port i).units n).1) (s.port i).controlMsgs] := rfl

theorem State.out_sendBlock (s : State) (i k : Nat) (b : Block) : (s.sendBlock i k b).out = s.out ++ [.block i b] := rfl

/-! ### The flits of a lane's run (11 R382) -/

theorem takeFlits_prefix (n : Nat) (l : List Flit) : takeFlits n l <+: l := by
  induction n generalizing l with
  | zero => exact List.nil_prefix
  | succ n ih =>
    match l with
    | [] => exact List.nil_prefix
    | [f] => exact List.prefix_rfl
    | f :: g :: l =>
      unfold takeFlits
      dsimp only
      split
      · exact List.prefix_append [f] _
      · exact List.cons_prefix_cons.2 ⟨rfl, ih _⟩

theorem takeFlits_length_le (n : Nat) (l : List Flit) : (takeFlits n l).length ≤ n := by
  induction n generalizing l with
  | zero => exact Nat.le_refl 0
  | succ n ih =>
    match l with
    | [] => exact Nat.zero_le _
    | [f] => exact Nat.succ_le_succ (Nat.zero_le n)
    | f :: g :: l =>
      unfold takeFlits
      dsimp only
      split
      · exact Nat.succ_le_succ (Nat.zero_le n)
      · exact Nat.succ_le_succ (ih _)

/-- The flits taken have the CTR of the oldest. -/
theorem takeFlits_ctr (n : Nat) (f : Flit) (l : List Flit) : ∀ g ∈ takeFlits n (f :: l), g.ctr = f.ctr := by
  induction n generalizing f l with
  | zero => exact fun g hg => absurd hg List.not_mem_nil
  | succ n ih =>
    have hself : ∀ g ∈ [f], g.ctr = f.ctr := fun g hg => congrArg Flit.ctr (List.mem_singleton.1 hg)
    match l with
    | [] => exact hself
    | next :: l =>
      unfold takeFlits
      dsimp only
      split
      · exact hself
      next hcont =>
        have hctr : next.ctr = f.ctr := by
          by_contra hne
          exact hcont (by simp [hne])
        exact List.forall_mem_cons.2 ⟨rfl, fun g hg => (ih next l g hg).trans hctr⟩

/-- The flits of an owner and class that wait on a port, oldest first. -/
def Port.waiting (p : Port) (owner cls : Nat) : List Flit := p.egress.filter fun f => f.owner == owner && f.cls == cls

section laneBlock
variable {s : State} {i owner cls cap : Nat}

theorem State.laneBlock_empty (hnone : takeFlits cap ((s.port i).waiting owner cls) = []) :
    (s.laneBlock i owner cls cap).1 = s.emptyBlock i cls := by
  unfold Port.waiting at hnone
  unfold State.laneBlock
  simp only [hnone]

theorem State.laneBlock_cons {f : Flit} {l : List Flit} (hfs : takeFlits cap ((s.port i).waiting owner cls) = f :: l) :
    (s.laneBlock i owner cls cap).1 = { s.emptyBlock i cls with
      last := ((f :: l).getLast?.map fun f => f.last).getD false, ctr := f.ctr, faddr := f.faddr,
      gen := s.laneGen (i / 2) owner, flits := (f :: l).map fun f => f.payload } := by
  unfold Port.waiting at hfs
  unfold State.laneBlock
  simp only [hfs]

/-- A lane's block carries the oldest waiting flits of its lane and class, with their CTR. -/
theorem State.laneBlock_flits : let b := (s.laneBlock i owner cls cap).1
    let fs := takeFlits cap ((s.port i).waiting owner cls)
    b.cls = cls ∧ b.flits = fs.map (·.payload) ∧ ∀ f ∈ fs, f.ctr = b.ctr := by
  dsimp only
  cases hfs : takeFlits cap ((s.port i).waiting owner cls) with
  | nil =>
    rw [State.laneBlock_empty hfs]
    exact ⟨rfl, rfl, fun f hf => absurd hf List.not_mem_nil⟩
  | cons f l =>
    rw [State.laneBlock_cons hfs]
    refine ⟨rfl, rfl, ?_⟩
    obtain ⟨rest, hwaiting⟩ := hfs ▸ takeFlits_prefix cap ((s.port i).waiting owner cls)
    rw [← hfs, ← hwaiting]
    exact takeFlits_ctr cap f (l ++ rest)

end laneBlock

/-! ### A run's start (11 R372, R377, R379) -/

section run
variable {port slot : Fin 16} {s : State} (hst : (s.port port.val).st = .up)
include hst

theorem exec_txRun_continues (hslot : slot ≠ 0) (hvalid : lkValid (lkEntry (s.port port.val).tx slot.val) = true)
    (hcont : lkCont (lkEntry (s.port port.val).tx slot.val) = true) : exec (.txRun port slot) s = .next s :=
  congrArg Host.Outcome.next ((if_neg (by simp [hst])).trans
    (if_pos (by simp [hvalid, hcont, Fin.val_ne_zero_iff.2 hslot])))

variable (hstart : slot = 0 ∨ lkValid (lkEntry (s.port port.val).tx slot.val) = false ∨
  lkCont (lkEntry (s.port port.val).tx slot.val) = false)
include hstart

/-- At the start of a run the frame counter comes first, then the block of the slot's entry. -/
theorem exec_txRun_start : exec (.txRun port slot) s = .next (
    match (s.port port.val).atSlot slot.val with
    | none => s.portDown port.val 9
    | some p =>
      let u := s.updPort port.val fun _ => p
      let e := lkEntry (s.port port.val).tx slot.val
      if slot.val = 0 then u.sendControl port.val
      else if lkValid e then u.sendRun port.val e (lkRun (s.port port.val).tx slot.val)
      else u.sendBlock port.val 1 (u.emptyBlock port.val 7)) := by
  refine congrArg Host.Outcome.next ((if_neg (by simp [hst])).trans ((if_neg ?_).trans ?_))
  · rcases hstart with hslot | hinvalid | hcont
    · simp [hslot]
    · simp [hinvalid]
    · simp [hcont]
  · rfl

theorem exec_txRun_exhausted (hslot : (s.port port.val).atSlot slot.val = none) :
    exec (.txRun port slot) s = .next (s.portDown port.val 9) := by
  rw [exec_txRun_start hst hstart, hslot]

end run

section sends
variable {port slot : Fin 16} {s : State} {p : Port} (hst : (s.port port.val).st = .up)
  (hslot : (s.port port.val).atSlot slot.val = some p)
include hst hslot

/-- At slot 0 the control block leaves, with 16 lane units and at most 20 units of messages (11 R385, R389). -/
theorem txRun_control (hzero : slot = 0) : ∃ u us ms, exec (.txRun port slot) s = .next u ∧
    u.out = s.out ++ [.control port.val us ms] ∧ us.length = 16 ∧ (ms.map fun h => h.msg.units).sum ≤ 20 := by
  have hexec : exec (.txRun port slot) s = .next ((s.updPort port.val fun _ => p).sendControl port.val) := by
    rw [exec_txRun_start hst (.inl hzero), hslot]
    exact congrArg Host.Outcome.next (if_pos (congrArg Fin.val hzero))
  exact ⟨_, _, _, hexec, State.out_sendControl .., by simp, Port.controlMsgs_units_le _⟩

variable (hnonzero : slot ≠ 0)
include hnonzero

/-- A slot without a run sends an empty block of class 7 (11 R377). -/
theorem txRun_idle (hinvalid : lkValid (lkEntry (s.port port.val).tx slot.val) = false) : ∃ u b,
    exec (.txRun port slot) s = .next u ∧ u.out = s.out ++ [.block port.val b] ∧ b.flits = [] ∧ b.cls = 7 := by
  have hexec : exec (.txRun port slot) s = .next ((s.updPort port.val fun _ => p).sendBlock port.val 1
      ((s.updPort port.val fun _ => p).emptyBlock port.val 7)) := by
    rw [exec_txRun_start hst (.inr (.inl hinvalid)), hslot]
    exact congrArg Host.Outcome.next ((if_neg (Fin.val_ne_zero_iff.2 hnonzero)).trans (if_neg (by simp [hinvalid])))
  exact ⟨_, _, hexec, State.out_sendBlock .., rfl, rfl⟩

/-- A lane's run sends the oldest flits that wait for it (11 R382). -/
theorem txRun_lane (hvalid : lkValid (lkEntry (s.port port.val).tx slot.val) = true)
    (hcont : lkCont (lkEntry (s.port port.val).tx slot.val) = false)
    (htransit : lkTransit (lkEntry (s.port port.val).tx slot.val) = false)
    (howner : lkOwner (lkEntry (s.port port.val).tx slot.val) < 8) :
    let e := lkEntry (s.port port.val).tx slot.val
    ∃ u b fs, exec (.txRun port slot) s = .next u ∧ u.out = s.out ++ [.block port.val b] ∧ b.cls = lkClass e ∧
      b.flits = fs.map (·.payload) ∧ fs.length ≤ lkCap (lkRun (s.port port.val).tx slot.val) ∧
      (∃ rest, (s.port port.val).waiting (lkOwner e) (lkClass e) = fs ++ rest) ∧ ∀ f ∈ fs, f.ctr = b.ctr := by
  intro e
  have hexec : ∃ q : State, exec (.txRun port slot) s = .next (q.sendBlock port.val (lkRun (s.port port.val).tx slot.val)
      ((s.updPort port.val fun _ => p).laneBlock port.val (lkOwner e) (lkClass e)
        (lkCap (lkRun (s.port port.val).tx slot.val))).1) ∧ q.out = s.out := by
    rw [exec_txRun_start hst (.inr (.inr hcont)), hslot]
    exact ⟨_, congrArg Host.Outcome.next ((if_neg (Fin.val_ne_zero_iff.2 hnonzero)).trans ((if_pos hvalid).trans
      ((if_neg (by simp [htransit])).trans (if_pos howner)))), rfl⟩
  have hwaiting : ((s.updPort port.val fun _ => p).port port.val).waiting (lkOwner e) (lkClass e) =
      (s.port port.val).waiting (lkOwner e) (lkClass e) := by
    obtain ⟨_, _, _, hp⟩ := Port.atSlot_eq hslot
    rw [State.port_updPort, hp]
    rfl
  obtain ⟨q, hexec, hout⟩ := hexec
  obtain ⟨hcls, hflits, hctr⟩ := State.laneBlock_flits (s := s.updPort port.val fun _ => p) (i := port.val)
    (owner := lkOwner e) (cls := lkClass e) (cap := lkCap (lkRun (s.port port.val).tx slot.val))
  rw [hwaiting] at hflits hctr
  obtain ⟨rest, hrest⟩ := takeFlits_prefix (lkCap (lkRun (s.port port.val).tx slot.val))
    ((s.port port.val).waiting (lkOwner e) (lkClass e))
  exact ⟨_, _, _, hexec, by rw [State.out_sendBlock, hout], hcls, hflits, takeFlits_length_le .., ⟨rest, hrest.symm⟩, hctr⟩

end sends

/-! ### A block received: its codewords and its tag (11 R383 checks 1 and 2, R395) -/

/-- The symbols and corrected codewords of a received block are counted. -/
def State.received (s : State) (i : Nat) (x : RxBlock) : State :=
  s.updPort i fun p => { p.symbols x.symerr x.degraded with corr := satAdd p.corr x.corrected }

theorem State.port_received (s : State) (i : Nat) (x : RxBlock) : (s.received i x).port i =
    { (s.port i).symbols x.symerr x.degraded with corr := satAdd (s.port i).corr x.corrected } :=
  State.port_updPort ..

/-- The receive counter and the bytes of a verified block are counted. -/
def State.verifiedBlock (s : State) (i : Nat) (x : RxBlock) : State :=
  (s.received i x).updPort i fun p => (p.verified x.slot.val x.k).count 1 x.blk.cls (64 * x.blk.flits.length)

theorem State.verifiedBlock_fields (s : State) (i : Nat) (x : RxBlock) : let q := (s.verifiedBlock i x).port i
    q.rx = (s.port i).rx ∧ q.peerId = (s.port i).peerId ∧ q.mismatch = (s.port i).mismatch := by
  dsimp only
  unfold State.verifiedBlock
  rw [State.port_updPort, State.port_received]
  obtain ⟨_, _, _, hverified⟩ := Port.verified_eq
    { (s.port i).symbols x.symerr x.degraded with corr := satAdd (s.port i).corr x.corrected } x.slot.val x.k
  rw [hverified]
  exact ⟨rfl, rfl, rfl⟩

/-- The times of a port's tag failures in the last 1 ms. -/
def State.recentFailures (s : State) (i : Nat) : List Nat :=
  (s.port i).authTimes.filter fun t => decide (s.stamp.toNat < t + 200000)

/-- A tag failure is counted and noted with its time. -/
def State.tagFailed (s : State) (i : Nat) : State :=
  s.updPort i fun p =>
    { p with auth := satAdd p.auth 1,
             authTimes := s.stamp.toNat :: p.authTimes.filter fun t => decide (s.stamp.toNat < t + 200000) }

theorem State.port_tagFailed (s : State) (i : Nat) : (s.tagFailed i).port i =
    { s.port i with auth := satAdd (s.port i).auth 1, authTimes := s.stamp.toNat :: s.recentFailures i } :=
  State.port_updPort ..

/-- The eighth tag failure in 1 ms takes the port DOWN with reason AUTH. -/
theorem State.authFail_eighth {s : State} {i : Nat} (h : 7 ≤ (s.recentFailures i).length) :
    s.authFail i = (s.tagFailed i).portDown i 6 :=
  if_pos (by rw [← State.tagFailed, State.port_tagFailed]; exact Nat.succ_le_succ h)

theorem State.authFail_few {s : State} {i : Nat} (h : (s.recentFailures i).length < 7) : s.authFail i = s.tagFailed i :=
  if_neg (by rw [← State.tagFailed, State.port_tagFailed]; exact Nat.not_le.2 (Nat.succ_lt_succ h))

theorem State.auth_authFail (s : State) (i : Nat) : ((s.authFail i).port i).auth = satAdd (s.port i).auth 1 := by
  rcases Nat.lt_or_ge (s.recentFailures i).length 7 with hfew | hmany
  · rw [State.authFail_few hfew, State.port_tagFailed]
  · rw [State.authFail_eighth hmany, State.port_portDown, State.port_tagFailed]
    rfl

section receive
variable {port : Fin 16} {s : State} {x : RxBlock} (hst : (s.port port.val).st = .up)
include hst

theorem exec_linkBlockReceive_bad (hbad : 0 < x.bad) : exec (.linkBlockReceive port x) s =
    .next ((s.received port.val x).updPort port.val fun p => { p with uncorr := satAdd p.uncorr x.bad }) :=
  congrArg Host.Outcome.next ((if_neg (by simp [hst])).trans (if_pos hbad))

/-- Codewords that do not decode are counted with the corrected ones, and the block is gone. -/
theorem receive_bad (hbad : 0 < x.bad) : ∃ u, exec (.linkBlockReceive port x) s = .next u ∧
    (u.port port.val).uncorr = satAdd (s.port port.val).uncorr x.bad ∧
    (u.port port.val).corr = satAdd (s.port port.val).corr x.corrected ∧ u.dies = s.dies ∧ u.comps = s.comps := by
  refine ⟨_, exec_linkBlockReceive_bad hst hbad, ?_, ?_, rfl, rfl⟩
  · rw [State.port_updPort, State.port_received]
    rfl
  · rw [State.port_updPort, State.port_received]

variable (hgood : x.bad = 0)
include hgood

theorem exec_linkBlockReceive_tag (htag : x.tagOk = false) :
    exec (.linkBlockReceive port x) s = .next ((s.received port.val x).authFail port.val) :=
  congrArg Host.Outcome.next ((if_neg (by simp [hst])).trans ((if_neg (by simp [hgood])).trans
    (if_pos (by simp [htag]))))

theorem receive_tag (htag : x.tagOk = false) : ∃ u, exec (.linkBlockReceive port x) s = .next u ∧
    (u.port port.val).auth = satAdd (s.port port.val).auth 1 ∧
    (7 ≤ (s.recentFailures port.val).length → (u.port port.val).st = .down ∧ (u.port port.val).downrsn = 6) ∧
    ((s.recentFailures port.val).length < 7 → (u.port port.val).st = .up) := by
  have hport := s.port_received port.val x
  have hrecent : (s.received port.val x).recentFailures port.val = s.recentFailures port.val := by
    unfold State.recentFailures
    rw [hport]
    rfl
  refine ⟨_, exec_linkBlockReceive_tag hst hgood htag, ?_, fun hmany => ?_, fun hfew => ?_⟩
  · rw [State.auth_authFail, hport]
    rfl
  · rw [State.authFail_eighth (by rwa [hrecent]), State.port_portDown]
    exact ⟨rfl, rfl⟩
  · rw [State.authFail_few (by rwa [hrecent]), State.port_tagFailed, hport]
    exact hst

theorem exec_linkBlockReceive_verified (htag : x.tagOk = true) :
    exec (.linkBlockReceive port x) s = .next ((s.verifiedBlock port.val x).takeBlock port x) :=
  congrArg Host.Outcome.next ((if_neg (by simp [hst])).trans ((if_neg (by simp [hgood])).trans
    (if_neg (by simp [htag]))))

end receive

/-! ### A verified block: the slot table and the generation (11 R383 checks 3 to 5, R405) -/

section takeBlock
variable {port : Fin 16} {s : State} {x : RxBlock} (hrun : lkStart (s.port port.val).rx x.slot.val = true)
include hrun

/-- A block of another class or length than its slot's run is counted and discarded. -/
theorem State.takeBlock_mismatched (h : x.blk.cls ≠ lkClass (lkEntry (s.port port.val).rx x.slot.val) ∨
    x.k ≠ lkRun (s.port port.val).rx x.slot.val) : s.takeBlock port x = s.mismatched port.val :=
  if_pos (by
    rw [if_pos hrun]
    rcases h with h | h
    · simp [h]
    · simp [h])

/-- A block of a lane's class, for this module and from the peer, is that of the lane's composition. -/
theorem State.takeBlock_lane {k : Nat} (hcls : x.blk.cls = lkClass (lkEntry (s.port port.val).rx x.slot.val))
    (hk : x.k = lkRun (s.port port.val).rx x.slot.val) (hlane : x.blk.cls = 1 ∨ x.blk.cls = 2)
    (hdest : x.blk.dest = s.route.devid.toNat) (hsrc : x.blk.src = (s.port port.val).peerId.toNat)
    (hflits : x.blk.flits ≠ [])
    (hcomp : s.laneComp (port.val / 2) (lkOwner (lkEntry (s.port port.val).rx x.slot.val)) = some k) :
    s.takeBlock port x =
      if x.blk.gen != (s.comp k).gen then s.updComp k fun m => { m with stales := satAdd m.stales 1 }
      else s.deliverFlits port.val (lkOwner (lkEntry (s.port port.val).rx x.slot.val)) x.blk := by
  have hcont : lkCont (lkEntry (s.port port.val).rx x.slot.val) = false := by
    simpa using (Bool.and_eq_true_iff.1 hrun).2
  refine (if_neg ?_).trans ((if_neg (by simpa using hflits)).trans ((if_pos hlane).trans
    ((if_neg (by simp [hdest, hsrc])).trans ?_)))
  · rw [if_pos hrun]
    simp [hcont, hcls, hk]
  · rw [hcomp]

end takeBlock

section verified
variable {port : Fin 16} {s : State} {x : RxBlock} (hst : (s.port port.val).st = .up) (hgood : x.bad = 0)
  (htag : x.tagOk = true) (hrun : lkStart (s.port port.val).rx x.slot.val = true)
include hst hgood htag hrun

theorem receive_mismatched (h : x.blk.cls ≠ lkClass (lkEntry (s.port port.val).rx x.slot.val) ∨
    x.k ≠ lkRun (s.port port.val).rx x.slot.val) : ∃ u, exec (.linkBlockReceive port x) s = .next u ∧
    (u.port port.val).mismatch = satAdd (s.port port.val).mismatch 1 ∧ u.dies = s.dies ∧ u.comps = s.comps := by
  obtain ⟨hrx, -, hmismatch⟩ := s.verifiedBlock_fields port.val x
  have htake := State.takeBlock_mismatched (s := s.verifiedBlock port.val x) (by rwa [hrx]) (by rwa [hrx])
  refine ⟨_, (exec_linkBlockReceive_verified hst hgood htag).trans (congrArg Host.Outcome.next htake), ?_, rfl, rfl⟩
  rw [State.mismatched, State.port_updPort, hmismatch]

/-- A block of a lane's run reaches the lane's composition: a stale one is counted, a current one delivered. -/
theorem receive_lane (hcls : x.blk.cls = lkClass (lkEntry (s.port port.val).rx x.slot.val))
    (hk : x.k = lkRun (s.port port.val).rx x.slot.val) (hlane : x.blk.cls = 1 ∨ x.blk.cls = 2)
    (hdest : x.blk.dest = s.route.devid.toNat) (hsrc : x.blk.src = (s.port port.val).peerId.toNat)
    (hflits : x.blk.flits ≠ []) {k : Nat}
    (hcomp : s.laneComp (port.val / 2) (lkOwner (lkEntry (s.port port.val).rx x.slot.val)) = some k) :
    (x.blk.gen ≠ (s.comp k).gen → ∃ u, exec (.linkBlockReceive port x) s = .next u ∧
      (u.comp k).stales = satAdd (s.comp k).stales 1 ∧ u.dies = s.dies) ∧
    (x.blk.gen = (s.comp k).gen → ∃ u : State, exec (.linkBlockReceive port x) s =
      .next (u.deliverFlits port.val (lkOwner (lkEntry (s.port port.val).rx x.slot.val)) x.blk) ∧
      u.dies = s.dies ∧ u.comps = s.comps) := by
  obtain ⟨hrx, hpeer, -⟩ := s.verifiedBlock_fields port.val x
  have htake := State.takeBlock_lane (s := s.verifiedBlock port.val x) (by rwa [hrx]) (by rwa [hrx]) (by rwa [hrx])
    hlane hdest (by rwa [hpeer]) hflits (by rw [hrx]; exact hcomp)
  rw [hrx] at htake
  have hexec := (exec_linkBlockReceive_verified hst hgood htag).trans (congrArg Host.Outcome.next htake)
  refine ⟨fun hstale => ⟨_, hexec.trans (congrArg Host.Outcome.next (if_pos (bne_iff_ne.2 hstale))), ?_, rfl⟩,
    fun hcurrent => ⟨_, hexec.trans (congrArg Host.Outcome.next (if_neg (not_not.2 hcurrent ∘ bne_iff_ne.1))), rfl, rfl⟩⟩
  rw [State.comp_updComp]
  rfl

end verified

/-! ### The messages of a control block received (11 R390, R391, R397) -/

/-- The receive counter and the bytes of a verified control block are counted. -/
def State.verifiedControl (s : State) (i : Nat) : State := s.updPort i fun p => (p.verified 0 1).count 1 5 576

theorem State.seen_verifiedControl (s : State) (i : Nat) : ((s.verifiedControl i).port i).seen = (s.port i).seen := by
  obtain ⟨_, _, _, hverified⟩ := Port.verified_eq (s.port i) 0 1
  rw [State.verifiedControl, State.port_updPort, hverified]
  rfl

theorem State.takeMsg_repeated {s : State} {i : Nat} {h : GenHdr} (hseen : h.seq ∈ (s.port i).seen) :
    s.takeMsg i h = s :=
  if_pos (by simpa using hseen)

theorem State.takeMsg_forwarded {s : State} {i : Nat} {h : GenHdr} (hnew : h.seq ∉ (s.port i).seen)
    (hdest : h.dest ≠ s.route.devid.toNat) (hpeer : peerOnly h.msg = false) :
    s.takeMsg i h = (s.updPort i fun p => { p with seen := (h.seq :: (s.port i).seen).take 64 }).forward h :=
  (if_neg (by simpa using hnew)).trans (if_neg (not_or.2 ⟨hdest, by simp [hpeer]⟩))

section control
variable {port : Fin 16} {s : State} {h : GenHdr} (hst : (s.port port.val).st = .up)
include hst

theorem exec_controlBlock_message : exec (.controlBlock port [] [h]) s =
    .next ((s.verifiedControl port.val).takeMsg port.val h) :=
  congrArg Host.Outcome.next (if_neg (by simp [hst]))

theorem control_repeated (hseen : h.seq ∈ (s.port port.val).seen) : ∃ u, exec (.controlBlock port [] [h]) s = .next u ∧
    u.comps = s.comps ∧ u.pool = s.pool ∧ u.dies = s.dies ∧ (u.port port.val).seen = (s.port port.val).seen := by
  have htake := State.takeMsg_repeated (s := s.verifiedControl port.val) (i := port.val) (h := h)
    (by rwa [State.seen_verifiedControl])
  exact ⟨_, (exec_controlBlock_message hst).trans (congrArg Host.Outcome.next htake), rfl, rfl, rfl,
    State.seen_verifiedControl ..⟩

theorem control_forwarded (hnew : h.seq ∉ (s.port port.val).seen) (hdest : h.dest ≠ s.route.devid.toNat)
    (hpeer : peerOnly h.msg = false) : ∃ u : State, exec (.controlBlock port [] [h]) s = .next (u.forward h) ∧
    (u.port port.val).seen = (h.seq :: (s.port port.val).seen).take 64 ∧ u.comps = s.comps ∧ u.pool = s.pool := by
  have htake := State.takeMsg_forwarded (s := s.verifiedControl port.val) (i := port.val) (h := h)
    (by rwa [State.seen_verifiedControl]) hdest hpeer
  refine ⟨_, (exec_controlBlock_message hst).trans (congrArg Host.Outcome.next htake), ?_, rfl, rfl⟩
  rw [State.port_updPort, State.seen_verifiedControl]

end control

/-- A port that is not UP sends nothing and takes no block. -/
theorem exec_traffic_not_up {port : Fin 16} {s : State} (hst : (s.port port.val).st ≠ .up) (slot : Fin 16) (x : RxBlock)
    (units : List LaneUnit) (h : GenHdr) : exec (.txRun port slot) s = .next s ∧
    exec (.linkBlockReceive port x) s = .next s ∧ exec (.controlBlock port units [h]) s = .next s :=
  ⟨congrArg Host.Outcome.next (if_pos (by simp [hst])), congrArg Host.Outcome.next (if_pos (by simp [hst])),
    congrArg Host.Outcome.next (if_pos (by simp [hst]))⟩

end Sys2Proof.Machine

open Sys2Proof Sys2Proof.Machine

/-- Settles O48: what leaves at the start of a run, then the checks of a received block in their order, then the
messages of a control block. -/
theorem linkTraffic : Obligations.LinkTraffic := by
  unfold Obligations.LinkTraffic
  intro port slot s x units h i p e
  refine ⟨fun hst => exec_traffic_not_up hst slot x units h, fun hst => ⟨exec_txRun_continues hst,
    fun hexhausted hstart => downWith_of_portDown (exec_txRun_exhausted hst hstart hexhausted),
    fun p' hslot => ⟨txRun_control hst hslot, txRun_idle hst hslot, txRun_lane hst hslot⟩,
    receive_bad hst, receive_tag hst, fun hgood htag hrun => ⟨receive_mismatched hst hgood htag hrun,
      fun hcls hk hlane hdest hsrc hflits k => receive_lane hst hgood htag hrun hcls hk hlane hdest hsrc hflits⟩,
    control_repeated hst, control_forwarded hst⟩⟩

end

section
/-! PROOFS. The fuses and the straps along a step (13 R438, R439, Table 3; 16 R520). -/

namespace Sys2Proof.Machine

/-! ### What a step keeps -/

/-- A step without a command keeps everything; one with a command keeps what that command keeps. -/
theorem step_keptBy {s t : State} (h : step s = .next t) :
    t.kept = s.kept ∨ ∃ c rest, s.pending = c :: rest ∧ Kept.KeptBy c { s.kept with pending := rest } t.kept := by
  cases hpending : s.pending with
  | nil =>
    have ht : idleTick s = t := by simpa [step, hpending] using h
    exact .inl (ht ▸ idleTick_kept s)
  | cons c rest =>
    have hexec := exec_keptBy c ((stepIsExec c rest s hpending).symm.trans h)
    exact .inr ⟨c, rest, rfl, hexec⟩

theorem step_fusesGrow {s t : State} (h : step s = .next t) : s.kept.fusesGrow t.kept := by
  obtain hkept | ⟨c, rest, -, hby⟩ := step_keptBy h
  · exact hkept ▸ .refl _
  · exact hby.fuses

theorem step_sameStraps_or_takes {s t : State} (h : step s = .next t) :
    s.kept.sameStraps t.kept ∨ ∃ c ∈ s.pending.head?, TakesStraps c := by
  obtain hkept | ⟨c, rest, hpending, hby⟩ := step_keptBy h
  · exact .inl (hkept ▸ ⟨rfl, rfl, rfl, rfl, rfl⟩)
  · exact hby.straps.imp_right fun htakes => ⟨c, by simp [hpending], htakes⟩

/-! ### Lifecycle words and the fields of `SEC_LC` (13 R438, R439, Table 3) -/

theorem lcCode_le (w : Byte) : lcCode w ≤ 4 := by
  unfold lcCode
  split <;> decide

theorem b2n_le_one (b : Bool) : b2n b ≤ 1 := by cases b <;> decide

theorem Sec.state_of_blank {x : Sec} (h0 : x.copy0 = 0) (h1 : x.copy1 = 0) (h2 : x.copy2 = 0) : x.state = 0 := by
  rw [Sec.state, Sec.vote, h0, h1, h2]
  decide

theorem Sec.keys_of_blank {x : Sec} (h : x.kek = 0) : x.kekHeld = false ∧ x.idHeld = false := by
  simp [Sec.kekHeld, Sec.idHeld, Sec.stored, h]

theorem pack_nil : pack [] = 0 := rfl

theorem pack_cons (i v : Nat) (l : List (Nat × Nat)) : pack ((i, v) :: l) = v * 2 ^ i + pack l := List.sum_cons

theorem State.secReg_lc (s : State) : s.secReg 0x028 =
    let x := s.sec
    pack [(0, x.state), (3, b2n x.debug), (4, b2n x.kekHeld), (5, b2n x.idHeld), (6, b2n x.fs.isSome),
      (7, b2n x.defer), (8, x.copy0.toNat), (16, x.copy1.toNat), (24, x.copy2.toNat), (32, b2n x.vk0.isSome),
      (33, b2n x.vk1.isSome), (34, b2n x.vk2.isSome), (35, x.revoked.toNat), (38, x.floor % 128),
      (45, b2n x.tDeploy.isSome), (46, b2n x.tTerm.isSome)] := by
  unfold State.secReg
  rw [if_neg (by decide)]
  rfl

/-- With blank fuses `SEC_LC` holds its low four bits, then zero, then three bits and the copies. -/
theorem State.secReg_lc_of_blank {s : State} (hkeys : s.sec.vk0 = none ∧ s.sec.vk1 = none ∧ s.sec.vk2 = none)
    (hrevoked : s.sec.revoked = 0) (hfloor : s.sec.floor = 0) (hdeploy : s.sec.tDeploy = none)
    (hterm : s.sec.tTerm = none) (hkek : s.sec.kek = 0) :
    ∃ low high, s.secReg 0x028 = low + 32 * high ∧ low < 16 ∧ high < 134217728 := by
  obtain ⟨h0, h1, h2⟩ := hkeys
  obtain ⟨hheld, hid⟩ := Sec.keys_of_blank hkek
  have hstate : s.sec.state ≤ 4 := lcCode_le _
  have hdebug := b2n_le_one s.sec.debug
  have hfs := b2n_le_one s.sec.fs.isSome
  have hdefer := b2n_le_one s.sec.defer
  have hc0 := s.sec.copy0.isLt
  have hc1 := s.sec.copy1.isLt
  have hc2 := s.sec.copy2.isLt
  refine ⟨s.sec.state + 8 * b2n s.sec.debug, 2 * b2n s.sec.fs.isSome + 4 * b2n s.sec.defer + 8 * s.sec.copy0.toNat +
    2048 * s.sec.copy1.toNat + 524288 * s.sec.copy2.toNat, ?_, by omega, by omega⟩
  have hrevoked' : s.sec.revoked.toNat = 0 := by rw [hrevoked]; rfl
  have hclear : b2n false = 0 := rfl
  rw [State.secReg_lc]
  simp only [hheld, hid, h0, h1, h2, hrevoked', hfloor, hdeploy, hterm, hclear, Option.isSome_none, Nat.zero_mod]
  simp only [pack_cons, pack_nil]
  omega

end Sys2Proof.Machine

open Sys2Proof Sys2Proof.Machine

/-- Settles O57: every command lets the fuses only grow, and so does a step. -/
theorem fusesOneWay : Obligations.FusesOneWay := by
  unfold Obligations.FusesOneWay
  refine ⟨by decide, fun s h0 h1 h2 hrevoked hfloor hdeploy hterm hkek => ?_, fun x => Sec.state_of_blank,
    fun s t h => ?_⟩
  · obtain ⟨low, high, hreg, hlow, hhigh⟩ :=
      State.secReg_lc_of_blank ⟨h0, h1, h2⟩ hrevoked hfloor hdeploy hterm hkek
    rw [hreg, bits, bit, Nat.testBit_eq_decide_div_mod_eq]
    exact ⟨by omega, by simp; omega⟩
  · obtain ⟨h0, h1, h2, hrevoked, hfloor, ⟨hkek, herased⟩, hv0, hv1, hv2, hprov, hreturn, hdeploy, hterm⟩ :=
      step_fusesGrow h
    exact ⟨h0, h1, h2, hrevoked, hfloor, hkek, herased, hv0, hv1, hv2, hprov, hreturn, hdeploy, hterm⟩

/-- Settles O58: every command but those that take the straps anew keeps them, and so does a step. -/
theorem strapsLatched : Obligations.StrapsLatched := by
  unfold Obligations.StrapsLatched
  intro s t h
  exact step_sameStraps_or_takes h

end

section
/-! PROOFS. The state after a power-on reset (08 Tables 9 and 11; 13 R438, R448; 14 R463, R472 to R474). -/

namespace Sys2Proof.Machine

/-- Every entry of a table of the reset state is its default: contexts, queues, rings, fences and compositions. -/
theorem State.reset_tables (k : Nat) : State.reset.ctx k = {} ∧ State.reset.queue k = {} ∧ State.reset.ring k = {} ∧
    State.reset.fence k = {} ∧ State.reset.comp k = {} := ⟨rfl, rfl, rfl, rfl, rfl⟩

/-- And so are lanes, cores and ports. -/
theorem State.reset_units (d l k p : Nat) :
    State.reset.lane d l = {} ∧ State.reset.core k = {} ∧ State.reset.port p = {} := ⟨rfl, rfl, rfl⟩

end Sys2Proof.Machine

open Sys2Proof Sys2Proof.Machine

/-- Settles O60: the scalar fields by their defaults, the tables by their default entries. -/
theorem resetState : Obligations.ResetState := by
  unfold Obligations.ResetState
  refine ⟨rfl, rfl, rfl, rfl, rfl, rfl, rfl, rfl, rfl, rfl, Sec.state_of_blank rfl rfl rfl, rfl, rfl, rfl, rfl, rfl,
    rfl, rfl, rfl, fun k => ?_, fun d l => ?_, fun k => ?_, fun p => ?_⟩
  · obtain ⟨hctx, hqueue, hring, hfence, hcomp⟩ := State.reset_tables k
    rw [hctx, hqueue, hring, hfence, hcomp]
    decide
  · rw [(State.reset_units d l 0 0).1]
  · rw [(State.reset_units 0 0 k 0).2.1]
  · rw [(State.reset_units 0 0 0 p).2.2]
    decide

end

section
/-! PROOFS. BAR and END (03 R87, R99, Table 4; 04 R124, R125, Table 1): a core's arrival at its barrier, and the end of
a composition's Layers phase. -/

namespace Sys2Proof.Machine

theorem mem_insNat {n m : Nat} {l : List Nat} : m ∈ insNat n l ↔ m = n ∨ m ∈ l := by
  induction l with
  | nil => simp [insNat]
  | cons a l ih =>
    unfold insNat
    split
    · simp
    · split
      · rename_i heq
        simp [heq]
      · simp [ih, or_left_comm]

/-! ### BAR -/

/-- The cores that must arrive at lane `l`'s barrier on die `d` (04 R125). -/
def State.barrierCores (s : State) (d l : Nat) : List Nat :=
  match s.laneComp d l with
  | some n => (s.comp n).coresOn d
  | none => []

theorem State.barrierCores_of_laneComp {s : State} {d l n : Nat} (h : s.laneComp d l = some n) :
    s.barrierCores d l = (s.comp n).coresOn d := by
  simp [State.barrierCores, h]

/-- The lane of a core that arrives: its barrier, the arrivals, and the die's own arrival with the last of them. -/
theorem State.arrive_lane (s : State) (k l : Nat) (b : BitVec 8) :
    let L := (s.arrive k l b).lane (keyDie k) l
    L.barid = b ∧ L.arrived = insNat k (s.lane (keyDie k) l).arrived ∧
      (L.dieArrived = true ↔ ∀ i ∈ s.barrierCores (keyDie k) l, i ∈ L.arrived) := by
  rw [State.arrive, State.lane_updLane]
  exact ⟨rfl, rfl, List.all_eq_true.trans (forall₂_congr fun i _ => List.contains_iff_mem)⟩

/-- The core waits at barrier `b`. -/
def Core.atBarrier (x : Core) (b : BitVec 8) : Core :=
  { x with mx := none, vx := none, tx := none, refetchUsed := false, barWait := some b }

/-- The core waits at barrier `b`, and its lane, if it has one, has counted it. -/
def State.atBarrier (s : State) (k : Nat) (b : BitVec 8) : State :=
  match (s.core k).lane with
  | some l => (s.setCore k ((s.core k).atBarrier b)).arrive k l b
  | none => s.setCore k ((s.core k).atBarrier b)

theorem State.atBarrier_frame (s : State) (k : Nat) (b : BitVec 8) :
    (∀ j, (s.atBarrier k b).core j = (s.setCore k ((s.core k).atBarrier b)).core j) ∧
      (s.atBarrier k b).tierH = s.tierH ∧ (s.atBarrier k b).tierM = s.tierM ∧ (s.atBarrier k b).tierF = s.tierF := by
  unfold State.atBarrier
  split
  · exact ⟨fun _ => rfl, rfl, rfl, rfl⟩
  · exact ⟨fun _ => rfl, rfl, rfl, rfl⟩

theorem State.atBarrier_lane {s : State} {k l : Nat} (h : (s.core k).lane = some l) (b : BitVec 8) :
    (s.atBarrier k b).lane (keyDie k) l =
      ((s.setCore k ((s.core k).atBarrier b)).arrive k l b).lane (keyDie k) l := by
  simp [State.atBarrier, h]

section
variable {c : CoreId} {s : State} (hclean : ctlClean (s.insn c.key)) (hreg : iReg (s.insn c.key) = 0)
  (hrefetch : (s.core c.key).refetch = none)
include hclean hreg hrefetch

theorem exec_bar (hat : s.atOp c.key 0x0D) (hid : iValue (s.insn c.key) % 256 < 254) :
    exec (.bar c) s = .next (s.atBarrier c.key (BitVec.ofNat 8 (iValue (s.insn c.key) % 256))) :=
  State.control_next hclean rfl hat (regZero_iff.2 hreg)
    ((if_neg (by omega)).trans (if_neg (by simp [hrefetch])))

/-! ### END -/

/-- The core's program has ended. -/
def Core.programEnded (x : Core) : Core :=
  { x with mx := none, vx := none, tx := none, pc := x.pc + 1, ended := true, st := .idle }

theorem exec_endp (hat : s.atOp c.key 0x01) : exec (.endp c) s =
    .next ((s.setCore c.key (s.core c.key).programEnded).layersEnd c.key (s.core c.key).lane) :=
  State.control_next hclean rfl hat (regZero_iff.2 hreg) (if_neg (by simp [hrefetch]))

end

/-- A lane that leaves its Layers phase. -/
def Lane.layersOver (L : Lane) : Lane := if L.st = .layers then { L with st := .sample } else L

theorem Lane.layersOver_idem (L : Lane) : L.layersOver.layersOver = L.layersOver := by
  unfold Lane.layersOver
  split <;> simp_all

theorem State.layersEnd_some {s : State} {k l n : Nat} (h : s.laneComp (keyDie k) l = some n) :
    s.layersEnd k (some l) = if ∀ j ∈ (s.comp n).cores, (s.core j).ended = true
      then s.updLanes (s.comp n).dies l Lane.layersOver else s := by
  simp only [State.layersEnd, h, List.all_eq_true]
  rfl

theorem State.layersEnd_frame (s : State) (k : Nat) (lane : Option Nat) : (∀ j, (s.layersEnd k lane).core j = s.core j) ∧
    (s.layersEnd k lane).tierH = s.tierH ∧ (s.layersEnd k lane).tierM = s.tierM ∧
    (s.layersEnd k lane).tierF = s.tierF := by
  cases lane with
  | none => exact ⟨fun _ => rfl, rfl, rfl, rfl⟩
  | some l =>
    cases hcomp : s.laneComp (keyDie k) l with
    | none => simp [State.layersEnd, hcomp]
    | some n =>
      rw [State.layersEnd_some hcomp]
      split
      · obtain ⟨dies, hdies⟩ := s.updLanes_eq (s.comp n).dies l Lane.layersOver
        rw [hdies]
        exact ⟨fun _ => rfl, rfl, rfl, rfl⟩
      · exact ⟨fun _ => rfl, rfl, rfl, rfl⟩

theorem State.layersEnd_lane {s : State} {k l n i : Nat} (h : s.laneComp (keyDie k) l = some n)
    (hi : i ∈ (s.comp n).dies) (hst : (s.lane i l).st = .layers) : ((s.layersEnd k (some l)).lane i l).st =
      if ∀ j ∈ (s.comp n).cores, (s.core j).ended = true then .sample else .layers := by
  rw [State.layersEnd_some h]
  split
  · rw [State.updLanes_lane_mem Lane.layersOver_idem _ _ hi, Lane.layersOver, if_pos hst]
  · exact hst

theorem State.ended_setCore {s : State} {k j : Nat} : ((s.setCore k (s.core k).programEnded).core j).ended = true ↔
    j = k ∨ (s.core j).ended = true := by
  by_cases hj : j = k
  · subst hj
    simp [Core.programEnded]
  · rw [State.core_setCore_ne _ _ _ hj]
    simp [hj]

end Sys2Proof.Machine

open Sys2Proof Sys2Proof.Machine

/-- Settles O3: a BAR by what its lane counts, an END by the cores of the composition that have ended. -/
theorem barrierAndEnd : Obligations.BarrierAndEnd := by
  unfold Obligations.BarrierAndEnd
  intro c s hclean hreg hrefetch k x w d
  refine ⟨fun hat hid => ?_, fun hat => ?_⟩
  · obtain ⟨hcores, htiers⟩ := s.atBarrier_frame k (BitVec.ofNat 8 (iValue w % 256))
    refine ⟨_, exec_bar hclean hreg hrefetch hat hid, ?_, fun l hl => ?_, fun j hj => ?_, htiers⟩
    · rw [hcores, State.core_setCore]
      rfl
    · rw [State.atBarrier_lane hl]
      obtain ⟨hbarid, harrived, hdie⟩ := (s.setCore k ((s.core k).atBarrier _)).arrive_lane k l
        (BitVec.ofNat 8 (iValue w % 256))
      refine ⟨hbarid, harrived ▸ mem_insNat.2 (.inl rfl), fun n hn => ?_⟩
      rw [← State.barrierCores_of_laneComp hn]
      exact hdie
    · rw [hcores, State.core_setCore_ne _ _ _ hj]
  · obtain ⟨hcores, htiers⟩ := (s.setCore k x.programEnded).layersEnd_frame k x.lane
    refine ⟨_, exec_endp hclean hreg hrefetch hat, ?_, fun l n hl hn i hi hst => ?_, fun j hj => ?_, htiers⟩
    · rw [hcores, State.core_setCore]
      rfl
    · rw [show (s.core c.key).lane = some l from hl,
        State.layersEnd_lane (s := s.setCore k x.programEnded) hn hi hst]
      simp only [x, State.ended_setCore]
      rfl
    · rw [hcores, State.core_setCore_ne _ _ _ hj]

end

section
/-! PROOFS. The sideband bus (16 R524, R525): which transactions the target takes, and its answer to an access by the
offset. -/

namespace Sys2Proof.Machine

/-! ### Which transactions are taken -/

section
variable {s : State} (f : State → State)

theorem State.smb_taken (hrun : s.rst.phase = .run) : s.smb true f = f s := by
  simp [State.smb, hrun]

theorem State.smb_wrongPec (hrun : s.rst.phase = .run) :
    s.smb false f = { s with sb := { s.sb with pecerr := satAdd s.sb.pecerr 1 } } := by
  simp [State.smb, hrun]

theorem State.smb_abandoned (hentry : s.rst.phase = .entry) (pec : Bool) :
    s.smb pec f = { s with sb := { s.sb with abandoned := satAdd s.sb.abandoned 1 } } := by
  simp [State.smb, hentry]

theorem State.smb_unanswered (hrun : s.rst.phase ≠ .run) (hentry : s.rst.phase ≠ .entry) (pec : Bool) :
    s.smb pec f = s := by
  unfold State.smb
  split
  · contradiction
  · contradiction
  · rfl

end

/-- Each transaction of the sideband bus is the shared path with its own access. -/
theorem exec_sideband (s : State) (off : BitVec 32) (v : Word64) (pec : Bool) :
    ∀ i ∈ [Instr.smbCfgWr off v pec, .smbCfgAddr off pec, .smbCfgData pec], ∃ f, exec i s = .next (s.smb pec f) := by
  simp only [List.forall_mem_cons, List.not_mem_nil, false_implies, implies_true, and_true]
  exact ⟨⟨_, rfl⟩, ⟨_, rfl⟩, ⟨_, rfl⟩⟩

/-! ### The answer, by the offset -/

theorem smbBad_iff {o : Nat} : smbBad o = true ↔ o % 8 ≠ 0 ∨ 0x40000000 ≤ o := by simp [smbBad]

theorem smbBad_eq_false {o : Nat} (h : ¬(o % 8 ≠ 0 ∨ 0x40000000 ≤ o)) : smbBad o = false :=
  Bool.eq_false_iff.2 (mt smbBad_iff.1 h)

theorem smbSec_iff {o : Nat} : smbSec o = true ↔ 0x20080000 ≤ o ∧ o < 0x20090000 := by simp [smbSec, inR]

theorem smbEarly_iff {o : Nat} : smbEarly o = true ↔ o = 0x20000040 ∨ 0x20080000 ≤ o ∧ o < 0x200C0000 := by
  simp [smbEarly, inR]

section
variable {s : State} (hrun : s.rst.phase = .run) {off : BitVec 32}
include hrun

theorem exec_smbCfgWr_format (hbad : smbBad off.toNat = true) (v : Word64) :
    exec (.smbCfgWr off v true) s = .next (s.smbAnswer .format 0) :=
  congrArg Host.Outcome.next ((State.smb_taken _ hrun).trans (if_pos hbad))

theorem exec_smbCfgAddr_format (hbad : smbBad off.toNat = true) :
    exec (.smbCfgAddr off true) s = .next (s.smbAnswer .format 0) :=
  congrArg Host.Outcome.next ((State.smb_taken _ hrun).trans (if_pos hbad))

theorem exec_smbCfgData : exec (.smbCfgData true) s = .next (s.emit (.smbData s.sb.ansStatus s.sb.ansValue)) :=
  congrArg Host.Outcome.next (State.smb_taken _ hrun)

variable (hgood : smbBad off.toNat = false)
include hgood

theorem exec_smbCfgWr_denied (hsec : smbSec off.toNat = false) (v : Word64) : exec (.smbCfgWr off v true) s =
    .next (({ s with sb := { s.sb with refused := satAdd s.sb.refused 1 } } : State).smbAnswer .denied 0) :=
  congrArg Host.Outcome.next ((State.smb_taken _ hrun).trans
    ((if_neg (by simp [hgood])).trans (if_pos (by simp [hsec]))))

theorem exec_smbCfgWr_carried (hsec : smbSec off.toNat = true) (v : Word64) : exec (.smbCfgWr off v true) s =
    .next ((s.cfgWrite .sideband ⟨off.toNat, true⟩ v.toNat).smbAnswer .ok 0) :=
  congrArg Host.Outcome.next ((State.smb_taken _ hrun).trans
    ((if_neg (by simp [hgood])).trans (if_neg (by simp [hsec]))))

theorem exec_smbCfgAddr_early (hready : s.hif.ready = false) (hearly : smbEarly off.toNat = false) :
    exec (.smbCfgAddr off true) s = .next (s.smbAnswer .state allOnes) :=
  congrArg Host.Outcome.next ((State.smb_taken _ hrun).trans
    ((if_neg (by simp [hgood])).trans (if_pos (by simp [hready, hearly]))))

theorem exec_smbCfgAddr_carried (hready : s.hif.ready = true) : exec (.smbCfgAddr off true) s =
    .next ((s.cfgRead ⟨off.toNat, true⟩ 0).2.smbAnswer .ok (s.cfgRead ⟨off.toNat, true⟩ 0).1) :=
  congrArg Host.Outcome.next ((State.smb_taken _ hrun).trans
    ((if_neg (by simp [hgood])).trans (if_neg (by simp [hready]))))

end

end Sys2Proof.Machine

open Sys2Proof Sys2Proof.Machine

/-- Settles O36: the phase and the PEC decide whether a transaction is taken, then the offset decides its answer. -/
theorem sideband : Obligations.Sideband := by
  unfold Obligations.Sideband
  intro s off v o bad ans
  refine ⟨fun hrun => ⟨fun hbad => ?_, fun hgood hsec => ?_, fun hgood hlow hhigh => ?_,
    fun hgood hready hnot hsec => ?_, fun hgood hready hterm r hr => ?_, exec_smbCfgData hrun⟩,
    fun i hi hrun => ?_, fun pec i hi => ⟨fun hentry => ?_, fun hrun hentry => ?_⟩⟩
  · exact ⟨exec_smbCfgWr_format hrun (smbBad_iff.2 hbad) v, exec_smbCfgAddr_format hrun (smbBad_iff.2 hbad)⟩
  · exact exec_smbCfgWr_denied hrun (smbBad_eq_false hgood) (Bool.eq_false_iff.2 (mt smbSec_iff.1 hsec)) v
  · exact exec_smbCfgWr_carried hrun (smbBad_eq_false hgood) (smbSec_iff.2 ⟨hlow, hhigh⟩) v
  · have hearly : ¬smbEarly o = true := fun h => (smbEarly_iff.1 h).elim hnot hsec
    exact exec_smbCfgAddr_early hrun (smbBad_eq_false hgood) hready (Bool.eq_false_iff.2 hearly)
  · have h8 : off.toNat % 8 = 0 := by
      by_contra h
      exact hgood (.inl h)
    rw [exec_smbCfgAddr_carried hrun (smbBad_eq_false hgood) hready, State.cfgRead_one rfl h8 hterm hready hr]
    rfl
  · obtain ⟨f, hf⟩ := exec_sideband s off v false i hi
    rw [hf, State.smb_wrongPec f hrun]
  · obtain ⟨f, hf⟩ := exec_sideband s off v pec i hi
    rw [hf, State.smb_abandoned f hentry]
  · obtain ⟨f, hf⟩ := exec_sideband s off v pec i hi
    rw [hf, State.smb_unanswered f hrun hentry]

end

section
/-! PROOFS. Revocation (15 R491 to R493, Table 3; 07 R258): what a command of Quench takes from a die, the answers
awaited, and the end of a revocation. -/

namespace Sys2Proof.Machine

/-! ### REVOKE_LANE (15 Table 3) -/

theorem mem_clearOwner {w : Nat} {owner : BitVec w → Nat} {o : Nat} {t : Tab (BitVec w)} {e : Nat × BitVec w} :
    e ∈ clearOwner owner o t ↔ e ∈ t ∧ owner e.2 ≠ o := by
  simp [clearOwner]

/-- No slot-table entry of a router names lane `l`. -/
def Router.FreeOf (l : Nat) (x : Router) : Prop :=
  ∀ e ∈ x.active ++ x.shadow ++ x.mirror ++ x.mirrorShadow, slOwner e.2 ≠ l

section
variable (x : Die) (l : Nat)

theorem Die.revokeLane_routers (r : Nat) : Router.FreeOf l (Tab.look {} (x.revokeLane l).routers r) := by
  refine Tab.mapVals_all (p := Router.FreeOf l) (by simp [Router.FreeOf]) (fun _ v e he => ?_) r
  simp only [List.mem_append, mem_clearOwner] at he
  obtain ((⟨-, h⟩ | ⟨-, h⟩) | ⟨-, h⟩) | ⟨-, h⟩ := he <;> exact h

theorem Die.revokeLane_elastic : ∀ e ∈ (x.revokeLane l).elastic, e.1 % 16 ≠ l := by
  simp [Die.revokeLane]

theorem Die.revokeLane_flights : ∀ f ∈ (x.revokeLane l).flights, f.owner ≠ l := by
  simp [Die.revokeLane]

theorem Die.revokeLane_lanes : (x.revokeLane l).lanes =
    Tab.upd {} x.lanes l fun L => { L with st := .idle, enable := false, rfw := 0 } := rfl

theorem Die.revokeLane_lane : Tab.look {} (x.revokeLane l).lanes l =
    { (Tab.look {} x.lanes l : Lane) with st := .idle, enable := false, rfw := 0 } := by
  rw [Die.revokeLane_lanes, Tab.look_upd_same]

theorem Die.revokeLane_lane_ne {j : Nat} (h : j ≠ l) :
    Tab.look {} (x.revokeLane l).lanes j = (Tab.look {} x.lanes j : Lane) := by
  rw [Die.revokeLane_lanes, Tab.look_upd_ne _ h]

end

theorem State.revokeLane_dies (s : State) (d l : Nat) :
    (s.revokeLane d l).dies = (s.updDie d fun x => x.revokeLane l).dies := by
  unfold State.revokeLane
  dsimp only
  split
  · rw [State.updTongs_dies]
    rfl
  · rfl

theorem State.revokeLane_die (s : State) (d l : Nat) : (s.revokeLane d l).die d = (s.die d).revokeLane l := by
  rw [State.die, State.revokeLane_dies]
  exact s.die_updDie d _

theorem State.revokeLane_die_ne (s : State) (d l : Nat) {j : Nat} (h : j ≠ d) :
    (s.revokeLane d l).die j = s.die j := by
  rw [State.die, State.revokeLane_dies]
  exact s.die_updDie_ne d _ h

section
variable {s : State} {die lane : Fin 8} {ctx : Fin 1024}

theorem exec_revokeLane_held (hctx : s.laneCtx die lane = some ctx.val) (hlost : (s.ctx ctx).st = .lost) :
    exec (.revokeLane die lane ctx) s = .next (s.revokeLane die lane) :=
  congrArg Host.Outcome.next (if_pos (by simp [hctx, hlost]))

theorem exec_revokeLane_ignored (h : s.laneCtx die lane ≠ some ctx.val ∨ (s.ctx ctx).st ≠ .lost) :
    exec (.revokeLane die lane ctx) s = .next s :=
  congrArg Host.Outcome.next (if_neg (by simpa [imp_iff_not_or] using h))

/-! ### REVOKE_TAG (15 Table 3, 07 R258) -/

theorem exec_revokeTag_lost (hlost : (s.ctx ctx).st = .lost) :
    exec (.revokeTag die ctx) s = .next ((s.revokeTag die ctx).dropContext ctx) :=
  congrArg Host.Outcome.next (if_pos (by simp [hlost]))

theorem exec_revokeTag_ignored (h : (s.ctx ctx).st ≠ .lost) : exec (.revokeTag die ctx) s = .next s :=
  congrArg Host.Outcome.next (if_neg (by simpa using h))

end

theorem State.dropContext_dies (s : State) (c : Nat) : (s.dropContext c).dies = s.dies := by
  unfold State.dropContext
  split <;> rfl

/-- The tags of regions rest on the dies alone, and poisoning a fence leaves them. -/
theorem State.region_tag_of_aside {s t : State} (h : t.aside = s.aside) (m : Bool) (r : Nat × Nat × Nat) :
    (t.region m r).tagged = (s.region m r).tagged ∧ (t.region m r).tag = (s.region m r).tag :=
  Prod.ext_iff.1 (congrFun (congrFun (congrArg Aside.tags h) m) r)

/-- A region without context `c`'s tag. -/
def Region.Untagged (c : Nat) (x : Region) : Prop := ¬(x.tagged = true ∧ x.tag = c)

/-- The regions of a stop's table after the tags of context `c` are taken. -/
theorem untagged_regions (c : Nat) (t : Tab MemStop) (i r : Nat) :
    Region.Untagged c (Tab.look {} (Tab.look {} (Tab.mapVals {} (fun _ (t : MemStop) =>
      { t with regions := Tab.mapVals {} (fun _ (r : Region) => if r.tagged && r.tag == c
          then { r with tagged := false, revoked := true, advance := true } else r) t.regions }) t) i).regions r) := by
  refine Tab.mapVals_all (p := fun y : MemStop => Region.Untagged c (Tab.look {} y.regions r)) ?_ (fun _ y => ?_) i
  · exact fun h => Bool.false_ne_true h.1
  · refine Tab.mapVals_all (p := Region.Untagged c) (fun h => Bool.false_ne_true h.1) (fun _ x => ?_) r
    split
    · exact fun h => Bool.false_ne_true h.1
    · rename_i hne
      exact fun h => hne (by simp [h.1, h.2])

theorem State.revokeTag_untagged (s : State) (d c : Nat) (m : Bool) (i r : Nat) :
    Region.Untagged c ((s.revokeTag d c).region m (d, i, r)) := by
  unfold State.revokeTag
  dsimp only
  obtain ⟨htagged, htag⟩ := State.region_tag_of_aside (foldl_aside (fun (u : State) (e : Nat × Fence) => u.poison_aside e.1) _ _) m (d, i, r)
  rw [Region.Untagged, htagged, htag]
  rw [State.region, State.die_updCtx, State.die_updDie]
  cases m
  · exact untagged_regions c (s.die d).hstops i r
  · exact untagged_regions c (s.die d).mstops i r

/-! ### The end of a revocation (15 R493) -/

theorem State.freeArenas_revs (s : State) (k : Nat) : (s.freeArenas k).revs = s.revs := by
  unfold State.freeArenas
  refine foldl_keeps State.revs _ (fun u e => foldl_keeps State.revs _ (fun v i => ?_) _ _) _ _
  split
  · dsimp only
    split <;> rfl
  · rfl

theorem State.unbindCores_revs (s : State) (l : Nat) (cores : List Nat) (clusters : List (Nat × Nat)) :
    (s.unbindCores l cores clusters).revs = s.revs := by
  unfold State.unbindCores
  dsimp only
  rw [foldl_keeps State.revs]
  · refine foldl_keeps State.revs _ (fun u i => ?_) _ _
    split <;> rfl
  · exact fun _ _ => rfl

theorem State.freeResources_revs (s : State) (k : Nat) : (s.freeResources k).revs = s.revs := by
  unfold State.freeResources
  rw [State.updComp_revs, State.freeArenas_revs, State.unbindCores_revs]

/-- The revocation of context `c` is over: its resources are free, and REVOKED is set. -/
def State.revocationOver (s : State) (c : Nat) : State :=
  let s : State := { s with revs := s.revs.filter fun r => r.ctx != c }
  ((s.compsOf c).foldl (fun s k => s.freeResources k) s).updCtx c fun x => { x with revoked := true }

theorem State.revocationOver_revs (s : State) (c : Nat) :
    (s.revocationOver c).revs = s.revs.filter fun r => r.ctx != c :=
  foldl_keeps State.revs _ (fun u k => u.freeResources_revs k) _ _

theorem State.revocationOver_revoked (s : State) (c : Nat) : ((s.revocationOver c).ctx c).revoked = true := by
  rw [State.revocationOver, State.ctx_updCtx]

section
variable {s : State} {ctx : Fin 1024} {r : Revocation} (hr : s.revs.find? (fun r => r.ctx == ctx.val) = some r)
include hr

theorem exec_revocationComplete_over (hacks : r.acks = []) (hadvanced : s.advancing ctx = false) :
    exec (.revocationComplete ctx) s = .next (s.revocationOver ctx) := by
  have hover : (r.acks.isEmpty && !s.advancing ctx) = true := by simp [hacks, hadvanced]
  refine congrArg Host.Outcome.next ?_
  rw [hr]
  exact if_pos hover

theorem exec_revocationComplete_awaits (h : r.acks ≠ [] ∨ s.advancing ctx = true) :
    exec (.revocationComplete ctx) s = .next s := by
  have hnot : ¬(r.acks.isEmpty && !s.advancing ctx) = true := by simpa [imp_iff_not_or] using h
  refine congrArg Host.Outcome.next ?_
  rw [hr]
  exact if_neg hnot

end

section
variable {s : State} {ctx : Fin 1024}

theorem exec_revocation_none (h : ∀ r ∈ s.revs, r.ctx ≠ ctx.val) :
    exec (.revocationComplete ctx) s = .next s ∧ exec (.teardownTimeout ctx) s = .next s := by
  have hfind : s.revs.find? (fun r => r.ctx == ctx.val) = none := by simpa using h
  refine ⟨congrArg Host.Outcome.next ?_, congrArg Host.Outcome.next (if_neg (by simpa using h))⟩
  rw [hfind]

theorem exec_teardownTimeout_resets (h : ∃ r ∈ s.revs, r.ctx = ctx.val) :
    exec (.teardownTimeout ctx) s = .next (s.resetEntry 4) :=
  congrArg Host.Outcome.next (if_pos (by simpa using h))

end

end Sys2Proof.Machine

open Sys2Proof Sys2Proof.Machine

/-- Settles O33, by what each command of Quench takes from its die, and by the answers and epochs still awaited. -/
theorem revocation : Obligations.Revocation := by
  unfold Obligations.Revocation
  intro s ctx die lane seq c d l
  refine ⟨fun hctx hlost => ⟨_, exec_revokeLane_held hctx hlost, ?_⟩, exec_revokeLane_ignored,
    fun hlost => ⟨_, exec_revokeTag_lost hlost, fun i r => ?_, fun i r => ?_⟩, exec_revokeTag_ignored, rfl,
    fun r hr => ⟨fun hacks hadvanced => ⟨_, exec_revocationComplete_over hr hacks hadvanced,
      s.revocationOver_revoked c, s.revocationOver_revs c⟩, exec_revocationComplete_awaits hr⟩, exec_revocation_none,
    exec_teardownTimeout_resets⟩
  · rw [State.lane, s.revokeLane_die d l, Die.revokeLane_lane]
    refine ⟨Die.revokeLane_routers _ l, Die.revokeLane_elastic _ l, Die.revokeLane_flights _ l, rfl, rfl,
      fun l' hl' => ?_, fun d' => s.revokeLane_die_ne d l⟩
    rw [State.lane, s.revokeLane_die d l, Die.revokeLane_lane_ne _ l hl']
    rfl
  · rw [State.die, State.dropContext_dies]
    exact s.revokeTag_untagged d c false i r
  · rw [State.die, State.dropContext_dies]
    exact s.revokeTag_untagged d c true i r

end

section
/-! PROOFS. Clocks (14 R477, R478, R481): the windows that qualify the primary, the windows of the monitor with what a
bad one takes, and the measurements of a die. -/

namespace Sys2Proof.Machine

/-! ### Every die's counters -/

theorem State.eachFmc_die (s : State) (f : Fmc → Fmc) {e : Nat} (he : e < 8) :
    ((s.eachFmc f).die e).fmc = f (s.die e).fmc := by
  rw [State.eachFmc, State.die_updDies (fun _ x => { x with fmc := f x.fmc }) _ _ _ List.nodup_range,
    if_pos (List.mem_range.2 he)]

theorem State.eachFmc_rst (s : State) (f : Fmc → Fmc) : (s.eachFmc f).rst = s.rst :=
  foldl_keeps State.rst _ (fun _ _ => by rfl) _ _

/-! ### A window's registers (14 Table 20) -/

theorem goodWindow_iff {n : Nat} : goodWindow n = true ↔ 102387 ≤ n ∧ n ≤ 102413 := by simp [goodWindow]

theorem lostWindow_iff {n chk : Nat} : lostWindow n chk = true ↔ n < 102298 ∨ 102502 < n ∨ chk = 0 := by
  simp only [lostWindow, Bool.or_eq_true, decide_eq_true_eq, beq_iff_eq]
  omega

section
variable (f : Fmc) {n : Nat}

/-- A good window's registers. -/
def Fmc.goodOne (n : Nat) : Fmc :=
  { f with run := satAdd f.run 1, bad := 0, lastdev := BitVec.ofInt 16 ((n : Int) - 102400) }

/-- A bad window's registers. -/
def Fmc.badOne (n : Nat) : Fmc :=
  { f with run := 0, bad := f.bad + 1, badwin := satAdd f.badwin 1, lastdev := BitVec.ofInt 16 ((n : Int) - 102400) }

theorem Fmc.window_good (h : goodWindow n = true) : f.window n = f.goodOne n := if_pos h

theorem Fmc.window_bad (h : ¬goodWindow n = true) : f.window n = f.badOne n := if_neg h

theorem Fmc.goodOne_bad : (f.goodOne n).bad = 0 := rfl

theorem Fmc.badOne_run : (f.badOne n).run = 0 := rfl

end

theorem satAdd_one_toNat {w : Nat} (c : BitVec w) : (satAdd c 1).toNat = min (c.toNat + 1) (2 ^ w - 1) := by
  have hlt := c.isLt
  unfold satAdd
  split
  · rename_i h
    rw [BitVec.toNat_ofNat, Nat.mod_eq_of_lt h]
    omega
  · rw [BitVec.toNat_allOnes]
    omega

theorem satAdd_one_of_lt {w : Nat} {c : BitVec w} (h : c.toNat + 1 < 2 ^ w) : satAdd c 1 = c + 1 := by
  rw [satAdd, if_pos h, BitVec.ofNat_add, BitVec.ofNat_toNat, BitVec.setWidth_eq]
  rfl

/-! ### Qualification (14 R477) -/

/-- The state with a window of die `d` in its registers. -/
def State.windowed (s : State) (d n : Nat) : State := s.updDie d fun x => { x with fmc := x.fmc.window n }

theorem State.windowed_fmc (s : State) (d n : Nat) : ((s.windowed d n).die d).fmc = (s.die d).fmc.window n := by
  rw [State.windowed, State.die_updDie]

/-- A HALT progress code, which only a power-up shows (16 R522). -/
def State.shown (s : State) (code : Nat) : State :=
  if s.rst.phase == .powerUp true then { s with sb := s.sb.halt code } else s

theorem State.shown_die (s : State) (code d : Nat) : (s.shown code).die d = s.die d := by
  unfold State.shown
  split <;> rfl

/-- The dies with the primary qualified. -/
def State.qualified (s : State) : State := s.eachFmc fun f => { f with qualified := true, bad := 0, warned := false }

theorem State.qualify_eq (s : State) (n : Nat) : s.qualify n =
    if 8 ≤ ((((s.windowed 0 n).shown 0x41).die 0).fmc.run).toNat then ((s.windowed 0 n).shown 0x41).qualified.shown 0x42
    else (s.windowed 0 n).shown 0x41 := rfl

section
variable {s : State} {n : Nat}

theorem State.qualify_counts (h : ((s.die 0).fmc.window n).run.toNat < 8) :
    ((s.qualify n).die 0).fmc = (s.die 0).fmc.window n := by
  have hrun : ¬8 ≤ ((((s.windowed 0 n).shown 0x41).die 0).fmc.run).toNat := by
    rw [State.shown_die, State.windowed_fmc]
    omega
  rw [State.qualify_eq, if_neg hrun, State.shown_die, State.windowed_fmc]

theorem State.qualify_qualifies (h : 8 ≤ ((s.die 0).fmc.window n).run.toNat) {e : Nat} (he : e < 8) :
    ((s.qualify n).die e).fmc.qualified = true := by
  have hrun : 8 ≤ ((((s.windowed 0 n).shown 0x41).die 0).fmc.run).toNat := by
    rwa [State.shown_die, State.windowed_fmc]
  rw [State.qualify_eq, if_pos hrun, State.shown_die, State.qualified, State.eachFmc_die _ _ he]

end

/-! ### The windows that count -/

section
variable {s : State} {die : Fin 8} {n chk : Nat}

theorem exec_fmcWindow_early (h : s.rst.phase = .off ∨ s.rst.phase = .powerUp false) :
    exec (.fmcWindow die n chk) s = .next s :=
  congrArg Host.Outcome.next (if_pos (by simpa using h))

variable (hoff : s.rst.phase ≠ .off) (hlatch : s.rst.phase ≠ .powerUp false)
include hoff hlatch

theorem exec_fmcWindow_monitor (hq : (s.die 0).fmc.qualified = true) :
    exec (.fmcWindow die n chk) s = .next (s.monitor die n chk) :=
  congrArg Host.Outcome.next ((if_neg (by simp [hoff, hlatch])).trans (if_pos hq))

theorem exec_fmcWindow_other (hq : (s.die 0).fmc.qualified = false) (hd : die.val ≠ 0) :
    exec (.fmcWindow die n chk) s = .next s :=
  congrArg Host.Outcome.next ((if_neg (by simp [hoff, hlatch])).trans ((if_neg (by simp [hq])).trans (if_neg hd)))

theorem exec_fmcWindow_qualify (hq : (s.die 0).fmc.qualified = false) (hd : die.val = 0) (hchk : chk ≠ 0) :
    exec (.fmcWindow die n chk) s = .next (s.qualify n) := by
  refine congrArg Host.Outcome.next
    ((if_neg (by simp [hoff, hlatch])).trans ((if_neg (by simp [hq])).trans ((if_pos hd).trans ?_)))
  rw [if_neg hchk]

end

/-! ### The monitor (14 R478) -/

/-- The dies with the qualification taken away. -/
def State.unqualified (s : State) : State :=
  s.eachFmc fun f => { f with qualified := false, run := 0, bad := 0, warned := false }

/-- The interrupt of a warning goes out, and nothing else changes. -/
theorem State.pwrIrq_eq (s : State) : ∃ o, s.pwrIrq = { s with out := o } := by
  unfold State.pwrIrq
  split
  · refine List.foldlRecOn (motive := fun t : State => ∃ o, t = { s with out := o }) _ _ ⟨s.out, rfl⟩ ?_
    rintro _ ⟨o, rfl⟩ p -
    split
    · exact ⟨_, rfl⟩
    · exact ⟨o, rfl⟩
  · exact ⟨s.out, rfl⟩

/-- With its last cause gone the warning ends. -/
theorem State.endCauses_last {s : State} {cs : List Nat} (hwarn : s.pwr.warn = true) (hall : ∀ c ∈ s.pwr.causes, c ∈ cs) :
    (s.endCauses cs).pwr = { s.pwr with warn := false, causes := [] } ∧ (s.endCauses cs).dies = s.dies := by
  have hnone : (s.pwr.causes.filter fun c => !cs.contains c) = [] := by
    rw [List.filter_eq_nil_iff]
    intro c hc
    simp [hall c hc]
  have hlast : (s.pwr.warn && (s.pwr.causes.filter fun c => !cs.contains c).isEmpty) = true := by
    rw [hwarn, hnone]
    rfl
  unfold State.endCauses
  rw [if_pos hlast]
  obtain ⟨o, ho⟩ := State.pwrIrq_eq { s with
    pwr := { s.pwr with warn := false, causes := [] }, rst := { s.rst with marked := s.rst.marked || s.rst.flossDump.isSome } }
  rw [ho]
  exact ⟨rfl, rfl⟩

theorem State.writeLossDump_phase (s : State) : s.writeLossDump.rst.phase = s.rst.phase := by
  unfold State.writeLossDump
  split <;> rfl

/-- The supply-warning action in RUN sets the registers of the warning and leaves the phase. -/
theorem State.warning_effect {s : State} (hrun : s.inRun = true) (cause stamp : Nat) :
    (s.warning cause stamp).pwr = s.pwr.warnSet cause stamp ∧ (s.warning cause stamp).rst.phase = s.rst.phase := by
  unfold State.warning
  rw [if_pos hrun]
  obtain ⟨-, -, hpwr, hrst, -⟩ :=
    State.onlyRests_endLoops (State.cutLanes { s with pwr := s.pwr.warnSet cause stamp })
  obtain ⟨o, ho⟩ := State.pwrIrq_eq (State.cutLanes { s with pwr := s.pwr.warnSet cause stamp }).endLoops
  dsimp only
  rw [State.writeLossDump_phase, (State.writeLossDump_keeps _).2.2.1, ho]
  exact ⟨hpwr, congrArg Rst.phase hrst⟩

section
variable {s : State} {d n chk : Nat}

theorem State.monitor_lost (hrun : s.inRun = true) (h : lostWindow n chk = true) :
    s.monitor d n chk = ((s.windowed d n).resetEntry 6).unqualified :=
  (if_pos h).trans (if_pos hrun)

variable (h : ¬lostWindow n chk = true)
include h

theorem State.monitor_quiet (hbad : ¬(4 ≤ ((s.die d).fmc.window n).bad ∧ ((s.die d).fmc.window n).warned = false))
    (hgood : ¬(10 ≤ ((s.die d).fmc.window n).run.toNat ∧ ((s.die d).fmc.window n).warned = true)) :
    s.monitor d n chk = s.windowed d n := by
  exact (if_neg h).trans ((if_neg (by simpa using hbad)).trans (if_neg (by simpa using hgood)))

theorem State.monitor_warns (hbad : 4 ≤ ((s.die d).fmc.window n).bad) (hnew : ((s.die d).fmc.window n).warned = false) :
    ∃ u, s.monitor d n chk = State.warning u 5 s.stamp.toNat ∧ u.rst = s.rst := by
  exact ⟨_, (if_neg h).trans (if_pos (by simp [hbad, hnew])), rfl⟩

/-- The state in which die `d` warns no more. -/
def State.unwarned (s : State) (d : Nat) : State := s.updDie d fun x => { x with fmc := { x.fmc with warned := false } }

theorem State.monitor_ends (hbad : ((s.die d).fmc.window n).bad = 0) (hgood : 10 ≤ ((s.die d).fmc.window n).run.toNat)
    (hwarned : ((s.die d).fmc.window n).warned = true) (hothers : ∀ e < 8, e ≠ d → (s.die e).fmc.warned = false) :
    s.monitor d n chk = ((s.windowed d n).unwarned d).endCauses [5] := by
  have hlast : ¬((List.range 8).any fun e => (((s.windowed d n).unwarned d).die e).fmc.warned) = true := by
    simp only [List.any_eq_true, List.mem_range, not_exists, not_and, Bool.not_eq_true]
    intro e he
    by_cases hed : e = d
    · rw [hed, State.unwarned, State.die_updDie]
    · rw [State.unwarned, State.die_updDie_ne _ _ _ hed, State.windowed, State.die_updDie_ne _ _ _ hed]
      exact hothers e he hed
  refine (if_neg h).trans ((if_neg ?_).trans ((if_pos ?_).trans (if_neg hlast)))
  · simp [hbad]
  · simp [hgood, hwarned]

end

/-! ### GO and the end of a measurement (14 R481) -/

section
variable {s : State} {die : Fin 8}

theorem exec_go_starts (hm : (s.die die).fmc.msrc.toNat < 11) (hg : (s.die die).fmc.gsrc.toNat < 11)
    (hc : (s.die die).fmc.gcyc ≠ 0) (hq : (s.die 0).fmc.qualified = true) :
    exec (.go die) s = .next (s.updDie die fun x => { x with fmc := { x.fmc with busy := true } }) :=
  congrArg Host.Outcome.next (State.updDie_congr (if_neg (by simpa [hm, hg, hq] using hc)))

theorem exec_go_ignored (h : 11 ≤ (s.die die).fmc.msrc.toNat ∨ 11 ≤ (s.die die).fmc.gsrc.toNat ∨
      (s.die die).fmc.gcyc = 0 ∨ (s.die 0).fmc.qualified = false) :
    exec (.go die) s = .next (s.updDie die fun x => { x with fmc := { x.fmc with wign := true } }) :=
  congrArg Host.Outcome.next (State.updDie_congr (if_pos (by simpa [or_assoc] using h)))

theorem exec_fmcMeasurementDone_busy (h : (s.die die).fmc.busy = true) (count : Nat) :
    exec (.fmcMeasurementDone die count) s = .next (s.updDie die fun x =>
      { x with fmc := { x.fmc with busy := false, done := true, count := BitVec.ofNat 40 count } }) :=
  congrArg Host.Outcome.next (State.updDie_congr (if_pos h))

theorem exec_fmcMeasurementDone_idle (h : (s.die die).fmc.busy = false) (count : Nat) :
    ∃ t, exec (.fmcMeasurementDone die count) s = .next t ∧ t.die die = s.die die :=
  ⟨_, rfl, (s.die_updDie die _).trans (if_neg (by simp [h]))⟩

end

end Sys2Proof.Machine

open Sys2Proof Sys2Proof.Machine

/-- Settles O54: a window's registers decide what it does; before qualification those of die 0, then each die's own. -/
theorem clocks : Obligations.Clocks := by
  unfold Obligations.Clocks
  intro s die n chk count d f good lost dev
  have hgood : good ↔ goodWindow n = true := goodWindow_iff.symm
  have hlost : lost ↔ lostWindow n chk = true := lostWindow_iff.symm
  refine ⟨exec_fmcWindow_early, fun hoff hlatch => ⟨fun hq => ?qualify, fun hq => ?monitor⟩, exec_go_starts,
    exec_go_ignored, fun h => exec_fmcMeasurementDone_busy h count, fun h => exec_fmcMeasurementDone_idle h count⟩
  case qualify =>
    refine ⟨exec_fmcWindow_other hoff hlatch hq, fun hd hchk hbad => ?bad, fun hd hchk hok hrun => ?good,
      fun hd hchk hok hrun => ?last⟩
    case bad =>
      have hw := Fmc.window_bad (s.die 0).fmc (mt hgood.2 hbad)
      refine ⟨_, exec_fmcWindow_qualify hoff hlatch hq hd hchk, ?_⟩
      rw [State.qualify_counts (by rw [hw, Fmc.badOne_run]; decide), hw]
      exact ⟨rfl, hq⟩
    case good =>
      have hf : f = (s.die 0).fmc := congrArg (fun e => (s.die e).fmc) hd
      have hw := Fmc.window_good (s.die 0).fmc (hgood.1 hok)
      rw [hf] at hrun ⊢
      have hnext : satAdd (s.die 0).fmc.run 1 = (s.die 0).fmc.run + 1 := satAdd_one_of_lt (by omega)
      have hcount : ((s.die 0).fmc.window n).run.toNat < 8 := by
        rw [hw]
        exact (satAdd_one_toNat _).trans_lt (by omega)
      refine ⟨_, exec_fmcWindow_qualify hoff hlatch hq hd hchk, ?_⟩
      rw [State.qualify_counts hcount, hw]
      exact ⟨hnext, hq⟩
    case last =>
      have hf : f = (s.die 0).fmc := congrArg (fun e => (s.die e).fmc) hd
      have hw := Fmc.window_good (s.die 0).fmc (hgood.1 hok)
      rw [hf] at hrun
      refine ⟨_, exec_fmcWindow_qualify hoff hlatch hq hd hchk, fun e he => State.qualify_qualifies ?_ he⟩
      rw [hw]
      exact (satAdd_one_toNat _).symm ▸ (by omega)
  case monitor =>
    refine ⟨fun hl hrun => ?lost, fun hl hok hquiet => ?good, fun hl hok hwarned hrun hwarn hcauses hothers => ?ends,
      fun hl hbad hfew hquiet => ?bad, fun hl hbad hmany hquiet hrun => ?warns⟩
    all_goals rw [exec_fmcWindow_monitor hoff hlatch hq]
    case lost =>
      obtain ⟨hphase, hcause, -⟩ := State.resetEntry_rst (s := s.windowed d n) hrun 6
      refine ⟨_, congrArg Host.Outcome.next (State.monitor_lost hrun (hlost.1 hl)), ?_, ?_, fun e he => ?_⟩
      · rw [State.unqualified, State.eachFmc_rst, hphase]
      · rw [State.unqualified, State.eachFmc_rst, hcause]
        rfl
      · rw [State.unqualified, State.eachFmc_die _ _ he]
    case good =>
      have hw := Fmc.window_good f (hgood.1 hok)
      refine ⟨_, congrArg Host.Outcome.next (State.monitor_quiet (mt hlost.2 hl) ?_ ?_), rfl, rfl, ?_⟩
      · rw [hw, Fmc.goodOne_bad]
        exact fun h => absurd h.1 (by decide)
      · rw [hw]
        exact fun h => Bool.false_ne_true (hquiet.symm.trans h.2)
      · rw [State.windowed_fmc, hw]
        rfl
    case ends =>
      have hw := Fmc.window_good f (hgood.1 hok)
      have hten : 10 ≤ (f.window n).run.toNat := by
        rw [hw]
        exact (satAdd_one_toNat _).symm ▸ (by omega)
      obtain ⟨hpwr, hdies⟩ := State.endCauses_last (s := (s.windowed d n).unwarned d) (cs := [5]) hwarn
        (fun c hc => List.mem_singleton.2 (hcauses c hc))
      refine ⟨_, congrArg Host.Outcome.next (State.monitor_ends (mt hlost.2 hl) ?_ hten ?_ hothers), ?_, ?_, ?_⟩
      · rw [hw]
        rfl
      · rw [hw]
        exact hwarned
      · rw [hpwr]
      · rw [hpwr]
      · rw [State.die, hdies, ← State.die, State.unwarned, State.die_updDie]
    case bad =>
      have hw := Fmc.window_bad f (mt hgood.2 hbad)
      refine ⟨_, congrArg Host.Outcome.next (State.monitor_quiet (mt hlost.2 hl) ?_ ?_), rfl, rfl, ?_⟩
      · rw [hw]
        exact fun h => absurd h.1 (by show ¬4 ≤ f.bad + 1; omega)
      · rw [hw, Fmc.badOne_run]
        exact fun h => absurd h.1 (by decide)
      · rw [State.windowed_fmc, hw]
        rfl
    case warns =>
      have hw := Fmc.window_bad f (mt hgood.2 hbad)
      obtain ⟨u, hu, hrst⟩ := State.monitor_warns (s := s) (d := d) (mt hlost.2 hl)
        (by rw [hw]; show 4 ≤ f.bad + 1; omega) (by rw [hw]; exact hquiet)
      have hphase : u.rst.phase = .run := (congrArg Rst.phase hrst).trans (State.inRun_iff.1 hrun)
      obtain ⟨hpwr, hkept⟩ := State.warning_effect (State.inRun_iff.2 hphase) 5 s.stamp.toNat
      refine ⟨_, congrArg Host.Outcome.next hu, ?_, ?_, hkept.trans hphase⟩
      · rw [hpwr]
        rfl
      · rw [hpwr]
        rfl

end

section
/-! PROOFS. Core voltage and the throttle (14 R469 to R474, R476): a dip of the core rail, the least rise of the level
that covers every excess, the bubbles of a period, the cap and the samples. -/

namespace Sys2Proof.Machine

/-! ### DROOP (14 R469) -/

theorem State.allPortsDown_pwr (s : State) : s.allPortsDown.pwr = s.pwr :=
  foldl_keeps State.pwr _ (fun u i => by split <;> rfl) _ _

theorem State.stopLanes_pwr (s : State) : s.stopLanes.pwr = s.pwr := rfl

theorem State.resetEntry_pwr (s : State) (cause : Nat) : (s.resetEntry cause).pwr = s.pwr := by
  have hpwr : s.allPortsDown.stopLanes.pwr = s.pwr := s.allPortsDown.stopLanes_pwr.trans s.allPortsDown_pwr
  unfold State.resetEntry
  split
  · generalize s.allPortsDown.stopLanes = t at hpwr ⊢
    exact hpwr
  · rfl

/-- The state with a dip of die `d` counted. -/
def State.dipped (s : State) (d mv : Nat) : State :=
  { s.updDie d fun x => { x with thr := x.thr.dip mv } with pwr := { s.pwr with droop := true } }

theorem State.dipped_thr (s : State) (d mv : Nat) : ((s.dipped d mv).die d).thr = (s.die d).thr.dip mv := by
  show ((s.updDie d fun x => { x with thr := x.thr.dip mv }).die d).thr = _
  rw [State.die_updDie]

theorem Throttle.dip_vlow (t : Throttle) (mv : Nat) : (t.dip mv).vlow.toNat = min t.vlow.toNat mv := by
  have hlt := t.vlow.isLt
  exact (BitVec.toNat_ofNat ..).trans (Nat.mod_eq_of_lt (by omega))

section
variable {s : State} {die : Fin 8} {mv : Nat}

theorem exec_droop_ignored (h : s.inRun = false ∨ (s.die die).thr.vmin.toNat + 20 ≤ mv) :
    exec (.droop die mv) s = .next s :=
  congrArg Host.Outcome.next (if_pos (by simpa using h))

theorem exec_droop_counted (hrun : s.inRun = true) (h : mv < (s.die die).thr.vmin.toNat + 20) :
    exec (.droop die mv) s = .next
      (if mv < (s.die die).thr.vmin.toNat then (s.dipped die mv).resetEntry 5 else s.dipped die mv) :=
  congrArg Host.Outcome.next (if_neg (by simp [hrun]; omega))

end

/-! ### The level (14 R471) -/

theorem cdiv_le_iff {a b u : Nat} (hb : 0 < b) : cdiv a b ≤ u ↔ a ≤ u * b := by
  rw [cdiv, ← Nat.lt_succ_iff, Nat.div_lt_iff_lt_mul hb, Nat.succ_mul]
  omega

/-- A rise of `u` covers a quantity's excess when it is at least the excess in 64ths. -/
theorem excess_le_iff {v lim u : Nat} : excess v lim ≤ u ↔ 64 * v ≤ 64 * lim + u * v := by
  unfold excess
  split
  · rw [cdiv_le_iff (by omega)]
    omega
  · have h : 64 * v ≤ 64 * lim := by omega
    simp [h.trans (Nat.le_add_right _ _)]

section
variable {s : State} {x : Die} {u : Nat}

theorem State.covers_iff : Claims.covers s x u ↔ s.pressure x ≤ u := by
  have hhot : 64 * (x.hottest - 100) ≤ 16 * u ↔ (if 100 < x.hottest then 4 * (x.hottest - 100) else 0) ≤ u := by
    split <;> omega
  simp only [Claims.covers, State.pressure, List.forall_mem_cons, List.not_mem_nil, false_implies, implies_true, and_true,
    max_le_iff, excess_le_iff, ← hhot]
  exact ⟨fun ⟨⟨hpin, hiin, hdie⟩, hhottest⟩ => ⟨⟨hpin, hiin⟩, hdie, hhottest⟩,
    fun ⟨⟨hpin, hiin⟩, hdie, hhottest⟩ => ⟨⟨hpin, hiin, hdie⟩, hhottest⟩⟩

theorem State.pressure_eq_zero (h : Claims.covers s x 0) : s.pressure x = 0 := Nat.le_zero.1 (State.covers_iff.1 h)

/-- The least rise that covers every excess is the pressure. -/
theorem State.pressure_eq (hu : 0 < u) (h : Claims.covers s x u) (hleast : ¬Claims.covers s x (u - 1)) :
    s.pressure x = u := by
  rw [State.covers_iff] at h hleast
  omega

theorem State.relaxed_iff : s.relaxed x = true ↔ 100 * s.pwr.pin.toNat ≤ 98 * s.pwr.inforce.toNat ∧
    100 * s.pwr.iin.toNat ≤ 98 * 7200 ∧ x.thr.pdie.toNat ≤ 294 ∧ Claims.hottest x ≤ 98 := by
  simp only [State.relaxed, Bool.and_eq_true, decide_eq_true_eq, and_assoc]
  exact Iff.rfl

theorem State.nextLevel_lt (s : State) (x : Die) : s.nextLevel x < 2 ^ 7 := by
  have hle : s.nextLevel x ≤ s.pwr.theta.toNat := min_le_left _ _
  have hlt := s.pwr.theta.isLt
  omega

theorem State.nextLevel_pinned (h : s.pwr.pinned = true) : s.nextLevel x = s.pwr.theta.toNat := by
  simp [State.nextLevel, h]

section unpinned
variable (h : s.pwr.pinned = false)
include h

theorem State.nextLevel_relaxed (hzero : s.pressure x = 0) (hrelaxed : s.relaxed x = true) :
    s.nextLevel x = min s.pwr.theta.toNat (x.thr.level.toNat - 1) := by
  simp [State.nextLevel, h, hzero, hrelaxed]

theorem State.nextLevel_holds (hzero : s.pressure x = 0) (hrelaxed : s.relaxed x = false) :
    s.nextLevel x = min s.pwr.theta.toNat x.thr.level.toNat := by
  simp [State.nextLevel, h, hzero, hrelaxed]

theorem State.nextLevel_rises (hpos : 0 < s.pressure x) :
    s.nextLevel x = min s.pwr.theta.toNat (x.thr.level.toNat + s.pressure x) := by
  simp [State.nextLevel, h, hpos]

theorem State.saturates_of (hpos : 0 < s.pressure x) (hfull : s.pwr.theta.toNat ≤ x.thr.level.toNat + s.pressure x) :
    s.saturates x = true := by
  simp [State.saturates, hpos, State.nextLevel_rises h hpos, hfull]

end unpinned

theorem State.saturates_of_covered (hzero : s.pressure x = 0) : s.saturates x = false := by
  simp [State.saturates, hzero]

end

/-- A die after an update of the throttle of state `s`. -/
def State.throttled (s : State) (x : Die) : Die :=
  { x with thr := { x.thr with level := BitVec.ofNat 7 (s.nextLevel x), sat := x.thr.sat || s.saturates x } }

theorem State.throttled_level (s : State) (x : Die) : (s.throttled x).thr.level.toNat = s.nextLevel x :=
  (BitVec.toNat_ofNat ..).trans (Nat.mod_eq_of_lt (s.nextLevel_lt x))

/-- The state with every die's level updated. -/
def State.throttledDies (s : State) : State :=
  (List.range 8).foldl (fun (t : State) d => t.updDie d fun x => s.throttled x) s

theorem State.throttledDies_die (s : State) {d : Nat} (hd : d < 8) : s.throttledDies.die d = s.throttled (s.die d) := by
  unfold State.throttledDies
  rw [State.die_updDies (fun _ x => s.throttled x) _ _ _ List.nodup_range, if_pos (List.mem_range.2 hd)]

theorem State.throttledDies_cores (s : State) : s.throttledDies.cores = s.cores :=
  foldl_keeps State.cores _ (fun _ _ => by rfl) _ _

theorem State.throttledDies_comps (s : State) : s.throttledDies.comps = s.comps :=
  foldl_keeps State.comps _ (fun _ _ => by rfl) _ _

theorem exec_throttleUpdate (s : State) : ∃ t, exec .throttleUpdate s = .next t ∧
    (∀ d < 8, t.die d = s.throttled (s.die d)) ∧ (∀ d < 8, s.saturates (s.die d) = true → t.pwr.sat = true) ∧
    t.cores = s.cores ∧ t.comps = s.comps := by
  have hexec : exec .throttleUpdate s = .next { s.throttledDies with pwr := { s.throttledDies.pwr with
    sat := s.throttledDies.pwr.sat || (List.range 8).any fun d => s.saturates (s.die d) } } := rfl
  have hdies (d) (hd : d < 8) := s.throttledDies_die hd
  have hcores := s.throttledDies_cores
  have hcomps := s.throttledDies_comps
  generalize s.throttledDies = t at hexec hdies hcores hcomps
  exact ⟨_, hexec, hdies, fun d hd hsat =>
    Bool.or_eq_true_iff.2 (.inr (List.any_eq_true.2 ⟨d, List.mem_range.2 hd, hsat⟩)), hcores, hcomps⟩

/-! ### Bubbles (14 R470) -/

/-- Of the first `n` units of a period at level `b`, the bubbles are those that the level's share has reached. -/
theorem countP_isBubble {b : Nat} (hb : b ≤ 64) (n : Nat) : (List.range n).countP (isBubble b) = n * b / 64 := by
  induction n with
  | zero => simp
  | succ n ih =>
    rw [List.range_succ, List.countP_append, ih, List.countP_singleton, isBubble, Nat.succ_mul]
    simp only [decide_eq_true_eq]
    split <;> omega

/-! ### The cap (14 R473, R474) -/

theorem State.anyShift_iff {s : State} : s.anyShift = true ↔ ∃ e ∈ s.comps, e.2.st ≠ .free ∧ e.2.balShift = true := by
  simp [State.anyShift]

section
variable {s : State} {v : Nat}

theorem exec_capWrite_ignored (h : v < 1000 ∨ 3600 < v ∨ ∃ e ∈ s.comps, e.2.st ≠ .free ∧ e.2.balShift = true) :
    exec (.capWrite v) s = .next { s with pwr := { s.pwr with wign := true } } := by
  rw [← State.anyShift_iff] at h
  exact congrArg Host.Outcome.next (if_pos (by simpa [or_assoc] using h))

theorem State.recap_unshifted (hcap : 1000 ≤ s.pwr.cap.toNat) (hle : s.pwr.cap.toNat ≤ 3600)
    (h : ∀ e ∈ s.comps, e.2.st = .free ∨ e.2.balShift = false) :
    s.recap = { s with pwr := { s.pwr with inforce := s.pwr.cap } } := by
  have hnone : (s.comps.filter fun e => e.2.st != .free && e.2.balShift) = [] := by
    rw [List.filter_eq_nil_iff]
    intro e he hshift
    obtain hfree | hoff := h e he
    · simp [hfree] at hshift
    · simp [hoff] at hshift
  have hmid : (min 3600 (max 1000 ((s.pwr.cap.toNat : Int) + 0))).toNat = s.pwr.cap.toNat := by omega
  simp only [State.recap, hnone, List.map_nil, List.sum_nil, hmid, BitVec.ofNat_toNat, BitVec.setWidth_eq]

theorem exec_capWrite_taken (hlow : 1000 ≤ v) (hhigh : v ≤ 3600)
    (h : ∀ e ∈ s.comps, e.2.st = .free ∨ e.2.balShift = false) : exec (.capWrite v) s =
      .next { s with pwr := { s.pwr with cap := BitVec.ofNat 12 v, inforce := BitVec.ofNat 12 v } } := by
  have hshift : ¬s.anyShift = true := by
    rw [State.anyShift_iff]
    rintro ⟨e, he, hst, hon⟩
    obtain hfree | hoff := h e he
    · exact hst hfree
    · simp [hoff] at hon
  have hv : (BitVec.ofNat 12 v).toNat = v := (BitVec.toNat_ofNat ..).trans (Nat.mod_eq_of_lt (by omega))
  refine congrArg Host.Outcome.next ((if_neg (by simp [hshift]; omega)).trans ?_)
  exact State.recap_unshifted (s := { s with pwr := { s.pwr with cap := BitVec.ofNat 12 v } })
    (hlow.trans_eq hv.symm) (hv.trans_le hhigh) h

end

/-! ### Samples (14 R476) -/

/-- T_avail is shown, and nothing else changes but the supply of open values. -/
theorem State.showTAvail_eq (s : State) :
    ∃ v n, s.showTAvail = { s with pwr := { s.pwr with tavail := v }, free := n } := by
  unfold State.showTAvail
  dsimp only
  generalize (if s.pwr.pin = 0 then (s.pwr.tAvail : Int)
    else tAvailNum s.pwr.bank s.pwr.vbank.toNat s.pwr.pin.toNat / (80000000 * (s.pwr.pin.toNat : Int))) = v
  by_cases hv : 0 ≤ v ∧ v < 65536
  · rw [if_pos hv]
    exact ⟨_, _, rfl⟩
  · rw [if_neg hv]
    exact ⟨_, _, rfl⟩

/-- The state with a sample taken on the module and on every die. -/
def State.sampled (s : State) (tm : Telemetry) : State :=
  (List.range 8).foldl (fun (s : State) d => s.updDie d fun x => x.sample d tm) { s with pwr := s.pwr.sample tm }

theorem State.sampled_pwr (s : State) (tm : Telemetry) : (s.sampled tm).pwr = s.pwr.sample tm :=
  foldl_keeps State.pwr _ (fun _ _ => by rfl) _ { s with pwr := s.pwr.sample tm }

theorem State.sampled_die (s : State) (tm : Telemetry) {d : Nat} (hd : d < 8) :
    (s.sampled tm).die d = (s.die d).sample d tm := by
  unfold State.sampled
  rw [State.die_updDies (fun d x => x.sample d tm) _ _ _ List.nodup_range, if_pos (List.mem_range.2 hd)]
  rfl

theorem State.showTAvail_die (s : State) (d : Nat) : s.showTAvail.die d = s.die d := by
  obtain ⟨v, n, h⟩ := s.showTAvail_eq
  rw [h]
  rfl

theorem State.showTAvail_pwr (s : State) : ∃ v, s.showTAvail.pwr = { s.pwr with tavail := v } := by
  obtain ⟨v, n, h⟩ := s.showTAvail_eq
  exact ⟨v, congrArg State.pwr h⟩

theorem exec_telemetrySample {s : State} (h : s.rst.phase ≠ .off) (tm : Telemetry) :
    ∃ t, exec (.telemetrySample tm) s = .next t ∧ (∃ v, t.pwr = { s.pwr.sample tm with tavail := v }) ∧
      ∀ d < 8, t.die d = (s.die d).sample d tm := by
  refine ⟨(s.sampled tm).showTAvail, ?_, ?_, fun d hd => (State.showTAvail_die _ d).trans (s.sampled_die tm hd)⟩
  · show Host.Outcome.next (if s.rst.phase == .off then s else (s.sampled tm).showTAvail) = _
    rw [if_neg (by simpa using h)]
  · obtain ⟨v, hv⟩ := (s.sampled tm).showTAvail_pwr
    exact ⟨v, hv.trans (by rw [s.sampled_pwr])⟩

theorem Die.sample_thr {x : Die} {d w temp lo : Nat} {tm : Telemetry} (h : tm.dies[d]? = some (w, temp, lo)) :
    (x.sample d tm).thr.pdie = BitVec.ofNat 12 w ∧ (x.sample d tm).thr.temp = BitVec.ofNat 8 temp := by
  simp [Die.sample, h]

end Sys2Proof.Machine

open Sys2Proof Sys2Proof.Machine

/-- Settles O53: the level by the least rise that covers every excess, the rest by each command's own equation. -/
theorem throttling : Obligations.Throttling := by
  unfold Obligations.Throttling
  intro s die mv v tm d x th b
  refine ⟨exec_droop_ignored, fun hrun hmv => ?droop, ?update, ⟨_, rfl, ?bubble⟩,
    fun hb => (countP_isBubble hb 64).trans (by omega), exec_capWrite_ignored, exec_capWrite_taken,
    fun hoff => congrArg Host.Outcome.next (if_pos (by simp [hoff])), fun hon => ?sample⟩
  case droop =>
    rw [exec_droop_counted hrun hmv]
    by_cases hlow : mv < x.thr.vmin.toNat
    · obtain ⟨hphase, hcause, -⟩ := State.resetEntry_rst (s := s.dipped d mv) hrun 5
      refine ⟨_, congrArg Host.Outcome.next (if_pos hlow), ?_, iff_of_true hphase hlow, fun h => ?_, fun _ => hcause⟩
      · rw [State.resetEntry_pwr]
        rfl
      · omega
    · have hphase : s.rst.phase ≠ .entry := by
        rw [State.inRun_iff.1 hrun]
        decide
      refine ⟨_, congrArg Host.Outcome.next (if_neg hlow), rfl, iff_of_false hphase hlow, fun _ => ?_,
        fun h => absurd h hlow⟩
      rw [State.dipped_thr]
      exact ⟨rfl, Throttle.dip_vlow _ mv, rfl⟩
  case update =>
    obtain ⟨t, hexec, hdie, hsat, hcores, hcomps⟩ := exec_throttleUpdate s
    have hthr : (t.die d).thr = (s.throttled x).thr := by rw [hdie d die.isLt]
    have hlevel : (t.die d).thr.level.toNat = s.nextLevel x := by rw [hthr, State.throttled_level]
    refine ⟨t, hexec, fun hpin => hlevel.trans (State.nextLevel_pinned hpin), fun hpin hcovers => ?_,
      fun hpin u hu hcovers hleast => ?_, hcores, hcomps⟩
    · have hzero := State.pressure_eq_zero hcovers
      refine ⟨fun h => hlevel.trans (State.nextLevel_relaxed hpin hzero (State.relaxed_iff.2 h)),
        fun h => hlevel.trans (State.nextLevel_holds hpin hzero (Bool.eq_false_iff.2 fun hrelaxed => ?_)), ?_⟩
      · obtain ⟨hpin, hiin, hpdie, hhot⟩ := State.relaxed_iff.1 hrelaxed
        change _ ∨ _ ∨ 294 < x.thr.pdie.toNat ∨ _ at h
        change x.thr.pdie.toNat ≤ 294 at hpdie
        omega
      · refine (congrArg Throttle.sat hthr).trans ?_
        rw [State.throttled, State.saturates_of_covered hzero, Bool.or_false]
    · have hpressure := State.pressure_eq hu hcovers hleast
      have hpos : 0 < s.pressure x := hpressure ▸ hu
      refine ⟨hlevel.trans ((State.nextLevel_rises hpin hpos).trans (by rw [hpressure])), fun hfull => ?_⟩
      have hsaturates := State.saturates_of hpin hpos (hpressure ▸ hfull)
      refine ⟨(congrArg Throttle.sat hthr).trans ?_, hsat d die.isLt hsaturates⟩
      rw [State.throttled, hsaturates, Bool.or_true]
  case bubble =>
    rw [State.die_updDie]
    exact ⟨rfl, congrArg (x.thr.units + ·) (BitVec.ofNat_toNat ..), rfl,
      fun e he => s.die_updDie_ne _ _ he⟩
  case sample =>
    obtain ⟨t, hexec, hpwr, hdies⟩ := exec_telemetrySample hon tm
    obtain ⟨tavail, hpwr⟩ := hpwr
    refine ⟨t, hexec, ?_⟩
    rw [hpwr, hdies d die.isLt]
    exact ⟨rfl, rfl, rfl, rfl, rfl, rfl, fun w temp lo => Die.sample_thr⟩

end

section
/-! PROOFS. Power-on reset, power-up and the strap window (13 R432; 14 R463, R464, R467, R475; 16 R518 to R520, R522;
06 R224). -/

namespace Sys2Proof.Machine

/-! ### Power-on reset and power-up (14 R463, R464, R467) -/

theorem exec_powersOff {s : State} {die : Fin 8} {temp : Nat} :
    ∀ i ∈ [Instr.powerOnReset, .thermalPowerOnReset die (110 + temp)], exec i s = .next s.powerOff := by
  have hthermal : exec (.thermalPowerOnReset die (110 + temp)) s = .next s.powerOff :=
    congrArg Host.Outcome.next (if_pos (Nat.le_add_right 110 temp))
  simp only [List.forall_mem_cons, List.not_mem_nil, false_implies, implies_true, and_true]
  exact ⟨rfl, hthermal⟩

theorem State.allPortsDown_keeps (s : State) :
    s.allPortsDown.tierF = s.tierF ∧ s.allPortsDown.sec = s.sec ∧ s.allPortsDown.rst = s.rst := by
  obtain ⟨-, -, hrst, -, -, htierF, hsec, -⟩ := State.portsDown_keeps (List.range 16) s
  exact ⟨htierF, hsec, hrst⟩

/-- What a power-on reset keeps, and the DOWN messages of the UP ports. -/
theorem State.powerOff_keeps (s : State) : s.powerOff.tierF = s.tierF ∧ s.powerOff.sec = s.sec.unpowered ∧
    s.powerOff.rst.flossDump = s.rst.flossDump ∧
    ∀ p < 16, (s.port p).st = .up → ∃ h, Out.control p [] [h] ∈ s.powerOff.out ∧ h.msg = .down 11 := by
  obtain ⟨htierF, hsec, hrst⟩ := s.allPortsDown_keeps
  obtain ⟨sent, hout, hdown⟩ := s.allPortsDown_out
  unfold State.powerOff
  generalize s.allPortsDown = t at htierF hsec hrst hout ⊢
  refine ⟨htierF, congrArg Sec.unpowered hsec, congrArg (·.flossDump) hrst, fun p hp hup => ?_⟩
  obtain ⟨h, hmem, hmsg⟩ := hdown p hp hup
  refine ⟨h, ?_, hmsg⟩
  show Out.control p [] [h] ∈ t.out
  rw [hout]
  exact List.mem_append_right _ hmem

/-! ### The strap window (16 R518 to R520) -/

theorem toNat_ofNat_bits {w v hi lo : Nat} (h : hi + 1 - lo ≤ w) : (BitVec.ofNat w (bits v hi lo)).toNat = bits v hi lo :=
  (BitVec.toNat_ofNat ..).trans (Nat.mod_eq_of_lt ((Nat.mod_lt _ (by positivity)).trans_le (Nat.pow_le_pow_right (by decide) h)))

/-- The straps as the pins' value `v` gives them. -/
def Sb.strapped (x : Sb) (v : Nat) : Sb :=
  { x with slot := BitVec.ofNat 4 (bits v 5 2), ghint := BitVec.ofNat 4 (bits v 9 6), role := bit v 10, pset := bit v 11 }

section
variable {x : Sb} {samples : List (BitVec 12)}

theorem Sb.latch_agreed {v : BitVec 12} (hmark0 : bit v.toNat 0 = true) (hmark1 : bit v.toNat 1 = true)
    (hall : ∀ y ∈ samples, y = v) (hne : samples ≠ []) :
    x.latch samples = { x.strapped v.toNat with bad := false, unstable := false, raw := v } := by
  have hlast : samples.getLast?.getD 0 = v := by
    rw [List.getLast?_eq_some_getLast hne]
    exact hall _ (List.getLast_mem hne)
  have hmarks : samples.any (fun y => !bit y.toNat 0 || !bit y.toNat 1) = false :=
    List.any_eq_false.2 fun y hy => by simp [hall y hy, hmark0, hmark1]
  have hstable : samples.any (fun y => y != v) = false := List.any_eq_false.2 fun y hy => by simp [hall y hy]
  simp only [Sb.latch, hlast, hmarks, hstable]
  rfl

/-- A MARK pin that reads 0, or samples that disagree, leave the default straps. -/
theorem Sb.latch_default (h : (∃ y ∈ samples, bit y.toNat 0 = false ∨ bit y.toNat 1 = false) ∨
    ∃ y ∈ samples, ∃ z ∈ samples, y ≠ z) : ∃ bad unstable raw, (bad = true ∨ unstable = true) ∧
    x.latch samples = { x.strapped 0 with bad := bad, unstable := unstable, raw := raw } := by
  have hany : samples.any (fun y => !bit y.toNat 0 || !bit y.toNat 1) = true ∨
      samples.any (fun y => y != samples.getLast?.getD 0) = true := by
    obtain ⟨y, hy, hmark⟩ | ⟨y, hy, z, hz, hne⟩ := h
    · exact .inl (List.any_eq_true.2 ⟨y, hy, by simpa using hmark⟩)
    · by_cases hyl : y = samples.getLast?.getD 0
      · exact .inr (List.any_eq_true.2 ⟨z, hz, by simpa using fun hzl : z = _ => hne (hyl.trans hzl.symm)⟩)
      · exact .inr (List.any_eq_true.2 ⟨y, hy, by simpa using hyl⟩)
  refine ⟨_, _, samples.getLast?.getD 0, hany, ?_⟩
  simp only [Sb.latch, if_pos (Bool.or_eq_true_iff.2 hany)]
  rfl

/-- The devid of the straps holds both numbers. -/
theorem Sb.strapped_devid (v : Nat) : (x.strapped v).devid.toNat = bits v 5 2 + 256 * bits v 9 6 := by
  have hslot : bits v 5 2 < 16 := Nat.mod_lt _ (by decide)
  have hghint : bits v 9 6 < 16 := Nat.mod_lt _ (by decide)
  refine (BitVec.toNat_ofNat ..).trans ?_
  rw [Sb.strapped, toNat_ofNat_bits (by decide), toNat_ofNat_bits (by decide)]
  omega

end

/-- The state after the strap window has left `b`. -/
def State.strapped (s : State) (b : Sb) : State :=
  { s with rst := { s.rst with phase := .powerUp true, pset := b.pset }, sb := b.halt 0x40,
           route := { s.route with devid := b.devid } }

theorem exec_strapWindow {s : State} (h : s.rst.phase = .powerUp false) (samples : List (BitVec 12)) :
    exec (.strapWindow samples) s = .next (s.strapped (s.sb.latch samples)) := by
  show execStrapWindow samples s = _
  rw [execStrapWindow, h]
  rfl

theorem exec_powerUpRetry {s : State} (h : s.rst.phase = .powerUp true) (step : Fin 4) :
    exec (.powerUpRetry step) s = .next { s with sb := s.sb.halt (0x61 + step.val) } := by
  show execPowerUpRetry step s = _
  rw [execPowerUpRetry, h]

/-- Neither is served once the sequence is over. -/
theorem exec_powerUp_ignored {s : State} (h : s.rst.phase = .run ∨ s.rst.phase = .entry) (step : Fin 4)
    (samples : List (BitVec 12)) : ∀ i ∈ [Instr.powerUpRetry step, .strapWindow samples], exec i s = .next s := by
  simp only [List.forall_mem_cons, List.not_mem_nil, false_implies, implies_true, and_true]
  show execPowerUpRetry step s = _ ∧ execStrapWindow samples s = _
  rw [execPowerUpRetry, execStrapWindow]
  obtain hrun | hentry := h
  · rw [hrun]
    exact ⟨rfl, rfl⟩
  · rw [hentry]
    exact ⟨rfl, rfl⟩

end Sys2Proof.Machine

open Sys2Proof Sys2Proof.Machine

/-- Settles O52: by the equation of each command of the power-up, and by what the samples latch. -/
theorem powerUp : Obligations.PowerUp := by
  unfold Obligations.PowerUp
  intro s temp cmeas die step v samples
  refine ⟨fun i hi => ⟨_, exec_powersOff i hi, ?off⟩, fun hcool => congrArg Host.Outcome.next (if_neg (by omega)),
    fun hoff => ⟨_, congrArg Host.Outcome.next (if_pos (by simp [hoff])), rfl, rfl, Nat.succ_ne_self _, Nat.succ_ne_self _, rfl,
      rfl⟩,
    fun hon => congrArg Host.Outcome.next (if_neg (by simpa using hon)),
    fun hup => ⟨_, exec_powerUpRetry hup step, rfl, rfl⟩,
    fun hup => ⟨fun hmark0 hmark1 hall hne => ⟨_, exec_strapWindow hup samples, ?latched⟩,
      fun hbad => ⟨_, exec_strapWindow hup samples, ?defaults⟩⟩,
    fun h => exec_powerUp_ignored h step samples⟩
  case off =>
    obtain ⟨htierF, hsec, hdump, hdown⟩ := s.powerOff_keeps
    rw [hsec]
    exact ⟨rfl, rfl, rfl, htierF, rfl, rfl, rfl, rfl, rfl, rfl, rfl, rfl, rfl, rfl, rfl, rfl, rfl, rfl, rfl, rfl, rfl, rfl,
      hdump, hdown⟩
  case latched =>
    rw [Sb.latch_agreed hmark0 hmark1 hall hne]
    exact ⟨rfl, toNat_ofNat_bits (by decide), toNat_ofNat_bits (by decide), rfl, rfl, rfl, rfl, rfl, rfl, rfl,
      Sb.strapped_devid (x := s.sb) v.toNat⟩
  case defaults =>
    obtain ⟨bad, unstable, raw, hflag, hlatch⟩ := Sb.latch_default (x := s.sb) hbad
    rw [hlatch]
    exact ⟨rfl, rfl, rfl, rfl, rfl, rfl, rfl, hflag⟩

end

section
/-! PROOFS. The command register of the security block and the lifecycle transitions (13 R441 to R444, R455, R456). -/

namespace Sys2Proof.Machine

/-! ### The command register (13 R455, R456, Table 10) -/

/-- The state with the code of a security command in the command register. -/
def State.secOp (s : State) (op : Nat) : State := { s with sec := { s.sec with op := BitVec.ofNat 4 op } }

section
variable {s : State} {op : Nat} {side allowed : Bool} {f : State → State}

theorem State.secCmd_unserved (h : s.inRun = false ∨ s.sec.terminal = true) : s.secCmd op side allowed f = s :=
  if_pos (by simpa using h)

section served
variable (hrun : s.inRun = true) (hlive : s.sec.terminal = false)
include hrun hlive

theorem State.secCmd_runs (hmay : side = false ∨ allowed = true) : s.secCmd op side allowed f = f (s.secOp op) :=
  (if_neg (by simp [hrun, hlive])).trans (if_neg (by obtain h | h := hmay <;> simp [h]))

theorem State.secCmd_denied (hside : side = true) (hnot : allowed = false) :
    s.secCmd op side allowed f = Claims.secDone s op .denied s.sec :=
  (if_neg (by simp [hrun, hlive])).trans (if_pos (by simp [hside, hnot]))

end served
end

/-! ### Lifecycle transitions (13 R441 to R444, Table 5) -/

section
variable {x : Sec}

theorem Sec.transition_listed {r : Nat × Nat × Option (Option Digest) × Bool} (hr : r ∈ Claims.transitions x)
    (hfrom : r.1 = x.state) : x.transition r.2.1 = some r.2.2.1 ∧ x.ready r.2.1 = r.2.2.2 := by
  simp only [Claims.transitions, List.mem_cons, List.not_mem_nil, or_false] at hr
  obtain rfl | rfl | rfl | rfl | rfl | rfl | rfl := hr <;> simp [Sec.transition, Sec.ready, ← hfrom]

theorem Sec.transition_unlisted {tgt : Nat} (h : ∀ r ∈ Claims.transitions x, r.1 = x.state → r.2.1 ≠ tgt) :
    x.transition tgt = none := by
  simp only [Claims.transitions, List.forall_mem_cons, List.not_mem_nil, false_implies, implies_true, and_true] at h
  unfold Sec.transition
  split <;> simp_all

/-- The security block as it is programmed for a transition to `tgt`. -/
def Sec.erasedFor (x : Sec) (tgt : Nat) : Sec := if tgt = 3 then x.erase else x

theorem Sec.erasedFor_op (tgt : Nat) (op : BitVec 4) :
    ({ x with op := op } : Sec).erasedFor tgt = { x.erasedFor tgt with op := op } := by
  unfold Sec.erasedFor
  split <;> rfl

theorem Sec.program_eq {w : Byte} (h0 : x.copy0 ||| w = w) (h1 : x.copy1 ||| w = w) (h2 : x.copy2 ||| w = w) (tgt : Nat) :
    (x.erasedFor tgt).program w = { x.erasedFor tgt with copy0 := w, copy1 := w, copy2 := w } := by
  have hcopies : (x.erasedFor tgt).copy0 = x.copy0 ∧ (x.erasedFor tgt).copy1 = x.copy1 ∧ (x.erasedFor tgt).copy2 = x.copy2 := by
    unfold Sec.erasedFor
    split <;> exact ⟨rfl, rfl, rfl⟩
  obtain ⟨e0, e1, e2⟩ := hcopies
  rw [Sec.program, e0, e1, e2, h0, h1, h2]

end

section
variable {s : State}

theorem State.lcAdvance_spent (h : 8 ≤ s.sec.fails.toNat) : s.lcAdvance = s.lcDenied := if_pos h

section tried
variable (h8 : s.sec.fails.toNat < 8)
include h8

theorem State.lcAdvance_unlisted (htr : s.sec.transition s.sec.target.toNat = none) : s.lcAdvance = s.secEnd .format := by
  unfold State.lcAdvance
  rw [if_neg (by omega), htr]

variable {tok : Option (Option Digest)} (htr : s.sec.transition s.sec.target.toNat = some tok)
include htr

theorem State.lcAdvance_unmet
    (h : s.sec.tenancy = 1 ∨ s.pwr.vin.toNat < 50000 ∨ s.sec.ready s.sec.target.toNat = false) :
    s.lcAdvance = s.secEnd .state := by
  unfold State.lcAdvance
  rw [if_neg (by omega), htr]
  exact if_pos (by simpa [State.fuseVolts, or_assoc] using h)

variable (hten : s.sec.tenancy ≠ 1) (hvin : 50000 ≤ s.pwr.vin.toNat) (hready : s.sec.ready s.sec.target.toNat = true)
include hten hvin hready

theorem State.lcAdvance_mistoken {d : Option Digest} (htok : tok = some d) (hd : d ≠ some (sha256 s.sec.args)) :
    s.lcAdvance = s.lcDenied := by
  subst htok
  unfold State.lcAdvance
  rw [if_neg (by omega), htr]
  exact (if_neg (by simp [State.fuseVolts, hten, hvin, hready])).trans (if_pos (by simpa using hd))

theorem State.lcAdvance_programs (htok : tok = none ∨ tok = some (some (sha256 s.sec.args))) {w : Byte}
    (hw : lcWord s.sec.target.toNat = w) (h0 : s.sec.copy0 ||| w = w) (h1 : s.sec.copy1 ||| w = w)
    (h2 : s.sec.copy2 ||| w = w) : s.lcAdvance =
      ({ s with sec := { s.sec.erasedFor s.sec.target.toNat with copy0 := w, copy1 := w, copy2 := w } } : State).secEnd .ok := by
  have hprogram := Sec.program_eq h0 h1 h2 s.sec.target.toNat
  unfold Sec.erasedFor at hprogram
  unfold State.lcAdvance
  rw [if_neg (by omega), htr]
  refine (if_neg (by simp [State.fuseVolts, hten, hvin, hready])).trans ((if_neg ?_).trans ?_)
  · obtain rfl | rfl := htok <;> simp
  · dsimp only
    rw [hw, hprogram]
    exact if_pos ⟨rfl, rfl, rfl⟩

end tried
end

end Sys2Proof.Machine

open Sys2Proof Sys2Proof.Machine

/-- Settles O49: by the cases of LC_ADVANCE in the order of its checks, with Table 5 read row by row. -/
theorem lifecycleAdvance : Obligations.LifecycleAdvance := by
  unfold Obligations.LifecycleAdvance
  intro s x go denied
  refine ⟨fun h b => congrArg Host.Outcome.next (State.secCmd_unserved h), fun hrun hlive => ?_⟩
  have hgo : go = .next (s.secOp 1).lcAdvance := congrArg Host.Outcome.next (State.secCmd_runs hrun hlive (.inl rfl))
  refine ⟨congrArg Host.Outcome.next (State.secCmd_denied hrun hlive rfl rfl), fun hspent => hgo.trans ?_,
    fun h8 => ⟨fun hunlisted => hgo.trans ?_, fun r hr hfrom hto => ?_⟩⟩
  · exact congrArg Host.Outcome.next (State.lcAdvance_spent (s := s.secOp 1) hspent)
  · exact congrArg Host.Outcome.next (State.lcAdvance_unlisted (s := s.secOp 1) h8 (Sec.transition_unlisted (x := x) hunlisted))
  · obtain ⟨htr, hready⟩ := Sec.transition_listed hr hfrom
    rw [hto] at htr hready
    refine ⟨fun hunmet => hgo.trans ?_, fun hten hvin hmet => ⟨fun d htok hd => hgo.trans ?_, fun htok => ?_⟩⟩
    · rw [← hready] at hunmet
      exact congrArg Host.Outcome.next (State.lcAdvance_unmet (s := s.secOp 1) h8 htr hunmet)
    · exact congrArg Host.Outcome.next
        (State.lcAdvance_mistoken (s := s.secOp 1) h8 htr hten hvin (hready.trans hmet) htok hd)
    · intro w y
      refine ⟨fun h0 h1 h2 => hgo.trans ?_, fun h3 => ?_⟩
      · have hw : lcWord x.target.toNat = w := congrArg lcWord hto.symm
        rw [State.lcAdvance_programs (s := s.secOp 1) h8 htr hten hvin (hready.trans hmet) htok hw h0 h1 h2]
        have hy : (s.secOp 1).sec.erasedFor (s.secOp 1).sec.target.toNat = { y with op := 1 } :=
          (Sec.erasedFor_op _ _).trans (congrArg (fun tgt => { x.erasedFor tgt with op := 1 }) hto.symm)
        rw [hy]
        rfl
      · have hy : y = x.erase := if_pos h3
        rw [hy]
        exact ⟨rfl, rfl, rfl, rfl, rfl, rfl, rfl⟩

end

section
/-! PROOFS. The key store, provisioning and the start of firmware (13 R431 to R435, R445 to R447). -/

namespace Sys2Proof.Machine

/-! ### The key store (13 R431, R432) -/

section
variable {x : Sec}

/-- The key store as an update by `f` leaves its newer copy. -/
def Sec.written (x : Sec) (f : KeyStore → KeyStore) : KeyStore :=
  { f (if x.current.valid then x.current else {}) with
    version := if x.current.valid then x.current.version + 1 else 1, valid := true }

/-- The copy written is the one in force, while its version is not the last. -/
theorem Sec.current_writeStore (hfits : x.current.version.toNat + 1 < 2 ^ 64) (f : KeyStore → KeyStore) :
    (x.writeStore f).current = x.written f := by
  have hnew : x.current.valid = true → (x.written f).version.toNat = x.current.version.toNat + 1 := fun hvalid => by
    rw [Sec.written, if_pos hvalid, BitVec.toNat_add]
    exact Nat.mod_eq_of_lt hfits
  by_cases hfirst : (x.store.valid && (!x.store1.valid || decide (x.store1.version.toNat < x.store.version.toNat))) = true
  · have hcurrent : x.current = x.store := if_pos hfirst
    have hwrite : x.writeStore f = { x with store1 := x.written f } := if_pos hfirst
    have hvalid : x.store.valid = true := (Bool.and_eq_true_iff.1 hfirst).1
    rw [hcurrent] at hnew
    rw [hwrite]
    refine if_neg ?_
    have hversion := hnew hvalid
    simp [hvalid, hversion, show (x.written f).valid = true from rfl]
  · have hcurrent : x.current = x.store1 := if_neg hfirst
    have hwrite : x.writeStore f = { x with store := x.written f } := if_neg hfirst
    rw [hcurrent] at hnew
    rw [hwrite]
    refine if_pos ?_
    by_cases hvalid : x.store1.valid = true
    · have hversion := hnew hvalid
      simp [hvalid, hversion, show (x.written f).valid = true from rfl]
    · simp [hvalid, show (x.written f).valid = true from rfl]

/-- An update changes nothing but the key store. -/
theorem Sec.writeStore_eq (f : KeyStore → KeyStore) : ∃ a b, x.writeStore f = { x with store := a, store1 := b } := by
  unfold Sec.writeStore
  dsimp only
  split
  · exact ⟨_, _, rfl⟩
  · exact ⟨_, _, rfl⟩

theorem Sec.stored_writeStore (hheld : x.kekHeld = true) (hfits : x.current.version.toNat + 1 < 2 ^ 64)
    (f : KeyStore → KeyStore) : (x.writeStore f).stored = true := by
  have hkek : (x.writeStore f).kekHeld = x.kekHeld := by
    obtain ⟨a, b, h⟩ := x.writeStore_eq f
    rw [h]
    rfl
  rw [Sec.stored, hkek, hheld, Sec.current_writeStore hfits]
  rfl

theorem Sec.fs_of_stored (h : x.stored = true) : x.fs = x.current.fs := if_pos h

theorem Sec.fs_of_not_stored (h : x.stored = false) : x.fs = x.volFs := if_neg (by simp [h])

theorem Sec.fRoot_of_stored (h : x.stored = true) : x.fRoot = x.current.root := if_pos h

theorem Sec.fs_writeStore (hheld : x.kekHeld = true) (hfits : x.current.version.toNat + 1 < 2 ^ 64)
    (f : KeyStore → KeyStore) : (x.writeStore f).fs = (x.written f).fs := by
  rw [Sec.fs_of_stored (Sec.stored_writeStore hheld hfits f), Sec.current_writeStore hfits]

theorem Sec.fRoot_writeStore (hheld : x.kekHeld = true) (hfits : x.current.version.toNat + 1 < 2 ^ 64)
    (f : KeyStore → KeyStore) : (x.writeStore f).fRoot = (x.written f).root := by
  rw [Sec.fRoot_of_stored (Sec.stored_writeStore hheld hfits f), Sec.current_writeStore hfits]

theorem Sec.idHeld_writeStore (hheld : x.kekHeld = true) (hfits : x.current.version.toNat + 1 < 2 ^ 64)
    (f : KeyStore → KeyStore) : (x.writeStore f).idHeld = (x.written f).idkey := by
  rw [Sec.idHeld, Sec.stored_writeStore hheld hfits f, Sec.current_writeStore hfits, Bool.true_and]

/-! ### What KEYGEN and FS_SET leave (13 R445, R447) -/

/-- The key store that KEYGEN makes of the volatile keys. -/
def Sec.seal (x : Sec) (k : KeyStore) : KeyStore :=
  { k with root := x.volRoot, idkey := true, fs := x.volFs, tierF := x.volTierF }

/-- The security block after KEYGEN. -/
def Sec.keyed (x : Sec) : Sec :=
  { ({ x with kek := 1, genId := x.genId + 1 } : Sec).writeStore x.seal with volFs := none, volTierF := none, volRoot := 0 }

theorem Sec.keyed_holds (hfits : x.current.version.toNat + 1 < 2 ^ 64) : x.keyed.kek = 1 ∧ x.keyed.idHeld = true ∧
    x.keyed.fs = x.volFs ∧ x.keyed.fRoot = x.volRoot ∧ x.keyed.genId = x.genId + 1 := by
  have hheld : ({ x with kek := 1, genId := x.genId + 1 } : Sec).kekHeld = true := rfl
  have hstored := Sec.stored_writeStore hheld hfits x.seal
  have hid := Sec.idHeld_writeStore hheld hfits x.seal
  have hfs := (Sec.fs_of_stored hstored).symm.trans (Sec.fs_writeStore hheld hfits x.seal)
  have hroot := (Sec.fRoot_of_stored hstored).symm.trans (Sec.fRoot_writeStore hheld hfits x.seal)
  obtain ⟨a, b, hwrite⟩ := Sec.writeStore_eq (x := { x with kek := 1, genId := x.genId + 1 }) x.seal
  unfold Sec.keyed
  rw [hwrite] at hstored hid hfs hroot ⊢
  exact ⟨rfl, hid, (if_pos hstored).trans hfs, (if_pos hstored).trans hroot, rfl⟩

/-- The security block with a fabric secret installed. -/
def Sec.putFs (x : Sec) (v : Option Digest) : Sec :=
  if x.kekHeld then x.writeStore fun k => { k with fs := v } else { x with volFs := v }

theorem Sec.putFs_fs (hfits : x.current.version.toNat + 1 < 2 ^ 64) (v : Option Digest) : (x.putFs v).fs = v := by
  unfold Sec.putFs
  split
  case isTrue hheld => exact Sec.fs_writeStore hheld hfits _
  case isFalse hbare =>
    exact Sec.fs_of_not_stored (x := { x with volFs := v }) (Bool.and_eq_false_iff.2 (.inl (Bool.eq_false_iff.2 hbare)))

end

/-! ### The commands -/

section
variable {s : State}

theorem State.keygen_eq : s.keygen = if s.sec.lcForce = 1 ∧ s.sec.kek = 0 then
    ({ s with sec := s.sec.keyed } : State).secEnd .ok else s.secEnd .state := rfl

theorem State.digestSet_refused (h : s.sec.lcForce ≠ 1 ∨ (if s.sec.sel then s.sec.tTerm else s.sec.tDeploy) ≠ none) :
    s.digestSet = s.secEnd .state := by
  unfold State.digestSet
  dsimp only
  by_cases hforce : s.sec.lcForce = 1
  · have hset := h.resolve_left (not_not_intro hforce)
    rw [if_neg (not_not_intro hforce)]
    cases hsel : s.sec.sel
    · exact if_pos (Option.isSome_iff_ne_none.2 (by simpa [hsel] using hset))
    · exact if_pos (Option.isSome_iff_ne_none.2 (by simpa [hsel] using hset))
  · exact if_pos hforce

section provision
variable (hforce : s.sec.lcForce = 1)
include hforce

theorem State.digestSet_deploy (hsel : s.sec.sel = false) (hblank : s.sec.tDeploy = none) :
    s.digestSet = ({ s with sec := { s.sec with tDeploy := some s.sec.argDigest } } : State).secEnd .ok := by
  simp [State.digestSet, hforce, hsel, hblank]

theorem State.digestSet_term (hsel : s.sec.sel = true) (hblank : s.sec.tTerm = none) :
    s.digestSet = ({ s with sec := { s.sec with tTerm := some s.sec.argDigest } } : State).secEnd .ok := by
  simp [State.digestSet, hforce, hsel, hblank]

end provision

/-- Some port other than the command's own is UP. -/
theorem State.otherPortUp_iff {port : Option (Fin 16)} :
    ((List.range 16).any fun p => (s.port p).st == .up && some p != port.map (·.val)) = true ↔
      ∃ p < 16, (s.port p).st = .up ∧ ∀ i ∈ port, i.val ≠ p := by
  have hown (p : Nat) : (some p != port.map (·.val)) = true ↔ ∀ i ∈ port, i.val ≠ p := by
    cases port with
    | none => simp
    | some i => simpa using ne_comm
  simp only [List.any_eq_true, List.mem_range, Bool.and_eq_true, beq_iff_eq, hown]

theorem State.fsSet_eq {port : Option Nat} : s.fsSet port =
    if ((List.range 16).any fun p => (s.port p).st == .up && some p != port) = true then s.secEnd .state
    else ({ s with sec := s.sec.putFs (some s.sec.argDigest) } : State).secEnd .ok := rfl

/-! ### BOOT (13 R433 to R435) -/

variable {img : List Byte} {failed : Bool}

theorem State.boot_unmet (h : s.sec.fwRunning = true ∨ s.portUp false = false ∧ s.portUp true = false) :
    s.boot img failed = s.secEnd .state := if_pos (by simpa using h)

theorem State.boot_met (hstopped : s.sec.fwRunning = false) (hup : s.portUp false = true ∨ s.portUp true = true) :
    ¬(s.sec.fwRunning || !(s.portUp false || s.portUp true)) = true := by
  rw [hstopped, Bool.or_eq_true_iff.2 hup]
  decide

section meets
variable (hstopped : s.sec.fwRunning = false) (hup : s.portUp false = true ∨ s.portUp true = true)
include hstopped hup

theorem State.boot_failed (hfailed : failed = true) : s.boot img failed = s.secEnd .link :=
  (if_neg (State.boot_met hstopped hup)).trans (if_pos hfailed)

section read
variable (hread : failed = false)
include hread

theorem State.boot_starts (hok : s.sec.verify img = .ok) : s.boot img failed = (s.startFw img false).secEnd .ok := by
  refine (if_neg (State.boot_met hstopped hup)).trans ((if_neg (by simp [hread])).trans ?_)
  rw [hok]

theorem State.boot_refused (hbad : s.sec.verify img ≠ .ok) : s.boot img failed =
    ({ s with sec := { s.sec with bootFailed := true }, sb := { s.sb with step := 14 } } : State).secEnd (s.sec.verify img) := by
  refine (if_neg (State.boot_met hstopped hup)).trans ((if_neg (by simp [hread])).trans ?_)
  split
  · contradiction
  · rfl

end read
end meets

theorem Sec.verify_op (x : Sec) (op : BitVec 4) (img : List Byte) : ({ x with op := op } : Sec).verify img = x.verify img := by
  unfold Sec.verify Sec.imageForm Sec.keySlot
  rfl

end

theorem leNat_lt (l : List Byte) : leNat l < 256 ^ l.length := by
  induction l with
  | nil => exact Nat.one_pos
  | cons b l ih =>
    have hb := b.isLt
    rw [leNat, List.length_cons, Nat.pow_succ]
    omega

theorem field_lt (l : List Byte) (a n : Nat) : field l a n < 256 ^ n := by
  have h := leNat_lt (slice l a n)
  rwa [slice, List.length_map, List.length_range] at h

end Sys2Proof.Machine

open Sys2Proof Sys2Proof.Machine

/-- Settles O50: the command register's rule for each command, then what the command itself leaves. -/
theorem provisioning : Obligations.Provisioning := by
  unfold Obligations.Provisioning
  intro s port img failed x others fits
  refine ⟨fun h b => ?unserved, fun hrun hlive => ?_⟩
  case unserved =>
    simp only [List.forall_mem_cons, List.not_mem_nil, false_implies, implies_true, and_true]
    exact ⟨congrArg Host.Outcome.next (State.secCmd_unserved h), congrArg Host.Outcome.next (State.secCmd_unserved h),
      congrArg Host.Outcome.next (State.secCmd_unserved h), congrArg Host.Outcome.next (State.secCmd_unserved h)⟩
  have hkeygen : exec (.keygen false) s = .next (s.secOp 2).keygen :=
    congrArg Host.Outcome.next (State.secCmd_runs hrun hlive (.inl rfl))
  have hdigest : exec (.digestSet false) s = .next (s.secOp 3).digestSet :=
    congrArg Host.Outcome.next (State.secCmd_runs hrun hlive (.inl rfl))
  have hboot : exec (.boot false img failed) s = .next ((s.secOp 5).boot img failed) :=
    congrArg Host.Outcome.next (State.secCmd_runs hrun hlive (.inl rfl))
  refine ⟨congrArg Host.Outcome.next (State.secCmd_denied hrun hlive rfl rfl),
    congrArg Host.Outcome.next (State.secCmd_denied hrun hlive rfl rfl),
    congrArg Host.Outcome.next (State.secCmd_denied hrun hlive rfl rfl),
    fun hforce hkek hfits => ?keyed, fun h => hkeygen.trans ?unkeyed,
    fun hforce hsel hblank => hdigest.trans (congrArg Host.Outcome.next (State.digestSet_deploy hforce hsel hblank)),
    fun hforce hsel hblank => hdigest.trans (congrArg Host.Outcome.next (State.digestSet_term hforce hsel hblank)),
    fun h => hdigest.trans (congrArg Host.Outcome.next (State.digestSet_refused h)),
    fun hnone hheld => congrArg Host.Outcome.next (State.secCmd_denied hrun hlive (by simp [hnone])
      (Option.isNone_eq_false_iff.2 (Option.isSome_iff_ne_none.2 hheld))),
    fun hmay => ?fsSet, fun h => hboot.trans (congrArg Host.Outcome.next (State.boot_unmet h)),
    fun hstopped hup => ⟨fun hfailed => hboot.trans (congrArg Host.Outcome.next (State.boot_failed hstopped hup hfailed)),
      fun hread => ?image⟩⟩
  case keyed =>
    obtain ⟨hprog, hid, hfs, hroot, hgen⟩ := Sec.keyed_holds (x := (s.secOp 2).sec) hfits
    exact ⟨_, hkeygen.trans (congrArg Host.Outcome.next (State.keygen_eq.trans (if_pos ⟨hforce, hkek⟩))),
      hprog, hid, hfs, hroot, hgen, rfl, rfl, rfl⟩
  case unkeyed =>
    refine congrArg Host.Outcome.next (State.keygen_eq.trans (if_neg fun hboth => ?_))
    obtain hforce | hkek := h
    · exact hforce hboth.1
    · exact hkek hboth.2
  case fsSet =>
    have hfsSet : exec (.fsSet port) s = .next ((s.secOp 4).fsSet (port.map (·.val))) := by
      refine congrArg Host.Outcome.next (State.secCmd_runs hrun hlive (hmay.imp (fun h => ?_) fun h => ?_))
      · exact Option.isNone_eq_false_iff.2 (Option.isSome_iff_ne_none.2 h)
      · exact Option.isNone_iff_eq_none.2 h
    refine ⟨fun hothers => hfsSet.trans (congrArg Host.Outcome.next (State.fsSet_eq.trans (if_pos ?_))), fun hothers hfits => ?_⟩
    · exact State.otherPortUp_iff.2 hothers
    · have hfs := Sec.putFs_fs (x := (s.secOp 4).sec) hfits (some x.argDigest)
      refine ⟨_, hfsSet.trans (congrArg Host.Outcome.next (State.fsSet_eq.trans (if_neg ?_))), hfs, rfl, rfl, rfl⟩
      exact fun hup => hothers (State.otherPortUp_iff.1 hup)
  case image =>
    have hverify : (s.secOp 5).sec.verify img = x.verify img := Sec.verify_op x 5 img
    by_cases hok : x.verify img = .ok
    · refine ⟨_, hboot.trans (congrArg Host.Outcome.next (State.boot_starts hstopped hup hread (hverify.trans hok))), ?_⟩
      rw [if_pos hok]
      exact ⟨rfl, rfl, (BitVec.toNat_ofNat ..).trans (Nat.mod_eq_of_lt (field_lt img 8 4)), rfl, rfl, rfl, rfl⟩
    · refine ⟨_, hboot.trans (congrArg Host.Outcome.next (State.boot_refused hstopped hup hread (hverify ▸ hok))), ?_⟩
      rw [if_neg hok, hverify]
      rfl

end

section
/-! PROOFS. The replay recorder's commands (12 R414, R419 to R422, R428). -/

namespace Sys2Proof.Machine

/-! ### RECORD_FETCH (12 R420) -/

/-- A list of records splits into the longest run of whole records within `n` bytes and the rest. -/
theorem takeWhole_splits (l : List Rec) (n : Nat) : ∃ l₁ l₂, l = l₁ ++ l₂ ∧
    takeWhole n l = (l₁.flatMap (·.bytes), l₂.head?) ∧ (l₁.flatMap (·.bytes)).length ≤ n ∧
    ∀ x ∈ l₂.head?, n < (l₁.flatMap (·.bytes)).length + x.bytes.length := by
  induction l generalizing n with
  | nil => exact ⟨[], [], rfl, rfl, Nat.zero_le _, by simp⟩
  | cons x l ih =>
    by_cases hfits : x.bytes.length ≤ n
    · obtain ⟨l₁, l₂, hsplit, htake, hle, hnext⟩ := ih (n - x.bytes.length)
      refine ⟨x :: l₁, l₂, congrArg (x :: ·) hsplit, ?_, ?_, fun y hy => ?_⟩
      · rw [takeWhole, if_pos hfits, htake, List.flatMap_cons]
      · rw [List.flatMap_cons, List.length_append]
        omega
      · have := hnext y hy
        rw [List.flatMap_cons, List.length_append]
        omega
    · refine ⟨[], x :: l, rfl, ?_, Nat.zero_le _, fun y hy => ?_⟩
      · rw [takeWhole, if_neg hfits]
        rfl
      · obtain rfl : x = y := Option.some.inj hy
        simpa using hfits

section
variable {q : Fin 4096} {s : State} {b : List Byte}
  (h : s.begins q.val 0x4C [(16, 8), (24, 8), (32, 4)] b) (haddr : field b 24 8 % 64 = 0) (hlen : field b 32 4 % 64 = 0)
  (hmin : 4096 ≤ field b 32 4)
include h haddr hlen hmin

theorem exec_recordFetch_refused
    (hst : (s.comp (field b 12 2)).st ≠ .ready ∨ (s.recRing (field b 12 2)).nextStep < field b 16 8) :
    exec (.recordFetch q) s = .next (s.complete q.val .state) :=
  congrArg Host.Outcome.next ((State.descr_plain h (by simp [al64, haddr, hlen, hmin])).trans (if_pos (by simpa using hst)))

theorem exec_recordFetch (hready : (s.comp (field b 12 2)).st = .ready)
    (hfrom : field b 16 8 ≤ (s.recRing (field b 12 2)).nextStep) : exec (.recordFetch q) s =
      let w := (s.recRing (field b 12 2)).fetch (field b 16 8) (field b 32 4)
      .next ((s.updRec (field b 12 2) fun r => r.releaseBelow (field b 16 8)).sendOut q.val (field b 24 8) w.1 .ok
        (BitVec.ofNat 256 (w.1.length + 2 ^ 64 * w.2))) :=
  congrArg Host.Outcome.next ((State.descr_plain h (by simp [al64, haddr, hlen, hmin])).trans
    (if_neg (by simpa [hready] using hfrom)))

end

/-! ### Checkpoints (12 R419) -/

/-- A checkpoint takes only an open value of the machine, and that only for a signature. -/
theorem State.signature_eq (s : State) : ∃ sig n, s.signature = (sig, { s with free := n }) ∧
    (s.sec.idHeld = false → sig = List.replicate 384 0) := by
  unfold State.signature
  cases hid : s.sec.idHeld
  · exact ⟨_, s.free, rfl, fun _ => rfl⟩
  · exact ⟨_, _, rfl, fun h => by contradiction⟩

/-- The bytes of a checkpoint record that covers record `seq` with chain value `chain`. -/
def State.checkpointBody (s : State) (r : RecRing) (seq : Nat) (chain : Digest) (sig : List Byte) : List Byte :=
  slice (leBytes 8 seq ++ leBytes 32 chain.toNat ++ leBytes 8 r.cid.toNat ++ leBytes 3 s.route.devid.toNat ++ leBytes 1 1
    ++ leBytes 4 s.sec.fwver.toNat) 0 64 ++ sig

/-- STEP and POS of a checkpoint: the composition's, or the newest record's in a ring without a composition. -/
def State.checkpointAt (s : State) (k : Nat) : Nat × Nat :=
  if (s.comp k).st = .free then
    match (s.recRing k).recs.getLast? with
    | some x => (x.step.toNat, field x.bytes 24 8)
    | none => (0, 0)
  else ((s.compLane k).step.toNat, (s.compLane k).lc)

section
variable {s : State} {k : Nat}

theorem State.checkpointAt_of_comp (h : (s.comp k).st ≠ .free) :
    s.checkpointAt k = ((s.compLane k).step.toNat, (s.compLane k).lc) := if_neg h

theorem State.checkpoint_none (h : (s.recRing k).due = []) : s.checkpoint k = s := by
  unfold State.checkpoint
  dsimp only
  rw [h]

/-- The oldest checkpoint due is appended, and is due no longer. -/
theorem State.checkpoint_due {seq : Nat} {chain : Digest} {rest : List (Nat × Digest)}
    (h : (s.recRing k).due = (seq, chain) :: rest) : ∃ sig n, (s.sec.idHeld = false → sig = List.replicate 384 0) ∧
      s.checkpoint k = ({ s with free := n } : State).updRec k fun r =>
        { r.append k 8 (s.checkpointAt k).1 (s.checkpointAt k).2 (s.checkpointBody (s.recRing k) seq chain sig) with
          due := rest } := by
  obtain ⟨sig, n, hsignature, hsig⟩ := s.signature_eq
  refine ⟨sig, n, hsig, ?_⟩
  unfold State.checkpoint
  dsimp only
  rw [h, hsignature]
  rfl

/-- A checkpoint of one ring leaves the others. -/
theorem State.checkpoint_recRing_ne {j : Nat} (hj : j ≠ k) : (s.checkpoint k).recRing j = s.recRing j := by
  cases hdue : (s.recRing k).due with
  | nil => rw [State.checkpoint_none hdue]
  | cons e rest =>
    obtain ⟨sig, n, -, hcheckpoint⟩ := State.checkpoint_due hdue
    rw [hcheckpoint]
    exact State.recRing_updRec_ne _ k _ hj

/-- With as many checkpoints as are due, the ring gets as many records of that kind and none is due. -/
theorem State.checkpoints_due (l : List (Nat × Digest)) {s : State} (h : (s.recRing k).due = l) : ∃ new : List Rec,
    let t := l.foldl (fun (s : State) _ => s.checkpoint k) s
    (t.recRing k).recs = (s.recRing k).recs ++ new ∧ (∀ y ∈ new, y.kind = 8) ∧ (t.recRing k).due = [] := by
  induction l generalizing s with
  | nil => exact ⟨[], (List.append_nil _).symm, by simp, h⟩
  | cons e rest ih =>
    obtain ⟨sig, n, -, hcheckpoint⟩ := State.checkpoint_due h
    have hring := congrArg (State.recRing · k) hcheckpoint
    rw [State.recRing_updRec] at hring
    obtain ⟨new, hrecs, hkinds, hdue⟩ := ih (s := s.checkpoint k) (by rw [hring])
    rw [hring] at hrecs
    exact ⟨_ :: new, hrecs.trans (List.append_assoc ..), List.forall_mem_cons.2 ⟨rfl, hkinds⟩, hdue⟩

end

/-- The state with every checkpoint that is due on a ring appended to it. -/
def State.checkpoints (s : State) (k : Nat) : State :=
  (s.recRing k).due.foldl (fun (s : State) _ => s.checkpoint k) s

theorem State.checkpoints_recRing (s : State) (k : Nat) : ∃ new : List Rec,
    ((s.checkpoints k).recRing k).recs = (s.recRing k).recs ++ new ∧ (∀ y ∈ new, y.kind = 8) ∧
      ((s.checkpoints k).recRing k).due = [] :=
  State.checkpoints_due (s.recRing k).due rfl

theorem State.updRec_congr (s : State) {k : Nat} {f g : RecRing → RecRing} (h : f (s.recRing k) = g (s.recRing k)) :
    s.updRec k f = s.updRec k g :=
  congrArg (fun r => { s with recs := Tab.put {} s.recs k r }) h

/-! ### ORPHAN_CLOSE (12 R421, R422, R428) -/

theorem leBytes_length (n v : Nat) : (leBytes n v).length = n := by
  induction n generalizing v with
  | zero => rfl
  | succ n ih => rw [leBytes, List.length_cons, ih]

/-- The body of a record begins at byte 64. -/
theorem recordBytes_body (kind comp seq step pos : Nat) (prev : Digest) (x : Byte) (body : List Byte) :
    field (recordBytes kind comp seq step pos prev (x :: body)) 64 1 = x.toNat := by
  have hbody : (recordBytes kind comp seq step pos prev (x :: body))[64]? = some x := by
    unfold recordBytes
    refine (List.getElem?_append_right ?_).trans ?_
    · simp [leBytes_length]
    · simp [leBytes_length, pad64]
  simp [field, slice, leNat, hbody]

/-- A ring that is not orphaned, ends with a CLOSE or is empty gets no CLOSE, and none gets one before READY. -/
theorem exec_orphanClose_ignored {s : State} {k : Fin 256} (h : (s.recRing k.val).orphan = false ∨ s.hif.ready = false ∨
    (s.recRing k.val).closed = true ∨ (s.recRing k.val).recs = []) : exec (.orphanClose k) s = .next s := by
  refine congrArg Host.Outcome.next (if_neg ?_)
  obtain h | h | h | h := h <;> simp [h]

theorem exec_orphanClose {s : State} {k : Fin 256} (horphan : (s.recRing k.val).orphan = true) (hready : s.hif.ready = true)
    (hopen : (s.recRing k.val).closed = false) (hrecs : (s.recRing k.val).recs ≠ []) : ∃ step pos,
      exec (.orphanClose k) s =
        .next ((s.updRec k.val fun r => r.append k.val 9 step pos [3, 0, 0, 0]).checkpoints k.val) := by
  refine ⟨_, _, congrArg Host.Outcome.next (if_pos ?_)⟩
  simp [horphan, hready, hopen, hrecs]

end Sys2Proof.Machine

open Sys2Proof Sys2Proof.Machine

/-- Settles O41: a fetch by the split of the ring's records, the checkpoints by what one of them leaves. -/
theorem recorder : Obligations.Recorder := by
  unfold Obligations.Recorder
  intro q k s b
  refine ⟨fun h haddr hlen hmin => ⟨exec_recordFetch_refused h haddr hlen hmin, fun hready hfrom => ?fetch⟩,
    ⟨fun hnone => congrArg Host.Outcome.next (State.checkpoint_none hnone), fun seq chain rest hdue => ?checkpoint,
      fun horphan hready hopen hrecs => ?close, exec_orphanClose_ignored⟩,
    fun horphan => ?_, fun horphan => ?_⟩
  case fetch =>
    obtain ⟨l₁, l₂, hsplit, htake, hle, hnext⟩ := takeWhole_splits
      ((s.recRing (field b 12 2)).recs.dropWhile fun x => decide (x.step.toNat < field b 16 8)) (field b 32 4)
    refine ⟨l₁, l₂, hsplit, hle, hnext, (exec_recordFetch h haddr hlen hmin hready hfrom).trans ?_⟩
    unfold RecRing.fetch
    rw [htake]
    rfl
  case checkpoint =>
    obtain ⟨sig, n, hsig, hcheckpoint⟩ := State.checkpoint_due hdue
    refine ⟨sig, _, (s.checkpointAt k.val).1, (s.checkpointAt k.val).2, rfl, hsig, fun hst => ?_, ?_,
      fun j hj => State.checkpoint_recRing_ne hj⟩
    · rw [State.checkpointAt_of_comp hst]
      exact ⟨rfl, rfl⟩
    · rw [hcheckpoint, State.recRing_updRec]
      rfl
  case close =>
    obtain ⟨step, pos, hexec⟩ := exec_orphanClose horphan hready hopen hrecs
    obtain ⟨new, hnew, hkinds, hdue⟩ :=
      (s.updRec k.val fun r => r.append k.val 9 step pos [3, 0, 0, 0]).checkpoints_recRing k.val
    rw [State.recRing_updRec] at hnew
    generalize State.checkpoints _ _ = t at hexec hnew hdue
    exact ⟨t, hexec, ⟨_, new, hnew.trans (List.append_assoc ..), rfl, rfl, recordBytes_body .., hkinds⟩, hdue⟩
  · exact congrArg Host.Outcome.next (s.updRec_congr (if_pos horphan))
  · exact congrArg Host.Outcome.next (s.updRec_congr (if_neg (by simp [horphan])))

end
